-- ==== Sys2Proof/Word.lean ====
section
/-! DEFINITION. The words of the MZA-2048 and the widths the manual gives them. -/

namespace Sys2Proof

/-- A byte of memory (R33). -/
abbrev Byte := BitVec 8

/-- A 32-bit register (R17). -/
abbrev Word := BitVec 32

/-- A 64-bit register, a virtual address or an instruction word (R17, R56). -/
abbrev DWord := BitVec 64

/-- A set of lanes of one gang, bit l for lane l (R362). -/
abbrev LaneMask := BitVec 64

/-- A register field of an instruction word (R58). -/
abbrev Field10 := BitVec 10

/-- A 20-bit immediate field of Format I (R58). -/
abbrev Imm20 := BitVec 20

/-- One 64-byte line, byte b in bits [8b + 7 : 8b] (R3). -/
abbrev Line := BitVec 512

end Sys2Proof
end

