-- ==== Sys2Proof/Syntax.lean ====
section
/-! DEFINITION. The abstract syntax: one constructor of `Instr` per row of the opcode table.

The first part of `Instr` is the instruction set proper, whose words `Decode` reads (R56 to R66). The second part is the
table's events: the indivisible steps of the agents beside a front end (engines, homes, fabric members, queue engines, the
driver, the host, Gander), which have no encoding. Their operands name the agent that acts and carry what comes from
outside the machine. -/

namespace Sys2Proof

/-- Type codes of the TY and TS fields (R60), in code order. -/
inductive Ty where
  | i32 | s32 | z32 | s16 | z16 | s8 | z8 | s4 | z4 | b32 | b64 | f32 | f16 | bf16 | f8a | f8b
  deriving DecidableEq, Repr

/-- Rounding selectors 0 to 5 of R48; 6 and 7 are reserved. -/
inductive RSel where
  | dyn | rne | rz | rd | ru | ro
  deriving DecidableEq, Repr

/-- Compare conditions (R61), in code order. -/
inductive Cond where
  | eq | ne | lt | le | gt | ge | un | or
  deriving DecidableEq, Repr

/-- Memory spaces of MA[1:0] (R61). -/
inductive Space where
  | g | s | q
  deriving DecidableEq, Repr

/-- Atomic operations (R64, R258). -/
inductive AtomOp where
  | add | min | max | and | or | xor | exch | cas | adds
  deriving DecidableEq, Repr

/-- Fence semantics (R64, R263). -/
inductive FenceSem where
  | acq | rel | ar | sc
  deriving DecidableEq, Repr

/-- Scopes of `fence` and `flsig` (R61, R59). -/
inductive Scope where
  | gang | coh | die | pkg | sys
  deriving DecidableEq, Repr

/-- Operations of the reductions and scans (R141). -/
inductive XOp where
  | add | min | max | and | or | xor
  deriving DecidableEq, Repr

/-- The guard of an instruction: GP and GN (R57, R62). -/
structure Guard where
  gp : BitVec 4
  gn : Bool
  deriving DecidableEq, Repr

/-- A B operand of Format X: a vector register, or a uniform one when BU = 1 (R58). -/
structure Src where
  bu : Bool
  b : Field10
  deriving DecidableEq, Repr

/-- The address fields of Format M: SB, VI, OFF and the VW modifier (R58, R64). -/
structure MemAddr where
  vw : Bool
  sb : Field10
  vi : Field10
  off : Field10
  deriving DecidableEq, Repr

/-- What an uncorrectable or corrected soft error strikes (R369). -/
inductive SoftTarget where
  | vreg (gang lane reg : Nat)
  | mreg (gang reg word : Nat)
  | gangControl (gang : Nat)
  | localWord (core word : Nat)
  | tableWord (core word : Nat)
  | l1Line (core line : Nat)
  | accElement (gang tile element : Nat)
  | cloverQueue (core gang : Nat)
  | placementSlot (core slot : Nat)
  | icache (core : Nat)
  | tlbEntry (die entry : Nat)
  | coreTlb (core entry : Nat)
  | walkCache (die entry : Nat)
  | atc (entry : Nat)
  | configPlane (core : Nat)
  | shadowPlane (core : Nat)
  | hbmLine (line : Nat)
  | storeCheck (src dst : Nat)
  | fillCheck (src dst : Nat)
  | homeStructure (die : Nat)
  | holdBuffers (die : Nat)
  | walkers (die : Nat)
  | queueEngine (engine : Nat)
  | barrierUnit (core : Nat)
  /-- the cohort barrier unit of the quartet of a core -/
  | cohortBarrierUnit (core : Nat)
  /-- the next line that another package writes, on its way to the home -/
  | remoteWrite
  deriving DecidableEq, Repr

/-- The ways a die is retired (R406). -/
inductive RetireWay where
  | degradedHome | orderly | lost
  deriving DecidableEq, Repr

/-- What starts a drain (R188), numbered as CAPSTAT.LAST. -/
inductive DrainCause where
  | unmapped | fault | preempt | capdrop | integrity
  deriving DecidableEq, Repr

/-- What a retire request of the side band names (R446). -/
inductive RetireTarget where
  | core (die core : Nat)
  | link (link : Nat)
  | die (die : Nat) (way : RetireWay)
  deriving DecidableEq, Repr

/-- What a Vetch-X access from another package asks for (R444, R445). -/
inductive RemoteOp where
  | read (bytes : Nat)
  | write (data : List Byte)
  | atomic (op : AtomOp) (ty : Ty) (x cmp : DWord)
  deriving DecidableEq, Repr

/-- The outcomes of a PCIe operation of die 16 (R260, R263, R282). -/
inductive PcieStatus where
  | ok (data : List Byte)
  | unsupported
  | abort
  deriving DecidableEq, Repr

/-- A firmware image offered to Gander: what the boot ROM checks of it (R447). -/
structure FirmwareImage where
  version : Word
  digest : List Byte
  keyDigest : List Byte
  signature : List Byte
  deriving DecidableEq, Repr

/-- What bring-up finds and writes (R403, R449 steps 2 and 3): base and 4 KiB pages of the protected region, the die remap table, the links whose
training failed, and whether the HBM could be initialised. -/
structure BringUp where
  base : Nat
  pages : Nat
  remap : List Byte
  deadLinks : List Nat
  hbmOk : Bool
  deriving DecidableEq, Repr

/-- One instruction or event per row of the opcode table. -/
inductive Instr where
  -- scalar, majors 0x00 to 0x02 (R85 to R87)
  | sadd (g : Guard) (ty : Ty) (d a b : Field10)
  | ssub (g : Guard) (ty : Ty) (d a b : Field10)
  | smul (g : Guard) (ty : Ty) (d a b : Field10)
  | smulh (g : Guard) (ty : Ty) (d a b : Field10)
  | sand (g : Guard) (ty : Ty) (d a b : Field10)
  | sor (g : Guard) (ty : Ty) (d a b : Field10)
  | sxor (g : Guard) (ty : Ty) (d a b : Field10)
  | sshl (g : Guard) (ty : Ty) (d a b : Field10)
  | sshr (g : Guard) (ty : Ty) (d a b : Field10)
  | ssra (g : Guard) (ty : Ty) (d a b : Field10)
  | smin (g : Guard) (ty : Ty) (d a b : Field10)
  | smax (g : Guard) (ty : Ty) (d a b : Field10)
  | smov (g : Guard) (ty : Ty) (d a : Field10)
  | scmp (g : Guard) (ty : Ty) (c : Cond) (d a b : Field10)
  | ssel (g : Guard) (ty : Ty) (d a b c : Field10)
  | saddImm (g : Guard) (ty : Ty) (d a : Field10) (imm : Imm20)
  | ssubImm (g : Guard) (ty : Ty) (d a : Field10) (imm : Imm20)
  | smulImm (g : Guard) (ty : Ty) (d a : Field10) (imm : Imm20)
  | smulhImm (g : Guard) (ty : Ty) (d a : Field10) (imm : Imm20)
  | sandImm (g : Guard) (ty : Ty) (d a : Field10) (imm : Imm20)
  | sorImm (g : Guard) (ty : Ty) (d a : Field10) (imm : Imm20)
  | sxorImm (g : Guard) (ty : Ty) (d a : Field10) (imm : Imm20)
  | sshlImm (g : Guard) (ty : Ty) (d a : Field10) (imm : Imm20)
  | sshrImm (g : Guard) (ty : Ty) (d a : Field10) (imm : Imm20)
  | ssraImm (g : Guard) (ty : Ty) (d a : Field10) (imm : Imm20)
  | sminImm (g : Guard) (ty : Ty) (d a : Field10) (imm : Imm20)
  | smaxImm (g : Guard) (ty : Ty) (d a : Field10) (imm : Imm20)
  | scmpImm (g : Guard) (ty : Ty) (c : Cond) (d a : Field10) (imm : Imm20)
  | sliShort (g : Guard) (d : Field10) (imm : Imm20)
  | sldArg (g : Guard) (ty : Ty) (d : Field10) (imm : Imm20)
  -- long immediate, majors 0x0F and 0x25 (R88)
  | sliLong (g : Guard) (d : Field10) (k : Word)
  | slih (g : Guard) (d : Field10) (k : DWord)
  | iliLong (g : Guard) (d : Field10) (k : Word)
  | iliB64 (g : Guard) (d : Field10) (k : DWord)
  | iliShort (g : Guard) (d : Field10) (imm : Imm20)
  -- control flow, majors 0x10 to 0x1D (R106)
  | jmp (g : Guard) (disp : BitVec 30)
  | bru (g : Guard) (a : Field10) (disp : BitVec 30)
  | call (g : Guard) (a : Field10) (disp : BitVec 30)
  | lpb (g : Guard) (a : Field10) (disp : BitVec 30)
  | brx (g : Guard) (a : Field10)
  | callReg (g : Guard) (d a : Field10)
  | ret (g : Guard) (a : Field10)
  | exit (g : Guard)
  | yield (g : Guard)
  | nop (g : Guard)
  | brd (g : Guard) (disp rej : BitVec 30)
  | callFar (g : Guard) (fd : DWord)
  -- vector integer, majors 0x20 to 0x24 (R89 to R96)
  | iadd (g : Guard) (ty : Ty) (d a : Field10) (b : Src)
  | isub (g : Guard) (ty : Ty) (d a : Field10) (b : Src)
  | iadds (g : Guard) (ty : Ty) (d a : Field10) (b : Src)
  | imul (g : Guard) (ty : Ty) (d a : Field10) (b : Src)
  | imulh (g : Guard) (ty : Ty) (d a : Field10) (b : Src)
  | imin (g : Guard) (ty : Ty) (d a : Field10) (b : Src)
  | imax (g : Guard) (ty : Ty) (d a : Field10) (b : Src)
  | iand (g : Guard) (ty : Ty) (d a : Field10) (b : Src)
  | ior (g : Guard) (ty : Ty) (d a : Field10) (b : Src)
  | ixor (g : Guard) (ty : Ty) (d a : Field10) (b : Src)
  | ishl (g : Guard) (ty : Ty) (d a : Field10) (b : Src)
  | ishr (g : Guard) (ty : Ty) (d a : Field10) (b : Src)
  | isra (g : Guard) (ty : Ty) (d a : Field10) (b : Src)
  | irot (g : Guard) (ty : Ty) (d a : Field10) (b : Src)
  | icmp (g : Guard) (ty : Ty) (c : Cond) (a : Field10) (b : Src) (pd ps : BitVec 4)
  | isel (g : Guard) (ty : Ty) (d a : Field10) (b : Src) (ps : BitVec 4)
  | iaddImm (g : Guard) (ty : Ty) (d a : Field10) (imm : Imm20)
  | isubImm (g : Guard) (ty : Ty) (d a : Field10) (imm : Imm20)
  | iaddsImm (g : Guard) (ty : Ty) (d a : Field10) (imm : Imm20)
  | imulImm (g : Guard) (ty : Ty) (d a : Field10) (imm : Imm20)
  | imulhImm (g : Guard) (ty : Ty) (d a : Field10) (imm : Imm20)
  | iminImm (g : Guard) (ty : Ty) (d a : Field10) (imm : Imm20)
  | imaxImm (g : Guard) (ty : Ty) (d a : Field10) (imm : Imm20)
  | iandImm (g : Guard) (ty : Ty) (d a : Field10) (imm : Imm20)
  | iorImm (g : Guard) (ty : Ty) (d a : Field10) (imm : Imm20)
  | ixorImm (g : Guard) (ty : Ty) (d a : Field10) (imm : Imm20)
  | ishlImm (g : Guard) (ty : Ty) (d a : Field10) (imm : Imm20)
  | ishrImm (g : Guard) (ty : Ty) (d a : Field10) (imm : Imm20)
  | israImm (g : Guard) (ty : Ty) (d a : Field10) (imm : Imm20)
  | irotImm (g : Guard) (ty : Ty) (d a : Field10) (imm : Imm20)
  | iabs (g : Guard) (ty : Ty) (d : Field10) (b : Src)
  | ineg (g : Guard) (ty : Ty) (d : Field10) (b : Src)
  | inot (g : Guard) (ty : Ty) (d : Field10) (b : Src)
  | ipopc (g : Guard) (ty : Ty) (d : Field10) (b : Src)
  | iclz (g : Guard) (ty : Ty) (d : Field10) (b : Src)
  | ibrev (g : Guard) (ty : Ty) (d : Field10) (b : Src)
  | imov (g : Guard) (ty : Ty) (d : Field10) (b : Src)
  | imad (g : Guard) (ty : Ty) (d a b c : Field10)
  | ibfx (g : Guard) (ty : Ty) (d a b c : Field10)
  | ibfi (g : Guard) (ty : Ty) (d a b c : Field10)
  | idp4 (g : Guard) (ty : Ty) (d a b c : Field10)
  | iaddc (g : Guard) (ty : Ty) (d a : Field10) (b : Src) (pd ps : BitVec 4)
  | isubb (g : Guard) (ty : Ty) (d a : Field10) (b : Src) (pd ps : BitVec 4)
  | iaddw (g : Guard) (ty : Ty) (gw : BitVec 4) (d a : Field10) (b : Src) (pd : BitVec 4)
  -- vector floating point, majors 0x40 to 0x42 (R98 to R102)
  | fadd (g : Guard) (ty : Ty) (rm : RSel) (d a : Field10) (b : Src)
  | fsub (g : Guard) (ty : Ty) (rm : RSel) (d a : Field10) (b : Src)
  | fmul (g : Guard) (ty : Ty) (rm : RSel) (d a : Field10) (b : Src)
  | fmin (g : Guard) (ty : Ty) (d a : Field10) (b : Src)
  | fmax (g : Guard) (ty : Ty) (d a : Field10) (b : Src)
  | fcmp (g : Guard) (c : Cond) (a : Field10) (b : Src) (pd ps : BitVec 4)
  | fscale (g : Guard) (rm : RSel) (d a : Field10) (b : Src)
  | fabs (g : Guard) (ty : Ty) (d : Field10) (b : Src)
  | fneg (g : Guard) (ty : Ty) (d : Field10) (b : Src)
  | fclass (g : Guard) (d a : Field10) (b : Src) (pd : BitVec 4)
  | frnd (g : Guard) (rm : RSel) (d : Field10) (b : Src)
  | fgetexp (g : Guard) (d : Field10) (b : Src)
  | fma (g : Guard) (ty : Ty) (rm : RSel) (d a b c : Field10)
  | fdot2 (g : Guard) (ty : Ty) (rm : RSel) (d a b c : Field10)
  | fdot4 (g : Guard) (ty : Ty) (rm : RSel) (d a b c : Field10)
  -- conversion, major 0x60 (R103, R104)
  | cvt (g : Guard) (ty ts : Ty) (rm : RSel) (d : Field10) (b : Src)
  | cvtq (g : Guard) (ty ts : Ty) (rm : RSel) (d a : Field10) (b : Src)
  | cvtdq (g : Guard) (ty ts : Ty) (rm : RSel) (d a : Field10) (b : Src)
  | pack (g : Guard) (ty : Ty) (d a : Field10)
  | unpk (g : Guard) (ty : Ty) (d : Field10) (b : Src)
  -- special functions and row statistics, majors 0x68 and 0x69 (R154, R160)
  | fexp2 (g : Guard) (d a : Field10)
  | flog2 (g : Guard) (d a : Field10)
  | frcp (g : Guard) (d a : Field10)
  | frsqrt (g : Guard) (d a : Field10)
  | fsqrt (g : Guard) (d a : Field10)
  | fsin (g : Guard) (d a : Field10)
  | fcos (g : Guard) (d a : Field10)
  | ftanh (g : Guard) (d a : Field10)
  | fsigm (g : Guard) (d a : Field10)
  | ferf (g : Guard) (d a : Field10)
  | rstat (g : Guard) (rm : RSel) (d a b : Field10) (n : BitVec 4)
  -- cross-lane, major 0x70 (R141)
  | vote (g : Guard) (d a : Field10) (pd ps : BitVec 4)
  | shfl (g : Guard) (ty : Ty) (d a : Field10) (b : Src)
  | xred (g : Guard) (ty : Ty) (rm : RSel) (op : XOp) (ud : Bool) (d a : Field10) (b : Src)
  | xscan (g : Guard) (ty : Ty) (rm : RSel) (op : XOp) (inc : Bool) (d a : Field10) (b : Src)
  | xmatch (g : Guard) (ty : Ty) (d a : Field10) (b : Src)
  | xcomp (g : Guard) (ty : Ty) (d a : Field10) (b : Src) (pd ps : BitVec 4)
  | xexp (g : Guard) (ty : Ty) (d a : Field10) (b : Src) (pd ps : BitVec 4)
  -- memory and tables, majors 0x80 to 0x8A (R164, R247)
  | ld (g : Guard) (ty : Ty) (sp : Space) (cau na : Bool) (d : Field10) (m : MemAddr)
  | st (g : Guard) (ty : Ty) (sp : Space) (blk na : Bool) (d : Field10) (m : MemAddr)
  | ldb (g : Guard) (sp : Space) (na : Bool) (bl : BitVec 2) (d : Field10) (m : MemAddr)
  | stb (g : Guard) (sp : Space) (na : Bool) (bl : BitVec 2) (d : Field10) (m : MemAddr)
  | atom (g : Guard) (op : AtomOp) (ty : Ty) (sp : Space) (d sb vi off : Field10)
  | fence (g : Guard) (sem : FenceSem) (sc : Scope)
  | cinvAll (g : Guard)
  | cinvLine (g : Guard) (m : MemAddr)
  | cwb (g : Guard) (m : MemAddr)
  | prf (g : Guard) (m : MemAddr)
  | prfL2 (g : Guard) (m : MemAddr)
  | tld (g : Guard) (d sb vi off : Field10)
  | tldi (g : Guard) (d sb vi off : Field10)
  -- Ox matrix engine, majors 0xA0 to 0xA3 (R315)
  | oxip (g : Guard) (ta tb : Ty) (a b : Field10) (acc mreg nk : BitVec 4) (sp : BitVec 2)
  | oxop (g : Guard) (ta tb : Ty) (a b : Field10) (acc nk : BitVec 4) (cs : Bool)
  | oxrw (g : Guard) (ta tb : Ty) (a b c : Field10) (acc nk : BitVec 4) (cmp : Bool)
  | accz (g : Guard) (ty : Ty) (acc : BitVec 4)
  | accld (g : Guard) (tb : Ty) (a : Field10) (acc : BitVec 4)
  | accst (g : Guard) (tb : Ty) (rm : RSel) (d a b c : Field10) (acc : BitVec 4) (sc : Bool)
  | accmv (g : Guard) (acc acc2 : BitVec 4)
  | ldmeta (g : Guard) (a : Field10) (mreg : BitVec 4) (sp : BitVec 2)
  -- asynchronous commands and tokens, majors 0xB0 and 0xB1 (R328)
  | cp (g : Guard) (a : Field10) (tok : BitVec 4)
  | cpx (g : Guard) (a : Field10) (tok : BitVec 4)
  | cpz (g : Guard) (a : Field10) (tok : BitVec 4)
  | cpg (g : Guard) (a b : Field10) (tok : BitVec 4)
  | cps (g : Guard) (a b : Field10) (tok : BitVec 4)
  | flsig (g : Guard) (sc : Scope) (named : Bool) (tok tok2 : BitVec 4)
  | tload (g : Guard) (loc : Bool) (a : Field10) (tok : BitVec 4)
  | twait (g : Guard) (tok : BitVec 4)
  | tpoll (g : Guard) (d : Field10) (tok : BitVec 4)
  -- synchronisation, major 0xC0 (R149)
  | bar (g : Guard) (b : BitVec 4)
  | bara (g : Guard) (b : BitVec 4)
  | barw (g : Guard) (b : BitVec 4)
  | sleep (g : Guard) (n : Imm20)
  -- capture control, major 0xD0 (R199)
  | lmark (g : Guard) (imm : Imm20)
  | capctl (g : Guard) (imm : Imm20)
  | capload (g : Guard) (a : Field10) (imm : Imm20)
  | capsave (g : Guard) (d a : Field10) (imm : Imm20)
  | capdrop (g : Guard) (imm : Imm20)
  -- system, major 0xE0 (R372)
  | trap (g : Guard) (code : BitVec 16)
  | brk (g : Guard) (code : BitVec 16)
  | eret (g : Guard)
  | mfs (g : Guard) (vec : Bool) (d : Field10) (reg : Field10)
  | mts (g : Guard) (a : Field10) (reg : Field10)
  -- EVENTS: gangs, cohorts and grids
  | sleepEnd (gang path : Nat)
  | gangUrgent (gang : Nat)
  | gangBlockRelease (gang : Nat)
  | cohortEnd (cohort : Nat)
  | gridComplete (grid : Nat)
  -- EVENTS: capture
  | placerDone (core : Nat) (cells : Option (List (DWord × DWord) × List Word))
  | planeSwitch (core : Nat)
  | cloverEnter (core gang : Nat)
  | cellFire (core cell : Nat)
  | memcellAccessReturn (core cell : Nat)
  | iterationRelease (core gang : Nat)
  | drain (core gang : Nat) (cause : DrainCause)
  | drainComplete (core gang : Nat)
  -- EVENTS: placement and dispatch
  | compactionStart (core grid : Nat) (moves : List (Nat × Nat))
  | compactionMoveEnd (core : Nat)
  | cohortPlace (grid : Nat)
  | quartetReserve (die grid : Nat)
  | l1SizeReserve (die grid : Nat)
  | preemptDelayExpire (grid : Nat)
  -- EVENTS: queues and packets
  | queueSwapIn (queue : Nat)
  | kick (queue : Nat) (offset : BitVec 12) (bytes : Nat) (value : DWord)
  | fqrWrite (fn : Nat) (value : DWord)
  | nopPacket (queue : Nat)
  | launch (queue : Nat)
  | copy (queue : Nat)
  | wait (queue : Nat)
  | waitReread (queue : Nat)
  | signal (queue : Nat)
  | barrier (queue : Nat)
  | caploadPacket (queue : Nat)
  | timestamp (queue : Nat)
  -- EVENTS: driver commands
  | bindAsid (fn asid : Nat) (w0 w1 : DWord)
  | verify (fn asid : Nat) (va : DWord) (size : Nat) (descs : List (List DWord)) (unverified : Bool)
  | kernel (fn segment index : Nat)
  | queue (fn q asid : Nat) (ring : DWord) (size prio : Nat) (save : DWord) (saveSize : Nat)
  | unqueue (fn q : Nat)
  | restart (fn q : Nat)
  | inval (fn asid : Nat) (va : DWord) (size : Nat)
  | preempt (fn q : Nat)
  | faultq (fn : Nat) (va : DWord) (size : Nat)
  | respond (fn record : Nat) (retry : Bool)
  | setdelay (fn : Nat) (value : Word)
  | ptwrite (fn asid : Nat) (va : DWord) (entry : DWord)
  -- EVENTS: faults
  | faultRecordWrite (fn : Nat)
  | rank2Supervisor (gang : Nat)
  | machineCheck (die unit : Nat)
  | softError (target : SoftTarget) (corrected : Bool)
  -- EVENTS: translation
  | walkComplete (die asid : Nat) (va : DWord)
  | atsCompletion (asid : Nat) (va : DWord) (read write : Bool) (addr : DWord) (log2size : Nat)
  | priResponse (fn asid : Nat) (va : DWord) (code : Nat)
  | atsInvalidate (pasid : Nat) (va : DWord) (size : Nat)
  | invalidationComplete (id : Nat)
  -- EVENTS: engines
  | oxEntryStart (core entry : Nat)
  | oxComplete (core entry : Nat)
  | copyCmdStart (core cmd : Nat)
  | copyElement (core cmd : Nat)
  | copyCmdDone (core cmd : Nat)
  | flsigComplete (core cmd : Nat)
  | tloadComplete (core cmd : Nat)
  -- EVENTS: pre-emption
  | preemptRequest (cohort : Nat)
  | contextSave (cohort : Nat)
  | resume (cohort : Nat)
  -- EVENTS: package
  | coreRetire (die core : Nat)
  | dieRetire (die : Nat) (way : RetireWay)
  | powerEstimate (die watts : Nat)
  | temperatureThreshold (die celsius : Nat)
  | laneRepair (link module lane : Nat)
  | linkFail (link : Nat)
  | linkReplay (src dst : Nat)
  -- EVENTS: fabric
  | orderedWrite (src dst : Nat)
  | atomic (src dst : Nat)
  | causalLoad (src dst : Nat)
  | plainLoad (src dst : Nat)
  | forwardedWrite (src dst : Nat)
  | bulkWrite (src dst : Nat)
  | engineRead (src dst : Nat)
  | flushMarker (src dst : Nat)
  | readResponse (src dst : Nat)
  | atomicResponse (src dst : Nat)
  | writeAcknowledgement (src dst : Nat)
  | flushReply (src dst : Nat)
  | frontier (src dst : Nat)
  | frontierRequest (src dst : Nat)
  | frontierIdleTimer (src dst : Nat)
  | holdRelease (dst : Nat)
  | lossNotice (dst lost : Nat)
  | memberLossTimeout (member : Nat)
  | orderlyRemoval (member : Nat)
  | resynchronisation (remap : List (Nat × Nat)) (readmit : List Nat)
  | management (src dst : Nat)
  -- EVENTS: host, other packages, Gander
  | hostWrite (toHost : Bool) (addr : DWord) (data : List Byte)
  | vetchXRemoteAccess (package asid : Nat) (va : DWord) (op : RemoteOp)
  | readTelemetry (die : Nat)
  | setPowerCap (watts : Nat)
  | retireRequest (target : RetireTarget)
  | stageFirmware (image : FirmwareImage)
  | attestation (index : Nat) (nonce : List Byte)
  /-- with the physical quartets, as (die, quartet), that failed the test of cores -/
  | reset (image : FirmwareImage) (tables : BringUp) (failed : List (Nat × Nat))
  | pcieCompletion (tag : Nat) (status : PcieStatus)
  | pcieLinkDown
  | priReenable (fn : Nat)
  | unreachablePackage (package : Nat)
  | localLoadReturn (gang : Nat)
  deriving DecidableEq, Repr

end Sys2Proof
end

