-- ==== Sys2Proof/Machine/Formats.lean ====
section
/-! DEFINITION. Number formats and exact arithmetic (R37 to R55): every value a float code stands for as an exact dyadic
number, the one rounding helper `Round`, and the conversions between formats. Every floating-point instruction, the Ox
engine and the engines' conversions use only what is here. -/

namespace Sys2Proof.Machine

/-- The five rounding modes of ROUND.MODE (R45), in code order. -/
inductive RMode where
  | rne | rz | rd | ru | ro
  deriving DecidableEq, Repr

/-- A float format (R41): exponent bits, fraction bits, bias, and whether the all-ones exponent is infinity and NaN. -/
structure Fmt where
  eb : Nat
  fb : Nat
  bias : Nat
  ieee : Bool
  deriving DecidableEq, Repr

def fmtF32 : Fmt := ⟨8, 23, 127, true⟩
def fmtF16 : Fmt := ⟨5, 10, 15, true⟩
def fmtBF16 : Fmt := ⟨8, 7, 127, true⟩
def fmtF8A : Fmt := ⟨4, 3, 8, false⟩
def fmtF8B : Fmt := ⟨5, 2, 16, false⟩

/-- Exponent of the smallest normal (R49: 1 − bias). -/
def Fmt.emin (F : Fmt) : Int := 1 - (F.bias : Int)

/-- Exponent of the largest finite value (R42): the 8-bit formats have no reserved exponent. -/
def Fmt.emax (F : Fmt) : Int := if F.ieee then (2 ^ F.eb : Nat) - 2 - (F.bias : Int) else (2 ^ F.eb : Nat) - 1 - (F.bias : Int)

/-- Position of the sign bit. -/
def Fmt.signBit (F : Fmt) : Nat := F.eb + F.fb

/-- Code of the largest finite magnitude (R42). -/
def Fmt.maxCode (F : Fmt) : Nat := if F.ieee then (2 ^ F.eb - 1) * 2 ^ F.fb - 1 else 2 ^ (F.eb + F.fb) - 1

/-- Code of +∞ in an IEEE format. -/
def Fmt.infCode (F : Fmt) : Nat := (2 ^ F.eb - 1) * 2 ^ F.fb

/-- CanonNaN (R44); NaR 0x80 in the 8-bit formats (R43). -/
def Fmt.nanCode (F : Fmt) : Nat := if F.ieee then F.infCode + 2 ^ (F.fb - 1) else 2 ^ F.signBit

/-- An exact value: NaN, an infinity, or (−1)^neg × m × 2^e with the sign of a zero kept (R9). -/
inductive XReal where
  | nan
  | inf (neg : Bool)
  | fin (neg : Bool) (m : Nat) (e : Int)
  deriving DecidableEq, Repr

/-- FPSTAT's flags, at the positions of R47: NV, DZ, OF, UF, PE, SAT, NR in bits 0 to 6. -/
abbrev FFlags := BitVec 7

def fNV : FFlags := 1
def fDZ : FFlags := 2
def fOF : FFlags := 4
def fUF : FFlags := 8
def fPE : FFlags := 16
def fSAT : FFlags := 32
def fNR : FFlags := 64

def flagIf (b : Bool) (f : FFlags) : FFlags := if b then f else 0

/-- The integer value (−1)^neg × n. -/
def signedNat (neg : Bool) (n : Nat) : Int := if neg then -(n : Int) else n

/-- DecodeF32 and its kin (R50): the exact value of a code, and NV for a signalling NaN. `ftz` reads a subnormal as a
zero of its sign (R48); it has no effect on the 8-bit formats. -/
def decodeF (F : Fmt) (ftz : Bool) (code : Nat) : XReal × FFlags :=
  let s := code.testBit F.signBit
  let ex := (code / 2 ^ F.fb) % 2 ^ F.eb
  let fr := code % 2 ^ F.fb
  if F.ieee then
    if ex = 2 ^ F.eb - 1 then
      if fr = 0 then (.inf s, 0) else (.nan, flagIf (!(fr.testBit (F.fb - 1))) fNV)
    else if ex = 0 then (.fin s (if ftz then 0 else fr) (F.emin - F.fb), 0)
    else (.fin s (fr + 2 ^ F.fb) ((ex : Int) - F.bias - F.fb), 0)
  else if code % 2 ^ (F.signBit + 1) = 2 ^ F.signBit then (.nan, 0)
  else if ex = 0 then (.fin s fr (F.emin - F.fb), 0)
  else (.fin s (fr + 2 ^ F.fb) ((ex : Int) - F.bias - F.fb), 0)

/-- How `n + rem` rounds (R49): `up` when the magnitude goes to n + 1. `rem` is given by its order to one half:
lt, eq or gt, and whether it is zero. -/
def roundsUp (mode : RMode) (neg : Bool) (n : Nat) (half : Ordering) (exact : Bool) : Bool :=
  if exact then false else
  match mode with
  | .rne => half == .gt || (half == .eq && n % 2 == 1)
  | .rz => false
  | .rd => neg
  | .ru => !neg
  | .ro => n % 2 == 0

/-- m × 2^−sh split into its integer part and the order of its remainder to one half. A shift longer than m gives an
integer part of zero and a remainder below one half. -/
def splitShift (m sh : Nat) : Nat × Ordering × Bool :=
  if sh = 0 then (m, .lt, true)
  else if m = 0 then (0, .lt, true)
  else if sh > m.log2 + 1 then (0, .lt, false)
  else
    let n := m >>> sh
    let r := m - n <<< sh
    (n, compare r (2 ^ (sh - 1)), r == 0)

/-- |x| divided by the spacing 2^q, rounded to an integer (R49): the count and whether it is exact. -/
def roundAt (mode : RMode) (neg : Bool) (m : Nat) (e q : Int) : Nat × Bool :=
  if q ≤ e then (m <<< (e - q).toNat, true)
  else
    let (n, half, exact) := splitShift m (q - e).toNat
    (if roundsUp mode neg n half exact then n + 1 else n, exact)

/-- `Overflow` (R49). -/
def overflowF (F : Fmt) (neg : Bool) (mode : RMode) : Nat × FFlags :=
  let sgn := if neg then 2 ^ F.signBit else 0
  if F.ieee then
    let toInf := match mode with
      | .rne => true
      | .rz | .ro => false
      | .ru => !neg
      | .rd => neg
    (sgn + (if toInf then F.infCode else F.maxCode), fOF ||| fPE)
  else (sgn + F.maxCode, fSAT ||| fPE)

/-- `Round` (R49), encoded into the format's bits, with the flags it sets. `ftz` replaces a result that would be
subnormal by a zero of its sign and sets UF and PE (R48); it is ignored by the 8-bit formats. -/
def roundF (F : Fmt) (mode : RMode) (ftz : Bool) (x : XReal) : Nat × FFlags :=
  match x with
  | .nan => (F.nanCode, 0)
  | .inf neg =>
    if F.ieee then ((if neg then 2 ^ F.signBit else 0) + F.infCode, 0) else overflowF F neg mode
  | .fin neg m e =>
    let sgn := if neg then 2 ^ F.signBit else 0
    let zero := if F.ieee then sgn else 0
    if m = 0 then (zero, 0)
    else
      let lg : Int := (m.log2 : Int) + e
      let ex := if lg < F.emin then F.emin else lg
      let (n, exact) := roundAt mode neg m e (ex - F.fb)
      let pe := flagIf (!exact) fPE
      -- the exponent of the rounded magnitude: one more when the count carried
      let ey := if n = 2 ^ (F.fb + 1) then ex + 1 else ex
      if ey > F.emax then overflowF F neg mode
      else if n = 0 then (zero, pe)
      else
        -- tininess after rounding, with an unbounded exponent (R49)
        let tiny := decide (lg < F.emin) &&
          (let (n', _) := roundAt mode neg m e (lg - F.fb)
           !(n' == 2 ^ (F.fb + 1) && lg + 1 == F.emin))
        let uf := flagIf (tiny && !exact) fUF
        let code := (ex - F.emin).toNat * 2 ^ F.fb + n
        if ftz && F.ieee && decide (code < 2 ^ F.fb) then (sgn, pe ||| fUF ||| fPE)
        else (sgn + code, pe ||| uf)

/-- RoundInt (R50): the rounded integer and whether it equals the value. Only for finite values. -/
def roundInt (mode : RMode) (neg : Bool) (m : Nat) (e : Int) : Int × Bool :=
  if 0 ≤ e then (signedNat neg (m <<< e.toNat), true)
  else
    let (n, half, exact) := splitShift m (-e).toNat
    -- under RO the integer part plus the sign unless it is odd
    (signedNat neg (if roundsUp mode neg n half exact then n + 1 else n), exact)

/-- Exact product; 0 × ∞ is NaN with NV (R98). -/
def xMul (a b : XReal) : XReal × FFlags :=
  match a, b with
  | .nan, _ => (.nan, 0)
  | _, .nan => (.nan, 0)
  | .inf s, .inf t => (.inf (s != t), 0)
  | .inf s, .fin t m _ => if m = 0 then (.nan, fNV) else (.inf (s != t), 0)
  | .fin s m _, .inf t => if m = 0 then (.nan, fNV) else (.inf (s != t), 0)
  | .fin s m e, .fin t n f => (.fin (s != t) (m * n) (e + f), 0)

def xNeg : XReal → XReal
  | .nan => .nan
  | .inf s => .inf (!s)
  | .fin s m e => .fin (!s) m e

def xAbs : XReal → XReal
  | .nan => .nan
  | .inf _ => .inf false
  | .fin _ m e => .fin false m e

def XReal.isNan : XReal → Bool | .nan => true | _ => false
def XReal.isInf (neg : Bool) : XReal → Bool | .inf s => s == neg | _ => false
def XReal.isZero : XReal → Bool | .fin _ m _ => m == 0 | _ => false
def XReal.isNeg : XReal → Bool | .nan => false | .inf s => s | .fin s _ _ => s

/-- The lowest exponent of the finite terms. -/
def minExp : List XReal → Int → Int
  | [], e => e
  | .fin _ m f :: r, e => minExp r (if m = 0 then e else min e f)
  | _ :: r, e => minExp r e

/-- A finite nonzero term as an integer count of 2^e. -/
def scaledAt (e : Int) : XReal → Int
  | .fin s m f => if m = 0 then 0 else signedNat s (m <<< (f - e).toNat)
  | _ => 0

/-- The first exponent of a nonzero finite term. -/
def firstExp : List XReal → Int
  | [] => 0
  | .fin _ m f :: r => if m = 0 then firstExp r else f
  | _ :: r => firstExp r

/-- The exact sum of the terms with the sign rules of R55: ∞ − ∞ is NaN with NV even beside a NaN (R98); a sum of zeros
of one sign keeps it; any other zero sum is +0, or −0 under RD. -/
def xSum (mode : RMode) (ts : List XReal) : XReal × FFlags :=
  let pInf := ts.any (XReal.isInf false)
  let nInf := ts.any (XReal.isInf true)
  if pInf && nInf then (.nan, fNV)
  else if ts.any XReal.isNan then (.nan, 0)
  else if pInf then (.inf false, 0)
  else if nInf then (.inf true, 0)
  else
    let e := minExp ts (firstExp ts)
    let t := ts.foldl (fun acc x => acc + scaledAt e x) 0
    if t = 0 then
      if ts.all XReal.isZero && ts.all XReal.isNeg then (.fin true 0 0, 0)
      else if ts.all XReal.isZero && ts.all (fun x => !x.isNeg) then (.fin false 0 0, 0)
      else (.fin (mode == .rd) 0 0, 0)
    else (.fin (decide (t < 0)) t.natAbs e, 0)

/-- Order of two values that are not NaN; the two zeros are equal. -/
def xCompare (a b : XReal) : Ordering :=
  match a, b with
  | .inf s, .inf t => if s == t then .eq else if s then .lt else .gt
  | .inf s, _ => if s then .lt else .gt
  | _, .inf t => if t then .gt else .lt
  | .fin s m e, .fin t n f =>
    if m = 0 && n = 0 then .eq
    else if m = 0 then (if t then .gt else .lt)
    else if n = 0 then (if s then .lt else .gt)
    else if s != t then (if s then .lt else .gt)
    else
      let c := if (m.log2 : Int) + e < (n.log2 : Int) + f then Ordering.lt
        else if (n.log2 : Int) + f < (m.log2 : Int) + e then .gt
        else
          let lo := min e f
          compare (m <<< (e - lo).toNat) (n <<< (f - lo).toNat)
      if s then c.swap else c
  | _, _ => .eq

/-- `SatS` and `SatZ` (R50): clamp to a range; true when the clamp changed the value. -/
def clampTo (lo hi x : Int) : Int × Bool := if x < lo then (lo, true) else if hi < x then (hi, true) else (x, false)

/-- An integer as an n-bit code (`Wrap`, R50). -/
def wrapTo (n : Nat) (x : Int) : Nat := (x % (2 ^ n : Nat)).toNat

/-- The scalar types a conversion can name (R103), as the format they stand for. -/
inductive NumTy where
  | int (signed : Bool) (bits : Nat)
  | flt (F : Fmt)
  deriving DecidableEq, Repr

/-- The number type of a TY code; `none` for `.i32`, `.b32` and `.b64`. -/
def numTy : Ty → Option NumTy
  | .s32 => some (.int true 32)
  | .z32 => some (.int false 32)
  | .s16 => some (.int true 16)
  | .z16 => some (.int false 16)
  | .s8 => some (.int true 8)
  | .z8 => some (.int false 8)
  | .s4 => some (.int true 4)
  | .z4 => some (.int false 4)
  | .f32 => some (.flt fmtF32)
  | .f16 => some (.flt fmtF16)
  | .bf16 => some (.flt fmtBF16)
  | .f8a => some (.flt fmtF8A)
  | .f8b => some (.flt fmtF8B)
  | .i32 | .b32 | .b64 => none

/-- Bits of one element of a number type. -/
def NumTy.bits : NumTy → Nat
  | .int _ n => n
  | .flt F => F.signBit + 1

/-- SignedOf or UnsignedOf (R50). -/
def intOf (signed : Bool) (bits : Nat) (code : Nat) : Int :=
  let c := code % 2 ^ bits
  if signed && c.testBit (bits - 1) then (c : Int) - (2 ^ bits : Nat) else c

def intLo (signed : Bool) (bits : Nat) : Int := if signed then -((2 ^ (bits - 1) : Nat) : Int) else 0
def intHi (signed : Bool) (bits : Nat) : Int := if signed then (2 ^ (bits - 1) : Nat) - 1 else (2 ^ bits : Nat) - 1

/-- An integer as an exact value; zero is +0. -/
def xOfInt (x : Int) : XReal := .fin (decide (x < 0)) x.natAbs 0

/-- R51, a float-source row: an exact value into a destination type, as the destination's code. -/
def convReal (dst : NumTy) (mode : RMode) (ftz : Bool) (x : XReal) : Nat × FFlags :=
  match dst with
  | .flt F =>
    match x with
    | .nan => (F.nanCode, if F.ieee then 0 else fNR ||| fNV)
    | _ => roundF F mode ftz x
  | .int sg n =>
    match x with
    | .nan => (0, fNV)
    | .inf neg => (wrapTo n (if neg then intLo sg n else intHi sg n), fNV)
    | .fin neg m e =>
      let (v, exact) := roundInt mode neg m e
      let (c, hit) := clampTo (intLo sg n) (intHi sg n) v
      (wrapTo n c, flagIf (!exact) fPE ||| flagIf hit (fNV ||| fSAT))

/-- The largest finite magnitude of an 8-bit format, a whole number (R42). -/
def Fmt.max8 (F : Fmt) : Nat := (2 ^ (F.fb + 1) - 1) * 2 ^ (F.emax - F.fb).toNat

/-- R51, an integer-source row: SatS or SatZ into an integer, `Round` into a float; a magnitude above the greatest of an 8-bit format gives it with
SAT and PE, also where `Round` alone would come back to it. -/
def convInt (dst : NumTy) (mode : RMode) (v : Int) : Nat × FFlags :=
  match dst with
  | .int sg n =>
    let (c, hit) := clampTo (intLo sg n) (intHi sg n) v
    (wrapTo n c, flagIf hit fSAT)
  | .flt F => if !F.ieee && decide (F.max8 < v.natAbs) then overflowF F (decide (v < 0)) mode else roundF F mode false (xOfInt v)

/-- R51 whole: a code of one type into a code of another. A NaR source of one 8-bit format into another gives NaR with
no flag; every other NaN into an 8-bit format sets NR and NV. -/
def convert (src dst : NumTy) (mode : RMode) (ftz : Bool) (code : Nat) : Nat × FFlags :=
  match src with
  | .int sg n => convInt dst mode (intOf sg n code)
  | .flt F =>
    let (x, fl) := decodeF F ftz (code % 2 ^ (F.signBit + 1))
    match x, dst with
    | .nan, .flt G => if !F.ieee && !G.ieee then (G.nanCode, 0) else
        let (c, fl') := convReal dst mode ftz x
        (c, fl ||| fl')
    | _, _ =>
      let (c, fl') := convReal dst mode ftz x
      (c, fl ||| fl')

/-- R39: an element's code extended to 32 bits; float codes are zero-extended. -/
def extendTo32 (t : NumTy) (code : Nat) : Word :=
  match t with
  | .int sg n => BitVec.ofInt 32 (intOf sg n code)
  | .flt _ => BitVec.ofNat 32 code

/-- Element `i` of a packed word (R40). -/
def elemOf (bits i : Nat) (w : Nat) : Nat := (w >>> (bits * i)) % 2 ^ bits

/-- The F32 addition used by trees, mergers and banks (R54, R55): one rounding. -/
def addF32 (mode : RMode) (ftz : Bool) (a b : Nat) : Nat × FFlags :=
  let (x, f1) := decodeF fmtF32 ftz a
  let (y, f2) := decodeF fmtF32 ftz b
  let (z, f3) := xSum mode [x, y]
  let (c, f4) := roundF fmtF32 mode ftz z
  (c, f1 ||| f2 ||| f3 ||| f4)

/-- `fmin` and `fmax` of R99 on F-format codes. −0 is below +0; one NaN gives the other source. -/
def minMaxF (F : Fmt) (isMax ftz : Bool) (a b : Nat) : Nat × FFlags :=
  let (x, f1) := decodeF F ftz a
  let (y, f2) := decodeF F ftz b
  let fl := f1 ||| f2
  -- sources are read through FTZ, so a result re-encodes exactly
  let enc := fun v => (roundF F .rne false v).1
  match x, y with
  | .nan, .nan => (F.nanCode, fl)
  | .nan, v => (enc v, fl)
  | v, .nan => (enc v, fl)
  | v, w =>
    let lt := match xCompare v w with
      | .lt => true
      | .gt => false
      | .eq => v.isNeg && !w.isNeg
    (enc (if isMax then (if lt then w else v) else (if lt then v else w)), fl)

/-- F32 comparison of R100: the condition's value and NV. Code order of `Cond` is R61's. -/
def condF (c : Cond) (ftz : Bool) (a b : Nat) : Bool × FFlags :=
  let (x, f1) := decodeF fmtF32 ftz a
  let (y, f2) := decodeF fmtF32 ftz b
  let un := x.isNan || y.isNan
  let o := xCompare x y
  let ordd := match c with | .lt | .le | .gt | .ge => true | _ => false
  let r := match c with
    | .eq => !un && o == .eq
    | .ne => un || o != .eq
    | .lt => !un && o == .lt
    | .le => !un && o != .gt
    | .gt => !un && o == .gt
    | .ge => !un && o != .lt
    | .un => un
    | .or => !un
  (r, f1 ||| f2 ||| flagIf (un && ordd) fNV)

end Sys2Proof.Machine
end

