-- ==== Sys2Proof/Config.lean ====
section
/-! DEFINITION. What the manual leaves open and the model leaves open with it: constants with no body, so that no proof can
see their values. Each is named in the assumption log. -/

namespace Sys2Proof

/-- Core cycles that step number `n` takes, and whether an issue at that step takes issue slot 1 of its cycle, where slot 1 is free (log
entry 4). The manual's cycle counts bound timing only. -/
opaque Config.stepCycles : Nat → Nat
opaque Config.secondSlot : Nat → Bool

/-- A fresh value that the manual leaves open, drawn by a counter of the state (log entry 3). -/
opaque Config.freeNat : Nat → Nat

/-- The unpublished coefficients of a special function (R155; log entry 11). Of `fsin` and `fcos` (minor codes of major 0x68): the result bits
on the folded argument, before the bound of R156 is applied. Of the others, which keep order (R157): where the exact result, of the sign given,
must stand against an F32 code for the code to be reached, in units of 2^-200 ulp. -/
opaque Config.specialBits : Nat → Word → Word
opaque Config.specialCut : Nat → Bool → Nat → Int

/-- The assignment that the placer finds for the words of a body, if it finds one (R173; log entry 114): cell records and register map. -/
opaque Config.placement : List DWord → Option (List (DWord × DWord) × List Word)

/-- Entries, one less, of a home's write queue (R412, R453; log entry 136): the manual gives no depth. -/
opaque Config.writeQueue : Nat

/-- Whether an ML-DSA-44 signature over a digest verifies under the public key with a given digest (R447), and the
signature that the package makes over a digest (R448): the algorithm is that of its own standard, and the package's
key is not in the manual (log entry 12). -/
opaque Config.signatureValid : List (BitVec 8) → List (BitVec 8) → List (BitVec 8) → Bool
opaque Config.sign : List (BitVec 8) → List (BitVec 8)

/-- One less than the page requests of a function that the host's PRI allocation lets be outstanding (R244): the host sets it (log entry 37). -/
opaque Config.priAllocation : Nat → Nat

/-- Whether another package serves this package's accesses in one of its ASIDs (R444): its own driver decides (log entry 13). -/
opaque Config.remoteGrants : Nat → Nat → Bool

/-- Whether another package refuses a write to a page of its memory (R236): its own locks decide (log entry 13). -/
opaque Config.remoteLocks : Nat → Nat → Bool

end Sys2Proof
end

