-- ==== Sys2Proof/Machine/Sparse.lean ====
section
/-! DEFINITION. Sparse arrays as plain data: lists of (index, value) pairs in one canonical form. Indices rise strictly
and no entry equals the value an unlisted index reads as, so equal arrays are equal lists. Every sparse piece of state
(memory, registers, scratch, counters) is one of these. -/

namespace Sys2Proof.Machine

/-- Read index `k`; an unlisted index reads as `d`. -/
def spGet {α : Type} (d : α) : List (Nat × α) → Nat → α
  | [], _ => d
  | (i, x) :: r, k => if k = i then x else if k < i then d else spGet d r k

/-- Put an entry in front of a list unless it equals the default. -/
def spCons {α : Type} [DecidableEq α] (d : α) (k : Nat) (x : α) (r : List (Nat × α)) : List (Nat × α) :=
  if x = d then r else (k, x) :: r

/-- Write index `k`; writing the default removes the entry. -/
def spSet {α : Type} [DecidableEq α] (d : α) : List (Nat × α) → Nat → α → List (Nat × α)
  | [], k, x => spCons d k x []
  | (i, y) :: r, k, x =>
    if k = i then spCons d k x r
    else if k < i then spCons d k x ((i, y) :: r)
    else (i, y) :: spSet d r k x

/-- Change every listed entry; an entry that becomes the default is dropped. `f` maps the default to itself. -/
def spMap {α : Type} [DecidableEq α] (d : α) (f : Nat → α → α) : List (Nat × α) → List (Nat × α)
  | [] => []
  | (i, x) :: r => spCons d i (f i x) (spMap d f r)

/-- Every index of the list is above `lo`, indices rise strictly, and no entry is the default. -/
def spOkFrom {α : Type} [DecidableEq α] (d : α) : Option Nat → List (Nat × α) → Bool
  | _, [] => true
  | lo, (i, x) :: r => (match lo with | none => true | some l => decide (l < i)) && decide (x ≠ d) && spOkFrom d (some i) r

/-- The canonical form. -/
def spOk {α : Type} [DecidableEq α] (d : α) (m : List (Nat × α)) : Bool := spOkFrom d none m

/-- Change one element of a plain list; an index past its end changes nothing. -/
def listSet {α : Type} : List α → Nat → α → List α
  | [], _, _ => []
  | _ :: r, 0, x => x :: r
  | y :: r, k + 1, x => y :: listSet r k x

/-- Element `k` of a list, or `d`. -/
def listGet {α : Type} (d : α) : List α → Nat → α
  | [], _ => d
  | x :: _, 0 => x
  | _ :: r, k + 1 => listGet d r k

/-- `n` copies. -/
def copies {α : Type} (n : Nat) (x : α) : List α := List.replicate n x

/-- Insert into a strictly rising list of numbers used as a set. -/
def setAdd : List Nat → Nat → List Nat
  | [], k => [k]
  | i :: r, k => if k = i then i :: r else if k < i then k :: i :: r else i :: setAdd r k

/-- Remove from a set. -/
def setDel (m : List Nat) (k : Nat) : List Nat := m.filter (fun i => i ≠ k)

/-- The lane numbers of a mask, rising (R8: `for each active lane l` runs in this order). -/
def lanesOf (m : LaneMask) : List Nat := (List.range 64).filter (fun l => m.getLsbD l)

/-- The mask of the lanes that satisfy `f`. -/
def maskWhere (f : Nat → Bool) : LaneMask :=
  BitVec.ofNat 64 ((List.range 64).foldl (fun acc l => if f l then acc + 2 ^ l else acc) 0)

/-- The first `n` lanes. -/
def lowLanes (n : Nat) : LaneMask := BitVec.ofNat 64 (2 ^ n - 1)

/-- One lane. -/
def laneBit (l : Nat) : LaneMask := BitVec.ofNat 64 (2 ^ l)

/-- The lowest lane of a mask, 0 for an empty one. -/
def lowestLane (m : LaneMask) : Nat := (lanesOf m).headD 0

/-- Number of set bits. -/
def popCount {n : Nat} (x : BitVec n) : Nat :=
  (List.range n).foldl (fun acc i => if x.getLsbD i then acc + 1 else acc) 0

/-- Bytes of a number, least significant first (R3). -/
def bytesLE : Nat → Nat → List Byte
  | 0, _ => []
  | n + 1, x => BitVec.ofNat 8 x :: bytesLE n (x / 256)

/-- The number a little-endian byte string spells (R3). -/
def natLE : List Byte → Nat
  | [] => 0
  | b :: r => b.toNat + 256 * natLE r

end Sys2Proof.Machine
end

