-- ==== Sys2Proof/Machine/State.lean ====
section
/-! DEFINITION. The state of the package as plain data, the reasons a step can stop, and the state after reset. -/

namespace Sys2Proof.Machine

/-- The five trap-state registers as one trap writes them (R359, R362). -/
structure TrapInfo where
  cause : Word
  pc : DWord
  addr : DWord
  lanes : LaneMask
  info : Word
  deriving DecidableEq, Repr

/-- What a path of a gang is doing (R119, R151, R385). -/
inductive PathSt where
  /-- current or waiting (R119); which slices it holds is in `onSl` -/
  | ready
  /-- stopped at the rejoin of its innermost entry (R109) -/
  | atRejoin
  /-- held at `bar b` (R150) -/
  | bar (b : Nat)
  /-- held at `barw b` (R150) -/
  | barw (b : Nat)
  /-- held at `twait` on token k (R341) -/
  | twait (k : Nat)
  /-- in a `sleep` begun at a clock value, of at least n cycles (R153) -/
  | sleep (start : DWord) (n : Nat)
  /-- waiting for its own load, atomic, fence or cache operation to complete (R255, R262) -/
  | mem
  /-- waiting for its own `capload`, `capsave` or `capdrop` to complete (R201 to R203) -/
  | capture
  /-- waiting at a loop head for the shadow plane (R286) -/
  | planeWait
  /-- parked for a translation (R242) -/
  | parked
  /-- streaming in the Clover array (R180) -/
  | streaming
  deriving DecidableEq, Repr

/-- A path of a gang (R118, R119). -/
structure Path where
  id : Nat
  pc : DWord
  mask : LaneMask
  st : PathSt
  /-- the step at which it last began to wait (its age, R119) -/
  since : Nat
  /-- the slices on which it is current (R119) -/
  onSl : BitVec 4
  deriving DecidableEq, Repr

/-- An entry of the reconvergence stack (R109, R385). -/
structure StackEntry where
  rejoin : DWord
  members : LaneMask
  deriving DecidableEq, Repr

/-- Handler mode: the handler path H and the stack depth at entry (R363, R364). -/
structure HandlerMode where
  path : LaneMask
  depth : Nat
  deriving DecidableEq, Repr

/-- A kernel as its descriptor and its segment give it (R74, R441). -/
structure Kernel where
  asid : Nat
  /-- base virtual address of its text segment -/
  base : DWord
  /-- byte offset of the entry and size of the code range -/
  entry : Nat
  codeSize : Nat
  /-- byte offset of the rank-1 handler, if any -/
  handler : Option Nat
  regs : Nat
  gangw : Nat
  /-- `.l1` in KiB -/
  l1 : Nat
  cx : Nat
  cy : Nat
  cz : Nat
  acc : Nat
  nmeta : Nat
  tokens : Nat
  bars : Nat
  scratch : Nat
  round : Word
  capctl : Word
  paramSize : Nat
  deriving DecidableEq, Repr

/-- States of a completion token (R329). -/
inductive TokSt where
  | free | busy | done | fault
  deriving DecidableEq, Repr

/-- A completion token: its state, the class of the command that took it and the report of a fault (R329, R338). -/
structure Token where
  st : TokSt
  /-- minor code of major 0xB0 of its latest command -/
  cmd : Nat
  addr : DWord
  lanes : DWord
  info : Word
  /-- vectors that the homes returned to a `flsig` (R339) -/
  cv : List (BitVec 16)
  /-- the command it names, the address of its instruction, and the writes it made to host memory or to another package (R339) -/
  id : Nat
  pc : DWord
  host : List (Nat × DWord)
  deriving DecidableEq, Repr

def Token.reset : Token := ⟨.free, 0, 0, 0, 0, [], 0, 0, []⟩

/-- A metadata register (R304, R305). -/
structure Meta where
  data : BitVec 1024
  mode : BitVec 2
  valid : BitVec 256
  poison : BitVec 32
  deriving DecidableEq, Repr

def Meta.reset : Meta := ⟨0, 0, 0, 0⟩

/-- An accumulator tile (R297): 256 words (element 16r + c), KIND, poisoned elements. -/
structure Tile where
  words : List (Nat × Word)
  kind : Bool
  poison : BitVec 256
  deriving DecidableEq, Repr

def Tile.reset : Tile := ⟨[], false, 0⟩

/-- A write of the gang that its home has not acknowledged yet (R252, R418): the request's tag, its home, the line, the
bytes it writes, and its ordering class (R250). -/
structure Outst where
  tag : Nat
  home : Nat
  line : Nat
  ben : LaneMask
  bulk : Bool
  /-- the page is HOST: die 16 delivers the write and then issues it on PCIe -/
  host : Bool
  /-- what a report of it says (R359): its instruction, the lanes that write the line, the address of the lowest of them -/
  pc : DWord
  lanes : LaneMask
  va : DWord
  /-- REASON and LEVEL of a refusal by its home, as in TINFO (R242) -/
  refusal : Nat
  deriving DecidableEq, Repr

/-- What a translation answers for a 4 KiB page of a requester (R233 to R243). -/
inductive Xl where
  /-- a leaf of device memory: page base address, entry and level -/
  | leaf (pa : Nat) (entry : DWord) (level : Nat)
  /-- a HOST leaf through entry `idx` of the ATC, at a byte offset of that entry's range, with the permission granted -/
  | host (idx off : Nat) (entry : DWord) (level : Nat) (r w : Bool)
  /-- a window onto another package (R444) -/
  | remote (package asid : Nat)
  /-- not present, with the level where the walk ended -/
  | absent (level : Nat)
  | malformed (level : Nat)
  /-- the walk was ended by an entry that is poisoned (SOURCE 0) or has no home left (SOURCE 5) -/
  | poisoned (source : Nat)
  /-- a HOST leaf in an ASID with ATS = 0 -/
  | atsOff (entry : DWord) (level : Nat)
  /-- a HOST leaf that waits for a Translation Completion -/
  | needAts (entry : DWord) (level : Nat)
  /-- ATS granted neither read nor write -/
  | noGrant (entry : DWord) (level : Nat)
  deriving DecidableEq, Repr

/-- Translations a requester has gathered, by VA page, and the pages it waits for (R239, R241). -/
structure Xc where
  got : List (Nat × Xl)
  wants : List Nat
  deriving DecidableEq, Repr

def Xc.empty : Xc := ⟨[], []⟩

/-- A page that a requester is parked on (R242, R244): the VA page, whether it waits for PRI or for a fault record, the
lanes concerned, the lowest of their addresses, the record id once the record is made, and the answer. -/
structure Park where
  page : Nat
  pri : Bool
  /-- level where the walk ended -/
  level : Nat
  lanes : LaneMask
  addr : DWord
  record : Option Nat
  /-- some true: retry; some false: fail -/
  answer : Option Bool
  deriving DecidableEq, Repr

/-- A causal vector or stamp: one 16-bit entry per member (R15, R418). -/
abbrev CVec := List (BitVec 16)

/-- An atomic's operands for one line (R258, R259): lane, byte offset in the line, x and cmp. -/
structure LaneArg where
  lane : Nat
  off : Nat
  x : DWord
  cmp : DWord
  deriving DecidableEq, Repr

/-- The atomic a request carries. -/
structure AtomReq where
  op : AtomOp
  ty : Ty
  args : List LaneArg
  deriving DecidableEq, Repr

/-- Operations of a packet (R416). -/
inductive POp where
  | orderedWrite | atomic | causalLoad | plainLoad | forwardedWrite | bulkWrite | engineRead | flushMarker
  | readResponse | atomicResponse | writeAck | flushReply
  | frontier | frontierRequest | lossNotice | resyncControl | management
  deriving DecidableEq, Repr

/-- A packet (R414): what its header's fields say, the data line, and the operands or results of an atomic. `headerOf` is the header flit. What
no field of the header holds stands beside: the SOURCE of poison, the member of CST, an atomic's operands, the answer of a refusal. -/
structure Packet where
  op : POp
  src : Nat
  dst : Nat
  asid : Nat
  addr : DWord
  tag : Nat
  chain : BitVec 16
  loan : BitVec 6
  stamp : CVec
  elide : Bool
  gen : Bool
  ben : LaneMask
  data : List Byte
  /-- LCHK, the line check of the data (R230, R414) -/
  check : BitVec 16
  poison : Option Nat
  cst : Option Nat
  fare : Bool
  /-- the page is duplex: the primary home forwards and holds (R229); a load of one goes to its partner home -/
  dup : Bool
  partner : Bool
  /-- a home has refused it once for its line check, or a core has read it once again (R231) -/
  resent : Bool
  /-- the load of a `cwb`, which has its home write the line back (R266; R416 has no code of its own for it, log entry 41) -/
  wb : Bool
  atom : Option AtomReq
  olds : List (Nat × DWord)
  flags : BitVec 7
  /-- a host operation that the host refused (R260) -/
  refused : Bool
  deriving DecidableEq, Repr

/-- A line that came back to a load (R252): its key, bytes, and what stands against it: poison (with SOURCE) or a
release by the loss of a member (R367). -/
structure LineGot where
  key : Nat
  data : List Byte
  poison : Option Nat
  cst : Option Nat
  deriving DecidableEq, Repr

/-- A load, atomic or host access of a gang in flight (R252, R259): the path that issued it, the lanes with a true guard,
their addresses and places, the requests it waits for, what has returned, and, for an atomic, the lanes performed or not. -/
structure MemOp where
  instr : Instr
  path : Nat
  pc : DWord
  lanes : LaneMask
  addrs : List (Nat × DWord)
  places : List (Nat × Nat)
  waits : List Nat
  /-- requests not sent yet, by line key: they wait for room (R420, R425) -/
  unsent : List (Nat × Packet)
  /-- L1 invalidations of the core when it began (R226) -/
  epoch : Nat
  got : List LineGot
  olds : List (Nat × DWord)
  done : LaneMask
  /-- lanes of an atomic whose line was poisoned, with SOURCE; whose host operation was refused; released by a loss -/
  poisoned : LaneMask
  source : Nat
  refused : LaneMask
  released : LaneMask
  member : Nat
  flags : BitVec 7
  /-- for each line, REASON and LEVEL of a refusal by its home, as in TINFO (R242) -/
  refusals : List (Nat × Nat)
  /-- `capload`: 0 while the header comes, 1 while the image comes (R201) -/
  phase : Nat
  deriving DecidableEq, Repr

/-- One gang (R17, R118, R362, R377). -/
structure Gang where
  /-- GANGID and the record numbers of its cohort and grid -/
  gangid : Nat
  cohort : Nat
  grid : Nat
  die : Nat
  core : Nat
  /-- core gang index (R216) -/
  index : Nat
  kd : Kernel
  /-- the launch parameter block (R87), packed little-endian -/
  params : List Byte
  cidx : Word
  cidy : Word
  cidz : Word
  ncidx : Word
  ncidy : Word
  ncidz : Word
  /-- v(r) of lane l at 64r + l -/
  v : List (Nat × Word)
  vpoison : List Nat
  s : List (Nat × Word)
  /-- p1 to p15; p0 is never listed -/
  p : List (Nat × LaneMask)
  paths : List Path
  /-- innermost entry first -/
  stack : List StackEntry
  exited : LaneMask
  round : Word
  fpstat : Word
  xlctl : Word
  capctl : Word
  capstat : Word
  tcause : Word
  tpc : DWord
  taddr : DWord
  tlanes : DWord
  tinfo : Word
  handler : Option HandlerMode
  /-- loop monitor (R169) -/
  head : DWord
  count : Nat
  /-- the head at which the next iteration runs on the front end, after a drain or a discarded loading (R188, R195) -/
  frontAt : Option DWord
  tokens : List Token
  mregs : List Meta
  tiles : List Tile
  /-- physical tile of each accN (R297) -/
  phys : List Nat
  /-- scratch areas of its cohort by core position, and its own position (R125) -/
  areas : List Nat
  spos : Nat
  /-- outstanding writes, oldest first -/
  outst : List Outst
  /-- translation of the instruction being issued, and the pages the gang is parked on -/
  xc : Xc
  parks : List Park
  /-- loads, atomics and cache accesses in flight, at most one of each path, in issue order -/
  ops : List MemOp
  /-- writes that must be delivered before a later store may be sent (`fence.rel`, `fence.ar`, R263) -/
  storeGate : List Nat
  /-- writes to host memory that may not be issued on PCIe yet (R263) -/
  hostWrites : List Nat
  /-- PCIe operations whose issue `fence` at `.sys` waits for, and its zero-length read (R263) -/
  sysGate : List Nat
  sysRead : Option Nat
  /-- bulk stores and copy writes to host memory or to another package, which `flsig.sys` covers, with their addresses (R339) -/
  engineHost : List (Nat × DWord)
  /-- traps that rank 2 is to take, each with the trap state rank 1 was handling (R365, R366) -/
  pending : List (TrapInfo × Option TrapInfo)
  /-- stopped by rank 2 or by a pre-emption request; paused by a compaction (R133) -/
  stopped : Bool
  paused : Bool
  /-- number that its next path takes -/
  nextPath : Nat
  /-- wait counter: CLOCK when the gang became ready (R216), and urgency -/
  readySince : Option DWord
  urgent : Bool
  /-- register block: first granule and granules (R127) -/
  block : Nat
  granules : Nat
  /-- rotation of the paths that may issue, next one first (R120); paths whose last try was held (R134); the path whose instruction waits
  with the gang, for a translation (R239) or at `fence.sc` (R264) -/
  rot : List Nat
  held : List Nat
  engaged : Option Nat
  /-- the path whose next instruction cannot be fetched yet, for a translation: it has not issued (R239, R380) -/
  fetching : Option Nat
  deriving DecidableEq, Repr

/-- A grid (R113, R205, R210, R212, R384, R439): the packet that launched it, its kernel (with its descriptor as 16 words) and
parameters, its extents in cohorts, the dies it may use and where its rotation stands, how far its dispatch and its cohorts are,
and how it ends. -/
structure Grid where
  fn : Nat
  queue : Nat
  /-- launch sequence number within the queue, and index of the packet -/
  launch : Nat
  packet : DWord
  kd : Kernel
  desc : List DWord
  params : List Byte
  nx : Nat
  ny : Nat
  nz : Nat
  dies : List Nat
  lastDie : Option Nat
  nextCohort : Nat
  /-- CLOCK since which its next cohort waits for resources (R209, R211) -/
  waitFrom : Option DWord
  tbl : Bool
  finished : Nat
  /-- ended at rank 2 (R366); abandoned by UNQUEUE (R441) -/
  failed : Bool
  abandoned : Bool
  /-- the zero-length read that closes its host writes (R283), and that it has come back -/
  zero : Option Nat
  cv : CVec
  deriving DecidableEq, Repr

/-- A cohort (R124 to R126, R131, R387). -/
structure Cohort where
  grid : Nat
  /-- linear number in the grid, and coordinates -/
  number : Nat
  die : Nat
  /-- core, or the first core of the quartet -/
  core : Nat
  quartet : Bool
  kd : Kernel
  gangs : List Nat
  /-- scratch base in the local store, and bytes reserved, on each of its cores -/
  scratchBase : List Nat
  scratchBytes : Nat
  ownsTable : Bool
  /-- thread t, barrier id b at 16t + b: 0 never arrived, 1 open arrival, 2 latest generation completed (R150, R387) -/
  arrivals : List (Nat × Nat)
  /-- a pre-emption has been requested; the request, or the end of its grid, is stopping it (R366, R379, R380) -/
  asked : Bool
  stopping : Bool
  /-- the grid that has asked for its resources (R209) -/
  askedBy : Option Nat
  /-- place in its queue's save area that the request has kept for its context, as (offset, bytes) (R442) -/
  room : Option (Nat × Nat)
  /-- step at which it was placed (R209) -/
  placed : Nat
  deriving DecidableEq, Repr

/-- A text segment that may execute (R79, R81): the byte offsets of its instruction starts, in words of 8 bytes; an
unverified segment has every start set. It keeps the function that asked and its kernel descriptors of 16 words. -/
structure Segment where
  asid : Nat
  base : DWord
  words : Nat
  unverified : Bool
  starts : List Nat
  fn : Nat
  descs : List (List DWord)
  deriving DecidableEq, Repr

/-- A registered kernel (R441): its handle, the ASID of its segment, its resources and its descriptor. -/
structure Handle where
  fn : Nat
  asid : Nat
  kd : Kernel
  desc : List DWord
  deriving DecidableEq, Repr

/-- A packet that a queue has started (R205, R439): its index and eight words; the grid of a LAUNCH; the bytes a COPY has moved, its
writes on their way to homes, its host writes and the zero-length read that closes them; that it has ended and only its SIG add is to be made. -/
structure QPkt where
  idx : DWord
  words : List DWord
  grid : Option Nat
  moved : Nat
  bulk : List Nat
  waits : List Nat
  zero : Option Nat
  done : Bool
  deriving DecidableEq, Repr

/-- An image that a CAPLOAD packet brought, for later launches of the queue (R439), from the number `after` on. -/
structure QImage where
  kd : Kernel
  head : DWord
  image : List Byte
  after : Nat
  deriving DecidableEq, Repr

/-- A user queue (R205, R208, R435 to R442). -/
structure Queue where
  fn : Nat
  asid : Nat
  ring : DWord
  size : Nat
  prio : Nat
  save : DWord
  saveSize : Nat
  widx : DWord
  ridx : DWord
  failidx : Word
  err : BitVec 8
  halt : Bool
  reg : Bool
  res : Bool
  /-- its queue engine (R205, R208) -/
  engine : Nat
  /-- UNQUEUE was given: it unregisters when its cohorts have ended -/
  leaving : Bool
  /-- CLOCK at its last packet start; place in the order of kicks while it is not resident (R208) -/
  lastStart : DWord
  kicked : Option Nat
  /-- packets started and not ended, in order; launches so far; images -/
  pend : List QPkt
  launches : Nat
  images : List QImage
  deriving DecidableEq, Repr

/-- What the machine keeps of a saved gang beside its block (R263, R339): the host writes that a later `.sys` fence or `flsig` has to see issued, and
the vector and the host writes of each token. -/
structure SavedGang where
  gangid : Nat
  hostWrites : List Nat
  engineHost : List (Nat × DWord)
  sysGate : List Nat
  tokens : List Token
  deriving DecidableEq, Repr

/-- What it keeps of a saved copy command beside its record: ROUND as captured at issue (R332), the offset of its descriptor (R338), the address of
its instruction, its host writes (R339). -/
structure SavedCmd where
  round : Word
  off : DWord
  pc : DWord
  hostWrites : List (Nat × DWord)
  deriving DecidableEq, Repr

/-- A saved cohort (R381, R390, R442): its grid and number, and its block in the save area of its queue. -/
structure Saved where
  grid : Nat
  number : Nat
  va : DWord
  bytes : Nat
  /-- GANGIDs of the gangs that had not ended, and whether it takes a table region (R390) -/
  live : List Nat
  tbl : Bool
  /-- beside the block: gangs, copy commands in the order of their records -/
  gangs : List SavedGang
  cmds : List SavedCmd
  deriving DecidableEq, Repr

/-- A compaction on a core, or on a quartet from its first core on (R133, R210, R213, R214): the grid whose cohort is placed there at its
end, whether that cohort has been named for pre-emption meanwhile (R379) with the place kept for its context (R442), the moves still to make
(gang and new first granule), and CLOCK when the pause of the first began. -/
structure Compact where
  grid : Nat
  /-- the saved cohort that is to be placed, or none for the next new one -/
  saved : Option Nat
  cores : Nat
  asked : Bool
  room : Option (Nat × Nat)
  moves : List (Nat × Nat)
  since : Option DWord
  deriving DecidableEq, Repr

/-- A placement in a slot (R194, R196): its key, the words of its body, its 64 cell records and its register map. -/
structure Slot where
  head : DWord
  asid : Nat
  body : List DWord
  cells : List (DWord × DWord)
  regmap : List Word
  /-- it came as an image from memory (R195, R198) -/
  loaded : Bool
  /-- it came by `capload` or a launch, so that only gangs with CAPCTL.PRE enter it (R179) -/
  pre : Bool
  /-- step at which it was last entered or written (R194) -/
  used : Nat
  deriving DecidableEq, Repr

/-- A placer request (R169, R171, R200): the gang, the loop head, and the address of the closing transfer; none when the
placer searches for it (`lmark`). -/
structure PlacerReq where
  gang : Nat
  asid : Nat
  head : DWord
  last : Option DWord
  deriving DecidableEq, Repr

/-- A line in an L1 (R223). -/
structure L1Line where
  data : Line
  check : BitVec 16
  poison : Bool
  deriving DecidableEq, Repr


/-- An entry of a core's Ox queue (R300): what was captured at issue, and, once started, the local store as it stood at
the start (the operands are read while the entry runs, R299, R345). -/
structure OxEntry where
  id : Nat
  gang : Nat
  instr : Instr
  offA : Nat
  offB : Nat
  offC : Nat
  metas : List Meta
  round : Word
  lanes : LaneMask
  started : Option (List Host.Cell × List Nat)
  /-- CLOCK at which the occupancy of the matrix path ends (R306 to R309) -/
  leaves : DWord
  deriving DecidableEq, Repr

/-- What stands in the staging buffer for one element of a command (R336, R337): its bytes and index, or a fault (CODE,
address) that ends the command when the element is reached. -/
inductive Staged where
  | bytes (data : List Byte) (idx : Nat)
  | fault (code : Nat) (addr : DWord)
  deriving DecidableEq, Repr

/-- A descriptor (R331), captured at issue. -/
structure CopyDesc where
  src : DWord
  dst : DWord
  ctl : Word
  n0 : Nat
  n1 : Nat
  n2 : Nat
  ss1 : DWord
  ss2 : DWord
  ds1 : DWord
  ds2 : DWord
  deriving DecidableEq, Repr

/-- A command in a core's copy queue (R328 to R343). -/
structure CopyCmd where
  id : Nat
  gang : Nat
  asid : Nat
  instr : Instr
  tok : Nat
  /-- PC of the command, descriptor offset (or VA or offset of a `tload`), index array offset, ROUND.MODE at issue -/
  pc : DWord
  off : DWord
  idxOff : Nat
  round : Word
  desc : CopyDesc
  /-- base and size of the gang's scratch area on the core -/
  base : Nat
  limit : Nat
  /-- in flight (at most four, R336), and past its first-access conditions -/
  active : Bool
  started : Bool
  /-- ordered writes to be delivered, and Ox entries to complete, before the first access (R336, R346) -/
  before : List Nat
  oxBefore : List Nat
  /-- next element to write, next to read, and staging -/
  n : Nat
  rn : Nat
  stage : List (Nat × Staged)
  /-- reads in flight and writes not delivered: tag, element, address; writes to host memory or to another package, its own or those that a
  `flsig` covers; the zero-length read of a `flsig.sys` -/
  reads : List (Nat × Nat × DWord)
  writes : List (Nat × Nat × DWord)
  hostWrites : List (Nat × DWord)
  zero : Option Nat
  /-- words written by `cpz` -/
  zw : Nat
  xc : Xc
  park : Option Park
  fault : Option (Nat × DWord × Nat)
  /-- `flsig`: covered commands and bulk writes; homes asked and yet to reply; the vectors merged so far -/
  covers : List Nat
  bulk : List Nat
  asked : Bool
  replies : List Nat
  cv : List (BitVec 16)
  deriving DecidableEq, Repr

/-- A TLB entry (R234, R235, R238): the VA range of size 2^log2 from `base`, the leaf and its level. -/
structure TlbEntry where
  asid : Nat
  base : Nat
  log2 : Nat
  leaf : DWord
  level : Nat
  deriving DecidableEq, Repr

/-- A pointer entry of a walk cache (R238): the table of `level` for the VAs that share `va`, and the PA of that table. -/
structure PtrEntry where
  asid : Nat
  level : Nat
  prefix_ : Nat
  table : Nat
  deriving DecidableEq, Repr

/-- Translation state of one compute die (R238, R239). -/
structure DieXl where
  tlb : List TlbEntry
  wcache : List PtrEntry
  /-- walks in progress and queued misses, oldest first -/
  walks : List (Nat × Nat)
  deriving DecidableEq, Repr

def DieXl.reset : DieXl := ⟨[], [], []⟩

/-- The registers that a stream carries (R187): vector registers with their poison marks, predicates, uniform registers (of
which only the `lpb` counter changes) and the flags raised. -/
structure Regs where
  v : List (Nat × Word)
  vpoison : List Nat
  p : List (Nat × LaneMask)
  s : List (Nat × Word)
  fpstat : Word
  deriving DecidableEq, Repr

/-- A store held in a memory cell (R186): its tag (iteration, body index), the bytes by place, and the answers for its
lines. -/
structure HeldStore where
  iter : Nat
  idx : Nat
  pc : DWord
  na : Bool
  /-- lanes with their addresses and places, and the access size -/
  addrs : List (Nat × DWord)
  places : List (Nat × Nat)
  size : Nat
  bytes : List (Nat × Byte)
  lines : List (Nat × Xl)
  deriving DecidableEq, Repr

/-- A load of a memory cell (R183, R184): its tag, its operation, the bytes it took from held stores, and whether its values
have reached the registers. -/
structure CellLoad where
  id : Nat
  iter : Nat
  idx : Nat
  na : Bool
  op : MemOp
  forwarded : List (Nat × Byte)
  bytes : List Nat
  done : Bool
  deriving DecidableEq, Repr

/-- The end of an iteration that awaits its release (R187): the registers after it and the lanes still in the array. -/
structure IterEnd where
  iter : Nat
  regs : Regs
  live : LaneMask
  deriving DecidableEq, Repr

/-- A token of the array (R176): four lanes of 32-bit data, the lane mask, the quarter of its slice, the number of its stream, and the iteration
modulo 256. A 64-bit operand is two of them, one for each register. -/
structure ArrayToken where
  data : List Word
  mask : BitVec 4
  quarter : BitVec 2
  stream : BitVec 4
  tag : BitVec 8
  deriving DecidableEq, Repr

/-- The streams of one gang in a Clover array (R176 to R188). -/
structure Stream where
  gang : Nat
  path : Nat
  head : DWord
  asid : Nat
  fall : DWord
  /-- lanes that entered, and streams they take (one for each slice, R176) -/
  entered : LaneMask
  count : Nat
  /-- number of the stream of each slice, by slice (R176) -/
  nums : List (Nat × Nat)
  /-- the body: byte offset from the head, and instruction -/
  body : List (Nat × Instr)
  /-- release copy, lanes in the array at boundary B, and B -/
  rel : Regs
  relLive : LaneMask
  boundary : Nat
  /-- the iteration being computed: its registers, the lanes at its start, what has fired, and the forward transfers taken
  (lanes, body index, target offset) -/
  iter : Nat
  work : Regs
  live : LaneMask
  fired : List Nat
  /-- instructions that have fired for some of their tokens: the body index, and the quarter as 4 · slice + quarter (R176, R177) -/
  part : List (Nat × Nat)
  /-- delay lines, by the key of their register (R178): the tokens that the iteration being computed takes from them -/
  lines : List (Nat × List ArrayToken)
  jumps : List (LaneMask × Nat × Nat)
  ends : List IterEnd
  held : List HeldStore
  loads : List CellLoad
  /-- iteration of the earliest held fault (R189) -/
  faultAt : Option Nat
  /-- why it is to drain, and whether the drain has begun (R188) -/
  trigger : Option DrainCause
  draining : Bool
  xc : Xc
  deriving DecidableEq, Repr

/-- One core (R127, R130, R194). -/
structure Core where
  /-- local store: byte b at key b (R130); the table banks stand at 0x3E000 and 0x3F000 (R167) -/
  mem : List Host.Cell
  /-- poisoned 64-bit words of the local store (R369) -/
  mpoison : List Nat
  /-- active table bank and the cohort that owns the table region (R167, R212) -/
  bank : Nat
  tableOwner : Option Nat
  /-- Ox queue, oldest first -/
  oxq : List OxEntry
  /-- L1 lines by line key, and the number of invalidations so far: a fill requested before the latest one, or before its
  line was dropped, is not kept (R224, R226, R265) -/
  l1 : List (Nat × L1Line)
  l1Epoch : Nat
  l1tlb : List TlbEntry
  /-- copy queue and commands in flight, oldest first (R215, R336) -/
  copyq : List CopyCmd
  cv : CVec
  placer : Option PlacerReq
  /-- refusal list, oldest first, at most 16 (R171) -/
  refused : List (DWord × Nat)
  slots : List (Option Slot)
  /-- active plane; shadow plane with the gang that waits for it and CLOCK when its loading began (R175, R195) -/
  plane : Option Slot
  shadow : Option (Slot × Nat × DWord)
  streams : List Stream
  compact : Option Compact
  /-- core gang index that last took issue slot 0, and that slot 1 of the cycle is taken (R216) -/
  slot0 : Nat
  slot1 : Bool
  /-- the load/store unit's next conflict goes to Clover (R217) -/
  lsuFront : Bool
  deriving DecidableEq, Repr

/-- A core that nothing has used. -/
def Core.reset : Core where
  mem := []
  mpoison := []
  bank := 0
  tableOwner := none
  oxq := []
  l1 := []
  l1Epoch := 0
  l1tlb := []
  copyq := []
  cv := copies 17 0
  placer := none
  refused := []
  slots := [none, none, none, none]
  plane := none
  shadow := none
  streams := []
  compact := none
  slot0 := 191
  slot1 := false
  lsuFront := false

/-- Who waits for the answer to a request. -/
inductive Who where
  /-- a line of a load of a path of a gang; a plain load may fill the L1 of its core, unless `epoch` has passed -/
  | load (gang path line : Nat) (fill : Bool) (epoch : Nat)
  | store (gang : Nat)
  | atomic (gang path line : Nat)
  /-- `prf` into a core's L1 -/
  | prefetch (die core line epoch : Nat)
  /-- a duplex home's forward of a write it delivered for `src` under `tag`; a response to send then -/
  | forward (line : Nat) (reply : Option Packet)
  /-- a copy or `tload` command: a read of a line, a write, a flush marker -/
  | engineRead (die core cmd line : Nat)
  | engineWrite (die core cmd : Nat)
  | flush (die core cmd : Nat)
  /-- a Clover memory cell's load (R183) -/
  | cell (die core access line : Nat) (fill : Bool)
  /-- a COPY packet's write -/
  | queueCopy (queue : Nat)
  deriving DecidableEq, Repr

/-- An outstanding request (R418): sent by a member to a home, with its stamp if it has one. -/
structure Req where
  tag : Nat
  die : Nat
  home : Nat
  stamp : Option CVec
  /-- it went beyond the 32 reserved entries, on a lent one (R420) -/
  lent : Bool
  who : Who
  /-- the request itself, for a line of a duplex page, which the partner can serve in its home's place (R229) -/
  again : Option Packet
  deriving DecidableEq, Repr

/-- A frontier that waits for its chain (R424), and its FARE bit. -/
structure Frontier where
  count : BitVec 16
  chain : BitVec 16
  fare : Bool
  deriving DecidableEq, Repr

/-- A line of a duplex page that its primary home holds until the partner acknowledges the forward `tag`, with the loads
that wait, oldest first (R271, R422). -/
structure LineHold where
  tag : Nat
  line : Nat
  waiting : List Packet
  deriving DecidableEq, Repr

/-- A write of a duplex page that its home has performed and not forwarded yet, for want of room (R229, R420, R425): its tag, the packet, and
the reply that waits for the partner. -/
structure Forward where
  tag : Nat
  packet : Packet
  reply : Packet
  deriving DecidableEq, Repr

/-- One member of the causal domain (R418). Lists have one entry for each of the 17 members. -/
structure Member where
  counter : BitVec 32
  view : List (BitVec 32)
  last : List (BitVec 32)
  /-- counter of this member's last ordered write to each destination (CHAIN, R419) -/
  sentLast : List (BitVec 32)
  floor : List (BitVec 32)
  low : List (BitVec 32)
  pstamp : List CVec
  /-- the last full stamp sent to each destination; none after a resynchronisation -/
  sentStamp : List (Option CVec)
  /-- the causal vector of a home or of die 16 -/
  cv : CVec
  /-- hold buffer, oldest first -/
  holds : List Packet
  lineHolds : List LineHold
  /-- writes to forward, oldest first; write queue of a home: bulk and engine traffic that it has not performed yet (R412, R453) -/
  fwds : List Forward
  writeq : List Packet
  /-- shared hold entries lent to each source, and borrowed from each destination (R420) -/
  lentTo : List Nat
  borrowed : List Nat
  kept : List (Option Frontier)
  gen : Bool
  epoch : Nat
  removed : List Nat
  /-- stopped sending stamped packets (R428, R430) -/
  quiet : Bool
  /-- CLOCK at the last VC-D packet sent to each destination and of the last frontier request (R424) -/
  lastD : List DWord
  /-- ASIDs with traffic to or from each member: 4096 · member + ASID (R429) -/
  traffic : List Nat
  deriving DecidableEq, Repr

def Member.reset : Member where
  counter := 0
  view := copies 17 0
  last := copies 17 0
  sentLast := copies 17 0
  floor := copies 17 0
  low := copies 17 0
  pstamp := copies 17 (copies 17 0)
  sentStamp := copies 17 none
  cv := copies 17 0
  holds := []
  lineHolds := []
  fwds := []
  writeq := []
  lentTo := copies 17 0
  borrowed := copies 17 0
  kept := copies 17 none
  gen := false
  epoch := 0
  removed := []
  quiet := false
  lastD := copies 17 0
  traffic := []

/-- An operation that die 16 has delivered and PCIe has not completed (R243, R260, R282), in delivery order: a posted write
(bytes at a host address), a read, an atomic, or a zero-length read. `reply` goes back when it completes. -/
inductive PcieOp where
  | write (addr : Nat) (bytes : List (Nat × Byte))
  | read (addr : Nat) (reply : Packet)
  | atomic (addr : Nat) (req : AtomReq) (reply : Packet)
  | zeroRead
  deriving DecidableEq, Repr

/-- What die 16 has received from the host and not passed on yet, in order (R283): a write to device memory, and whether it arrived with a bad
check (R231), or a kick. -/
inductive HostOp where
  | write (addr : Nat) (bytes : List Byte) (bad : Bool)
  | kick (queue : Nat) (value : DWord)
  deriving DecidableEq, Repr

/-- An ATC entry (R243): PASID, VA range, host address, and what the completion granted. -/
structure AtcEntry where
  idx : Nat
  /-- it still translates; one that was dropped stands until the accesses sent through it are delivered (R245) -/
  live : Bool
  pasid : Nat
  base : Nat
  log2 : Nat
  host : DWord
  r : Bool
  w : Bool
  deriving DecidableEq, Repr

/-- How a memory-port die serves (R406). -/
inductive HomeMode where
  | live | degraded | retired | lost
  deriving DecidableEq, Repr

/-- A fault record (R443). -/
structure FaultRec where
  kind : Nat
  asid : Nat
  id : Nat
  queue : Nat
  launch : Nat
  die : Nat
  core : Nat
  gangid : Nat
  va : DWord
  set1 : TrapInfo
  set2 : Option TrapInfo
  deriving DecidableEq, Repr

/-- What a command of the driver's ring returned (R441): its code, its status, and what it reports beside (a handle, or the two
words of a verification, R79). -/
structure Reply where
  code : Nat
  status : DWord
  w0 : DWord
  w1 : DWord
  deriving DecidableEq, Repr

/-- One function of the endpoint (R434, R443): its fault ring and indices, records that wait for room, page records not answered
yet (R441), the count of MSI-X vector 1, its pre-emption delay (R209), whether its PRI is stopped (R244), and what its commands
returned, oldest first. -/
structure Fn where
  ring : DWord
  size : Nat
  fqw : DWord
  fqr : DWord
  records : List FaultRec
  nextId : Nat
  pageIds : List Nat
  msix : Nat
  delay : Word
  priStopped : Bool
  replies : List Reply
  deriving DecidableEq, Repr

def Fn.reset : Fn := ⟨0, 0, 0, 0, [], 1, [], 0, 1000, false, []⟩

/-- A translation invalidation in progress (R245): the range dropped, the requests that were on their way, and who hears of its
completion: the driver, with what it is told, or the host. -/
structure Inval where
  id : Nat
  asid : Nat
  waits : List Nat
  fn : Option (Nat × Reply)
  deriving DecidableEq, Repr

/-- Gander (R407, R408, R446 to R448): the power cap; for each compute die its throttle level and last estimate; for each die its
temperature; the log of machine checks; the two firmware slots, which one runs and whether the other is staged; the fused minimum
version, key digests and revocations; digests of boot ROM and die configuration; the last message sent on the side band. -/
structure Gander where
  cap : Nat
  levels : List Nat
  watts : List Nat
  celsius : List Nat
  log : List (Nat × Nat)
  /-- integrity events (R193) -/
  integrity : Nat
  slots : List FirmwareImage
  running : Nat
  staged : Bool
  minVersion : Word
  keys : List (List Byte)
  revoked : List Bool
  rom : List Byte
  dieConfig : List Byte
  message : List Byte
  deriving DecidableEq, Repr

/-- The image of a slot that has not been loaded: a digest, a key digest and a signature of zeros (R447). -/
def FirmwareImage.blank : FirmwareImage := ⟨0, copies 32 0, copies 32 0, copies 2420 0⟩

def Gander.reset : Gander where
  cap := 2400
  levels := copies 8 0
  watts := copies 8 0
  celsius := copies 17 0
  log := []
  integrity := 0
  slots := copies 2 FirmwareImage.blank
  running := 0
  staged := false
  minVersion := 0
  keys := copies 4 (copies 32 0)
  revoked := copies 4 false
  rom := copies 32 0
  dieConfig := copies 32 0
  message := []

/-- A PRI page request (R244); one made while PRI is stopped is not sent yet. -/
structure PriReq where
  fn : Nat
  asid : Nat
  page : Nat
  sent : Bool
  deriving DecidableEq, Repr

/-- An entry of a function's window table (R444): its place of 256, a 1-GiB-aligned VA range in GiB, a package and its ASID. -/
structure Window where
  fn : Nat
  slot : Nat
  asid : Nat
  base : Nat
  gib : Nat
  package : Nat
  remote : Nat
  deriving DecidableEq, Repr

/-- One link between two dies (R401, R402, R411): failed lanes of each module and direction (module m, direction d at
2m + d), CLOCK until which it retrains, and whether it failed. -/
structure Link where
  lanes : List Nat
  busy : Option DWord
  failed : Bool
  deriving DecidableEq, Repr

def Link.reset : Link := ⟨copies 32 0, none, false⟩

/-- What the driver and the host do that no row of the opcode table stands for: a window entry of a function is written or cleared, a pair of another
package and an ASID is imported or no longer (R444), and the host adds to a signal word of its own memory or of device memory (R440, R450). -/
inductive HostAct where
  | putWindow (w : Window)
  | clearWindow (fn slot : Nat)
  | addImport (package asid : Nat)
  | dropImport (package asid : Nat)
  | addWord (toHost : Bool) (addr : Nat) (x : DWord)
  deriving DecidableEq, Repr

/-- Who acts next when the agenda says so: an event of the opcode table, the issue of one path of one gang, or the driver or host. -/
inductive Turn where
  | event (i : Instr)
  | issue (gang path : Nat)
  | host (a : HostAct)
  deriving DecidableEq, Repr

/-- Why a step has no meaning. -/
inductive Refusal where
  /-- raised by `exec` for an instruction whose meaning is not written yet; safe -/
  | notModelled (mnemonic : String)
  deriving DecidableEq, Repr

/-- Why a step stops. -/
inductive Fault where
  /-- raised by every meaning of an instruction of the instruction set when no path of a gang is issuing; no step of the
  machine does this, because `step` names the issuing path before it runs `exec`; safe -/
  | noIssuingPath
  deriving DecidableEq, Repr

/-- The whole package. -/
structure State where
  clock : DWord
  /-- steps taken; a source of fresh record numbers; the counter that feeds free values -/
  seq : Nat
  fresh : Nat
  freeCtr : Nat
  agenda : List Turn
  cur : Option (Nat × Nat)
  /-- the step was a try that an operand dependence held (R134) -/
  idle : Bool
  gangs : List (Nat × Gang)
  cohorts : List (Nat × Cohort)
  grids : List (Nat × Grid)
  /-- core c of die d at 256d + c -/
  cores : List (Nat × Core)
  segments : List Segment
  /-- kernels by handle, queues by 65536 · function + number, saved cohorts by number (R381, R435, R441) -/
  handles : List (Nat × Handle)
  queues : List (Nat × Queue)
  saved : List (Nat × Saved)
  /-- queue served last at each priority (R207); reservations of quartets and of cores, as (die, quartet or core, grid) (R211) -/
  served : List (Nat × Nat)
  reserveQ : List (Nat × Nat × Nat)
  reserveL1 : List (Nat × Nat × Nat)
  /-- quartets that are being retired, as 64 · die + logical quartet, and dead physical quartets, as 128 · die + quartet (R394, R404) -/
  failing : List Nat
  deadQuartets : List Nat
  /-- dies that Gander is retiring (R406) -/
  leavingDies : List (Nat × RetireWay)
  /-- HBM by PA (R227) and its poisoned lines; L2 copies of lines, true for one newer than HBM (R228, R231, R266) -/
  hbm : List Host.Cell
  poison : List Nat
  l2 : List (Nat × Bool)
  /-- host memory by host address; memory of other packages by place number (R243, R444) -/
  hostMem : List Host.Cell
  /-- ASID a: words 0 and 1 (R232) -/
  asids : List (Nat × (DWord × DWord))
  /-- protected region: base PA and 4 KiB pages; pages under a write lock (R236) -/
  protBase : Nat
  protPages : Nat
  locked : List Nat
  /-- pages of the protected region given to tables so far (R79, R236), and invalidations in progress (R245) -/
  protUsed : Nat
  invals : List Inval
  dieXl : List (Nat × DieXl)
  /-- ATC, and translation requests in flight by (ASID, VA page) (R243) -/
  atc : List AtcEntry
  /-- writes to host memory or to another package, and zero-length reads behind them, that were refused (R339) -/
  refusedHost : List Nat
  /-- oldest first -/
  hostIn : List HostOp
  atsReqs : List (Nat × Nat)
  /-- host pages (ASID, VA page) of which die 16 itself awaits a translation, true once a completion has granted neither permission (R437) -/
  atsBy16 : List ((Nat × Nat) × Bool)
  /-- fabric: members, packets in flight by channel (R410, R413), requests outstanding, links, routes, pair delays -/
  members : List Member
  flights : List (Nat × List Packet)
  reqs : List Req
  /-- stamped requests that go to another home, or once more to theirs, and wait to be sent: the tag, the causal vector, the packet (R231, R344, R420) -/
  resends : List (Nat × CVec × Packet)
  links : List Link
  routes : List (Nat × List Nat)
  delays : List (Nat × DWord)
  /-- machine checks that reached Gander, as (die, code), and its count of corrected errors (R368, R369, R417) -/
  checks : List (Nat × Nat)
  corrected : Nat
  /-- die 16's last reports of VIEW and LOW of each member (R425), and loss notices on their way (R429) -/
  seenView : List CVec
  seenLow : List CVec
  notices : List (Nat × Nat)
  lastReq : List (Nat × DWord)
  /-- at 32 · j + d: member d has not answered a frontier request of member j yet, with CLOCK at the first such request (R429) -/
  unanswered : List (Nat × DWord)
  /-- a resynchronisation that has begun, with the remap and the readmissions of its end (R430) -/
  resync : Option (List (Nat × Nat) × List Nat)
  /-- die remap table, spare-quartet tables (quartet q of die d at 64d + q), modes of homes 8 to 15 (R403 to R406) -/
  remap : List (BitVec 8)
  spares : List (Nat × BitVec 8)
  homeModes : List HomeMode
  /-- PCIe operations by tag, in delivery order; the link is up (R449, R450) -/
  pcie : List (Nat × PcieOp)
  pcieUp : Bool
  /-- functions (R434), PRI requests (R244), windows and imported pairs (R444), packages out of reach -/
  fns : List (Nat × Fn)
  pri : List PriReq
  windows : List Window
  imports : List (Nat × Nat)
  unreachable : List Nat
  /-- answer to the last access of another package: none when it was refused (R444) -/
  remoteReply : Option (List Byte × Bool)
  /-- the next line that another package writes will fail its check at the home (R231) -/
  remoteBad : Bool
  gander : Gander
  /-- bring-up has opened BAR0 and BAR2 (R449) -/
  up : Bool
  deriving DecidableEq, Repr

/-- The machine right after reset. -/
def State.reset : State where
  clock := 0
  seq := 0
  fresh := 1
  freeCtr := 0
  agenda := []
  cur := none
  idle := false
  gangs := []
  cohorts := []
  grids := []
  cores := []
  segments := []
  handles := []
  queues := []
  saved := []
  served := []
  reserveQ := []
  reserveL1 := []
  failing := []
  deadQuartets := []
  leavingDies := []
  hbm := []
  poison := []
  l2 := []
  hostMem := []
  asids := []
  protBase := 0
  protPages := 0
  locked := []
  protUsed := 0
  invals := []
  dieXl := []
  atc := []
  refusedHost := []
  hostIn := []
  atsReqs := []
  atsBy16 := []
  members := copies 17 Member.reset
  flights := []
  reqs := []
  resends := []
  links := copies 24 Link.reset
  routes := []
  delays := []
  checks := []
  corrected := 0
  seenView := copies 17 (copies 17 0)
  seenLow := copies 17 (copies 17 0)
  notices := []
  lastReq := []
  unanswered := []
  resync := none
  remap := [0, 1, 2, 3, 4, 5, 6, 7, 0, 1, 2, 3, 4, 5, 6, 7]
  spares := []
  homeModes := copies 8 .live
  pcie := []
  pcieUp := true
  fns := []
  pri := []
  windows := []
  imports := []
  unreachable := []
  remoteReply := none
  remoteBad := false
  gander := Gander.reset
  up := true

end Sys2Proof.Machine
end

