-- ==== Sys2Proof/WellFormed.lean ====
section
/-! DEFINITION. What makes an instruction's fields an assigned encoding (R60 to R65 and each description). A term that
fails its check has only a reserved encoding, so `Decode` refuses its word and issue raises ILLOP (R65). Limits that depend
on the running kernel (`.regs`, `.acc`, `.meta`, `.tokens`; R19, R63) are checked at issue. -/

namespace Sys2Proof

/-- A uniform register field: bits [9:7] zero (R63). -/
def sregOk (f : Field10) : Bool := decide (f.toNat < 128)

/-- A field that holds a pair is even (R20, R63). -/
def evenOk (f : Field10) : Bool := decide (f.toNat % 2 = 0)

/-- An even uniform pair, at most 126 (R20). -/
def spairOk (f : Field10) : Bool := sregOk f && evenOk f

/-- "No register" in a field that allows it (R58, R63, R142, R315). -/
def noField : Field10 := 0x3FF#10

/-- A member mask: an even uniform pair, or every lane (R142). -/
def maskOk (f : Field10) : Bool := decide (f = noField) || spairOk f

/-- A B operand of 32 bits (R82). -/
def src32Ok (b : Src) : Bool := !b.bu || sregOk b.b

/-- A B operand of 64 bits names a pair on either side (R82). -/
def src64Ok (b : Src) : Bool := if b.bu then spairOk b.b else evenOk b.b

/-- A B operand whose width is that of the type (R82, R83). -/
def srcOk (ty : Ty) (b : Src) : Bool := if ty = .b64 then src64Ok b else src32Ok b

/-- A vector register whose width is that of the type (R83). -/
def vregOk (ty : Ty) (f : Field10) : Bool := if ty = .b64 then evenOk f else true

/-- A uniform register whose width is that of the type (R83). -/
def sregTyOk (ty : Ty) (f : Field10) : Bool := if ty = .b64 then spairOk f else sregOk f

/-- Types of a table that lists `.i32` alone; `.b32` is the same (R82). -/
def tyI32 (ty : Ty) : Bool := ty = .i32 || ty = .b32

/-- `.i32` and `.b64` (R85, R90). -/
def tyI32B64 (ty : Ty) : Bool := tyI32 ty || ty = .b64

/-- `.s32` and `.z32`. -/
def tySZ (ty : Ty) : Bool := ty = .s32 || ty = .z32

/-- `.i32`, `.s32` and `.z32`. -/
def tyISZ (ty : Ty) : Bool := tyI32 ty || tySZ ty

/-- `.f32` and the packed pairs (R98). -/
def tyF3 (ty : Ty) : Bool := ty = .f32 || ty = .f16 || ty = .bf16

/-- The 16-, 8- and 4-bit types (R104). -/
def tyNarrow (ty : Ty) : Bool :=
  match ty with
  | .s16 | .z16 | .s8 | .z8 | .s4 | .z4 | .f16 | .bf16 | .f8a | .f8b => true
  | _ => false

/-- The types of `cvt` (R103) and of a drain (R323). -/
def tyCvt (ty : Ty) : Bool := tyNarrow ty || tySZ ty || ty = .f32

/-- A type and condition of a compare (R85, R86). -/
def cmpOk (ty : Ty) (c : Cond) : Bool :=
  match c with
  | .eq | .ne => tyISZ ty || ty = .b64
  | .un | .or => false
  | _ => tySZ ty

/-- An immediate shift amount: 0 to 31 with bits [19:5] zero (R85, R90). -/
def shiftImmOk (imm : Imm20) : Bool := decide (imm.toNat < 32)

/-- The address fields of Format M (R63, R64). -/
def MemAddr.ok (m : MemAddr) : Bool :=
  maskOk m.sb && (!m.vw || evenOk m.vi)

/-- The element types of `ld` and `st` (R248). -/
def tyMem (ty : Ty) : Bool := !(ty = .s4 || ty = .z4)

/-- The types of a cross-lane reduction by its operation (R145). -/
def xopTyOk (op : XOp) (ty : Ty) : Bool :=
  match op with
  | .add => ty = .i32 || ty = .b64 || ty = .f32
  | .min | .max => tySZ ty || ty = .f32
  | .and | .or | .xor => ty = .i32 || ty = .b64

/-- The rounding selector of a cross-lane reduction is used by `.add.f32` only (R141). -/
def xopRmOk (op : XOp) (ty : Ty) (rm : RSel) : Bool :=
  (op = .add && ty = .f32) || rm = .dyn

/-- `.b32` and `.b64`, as the cross-lane members list them (R141). -/
def tyB (ty : Ty) : Bool := ty = .b32 || ty = .b64

/-- The types of an atomic by its operation (R258). -/
def atomTyOk (op : AtomOp) (ty : Ty) : Bool :=
  match op with
  | .add => tyISZ ty || ty = .b64 || ty = .f32
  | .min | .max => tySZ ty || ty = .f32
  | .and | .or | .xor | .exch | .cas => tyI32 ty || ty = .b64
  | .adds => tySZ ty

/-- MACs per element per cycle by the class of the A type: 1, 2 or 4; none for a type Ox does not multiply (R298). -/
def oxRate (ty : Ty) : Option Nat :=
  match ty with
  | .f16 | .bf16 => some 1
  | .f8a | .f8b | .s8 | .z8 => some 2
  | .s4 | .z4 => some 4
  | _ => none

/-- The permitted pairs of A and B types (R298). -/
def oxPairOk (ta tb : Ty) : Bool :=
  match ta with
  | .f16 => tb = .f16
  | .bf16 => tb = .bf16
  | .f8a | .f8b => tb = .f8a || tb = .f8b
  | .s8 | .z8 => tb = .s8 || tb = .z8
  | .s4 | .z4 => tb = .s4 || tb = .z4
  | _ => false

/-- K of a matrix instruction: 32n, 64n or 128n with n = NK + 1 (R59, R298). -/
def oxK (ta : Ty) (nk : BitVec 4) : Nat := 32 * (oxRate ta).getD 0 * (nk.toNat + 1)

/-- The metadata registers an `oxip` consumes: one for each 64 k (R304, R327: K = 512 takes m0 to m7). -/
def oxMetaCount (ta : Ty) (nk : BitVec 4) : Nat := (oxK ta nk + 63) / 64

/-- System-register numbers of R377 and whether the register is 64 bits wide. -/
def sysRegWidth (r : Field10) : Option Bool :=
  let n := r.toNat
  if n = 0x00D then some true
  else if n ≤ 0x00C then some false
  else if 0x010 ≤ n && n ≤ 0x014 then some false
  else if n = 0x020 || n = 0x024 then some false
  else if 0x021 ≤ n && n ≤ 0x023 then some true
  else none

/-- A register operand of `mfs` (uniform or vector) or `mts` (uniform) for a system register of the given width (R375, R376). -/
def sysOperandOk (vec : Bool) (f reg : Field10) : Bool :=
  match sysRegWidth reg with
  | none => false
  | some wide => (vec || sregOk f) && (!wide || evenOk f)

/-- The encoding is assigned and not reserved (R65). An event has no encoding and is well formed as it stands. -/
def Instr.wf : Instr → Bool
  | .sadd _ ty d a b | .ssub _ ty d a b | .sand _ ty d a b | .sor _ ty d a b | .sxor _ ty d a b =>
      tyI32B64 ty && sregTyOk ty d && sregTyOk ty a && sregTyOk ty b
  | .smul _ ty d a b => tyI32 ty && sregOk d && sregOk a && sregOk b
  | .smulh _ ty d a b | .smin _ ty d a b | .smax _ ty d a b => tySZ ty && sregOk d && sregOk a && sregOk b
  | .sshl _ ty d a b | .sshr _ ty d a b | .ssra _ ty d a b =>
      tyI32B64 ty && sregTyOk ty d && sregTyOk ty a && sregOk b
  | .smov _ ty d a => tyI32B64 ty && sregTyOk ty d && sregTyOk ty a
  | .scmp _ ty c d a b => cmpOk ty c && sregOk d && sregTyOk ty a && sregTyOk ty b
  | .ssel _ ty d a b c => tyI32B64 ty && sregTyOk ty d && sregTyOk ty a && sregTyOk ty b && sregOk c
  | .saddImm _ ty d a _ | .ssubImm _ ty d a _ | .sandImm _ ty d a _ | .sorImm _ ty d a _ | .sxorImm _ ty d a _ =>
      tyI32B64 ty && sregTyOk ty d && sregTyOk ty a
  | .smulImm _ ty d a _ => tyI32 ty && sregOk d && sregOk a
  | .smulhImm _ ty d a _ | .sminImm _ ty d a _ | .smaxImm _ ty d a _ => tySZ ty && sregOk d && sregOk a
  | .sshlImm _ ty d a imm | .sshrImm _ ty d a imm | .ssraImm _ ty d a imm =>
      tyI32B64 ty && sregTyOk ty d && sregTyOk ty a && shiftImmOk imm
  | .scmpImm _ ty c d a _ => cmpOk ty c && sregOk d && sregTyOk ty a
  | .sliShort _ d _ => sregOk d
  | .sldArg _ ty d imm =>
      tyI32B64 ty && sregTyOk ty d && decide (imm.toNat % (if ty = .b64 then 8 else 4) = 0)
  | .sliLong _ d _ => sregOk d
  | .slih _ d _ => spairOk d
  | .iliLong _ _ _ => true
  | .iliB64 _ d _ => evenOk d
  | .iliShort _ _ _ => true
  | .jmp _ _ => true
  | .bru _ a _ | .lpb _ a _ => sregOk a
  | .call _ a _ => evenOk a
  | .brx _ a => spairOk a
  | .callReg _ d a => evenOk d && spairOk a
  | .ret _ a => evenOk a
  | .exit _ | .yield _ | .nop _ => true
  | .brd _ _ _ => true
  | .callFar _ fd => decide (fd.toNat % 8 = 0)
  | .iadd _ ty d a b | .isub _ ty d a b => (tyISZ ty || ty = .b64) && vregOk ty d && vregOk ty a && srcOk ty b
  | .iadds _ ty _ _ b | .imulh _ ty _ _ b | .imin _ ty _ _ b | .imax _ ty _ _ b => tySZ ty && src32Ok b
  | .imul _ ty _ _ b => tyISZ ty && src32Ok b
  | .iand _ ty d a b | .ior _ ty d a b | .ixor _ ty d a b => tyI32B64 ty && vregOk ty d && vregOk ty a && srcOk ty b
  | .ishl _ ty d a b | .ishr _ ty d a b | .isra _ ty d a b => tyI32B64 ty && vregOk ty d && vregOk ty a && src32Ok b
  | .irot _ ty _ _ b => tyI32 ty && src32Ok b
  | .icmp _ ty c a b _ _ => cmpOk ty c && vregOk ty a && srcOk ty b
  | .isel _ ty d a b _ => tyI32B64 ty && vregOk ty d && vregOk ty a && srcOk ty b
  | .iaddImm _ ty d a _ | .isubImm _ ty d a _ => (tyISZ ty || ty = .b64) && vregOk ty d && vregOk ty a
  | .iaddsImm _ ty _ _ _ | .imulhImm _ ty _ _ _ | .iminImm _ ty _ _ _ | .imaxImm _ ty _ _ _ => tySZ ty
  | .imulImm _ ty _ _ _ => tyISZ ty
  | .iandImm _ ty d a _ | .iorImm _ ty d a _ | .ixorImm _ ty d a _ => tyI32B64 ty && vregOk ty d && vregOk ty a
  | .ishlImm _ ty d a imm | .ishrImm _ ty d a imm | .israImm _ ty d a imm =>
      tyI32B64 ty && vregOk ty d && vregOk ty a && shiftImmOk imm
  | .irotImm _ ty _ _ imm => tyI32 ty && shiftImmOk imm
  | .iabs _ ty _ b => ty = .s32 && src32Ok b
  | .ineg _ ty _ b => (tyI32 ty || ty = .s32) && src32Ok b
  | .inot _ ty d b | .imov _ ty d b => tyI32B64 ty && vregOk ty d && srcOk ty b
  | .ipopc _ ty _ b | .iclz _ ty _ b | .ibrev _ ty _ b => tyI32 ty && src32Ok b
  | .imad _ ty _ _ _ _ => tyISZ ty
  | .ibfx _ ty _ _ _ _ => tySZ ty
  | .ibfi _ ty _ _ _ _ => tyI32 ty
  | .idp4 _ ty _ _ _ _ => ty = .s8 || ty = .z8
  | .iaddc _ ty _ _ b _ _ | .isubb _ ty _ _ b _ _ => (tyI32 ty || ty = .z32) && src32Ok b
  | .iaddw _ ty gw _ _ b _ => tyI32 ty && decide (1 ≤ gw.toNat ∧ gw.toNat ≤ 4) && src32Ok b
  | .fadd _ ty _ _ _ b | .fsub _ ty _ _ _ b | .fmul _ ty _ _ _ b => tyF3 ty && src32Ok b
  | .fmin _ ty _ _ b | .fmax _ ty _ _ b => tyF3 ty && src32Ok b
  | .fcmp _ _ _ b _ _ => src32Ok b
  | .fscale _ _ _ _ b => src32Ok b
  | .fabs _ ty _ b | .fneg _ ty _ b => tyF3 ty && src32Ok b
  | .fclass _ _ _ b _ => src32Ok b
  | .frnd _ _ _ b | .fgetexp _ _ b => src32Ok b
  | .fma _ ty _ _ _ _ _ => tyF3 ty
  | .fdot2 _ ty _ _ _ _ _ => ty = .f16 || ty = .bf16
  | .fdot4 _ ty _ _ _ _ _ => ty = .f8a || ty = .f8b
  | .cvt _ ty ts _ _ b => tyCvt ty && tyCvt ts && src32Ok b
  | .cvtq _ ty ts _ _ _ b => tyNarrow ty && ts = .f32 && src32Ok b
  | .cvtdq _ ty ts _ _ _ b => ty = .f32 && tyNarrow ts && src32Ok b
  -- the two registers of a 16-bit type may start anywhere (DESIGN CHOICE, log entry 151)
  | .pack _ ty _ _ => tyNarrow ty
  | .unpk _ ty _ b => tyNarrow ty && src32Ok b
  | .fexp2 _ _ _ | .flog2 _ _ _ | .frcp _ _ _ | .frsqrt _ _ _ | .fsqrt _ _ _ => true
  | .fsin _ _ _ | .fcos _ _ _ | .ftanh _ _ _ | .fsigm _ _ _ | .ferf _ _ _ => true
  | .rstat _ _ d _ _ _ => evenOk d
  | .vote _ d a _ _ => spairOk d && maskOk a
  | .shfl _ ty d a b => tyB ty && vregOk ty d && vregOk ty a && src32Ok b
  | .xred _ ty rm op ud d a b =>
      xopTyOk op ty && xopRmOk op ty rm && (if ud then sregTyOk ty d else vregOk ty d) && maskOk a && srcOk ty b
  | .xscan _ ty rm op _ d a b => xopTyOk op ty && xopRmOk op ty rm && vregOk ty d && maskOk a && srcOk ty b
  | .xmatch _ ty d a b => tyB ty && evenOk d && maskOk a && srcOk ty b
  | .xcomp _ ty d a b _ _ | .xexp _ ty d a b _ _ => tyB ty && vregOk ty d && maskOk a && srcOk ty b
  | .ld _ ty sp cau _ d m | .st _ ty sp cau _ d m => tyMem ty && vregOk ty d && m.ok && (!cau || sp = .g)
  | .ldb _ _ _ bl d m | .stb _ _ _ bl d m =>
      decide (bl.toNat < 3) && decide (d.toNat % (4 * 2 ^ bl.toNat) = 0) && m.ok
  | .atom _ op ty _ d sb _ _ => atomTyOk op ty && (!(ty = .b64 || op = .cas) || evenOk d) && maskOk sb
  | .fence _ _ _ => true
  | .cinvAll _ => true
  | .cinvLine _ m | .cwb _ m | .prf _ m | .prfL2 _ m => m.ok
  | .tld _ _ sb _ _ | .tldi _ _ sb _ _ => maskOk sb
  | .oxip _ ta tb a b _ mreg nk sp =>
      oxPairOk ta tb && sregOk a && sregOk b &&
      (if sp = 0#2 then mreg = 0#4
       else decide (sp.toNat < 3) && decide (mreg.toNat + oxMetaCount ta nk ≤ 16))
  | .oxop _ ta tb a b _ _ _ => oxPairOk ta tb && sregOk a && sregOk b
  | .oxrw _ ta tb a b c acc _ cmp =>
      oxPairOk ta tb && sregOk a && sregOk b && (if cmp then sregOk c && acc = 0#4 else c = 0#10)
  | .accz _ ty _ => ty = .f32 || ty = .s32
  | .accld _ tb a _ => (ty4 tb) && sregOk a
  | .accst _ tb _ d a b c _ sc =>
      tyCvt tb && (decide (d = noField) != decide (a = noField)) && (decide (a = noField) || sregOk a) &&
      (if sc then sregOk b && sregOk c else b = 0#10 && c = 0#10)
  | .accmv _ _ _ => true
  | .ldmeta _ a _ sp => sregOk a && (sp = 1#2 || sp = 2#2)
  | .cp _ a _ | .cpx _ a _ | .cpz _ a _ => sregOk a
  | .cpg _ a b _ | .cps _ a b _ => sregOk a && sregOk b
  | .flsig _ _ named tok tok2 => if named then decide (tok2 ≠ tok) else tok2 = 0#4
  | .tload _ loc a _ => if loc then sregOk a else spairOk a
  | .twait _ _ => true
  | .tpoll _ d _ => sregOk d
  | .bar _ _ | .bara _ _ | .barw _ _ | .sleep _ _ => true
  | .lmark _ _ | .capdrop _ _ => true
  | .capctl _ imm => decide (imm &&& 0xF00FC#20 = 0#20) && decide (4 ≤ (imm.toNat / 256) % 256)
  | .capload _ a _ => spairOk a
  | .capsave _ d a _ => sregOk d && spairOk a
  | .trap _ _ | .brk _ _ | .eret _ => true
  | .mfs _ vec d reg => sysOperandOk vec d reg
  | .mts _ a reg => sysOperandOk false a reg
  | _ => true
where
  /-- Destination types of `accld` (R322). -/
  ty4 (tb : Ty) : Bool := tb = .f32 || tb = .s32 || tb = .f16 || tb = .bf16

end Sys2Proof
end

