-- ==== Sys2Proof/Machine/Operands.lean ====
section
/-! DEFINITION. Operand forms: lanes and guards, vector, uniform and predicate registers, pairs, uniform sources,
immediates, and how each is read and written (R17 to R23, R57 to R63, R82, R83). -/

namespace Sys2Proof.Machine

/-- Bytes of an instruction (R24, R56): 16 for the majors with a second word. -/
def instrBytes : Instr → DWord
  | .sliLong .. | .slih .. | .iliLong .. | .iliB64 .. | .brd .. | .callFar .. => 16
  | .oxip .. | .oxop .. | .oxrw .. | .accz .. | .accld .. | .accst .. | .accmv .. | .ldmeta .. => 16
  | .cp .. | .cpx .. | .cpz .. | .cpg .. | .cps .. | .flsig .. | .tload .. | .twait .. | .tpoll .. => 16
  | _ => 8

/-- Predicate p(n) of every lane; p0 reads true (R18). -/
def getPred (g : Gang) (n : BitVec 4) : LaneMask := if n = 0 then BitVec.allOnes 64 else spGet 0 g.p n.toNat

/-- Write predicate p(n) in the lanes of `m` to `x`; a write to p0 is discarded (R18). -/
def setPred (g : Gang) (n : BitVec 4) (m x : LaneMask) : Gang :=
  if n = 0 then g else { g with p := spSet 0 g.p n.toNat ((spGet 0 g.p n.toNat &&& ~~~m) ||| (x &&& m)) }

/-- The lanes of path `p` whose guard is true (R62, R89). -/
def guardLanes (g : Gang) (p : Path) (gd : Guard) : LaneMask :=
  p.mask &&& (if gd.gn then ~~~(getPred g gd.gp) else getPred g gd.gp)

/-- v(r) of lane l. -/
def getV (g : Gang) (r l : Nat) : Word := spGet 0 g.v (64 * r + l)

/-- The pair v(r):v(r+1) of lane l, v(r) low (R20). -/
def getVV (g : Gang) (r l : Nat) : DWord := getV g (r + 1) l ++ getV g r l

/-- Write v(r) of lane l; a write of the whole word clears its poison mark (R369). -/
def setV (g : Gang) (r l : Nat) (x : Word) : Gang :=
  { g with v := spSet 0 g.v (64 * r + l) x, vpoison := setDel g.vpoison (64 * r + l) }

def setVV (g : Gang) (r l : Nat) (x : DWord) : Gang :=
  setV (setV g r l (x.extractLsb' 0 32)) (r + 1) l (x.extractLsb' 32 32)

/-- s(r). -/
def getS (g : Gang) (r : Nat) : Word := spGet 0 g.s r

/-- The pair s(r):s(r+1), s(r) low (R20). -/
def getSS (g : Gang) (r : Nat) : DWord := getS g (r + 1) ++ getS g r

def setS (g : Gang) (r : Nat) (x : Word) : Gang := { g with s := spSet 0 g.s r x }

def setSS (g : Gang) (r : Nat) (x : DWord) : Gang :=
  setS (setS g r (x.extractLsb' 0 32)) (r + 1) (x.extractLsb' 32 32)

/-- A 64-bit form (R83). -/
def isWide (ty : Ty) : Bool := ty == .b64

/-- A vector operand of type `ty`, zero-extended to 64 bits. -/
def readV (g : Gang) (ty : Ty) (r : Field10) (l : Nat) : DWord :=
  if isWide ty then getVV g r.toNat l else (getV g r.toNat l).setWidth 64

/-- A uniform operand of type `ty`, zero-extended to 64 bits. -/
def readS (g : Gang) (ty : Ty) (r : Field10) : DWord :=
  if isWide ty then getSS g r.toNat else (getS g r.toNat).setWidth 64

/-- A B operand of Format X: vector, or uniform under BU (R82). -/
def readB (g : Gang) (ty : Ty) (b : Src) (l : Nat) : DWord := if b.bu then readS g ty b.b else readV g ty b.b l

/-- A 32-bit B operand. -/
def readB32 (g : Gang) (b : Src) (l : Nat) : Word := if b.bu then getS g b.b.toNat else getV g b.b.toNat l

/-- Write a vector result of type `ty` in lane l (R89 `Write`). -/
def writeV (g : Gang) (ty : Ty) (r : Field10) (l : Nat) (x : DWord) : Gang :=
  if isWide ty then setVV g r.toNat l x else setV g r.toNat l (x.setWidth 32)

/-- Write a uniform result of type `ty`. -/
def writeS (g : Gang) (ty : Ty) (r : Field10) (x : DWord) : Gang :=
  if isWide ty then setSS g r.toNat x else setS g r.toNat (x.setWidth 32)

/-- Run `wr` once for each lane of `m`, in increasing lane order (R8). -/
def forLanes (m : LaneMask) (g : Gang) (wr : Gang → Nat → Gang) : Gang := (lanesOf m).foldl wr g

/-- Write `f l` of type `ty` into v(d) in each lane of `m`; `f` reads the registers as they were (R28). -/
def writeLanes (g : Gang) (ty : Ty) (d : Field10) (m : LaneMask) (f : Nat → DWord) : Gang :=
  forLanes m g (fun acc l => writeV acc ty d l (f l))

/-- Write 32-bit results. -/
def writeLanes32 (g : Gang) (d : Field10) (m : LaneMask) (f : Nat → Word) : Gang :=
  forLanes m g (fun acc l => setV acc d.toNat l (f l))

/-- Set predicate p(n) to `f l` in each lane of `m`. -/
def writePred (g : Gang) (n : BitVec 4) (m : LaneMask) (f : Nat → Bool) : Gang :=
  setPred g n m (maskWhere (fun l => m.getLsbD l && f l))

/-- IMM sign-extended to 64 bits; its low 32 bits are IMM sign-extended to 32 (R85, R90). -/
def immS (imm : Imm20) : DWord := imm.signExtend 64

/-- The vector registers an operand of type `ty` names. -/
def vregs (ty : Ty) (r : Field10) : List Nat := if isWide ty then [r.toNat, r.toNat + 1] else [r.toNat]

/-- The vector registers a B operand names: none when it is uniform. -/
def vregsB (ty : Ty) (b : Src) : List Nat := if b.bu then [] else vregs ty b.b

/-- `n` consecutive vector registers. -/
def vrange (r : Field10) (n : Nat) : List Nat := (List.range n).map (fun i => r.toNat + i)

/-- Width of an integer operand by type (R85). -/
def opWidth (ty : Ty) : Nat := if isWide ty then 64 else 32

/-- Value of an operand read by type: signed for `.s32`, else unsigned. -/
def valOf (ty : Ty) (x : DWord) : Int := if ty = .s32 then (x.setWidth 32).toInt else (x.toNat : Int)

/-- The launch parameter block read at byte `off`; past its end it reads as zero (R87). -/
def paramBytes (g : Gang) (off n : Nat) : Nat := natLE ((g.params.drop off).take n)

end Sys2Proof.Machine
end

