-- ==== Sys2Proof/Machine/Flags.lean ====
section
/-! DEFINITION. Flags and fields of the status registers: FPSTAT (R47), XLCTL (R140), CAPCTL (R170), CAPSTAT (R204), ROUND
(R45), and the integer conditions (R61, R86). -/

namespace Sys2Proof.Machine

/-- OR flags into FPSTAT; every flag is sticky (R32). -/
def raiseFlags (g : Gang) (f : FFlags) : Gang := { g with fpstat := g.fpstat ||| f.setWidth 32 }

/-- The OR of `f l` over the lanes of `m`. -/
def flagsOver (m : LaneMask) (f : Nat → FFlags) : FFlags := (lanesOf m).foldl (fun acc l => acc ||| f l) 0

/-- ROUND.MODE (R45); MODE 5 to 7 is never held (R46). -/
def roundMode (w : Word) : RMode :=
  match (w.extractLsb' 0 3).toNat with
  | 1 => .rz
  | 2 => .rd
  | 3 => .ru
  | 4 => .ro
  | _ => .rne

/-- The mode a rounding selector names (R48). -/
def selMode (g : Gang) : RSel → RMode
  | .dyn => roundMode g.round
  | .rne => .rne
  | .rz => .rz
  | .rd => .rd
  | .ru => .ru
  | .ro => .ro

/-- ROUND.FTZ (R45). -/
def ftzOn (g : Gang) : Bool := g.round.getLsbD 3

/-- `mts` to ROUND: reserved bits are dropped, and MODE 5 to 7 leaves MODE unchanged (R46). -/
def writeRound (old x : Word) : Word :=
  let mode := if (x.extractLsb' 0 3).toNat ≤ 4 then x &&& 7 else old &&& 7
  (x &&& 8) ||| mode

/-- `mts` to CAPCTL: reserved bits are dropped, THRESH below 4 writes 4 (R170). -/
def writeCapctl (x : Word) : Word :=
  let th := (x >>> 8) &&& 0xFF
  ((if th.toNat < 4 then 4 else th) <<< 8) ||| (x &&& 3)

def capThresh (w : Word) : Nat := ((w >>> 8) &&& 0xFF).toNat
def capPre (w : Word) : Bool := w.getLsbD 1
def capEn (w : Word) : Bool := w.getLsbD 0

/-- `mts` to CAPSTAT: ACTIVE is read only, LAST 9 to 15 is not written, reserved bits are dropped (R204). -/
def writeCapstat (old x : Word) : Word :=
  let last := if ((x >>> 12) &&& 0xF).toNat ≤ 8 then x &&& 0xF000 else old &&& 0xF000
  (x &&& 0xFFFF0FE0) ||| last ||| (old &&& 0x10)

/-- Set CAPSTAT.LAST. -/
def setLast (w : Word) (n : Nat) : Word := (w &&& 0xFFFF0FFF) ||| (BitVec.ofNat 32 (n * 0x1000))

/-- Add 1 to an 8-bit CAPSTAT field at `sh`, saturating at 255. -/
def bump8 (w : Word) (sh : Nat) : Word :=
  if ((w >>> sh) &&& 0xFF).toNat = 255 then w else w + BitVec.ofNat 32 (2 ^ sh)

/-- Add 1 to CAPSTAT.REPLAY, saturating at 15. -/
def bumpReplay (w : Word) : Word := if ((w >>> 8) &&& 0xF).toNat = 15 then w else w + 0x100

/-- XLCTL.XLEN and the sticky MISS (R140). -/
def xlen (g : Gang) : Bool := g.xlctl.getLsbD 1
def setMiss (g : Gang) : Gang := { g with xlctl := g.xlctl ||| 1 }

/-- `Cond` on integers (R86): both read by TY. Conditions 6 and 7 are reserved encodings and read false. -/
def condI (c : Cond) (ty : Ty) (a b : DWord) : Bool :=
  let x := valOf ty a
  let y := valOf ty b
  match c with
  | .eq => x == y
  | .ne => x != y
  | .lt => decide (x < y)
  | .le => decide (x ≤ y)
  | .gt => decide (y < x)
  | .ge => decide (y ≤ x)
  | .un | .or => false

end Sys2Proof.Machine
end

