-- ==== Sys2Proof/Machine/Paths.lean ====
section
/-! DEFINITION. The paths of a gang: which are current on which slices, the reconvergence stack, and how advancing,
branching, splitting, waiting and exiting change them (R109, R110, R116 to R119, R151, R363, R364). Every function here
changes only `paths`, `stack`, `exited`, `handler` and `nextPath` of the gang. `now` is the step number, used as age. -/

namespace Sys2Proof.Machine

/-- Lanes of slice i (R114). -/
def sliceLanes (i : Nat) : LaneMask := BitVec.ofNat 64 (0xFFFF * 2 ^ (16 * i))

/-- The slices that hold a lane of `m` (R116). -/
def slicesOf (m : LaneMask) : BitVec 4 :=
  BitVec.ofBool (m &&& sliceLanes 3 != 0) ++ BitVec.ofBool (m &&& sliceLanes 2 != 0) ++
  BitVec.ofBool (m &&& sliceLanes 1 != 0) ++ BitVec.ofBool (m &&& sliceLanes 0 != 0)

/-- Path `id`, if it lives. -/
def findPath (ps : List Path) (id : Nat) : Option Path := ps.find? (fun p => p.id == id)

/-- Change path `id`. -/
def mapPath (ps : List Path) (id : Nat) (f : Path → Path) : List Path := ps.map (fun p => if p.id = id then f p else p)

/-- A path that is current or waits for its slices (R119): it has not stopped at a rejoin and nothing holds it that gives them up (R151). One whose
own access is under way, or that waits for a translation or for the array, keeps its place. -/
def competes (p : Path) : Bool :=
  match p.st with
  | .ready | .mem | .capture | .planeWait | .parked | .streaming => true
  | .atRejoin | .bar _ | .barw _ | .twait _ | .sleep _ _ => false

/-- A path that may become current; in handler mode only paths within H do (R364). -/
def eligible (h : Option HandlerMode) (p : Path) : Bool :=
  competes p && (match h with | none => true | some hm => p.mask &&& ~~~hm.path == 0)

/-- Path `a` is older than `b`: it began to wait earlier; a tie goes to the lower lane (R119). -/
def olderPath (a b : Path) : Bool :=
  decide (a.since < b.since) || (a.since == b.since && decide (lowestLane a.mask < lowestLane b.mask))

/-- The oldest path of a list. -/
def oldestPath : List Path → Option Path
  | [] => none
  | p :: r =>
    match oldestPath r with
    | none => some p
    | some q => some (if olderPath q p then q else p)

/-- The youngest path of a list. -/
def youngestPath : List Path → Option Path
  | [] => none
  | p :: r =>
    match youngestPath r with
    | none => some p
    | some q => some (if olderPath p q then q else p)

/-- A path is current on slice i. -/
def holdsSlice (p : Path) (i : Nat) : Bool := p.onSl.getLsbD i

/-- A path is current on every slice that holds its lanes: it may issue (R119). -/
def fullyCurrent (p : Path) : Bool := slicesOf p.mask &&& ~~~p.onSl == 0

/-- Give slice i to path `id`, taking it from every other path. -/
def giveSlice (ps : List Path) (i id : Nat) : List Path :=
  ps.map (fun p => if p.id = id then { p with onSl := p.onSl ||| BitVec.ofNat 4 (2 ^ i) }
    else { p with onSl := p.onSl &&& ~~~(BitVec.ofNat 4 (2 ^ i)) })

/-- A slice without a current path goes to the oldest waiting path with lanes in it (R119). -/
def fillSlice (h : Option HandlerMode) (ps : List Path) (i : Nat) : List Path :=
  if ps.any (fun p => holdsSlice p i) then ps
  else
    match oldestPath (ps.filter (fun p => eligible h p && (slicesOf p.mask).getLsbD i)) with
    | none => ps
    | some p => giveSlice ps i p.id

def fillSlices (h : Option HandlerMode) (ps : List Path) : List Path :=
  fillSlice h (fillSlice h (fillSlice h (fillSlice h ps 0) 1) 2) 3

/-- Slices that a path can still get: those that nobody holds, and those of a path that lacks none but such slices. -/
def freeingSlices (ps : List Path) : Nat → BitVec 4
  | 0 => ~~~(ps.foldl (fun acc p => acc ||| p.onSl) 0)
  | n + 1 =>
    let f := freeingSlices ps n
    ps.foldl (fun acc p => if slicesOf p.mask &&& ~~~p.onSl &&& ~~~f = 0 then acc ||| p.onSl else acc) f

/-- The partly current paths that block one another: each misses a slice that another of them holds (R119). -/
def blockedPaths (h : Option HandlerMode) (ps : List Path) : List Path :=
  let f := freeingSlices ps 4
  ps.filter (fun p => eligible h p && p.onSl != 0 && slicesOf p.mask &&& ~~~p.onSl &&& ~~~f != 0)

/-- Those of a set of blocked paths that miss a slice another of the set holds, and hold one another of the set misses: a path that holds only
slices that none of the others misses would get them back at once (log entry 133). -/
def crossing (ps : List Path) : List Path :=
  let missed := fun (p : Path) => slicesOf p.mask &&& ~~~p.onSl
  ps.filter (fun p => ps.any (fun q => missed p &&& q.onSl != 0) && ps.any (fun q => missed q &&& p.onSl != 0))

/-- The partly current paths of which each keeps another from a slice: at most four paths hold a slice, so that four rounds leave no other. -/
def knotPaths (h : Option HandlerMode) (ps : List Path) : List Path := crossing (crossing (crossing (crossing (blockedPaths h ps))))

/-- While partly current paths block one another, the youngest of them gives up every slice it holds and begins to wait (R119). -/
def unblock (h : Option HandlerMode) (now : Nat) : Nat → List Path → List Path
  | 0, ps => ps
  | fuel + 1, ps =>
    match youngestPath (knotPaths h ps) with
    | none => ps
    | some y => unblock h now fuel (fillSlices h (mapPath ps y.id (fun p => { p with onSl := 0, since := now })))

/-- Rounds after which no path of a gang blocks another: each of 64 paths comes to wait anew at most once, and between two such rounds each of
four slices passes to an older path at most 64 times. -/
def unblockRounds : Nat := 64 * 257

/-- The stack entries a path may stop at: in handler mode only those above the depth at entry (R364). -/
def openEntries (h : Option HandlerMode) (st : List StackEntry) : List StackEntry :=
  match h with
  | none => st
  | some hm => st.take (st.length - hm.depth)

/-- The innermost entry that a set of lanes belongs to (R109). -/
def innermost (es : List StackEntry) (m : LaneMask) : Option StackEntry := es.find? (fun e => e.members &&& m != 0)

/-- Path `p` stands at the rejoin of its innermost entry (R109). -/
def atItsRejoin (es : List StackEntry) (p : Path) : Bool :=
  match innermost es p.mask with
  | none => false
  | some e => e.rejoin == p.pc

/-- A ready path at the rejoin of its innermost entry stops there before issue and gives up its slices (R109, R119). -/
def stopAtRejoin (es : List StackEntry) (p : Path) : Path :=
  if p.st = .ready ∧ atItsRejoin es p then { p with st := .atRejoin, onSl := 0 } else p

/-- The paths stopped at entry `e`: those within it whose innermost entry it is. `inner` are the entries pushed later. -/
def arrivedAt (inner : List StackEntry) (e : StackEntry) (ps : List Path) : List Path :=
  ps.filter (fun p => p.st == .atRejoin && p.pc == e.rejoin && p.mask &&& ~~~e.members == 0 &&
    inner.all (fun x => x.members &&& p.mask == 0))

/-- Entry `e` is complete: every member has arrived or exited (R109). -/
def entryComplete (inner : List StackEntry) (e : StackEntry) (exited : LaneMask) (ps : List Path) : Bool :=
  e.members &&& ~~~((arrivedAt inner e ps).foldl (fun acc p => acc ||| p.mask) exited) == 0

/-- The first complete entry of a list of open entries, with the entries inside it. -/
def firstComplete (exited : LaneMask) (ps : List Path) : List StackEntry → List StackEntry → Option (List StackEntry × StackEntry × List StackEntry)
  | _, [] => none
  | inner, e :: r =>
    if entryComplete inner e exited ps then some (inner, e, r) else firstComplete exited ps (inner ++ [e]) r

/-- Pop every complete entry (R109): the arrived paths become one path of the surviving members, current on all its
slices (R119), and a path at the rejoin of its next entry stops again. -/
def popEntries (h : Option HandlerMode) (exited : LaneMask) (now : Nat) : Nat → List Path × List StackEntry → List Path × List StackEntry
  | 0, x => x
  | fuel + 1, (ps, st) =>
    let es := openEntries h st
    match firstComplete exited ps [] es with
    | none => (ps, st)
    | some (inner, e, r) =>
      let got := arrivedAt inner e ps
      let rest := ps.filter (fun p => !(got.any (fun q => q.id == p.id)))
      let st' := inner ++ r ++ st.drop es.length
      let live := e.members &&& ~~~exited
      match got with
      | [] => popEntries h exited now fuel (rest, st')
      | q :: _ =>
        let sl := slicesOf live
        let displaced := rest.map (fun p =>
          if p.onSl &&& sl = 0 then p
          else { p with onSl := p.onSl &&& ~~~sl, since := now })
        let merged : Path := { id := q.id, pc := e.rejoin, mask := live, st := .ready, since := now, onSl := sl }
        let es' := inner ++ r
        popEntries h exited now fuel (stopAtRejoin es' merged :: displaced, st')

/-- Bring the paths and the stack to rest after a change: stop at rejoins, pop, give free slices away, unblock. -/
def settled (h : Option HandlerMode) (exited : LaneMask) (now : Nat) (ps : List Path) (st : List StackEntry) :
    List Path × List StackEntry :=
  let ps1 := ps.map (stopAtRejoin (openEntries h st))
  let (ps2, st2) := popEntries h exited now (st.length + 1) (ps1, st)
  (unblock h now unblockRounds (fillSlices h ps2), st2)

/-- Handler mode ends when every lane of H has exited (R364). -/
def handlerAfter (h : Option HandlerMode) (exited : LaneMask) : Option HandlerMode :=
  match h with
  | some hm => if hm.path &&& ~~~exited == 0 then none else some hm
  | none => none

/-- Bring a gang to rest. -/
def settle (g : Gang) (now : Nat) : Gang :=
  let r := settled g.handler g.exited now g.paths g.stack
  { g with paths := r.1, stack := r.2 }

/-- Path `id` stands at `pc`; the gang has still to be brought to rest. -/
def movePath (g : Gang) (id : Nat) (pc : DWord) : Gang := { g with paths := mapPath g.paths id (fun p => { p with pc := pc }) }

/-- Path `id` goes past its instruction of `n` bytes (R24). -/
def advance (g : Gang) (id : Nat) (n : DWord) (now : Nat) : Gang :=
  settle { g with paths := mapPath g.paths id (fun p => { p with pc := p.pc + n }) } now

/-- Slice i of path `p` goes to the oldest path waiting there (R119, a backward transfer or `yield`). -/
def handOver (h : Option HandlerMode) (id : Nat) (ps : List Path) (i : Nat) : List Path :=
  match findPath ps id with
  | none => ps
  | some p =>
    if !(slicesOf p.mask).getLsbD i then ps
    else
      match oldestPath (ps.filter (fun q => q.id != id && eligible h q && (slicesOf q.mask).getLsbD i && !holdsSlice q i)) with
      | none => ps
      | some q => giveSlice ps i q.id

/-- `yield` or a backward transfer of path `id`: on each of its slices the oldest other waiting path becomes current, and
the path begins to wait if it gave a slice away (R119). -/
def yieldSlices (g : Gang) (id : Nat) (now : Nat) : Gang :=
  let ps := handOver g.handler id (handOver g.handler id (handOver g.handler id (handOver g.handler id g.paths 0) 1) 2) 3
  let gave := match findPath g.paths id, findPath ps id with
    | some a, some b => a.onSl != b.onSl
    | _, _ => false
  settle { g with paths := if gave then mapPath ps id (fun p => { p with since := now }) else ps } now

/-- Path `id`, past its instruction of `n` bytes, is held in state `st` and gives up its slices (R151). -/
def holdPath (g : Gang) (id : Nat) (n : DWord) (st : PathSt) (now : Nat) : Gang :=
  settle { g with paths := mapPath g.paths id (fun p => { p with pc := p.pc + n, st := st, onSl := 0, since := now }) } now

/-- Path `id` waits as an operand dependence and keeps its slices (R264). -/
def waitPath (g : Gang) (id : Nat) (st : PathSt) : Gang :=
  { g with paths := mapPath g.paths id (fun p => { p with st := st }) }

/-- Held paths become waiting paths whose age is now, all at once (R151). -/
def wakePaths (g : Gang) (held : Path → Bool) (now : Nat) : Gang :=
  settle { g with paths := g.paths.map (fun p => if held p then { p with st := .ready, since := now } else p) } now

/-- A held path becomes a waiting path whose age is now (R151). -/
def wakePath (g : Gang) (id : Nat) (now : Nat) : Gang := wakePaths g (fun p => p.id == id) now

/-- `brd` splits path `id` into T, current in its place at `tgt`, and F, waiting at `next` (R109, R119); the gang has still to be brought to
rest. -/
def splitPath (g : Gang) (id : Nat) (t f : LaneMask) (tgt next rejoin : DWord) (now : Nat) : Gang :=
  let ps := mapPath g.paths id (fun p => { p with pc := tgt, mask := t, onSl := p.onSl &&& slicesOf t })
  let fp : Path := { id := g.nextPath, pc := next, mask := f, st := .ready, since := now, onSl := 0 }
  { g with paths := ps ++ [fp], stack := ⟨rejoin, t ||| f⟩ :: g.stack, nextPath := g.nextPath + 1 }

/-- `exit` ends lanes `m` of path `id`; the lanes that stay go to `next` (R110). -/
def exitLanes (g : Gang) (id : Nat) (m : LaneMask) (next : DWord) (now : Nat) : Gang :=
  let ps := (mapPath g.paths id (fun p => { p with mask := p.mask &&& ~~~m, pc := next, onSl := p.onSl &&& slicesOf (p.mask &&& ~~~m) })).filter
    (fun p => p.mask != 0)
  let ex := g.exited ||| m
  settle { g with paths := ps, exited := ex, handler := handlerAfter g.handler ex } now

/-- Rank-1 entry of path `id` at `pc` (R363): every other path waits, unchanged. -/
def enterHandlerPath (g : Gang) (id : Nat) (pc : DWord) (now : Nat) : Gang :=
  match findPath g.paths id with
  | none => g
  | some p =>
    { g with
      handler := some ⟨p.mask, g.stack.length⟩
      paths := g.paths.map (fun q =>
        if q.id = id then { q with pc := pc, onSl := slicesOf q.mask, st := .ready }
        else { q with onSl := 0, since := if q.onSl = 0 then q.since else now }) }

/-- The handler path leaves handler mode for `pc`; the waiting paths take part again (R374). -/
def leaveHandler (g : Gang) (id : Nat) (pc : DWord) (now : Nat) : Gang :=
  settle { g with handler := none, paths := mapPath g.paths id (fun p => { p with pc := pc }) } now

/-- All lanes of the gang have exited (R122). -/
def gangEnded (g : Gang) : Bool := g.paths.isEmpty

/-- Every lane of the gang (R114). -/
def gangLanes (g : Gang) : LaneMask := lowLanes g.kd.gangw

end Sys2Proof.Machine
end

