-- ==== Sys2Proof/Machine/Ops.lean ====
section
/-! DEFINITION. Named operations over the state that instructions share: records, taking a trap and returning from one, the
frames of an issuing instruction (R22, R23, R66, R105), and the loop monitor (R169). -/

namespace Sys2Proof.Machine

/-- The outcome type of every meaning. -/
abbrev Out := Host.Outcome State Fault Refusal

/-- Look a record up by number. -/
def look {α : Type} : List (Nat × α) → Nat → Option α
  | [], _ => none
  | (i, x) :: r, k => if k = i then some x else look r k

/-- Store a record by number, in place or in front. -/
def store {α : Type} : List (Nat × α) → Nat → α → List (Nat × α)
  | [], k, x => [(k, x)]
  | (i, y) :: r, k, x => if k = i then (i, x) :: r else (i, y) :: store r k x

/-- Remove a record. -/
def forget {α : Type} (m : List (Nat × α)) (k : Nat) : List (Nat × α) := m.filter (fun e => e.1 ≠ k)

def State.gang (s : State) (id : Nat) : Option Gang := look s.gangs id
def State.putGang (s : State) (id : Nat) (g : Gang) : State := { s with gangs := store s.gangs id g }
def State.cohort (s : State) (id : Nat) : Option Cohort := look s.cohorts id
def State.putCohort (s : State) (id : Nat) (c : Cohort) : State := { s with cohorts := store s.cohorts id c }

/-- Key of a core in `cores`. -/
def coreKey (die core : Nat) : Nat := 256 * die + core
def State.coreAt (s : State) (die core : Nat) : Core := spGet Core.reset s.cores (coreKey die core)
def State.putCore (s : State) (die core : Nat) (c : Core) : State :=
  { s with cores := spSet Core.reset s.cores (coreKey die core) c }

/-- The gang and path that issue in this step. -/
def State.issuing (s : State) : Option (Nat × Gang × Path) :=
  match s.cur with
  | none => none
  | some (gi, pi) =>
    match s.gang gi with
    | none => none
    | some g =>
      match findPath g.paths pi with
      | none => none
      | some p => some (gi, g, p)

-- Causes of R359
def cILLOP : Word := 0x01
def cPRIV : Word := 0x02
def cALIGN : Word := 0x03
def cPAGE : Word := 0x04
def cPROT : Word := 0x05
def cPOISON : Word := 0x06
def cXLMISS : Word := 0x07
def cMXMETA : Word := 0x08
def cBARR : Word := 0x09
def cTOKEN : Word := 0x0A
def cENGINE : Word := 0x0B
def cCAUSAL : Word := 0x0C
def cSWTRAP : Word := 0x10
def cBRK : Word := 0x11

/-- A trap of path `p` at its PC (R359). -/
def trapAt (p : Path) (cause : Word) (addr : DWord) (lanes : LaneMask) (info : Word) : TrapInfo :=
  ⟨cause, p.pc, addr, lanes, info⟩

/-- A trap of the gang as a whole: TLANES holds every active lane of the issuing path (R359). -/
def trapAll (p : Path) (cause : Word) (addr : DWord) (info : Word) : TrapInfo := trapAt p cause addr p.mask info

/-- The trap-state registers as one value (R365). -/
def trapState (g : Gang) : TrapInfo := ⟨g.tcause, g.tpc, g.taddr, g.tlanes, g.tinfo⟩

/-- Virtual address of a byte offset in the kernel's text segment (R363, R74). -/
def segAddr (k : Kernel) (off : Nat) : DWord := k.base + BitVec.ofNat 64 off

/-- Rank-1 entry (R363): the five registers are written and the trapping path goes to the handler; an instruction of another path that waits for
a translation will begin anew. PC[2:0] is zero (R24), whatever offset an
unverified segment names (R81). -/
def enterHandler (g : Gang) (id : Nat) (off : Nat) (t : TrapInfo) (now : Nat) : Gang :=
  let g1 := { g with tcause := t.cause, tpc := t.pc, taddr := t.addr, tlanes := t.lanes, tinfo := t.info, xc := Xc.empty, engaged := none, fetching := none }
  enterHandlerPath g1 id (segAddr g.kd (off / 8 * 8)) now

/-- A trap for rank 2: the gang stops at its instruction with its state as at the trap, and the record that rank 2 will
write is kept, with the state rank 1 was handling (R365, R366). -/
def escalate (g : Gang) (t : TrapInfo) : Gang :=
  { g with pending := g.pending ++ [(t, if g.handler.isSome then some (trapState g) else none)], stopped := true }

/-- ENGINE reports of the tokens in FAULT that no `twait` of an ended gang will meet (R122, R337). TPC is the command's address (DESIGN CHOICE,
log entry 112: R338 names only the instruction that reports). -/
def lateFaults (g : Gang) : List (TrapInfo × Option TrapInfo) :=
  (g.tokens.filter (fun t => t.st == .fault)).map (fun t => (⟨cENGINE, t.pc, t.addr, t.lanes, t.info⟩, none))

/-- A gang whose last lane has exited leaves its tokens' faults to rank 2 (R122). -/
def reportLate (g : Gang) : Gang := if gangEnded g then { g with pending := g.pending ++ lateFaults g } else g

/-- Take a trap (R363, R365): rank 1 when the kernel has a handler and the gang is not in it, else rank 2. -/
def takeTrapGang (g : Gang) (id : Nat) (t : TrapInfo) (now : Nat) : Gang :=
  match g.kd.handler, g.handler with
  | some off, none => enterHandler g id off t now
  | _, _ => escalate g t

def State.trap (s : State) (gi : Nat) (g : Gang) (p : Path) (t : TrapInfo) : State :=
  s.putGang gi (takeTrapGang g p.id t s.seq)

/-- Return from a rank-1 handler to TPC (R374): the path goes there and the gang leaves handler mode. -/
def leaveTrap (g : Gang) (id : Nat) (now : Nat) : Gang := leaveHandler g id g.tpc now

/-- What an instruction does to its gang: change it, trap, or wait for an operand (R134). -/
inductive GRes where
  | ok (g : Gang)
  | trap (t : TrapInfo)
  | stall
  deriving DecidableEq, Repr

/-- ILLOP of R19 and R65. -/
def illop (p : Path) : TrapInfo := trapAll p cILLOP 0 0

/-- The first poisoned register that the lanes of `m` read, in operand order (R369). -/
def poisonedRead (g : Gang) (m : LaneMask) : List Nat → Option (Nat × LaneMask)
  | [] => none
  | r :: rs =>
    let hit := maskWhere (fun l => m.getLsbD l && g.vpoison.contains (64 * r + l))
    if hit = 0 then poisonedRead g m rs else some (r, hit)

/-- POISON of a vector register word (R359, R360). -/
def regPoison (p : Path) (r : Nat) (hit : LaneMask) : TrapInfo := trapAt p cPOISON (BitVec.ofNat 64 r) hit 0x10

/-- The vector registers that a queued register-form `accst` of the gang will write (R324). -/
def drainRegs (e : OxEntry) : List Nat :=
  match e.instr with
  | .accst _ _ _ d _ _ _ _ _ => if d = 0x3FF#10 then [] else (List.range 16).map (fun i => d.toNat + i)
  | _ => []

/-- An operand of the gang waits for a drain in the Ox queue (R134, R324). -/
def drainHolds (s : State) (gi : Nat) (g : Gang) (vr : List Nat) : Bool :=
  (s.coreAt g.die g.core).oxq.any fun e => e.gang == gi && (drainRegs e).any (fun r => vr.contains r)

/-- The frame of every instruction of the set: the issuing path, and the checks of R65 and R19 made for the gang as a
whole before any guard (R66). `vr` are the vector registers it names; `extra` its further register limits (R63). An instruction
that names a register of a drain in progress waits (R324). -/
def issueChecked (i : Instr) (vr : List Nat) (extra : Kernel → Bool) (s : State)
    (k : Nat → Gang → Path → Out) : Out :=
  match s.issuing with
  | none => .fault .noIssuingPath
  | some (gi, g, p) =>
    if i.wf && vr.all (fun r => decide (r < g.kd.regs)) && extra g.kd then
      if drainHolds s gi g vr then .next s else k gi g p
    else .next (s.trap gi g p (illop p))

/-- Put a result back: the path goes past the instruction, traps, or waits. -/
def finish (s : State) (gi : Nat) (g : Gang) (p : Path) (n : DWord) : GRes → Out
  | .ok g' => .next (s.putGang gi (advance g' p.id n s.seq))
  | .trap t => .next (s.trap gi g p t)
  | .stall => .next s

/-- A scalar instruction runs once when its guard holds in an active lane (R22). -/
def scalarInstr (i : Instr) (gd : Guard) (s : State) (f : Gang → Gang) : Out :=
  issueChecked i [] (fun _ => true) s fun gi g p =>
    finish s gi g p (instrBytes i) (.ok (if guardLanes g p gd = 0 then g else f g))

/-- An instruction taken once for the issuing path (R105); `f` may trap or wait. -/
def pathInstr (i : Instr) (gd : Guard) (vr : List Nat) (extra : Kernel → Bool) (s : State)
    (f : Gang → Path → GRes) : Out :=
  issueChecked i vr extra s fun gi g p =>
    finish s gi g p (instrBytes i) (if guardLanes g p gd = 0 then .ok g else f g p)

/-- A vector instruction acts in the lanes whose guard is true (R23). `rd` are the vector registers it reads, in operand
order, `wr` those it writes; a poisoned word read in such a lane raises POISON (R369). -/
def vectorInstr (i : Instr) (gd : Guard) (rd wr : List Nat) (s : State) (f : Gang → Path → LaneMask → GRes) : Out :=
  issueChecked i (rd ++ wr) (fun _ => true) s fun gi g p =>
    let m := guardLanes g p gd
    finish s gi g p (instrBytes i)
      (match poisonedRead g m rd with
       | some (r, hit) => .trap (regPoison p r hit)
       | none => f g p m)

/-- The first placement of a core with a key (R194). -/
def findSlot (c : Core) (head : DWord) (asid : Nat) : Option Slot :=
  match c.slots.find? (fun x => match x with | some sl => sl.head == head && sl.asid == asid | none => false) with
  | some (some sl) => some sl
  | _ => none

/-- The monitor requests the placer for `h` (R169) unless the core holds the placement, has refused the loop, or its
placer is busy (R171). -/
def requestPlacer (c : Core) (gi : Nat) (g : Gang) (h : DWord) (last : Option DWord) : Core :=
  if capEn g.capctl && decide (capThresh g.capctl ≤ g.count) && (findSlot c h g.kd.asid).isNone
      && !c.refused.contains (h, g.kd.asid) && c.placer.isNone then
    { c with placer := some ⟨gi, g.kd.asid, h, last⟩ }
  else c

/-- HEAD and COUNT after a taken backward transfer to `h` (R169); nothing is counted in handler mode (R364). -/
def monitorCount (g : Gang) (h : DWord) : Gang :=
  if g.handler.isSome then g
  else if g.head = h then { g with count := min (g.count + 1) 255 }
  else { g with head := h, count := 1 }

/-- Path `id` of gang `gi` has moved from `pc` to `tgt` and the gang comes to rest. A transfer whose target is not above its own address is
counted by the monitor and first hands the slices over (R119, R169). `g` is the moved gang. -/
def afterTransfer (s : State) (gi : Nat) (g : Gang) (id : Nat) (pc tgt : DWord) : State :=
  if pc.toNat < tgt.toNat then s.putGang gi (settle g s.seq)
  else
    let g1 := monitorCount g tgt
    let c := s.coreAt g.die g.core
    let s1 := if g.handler.isSome then s else s.putCore g.die g.core (requestPlacer c gi g1 tgt (some pc))
    s1.putGang gi (yieldSlices g1 id s.seq)

/-- Take a transfer of path `p` to `tgt` (R105). -/
def takeTransfer (s : State) (gi : Nat) (g : Gang) (p : Path) (tgt : DWord) : State :=
  afterTransfer s gi (movePath g p.id tgt) p.id p.pc tgt

/-- `WindowLess16` (R50). -/
def windowLess16 (a b : BitVec 16) : Bool := decide (1 ≤ (b - a).toNat) && decide ((b - a).toNat ≤ 2 ^ 15 - 1)

/-- The later of two entries under `WindowLess16` (R422). -/
def later16 (a b : BitVec 16) : BitVec 16 := if windowLess16 a b then b else a

/-- Merge two vectors, entry by entry (R422). -/
def mergeCV : CVec → CVec → CVec
  | a :: x, b :: y => later16 a b :: mergeCV x y
  | x, [] => x
  | [], y => y

/-- Flash invalidation of a core's L1 (R226): every line is dropped, and fills already requested are not kept. -/
def flashL1 (s : State) (die core : Nat) : State :=
  let c := s.coreAt die core
  s.putCore die core { c with l1 := [], l1Epoch := c.l1Epoch + 1 }

/-- The operation of path `id` that is in flight. -/
def opOf (g : Gang) (id : Nat) : Option MemOp := g.ops.find? (fun o => o.path == id)

/-- Keep an operation: in the place of the one of its path, or last. -/
def putOp (g : Gang) (op : MemOp) : Gang :=
  { g with ops := if (opOf g op.path).isSome then g.ops.map (fun o => if o.path = op.path then op else o) else g.ops ++ [op] }

/-- The operation of path `id` is over. -/
def dropOp (g : Gang) (id : Nat) : Gang := { g with ops := g.ops.filter (fun o => o.path ≠ id) }

/-- Every answer to an operation is in. -/
def answered (op : MemOp) : Bool := op.waits.isEmpty && op.unsent.isEmpty

/-- Another path of the gang has an operation in flight that `f` picks. -/
def otherOp (g : Gang) (id : Nat) (f : MemOp → Bool) : Bool := g.ops.any (fun o => o.path != id && f o)

/-- The gang has an ordered store or atomic that is not delivered yet (the G action, R262). -/
def undelivered (g : Gang) : Bool := g.outst.any (fun o => !o.bulk)

/-- A word of a segment is an instruction start (R79, R81). -/
def isStart (s : State) (asid : Nat) (a : DWord) : Bool :=
  s.segments.any fun sg =>
    let off := (a - sg.base).toNat
    sg.asid == asid && decide (off < 8 * sg.words) && (sg.unverified || (off % 8 == 0 && sg.starts.contains (off / 8)))

/-- Inside the code range of the running kernel (R80). -/
def inCodeRange (k : Kernel) (a : DWord) : Bool := decide ((a - segAddr k k.entry).toNat < k.codeSize)

/-- The checks on a register target: ALIGN (R26), then ILLOP with TINFO 1 (R80). -/
def targetTrap (s : State) (g : Gang) (p : Path) (a : DWord) : Option TrapInfo :=
  if a &&& 7 != 0 then some (trapAll p cALIGN a 0)
  else if inCodeRange g.kd a && isStart s g.kd.asid a then none
  else some (trapAll p cILLOP a 1)

end Sys2Proof.Machine
end

