-- ==== Sys2Proof/Machine/Control.lean ====
section
/-! DEFINITION. The control-flow instructions (R105 to R112). The guard of each but `brd`, `exit` and `nop` is taken once
for the issuing path. -/

namespace Sys2Proof.Machine

/-- PC + 8 × DISP (R106). -/
def dispTarget (p : Path) (disp : BitVec 30) : DWord := p.pc + (disp.signExtend 64 <<< 3)

/-- The frame of a transfer: when the guard fails the PC advances and nothing else happens (R105). `f` answers the changed
gang and the target, or a trap; no target means the PC advances. -/
def transferInstr (i : Instr) (gd : Guard) (vr : List Nat) (rd : List Nat) (s : State)
    (f : Gang → Path → Except TrapInfo (Gang × Option DWord)) : Out :=
  issueChecked i vr (fun _ => true) s fun gi g p =>
    if guardLanes g p gd = 0 then finish s gi g p (instrBytes i) (.ok g)
    else
      match poisonedRead g p.mask rd with
      | some (r, hit) => .next (s.trap gi g p (regPoison p r hit))
      | none =>
        match f g p with
        | .error t => .next (s.trap gi g p t)
        | .ok (g', none) => finish s gi g p (instrBytes i) (.ok g')
        | .ok (g', some tgt) => .next (takeTransfer s gi g' p tgt)

/-- Check a register target before anything is written (R26, R80, R107). -/
def checkedTarget (s : State) (g : Gang) (p : Path) (a : DWord) (g' : Gang) : Except TrapInfo (Gang × Option DWord) :=
  match targetTrap s g p a with
  | some t => .error t
  | none => .ok (g', some a)

/-- The link pair of a call: the address of the next instruction in every active lane of the path (R107). -/
def writeLink (g : Gang) (p : Path) (d : Field10) (n : DWord) : Gang :=
  writeLanes g .b64 d p.mask fun _ => p.pc + n

/-- `jmp` (R106). -/
def execJmp (gd : Guard) (disp : BitVec 30) (s : State) : Out :=
  transferInstr (.jmp gd disp) gd [] [] s fun g p => .ok (g, some (dispTarget p disp))

/-- `bru` (R106): taken when s(A) ≠ 0. -/
def execBru (gd : Guard) (a : Field10) (disp : BitVec 30) (s : State) : Out :=
  transferInstr (.bru gd a disp) gd [] [] s fun g p =>
    .ok (g, if getS g a.toNat ≠ 0 then some (dispTarget p disp) else none)

/-- `lpb` (R106): decrement, then branch while the new value is nonzero. -/
def execLpb (gd : Guard) (a : Field10) (disp : BitVec 30) (s : State) : Out :=
  transferInstr (.lpb gd a disp) gd [] [] s fun g p =>
    let x := getS g a.toNat - 1
    .ok (setS g a.toNat x, if x ≠ 0 then some (dispTarget p disp) else none)

/-- `call`, displacement form (R107). -/
def execCall (gd : Guard) (a : Field10) (disp : BitVec 30) (s : State) : Out :=
  transferInstr (.call gd a disp) gd (vregs .b64 a) [] s fun g p =>
    .ok (writeLink g p a 8, some (dispTarget p disp))

/-- `brx` (R106, R26, R80). -/
def execBrx (gd : Guard) (a : Field10) (s : State) : Out :=
  transferInstr (.brx gd a) gd [] [] s fun g p => checkedTarget s g p (getSS g a.toNat) g

/-- `call` through a register (R107): the target is checked before anything is written. -/
def execCallReg (gd : Guard) (d a : Field10) (s : State) : Out :=
  transferInstr (.callReg gd d a) gd (vregs .b64 d) [] s fun g p =>
    checkedTarget s g p (getSS g a.toNat) (writeLink g p d 8)

/-- `ret` (R108): every lane goes to the pair of the lowest-numbered active lane. -/
def execRet (gd : Guard) (a : Field10) (s : State) : Out :=
  issueChecked (.ret gd a) (vregs .b64 a) (fun _ => true) s fun gi g p =>
    if guardLanes g p gd = 0 then finish s gi g p 8 (.ok g)
    else
      match poisonedRead g (laneBit (lowestLane p.mask)) (vregs .b64 a) with
      | some (r, hit) => .next (s.trap gi g p (regPoison p r hit))
      | none =>
        match checkedTarget s g p (getVV g a.toNat (lowestLane p.mask)) g with
        | .error t => .next (s.trap gi g p t)
        | .ok (_, none) => finish s gi g p 8 (.ok g)
        | .ok (g', some tgt) => .next (takeTransfer s gi g' p tgt)

/-- `call`, far form (R107): links into v0:v1. -/
def execCallFar (gd : Guard) (fd : DWord) (s : State) : Out :=
  transferInstr (.callFar gd fd) gd [0, 1] [] s fun g p => .ok (writeLink g p 0 16, some (p.pc + fd))

/-- `yield` (R111, R119): the slices go to the oldest waiting paths. -/
def execYield (gd : Guard) (s : State) : Out :=
  issueChecked (.yield gd) [] (fun _ => true) s fun gi g p =>
    if guardLanes g p gd = 0 then finish s gi g p 8 (.ok g)
    else .next (s.putGang gi (yieldSlices (movePath g p.id (p.pc + 8)) p.id s.seq))

/-- `nop` (R106). -/
def execNop (gd : Guard) (s : State) : Out :=
  issueChecked (.nop gd) [] (fun _ => true) s fun gi g p => finish s gi g p 8 (.ok g)

/-- `brd` (R109, R118): split the active lanes by their guards. -/
def execBrd (gd : Guard) (disp rej : BitVec 30) (s : State) : Out :=
  issueChecked (.brd gd disp rej) [] (fun _ => true) s fun gi g p =>
    let t := guardLanes g p gd
    let f := p.mask &&& ~~~t
    if t = 0 then finish s gi g p 16 (.ok g)
    else if f = 0 then .next (takeTransfer s gi g p (dispTarget p disp))
    else if 32 ≤ g.stack.length then .next (s.trap gi g p (trapAll p cILLOP 0 0x20))
    else
      .next (afterTransfer s gi (splitPath g p.id t f (dispTarget p disp) (p.pc + 16) (dispTarget p rej) s.seq) p.id p.pc
        (dispTarget p disp))

end Sys2Proof.Machine
end

