-- ==== Sys2Proof/Machine/Float.lean ====
section
/-! DEFINITION. Vector floating point and conversions (R98 to R104), over the exact arithmetic of Formats. -/

namespace Sys2Proof.Machine

/-- The element format of a float TY (R98). -/
def fmtOf : Ty → Fmt
  | .f16 => fmtF16
  | .bf16 => fmtBF16
  | .f8a => fmtF8A
  | .f8b => fmtF8B
  | _ => fmtF32

/-- Run an operation on each element of a register: one F32, or the two halves of a packed type (R40, R98). The flags of
both elements are combined by OR (R84). -/
def perElem (ty : Ty) (op : Fmt → Nat → Nat → Nat → Nat × FFlags) (a b c : Word) : Word × FFlags :=
  if ty = .f32 then
    let r := op fmtF32 a.toNat b.toNat c.toNat
    (BitVec.ofNat 32 r.1, r.2)
  else
    let F := fmtOf ty
    let lo := op F (elemOf 16 0 a.toNat) (elemOf 16 0 b.toNat) (elemOf 16 0 c.toNat)
    let hi := op F (elemOf 16 1 a.toNat) (elemOf 16 1 b.toNat) (elemOf 16 1 c.toNat)
    (BitVec.ofNat 32 (lo.1 + hi.1 * 2 ^ 16), lo.2 ||| hi.2)

/-- Round(a + b), or Round(a − b) with `sub` (R98). -/
def fpAdd (mode : RMode) (ftz sub : Bool) (F : Fmt) (a b _c : Nat) : Nat × FFlags :=
  let (x, f1) := decodeF F ftz a
  let (y, f2) := decodeF F ftz b
  let (z, f3) := xSum mode [x, if sub then xNeg y else y]
  let (r, f4) := roundF F mode ftz z
  (r, f1 ||| f2 ||| f3 ||| f4)

/-- Round(a × b) (R98). -/
def fpMul (mode : RMode) (ftz : Bool) (F : Fmt) (a b _c : Nat) : Nat × FFlags :=
  let (x, f1) := decodeF F ftz a
  let (y, f2) := decodeF F ftz b
  let (z, f3) := xMul x y
  let (r, f4) := roundF F mode ftz z
  (r, f1 ||| f2 ||| f3 ||| f4)

/-- Round(a × b + c), exact before one rounding (R98). -/
def fpFma (mode : RMode) (ftz : Bool) (F : Fmt) (a b c : Nat) : Nat × FFlags :=
  let (x, f1) := decodeF F ftz a
  let (y, f2) := decodeF F ftz b
  let (z, f3) := decodeF F ftz c
  let (m, f4) := xMul x y
  let (t, f5) := xSum mode [m, z]
  let (r, f6) := roundF F mode ftz t
  (r, f1 ||| f2 ||| f3 ||| f4 ||| f5 ||| f6)

/-- |b| or −b: only the sign bit changes; a NaN gives the canonical NaN; under FTZ a subnormal gives zero with the sign of
the operation; no flag (R98). -/
def fpSign (ftz neg : Bool) (F : Fmt) (a _b _c : Nat) : Nat × FFlags :=
  let (x, _) := decodeF F ftz a
  ((roundF F .rne false (if neg then xNeg x else xAbs x)).1, 0)

/-- Round(a × 2^n) (R98); ±0 and ±∞ pass through. -/
def fpScale (mode : RMode) (ftz : Bool) (a b : Word) : Word × FFlags :=
  let (x, f1) := decodeF fmtF32 ftz a.toNat
  let (r, f2) := match x with
    | .fin s m e => roundF fmtF32 mode ftz (.fin s m (e + b.toInt))
    | _ => roundF fmtF32 mode ftz x
  (BitVec.ofNat 32 r, f1 ||| f2)

/-- The F32 code of RoundInt(b, mode); PE when it differs from b (R98). -/
def fpRoundInt (mode : RMode) (ftz : Bool) (b : Word) : Word × FFlags :=
  let (x, f1) := decodeF fmtF32 ftz b.toNat
  match x with
  | .fin s m e =>
    let (v, exact) := roundInt mode s m e
    (BitVec.ofNat 32 (roundF fmtF32 .rne false (.fin s v.natAbs 0)).1, f1 ||| flagIf (!exact) fPE)
  | _ => (BitVec.ofNat 32 (roundF fmtF32 mode ftz x).1, f1)

/-- `fgetexp` (R102). -/
def fpGetExp (ftz : Bool) (b : Word) : Word × FFlags :=
  match (decodeF fmtF32 ftz b.toNat).1 with
  | .nan => (0x80000000, fNV)
  | .inf _ => (0x7FFFFFFF, fNV)
  | .fin _ m e => if m = 0 then (0x80000000, fDZ) else (BitVec.ofInt 32 ((m.log2 : Int) + e), 0)

/-- The class bit of a code (R101). -/
def fpClass (ftz : Bool) (a : Word) : Word :=
  let neg := a.getLsbD 31
  let (x, fl) := decodeF fmtF32 ftz a.toNat
  let bit : Nat := match x with
    | .nan => if fl = fNV then 0 else 1
    | .inf _ => if neg then 2 else 9
    | .fin _ m e =>
      if m = 0 then (if neg then 5 else 6)
      else if (m.log2 : Int) + e < fmtF32.emin then (if neg then 4 else 7)
      else (if neg then 3 else 8)
  BitVec.ofNat 32 (2 ^ bit)

/-- The dot products (R98): the exact sum of the products and the F32 addend, rounded once. -/
def fpDot (mode : RMode) (ftz : Bool) (F : Fmt) (n : Nat) (a b c : Word) : Word × FFlags :=
  let bits := F.signBit + 1
  let el := fun (x : Word) i => decodeF F ftz (elemOf bits i x.toNat)
  let prods := (List.range n).map fun i => xMul (el a i).1 (el b i).1
  let srcFl := (List.range n).foldl (fun acc i => acc ||| (el a i).2 ||| (el b i).2) 0
  let mulFl := prods.foldl (fun acc p => acc ||| p.2) 0
  let (z, f1) := decodeF fmtF32 ftz c.toNat
  let (t, f2) := xSum mode (prods.map (·.1) ++ [z])
  let (r, f3) := roundF fmtF32 mode ftz t
  (BitVec.ofNat 32 r, srcFl ||| mulFl ||| f1 ||| f2 ||| f3)

/-- Write per-lane results with flags (R23, R32). -/
def floatLanes (g : Gang) (d : Field10) (m : LaneMask) (r : Nat → Word × FFlags) : Gang :=
  raiseFlags (writeLanes32 g d m fun l => (r l).1) (flagsOver m fun l => (r l).2)

def floatBin (i : Instr) (gd : Guard) (d a : Field10) (b : Src) (op : Gang → Word → Word → Word × FFlags) (s : State) : Out :=
  vectorInstr i gd (a.toNat :: vregsB .i32 b) [d.toNat] s fun g _ m =>
    .ok (floatLanes g d m fun l => op g (getV g a.toNat l) (readB32 g b l))

def floatUn (i : Instr) (gd : Guard) (d : Field10) (b : Src) (op : Gang → Word → Word × FFlags) (s : State) : Out :=
  vectorInstr i gd (vregsB .i32 b) [d.toNat] s fun g _ m => .ok (floatLanes g d m fun l => op g (readB32 g b l))

def floatTri (i : Instr) (gd : Guard) (d a b c : Field10) (op : Gang → Word → Word → Word → Word × FFlags) (s : State) : Out :=
  vectorInstr i gd [a.toNat, b.toNat, c.toNat] [d.toNat] s fun g _ m =>
    .ok (floatLanes g d m fun l => op g (getV g a.toNat l) (getV g b.toNat l) (getV g c.toNat l))

/-- `fadd` (R98). -/
def execFadd (gd : Guard) (ty : Ty) (rm : RSel) (d a : Field10) (b : Src) (s : State) : Out :=
  floatBin (.fadd gd ty rm d a b) gd d a b (fun g x y => perElem ty (fpAdd (selMode g rm) (ftzOn g) false) x y 0) s

/-- `fsub` (R98). -/
def execFsub (gd : Guard) (ty : Ty) (rm : RSel) (d a : Field10) (b : Src) (s : State) : Out :=
  floatBin (.fsub gd ty rm d a b) gd d a b (fun g x y => perElem ty (fpAdd (selMode g rm) (ftzOn g) true) x y 0) s

/-- `fmul` (R98). -/
def execFmul (gd : Guard) (ty : Ty) (rm : RSel) (d a : Field10) (b : Src) (s : State) : Out :=
  floatBin (.fmul gd ty rm d a b) gd d a b (fun g x y => perElem ty (fpMul (selMode g rm) (ftzOn g)) x y 0) s

/-- `fmin` (R99). -/
def execFmin (gd : Guard) (ty : Ty) (d a : Field10) (b : Src) (s : State) : Out :=
  floatBin (.fmin gd ty d a b) gd d a b (fun g x y => perElem ty (fun F u v _ => minMaxF F false (ftzOn g) u v) x y 0) s

/-- `fmax` (R99). -/
def execFmax (gd : Guard) (ty : Ty) (d a : Field10) (b : Src) (s : State) : Out :=
  floatBin (.fmax gd ty d a b) gd d a b (fun g x y => perElem ty (fun F u v _ => minMaxF F true (ftzOn g) u v) x y 0) s

/-- `fcmp` (R100). -/
def execFcmp (gd : Guard) (c : Cond) (a : Field10) (b : Src) (pd ps : BitVec 4) (s : State) : Out :=
  vectorInstr (.fcmp gd c a b pd ps) gd (a.toNat :: vregsB .i32 b) [] s fun g _ m =>
    let r := fun l => condF c (ftzOn g) (getV g a.toNat l).toNat (readB32 g b l).toNat
    .ok (raiseFlags (writePred g pd m fun l => (r l).1 && (getPred g ps).getLsbD l) (flagsOver m fun l => (r l).2))

/-- `fscale` (R98). -/
def execFscale (gd : Guard) (rm : RSel) (d a : Field10) (b : Src) (s : State) : Out :=
  floatBin (.fscale gd rm d a b) gd d a b (fun g x y => fpScale (selMode g rm) (ftzOn g) x y) s

/-- `fabs` (R98). -/
def execFabs (gd : Guard) (ty : Ty) (d : Field10) (b : Src) (s : State) : Out :=
  floatUn (.fabs gd ty d b) gd d b (fun g x => perElem ty (fpSign (ftzOn g) false) x 0 0) s

/-- `fneg` (R98). -/
def execFneg (gd : Guard) (ty : Ty) (d : Field10) (b : Src) (s : State) : Out :=
  floatUn (.fneg gd ty d b) gd d b (fun g x => perElem ty (fpSign (ftzOn g) true) x 0 0) s

/-- `fclass` (R101): the class code into v(D), the mask test into p(PD). -/
def execFclass (gd : Guard) (d a : Field10) (b : Src) (pd : BitVec 4) (s : State) : Out :=
  vectorInstr (.fclass gd d a b pd) gd (a.toNat :: vregsB .i32 b) [d.toNat] s fun g _ m =>
    let r := fun l => fpClass (ftzOn g) (getV g a.toNat l)
    .ok (writePred (writeLanes32 g d m r) pd m fun l => r l &&& readB32 g b l != 0)

/-- `frnd` (R98). -/
def execFrnd (gd : Guard) (rm : RSel) (d : Field10) (b : Src) (s : State) : Out :=
  floatUn (.frnd gd rm d b) gd d b (fun g x => fpRoundInt (selMode g rm) (ftzOn g) x) s

/-- `fgetexp` (R102). -/
def execFgetexp (gd : Guard) (d : Field10) (b : Src) (s : State) : Out :=
  floatUn (.fgetexp gd d b) gd d b (fun g x => fpGetExp (ftzOn g) x) s

/-- `fma` (R98). -/
def execFma (gd : Guard) (ty : Ty) (rm : RSel) (d a b c : Field10) (s : State) : Out :=
  floatTri (.fma gd ty rm d a b c) gd d a b c (fun g x y z => perElem ty (fpFma (selMode g rm) (ftzOn g)) x y z) s

/-- `fdot2` (R98). -/
def execFdot2 (gd : Guard) (ty : Ty) (rm : RSel) (d a b c : Field10) (s : State) : Out :=
  floatTri (.fdot2 gd ty rm d a b c) gd d a b c (fun g x y z => fpDot (selMode g rm) (ftzOn g) (fmtOf ty) 2 x y z) s

/-- `fdot4` (R98). -/
def execFdot4 (gd : Guard) (ty : Ty) (rm : RSel) (d a b c : Field10) (s : State) : Out :=
  floatTri (.fdot4 gd ty rm d a b c) gd d a b c (fun g x y z => fpDot (selMode g rm) (ftzOn g) (fmtOf ty) 4 x y z) s

-- conversions, major 0x60

/-- An IEEE type (R103): where FTZ can apply. -/
def ieeeTy : Ty → Bool
  | .f32 | .f16 | .bf16 => true
  | _ => false

/-- The number type of a conversion operand; the three raw codes are reserved in this group (R103). -/
def cvtTy (ty : Ty) : NumTy := (numTy ty).getD (.int false 32)

/-- `cvt` of one value (R51, R103). -/
def cvtVal (g : Gang) (ty ts : Ty) (rm : RSel) (b : Word) : Word × FFlags :=
  let r := convert (cvtTy ts) (cvtTy ty) (selMode g rm) (ftzOn g && ieeeTy ty && ieeeTy ts) b.toNat
  (extendTo32 (cvtTy ty) r.1, r.2)

/-- `cvtq` of one value (R103): R51 on the exact product of a and an F32 scale. -/
def cvtqVal (g : Gang) (ty : Ty) (rm : RSel) (a b : Word) : Word × FFlags :=
  let ftz := ftzOn g && ieeeTy ty
  let (x, f1) := decodeF fmtF32 ftz a.toNat
  let (y, f2) := decodeF fmtF32 ftz b.toNat
  let (z, f3) := xMul x y
  let (r, f4) := convReal (cvtTy ty) (selMode g rm) ftz z
  (extendTo32 (cvtTy ty) r, f1 ||| f2 ||| f3 ||| f4)

/-- `cvtdq` of one value (R103): RoundF32 of the exact product of a and an F32 scale. -/
def cvtdqVal (g : Gang) (ts : Ty) (rm : RSel) (a b : Word) : Word × FFlags :=
  let ftz := ftzOn g && ieeeTy ts
  let (x, f1) := match cvtTy ts with
    | .int sg n => (xOfInt (intOf sg n a.toNat), 0)
    | .flt F => decodeF F ftz (a.toNat % 2 ^ (F.signBit + 1))
  let (y, f2) := decodeF fmtF32 ftz b.toNat
  let (z, f3) := xMul x y
  let (r, f4) := roundF fmtF32 (selMode g rm) ftz z
  (BitVec.ofNat 32 r, f1 ||| f2 ||| f3 ||| f4)

/-- `cvt` (R103). -/
def execCvt (gd : Guard) (ty ts : Ty) (rm : RSel) (d : Field10) (b : Src) (s : State) : Out :=
  floatUn (.cvt gd ty ts rm d b) gd d b (fun g x => cvtVal g ty ts rm x) s

/-- `cvtq` (R103). -/
def execCvtq (gd : Guard) (ty ts : Ty) (rm : RSel) (d a : Field10) (b : Src) (s : State) : Out :=
  floatBin (.cvtq gd ty ts rm d a b) gd d a b (fun g x y => cvtqVal g ty rm x y) s

/-- `cvtdq` (R103). -/
def execCvtdq (gd : Guard) (ty ts : Ty) (rm : RSel) (d a : Field10) (b : Src) (s : State) : Out :=
  floatBin (.cvtdq gd ty ts rm d a b) gd d a b (fun g x y => cvtdqVal g ts rm x y) s

/-- Elements per register of a pack type (R104). -/
def packCount (ty : Ty) : Nat := 32 / (cvtTy ty).bits

/-- `pack` (R104): element i from the low bits of v(A+i). -/
def execPack (gd : Guard) (ty : Ty) (d a : Field10) (s : State) : Out :=
  vectorInstr (.pack gd ty d a) gd (vrange a (packCount ty)) [d.toNat] s fun g _ m =>
    let n := (cvtTy ty).bits
    .ok (writeLanes32 g d m fun l =>
      BitVec.ofNat 32 ((List.range (packCount ty)).foldl
        (fun acc i => acc + (getV g (a.toNat + i) l).toNat % 2 ^ n * 2 ^ (n * i)) 0))

/-- `unpk` (R104): v(D+i) is element i of b, extended by type. -/
def execUnpk (gd : Guard) (ty : Ty) (d : Field10) (b : Src) (s : State) : Out :=
  vectorInstr (.unpk gd ty d b) gd (vregsB .i32 b) (vrange d (packCount ty)) s fun g _ m =>
    .ok (forLanes m g fun acc l =>
      (List.range (packCount ty)).foldl (fun acc' i =>
        setV acc' (d.toNat + i) l (extendTo32 (cvtTy ty) (elemOf (cvtTy ty).bits i (readB32 g b l).toNat))) acc)

end Sys2Proof.Machine
end

