-- ==== Sys2Proof/Machine/Local.lean ====
section
/-! DEFINITION. The local store of a core: reads and writes of bytes, images of a store, poison of its 64-bit words, and the
local addresses of a gang's scratch (R125, R130, R167, R221, R369). -/

namespace Sys2Proof.Machine

/-- Byte `a` of a local store; a byte nothing has written reads 0. -/
def localByte (m : List Host.Cell) (a : Nat) : Byte := spGet 0 m a

/-- `n` bytes from `a`. -/
def localBytes (m : List Host.Cell) (a n : Nat) : List Byte := (List.range n).map (fun i => localByte m (a + i))

/-- A little-endian number of `n` bytes (R3). -/
def localNat (m : List Host.Cell) (a n : Nat) : Nat := natLE (localBytes m a n)

/-- An image: the bytes one store writes; a later entry for an address wins (R252, R253). -/
abbrev Image := List (Nat × Byte)

/-- The bytes of one element at `a`. -/
def imageOf (a : Nat) (bs : List Byte) : Image := bs.zipIdx.map (fun x => (a + x.2, x.1))

/-- Put an image into a byte memory. -/
def writeImage (m : List Host.Cell) (im : Image) : List Host.Cell := im.foldl (fun acc x => spSet 0 acc x.1 x.2) m

/-- The image writes every byte of the 8-byte word w. -/
def coversWord (im : Image) (w : Nat) : Bool := (List.range 8).all (fun i => im.any (fun x => x.1 == 8 * w + i))

/-- A store into a core's local store: a word written whole loses its poison mark, a word written in part keeps it (R369). -/
def storeLocal (c : Core) (im : Image) : Core :=
  { c with mem := writeImage c.mem im, mpoison := c.mpoison.filter (fun w => !coversWord im w) }

/-- Mark words of the local store poisoned. -/
def poisonWords (c : Core) (ws : List Nat) : Core := { c with mpoison := ws.foldl setAdd c.mpoison }

/-- Some word of the bytes [a, a + n) is poisoned. -/
def poisonedAt (ps : List Nat) (a n : Nat) : Bool := ps.any (fun w => decide (a < 8 * w + 8) && decide (8 * w < a + n))

/-- Base of the gang's scratch area on its own core (R125). -/
def areaBase (g : Gang) : Nat := listGet 0 g.areas g.spos

/-- The gang's cohort runs on a quartet. -/
def onQuartet (g : Gang) : Bool := decide (1 < g.areas.length)

/-- Where a byte offset of a space lies: core position and local address (R125, R221). -/
def localAt (g : Gang) (sp : Space) (off : Nat) : Nat × Nat :=
  if sp = .q ∧ onQuartet g then
    let k := off / g.kd.scratch
    (k, listGet 0 g.areas k + off % g.kd.scratch)
  else (g.spos, areaBase g + off)

/-- Core number of a position of the gang's cohort. -/
def coreOfPos (g : Gang) (k : Nat) : Nat := g.core - g.spos + k

/-- The bound of a local space (R221). -/
def localBound (g : Gang) (sp : Space) : Nat := if sp = .q ∧ onQuartet g then 4 * g.kd.scratch else g.kd.scratch

end Sys2Proof.Machine
end

