-- ==== Sys2Proof/Machine/Ox.lean ====
section
/-! DEFINITION. The Ox matrix engine (R296 to R327, R345, R346, R371): the checks at issue, the queue, and what each
instruction does to its tile, metadata register, registers or scratch when it completes. -/

namespace Sys2Proof.Machine

-- operands

/-- An operand element: its exact value, its integer value, and whether a word it was read from is poisoned. -/
structure OxVal where
  x : XReal
  i : Int
  bad : Bool
  deriving DecidableEq, Repr

/-- How the bytes of scratch are seen while an entry runs: the byte, and its poison, at a local address. -/
structure OxView where
  byte : Nat → Byte
  bad : Nat → Bool

/-- The view of an entry that started on store (m0, p0) and completes on (m1, p1): each aligned element of `u` bytes is
read old or new, whole, as a free value says (R345). -/
def oxView (ctr u : Nat) (m0 : List Host.Cell) (p0 : List Nat) (m1 : List Host.Cell) (p1 : List Nat) : OxView where
  byte a := if Config.freeNat (ctr + a / u) % 2 = 0 then localByte m0 a else localByte m1 a
  bad a := if Config.freeNat (ctr + a / u) % 2 = 0 then p0.contains (a / 8) else p1.contains (a / 8)

/-- Bytes of one element; 4-bit elements share a byte (R299, R345). -/
def elemBytes (ty : Ty) : Nat := max 1 ((cvtTy ty).bits / 8)

/-- Bytes of `n` elements of a type (R317). -/
def extentOf (ty : Ty) (n : Nat) : Nat := n * (cvtTy ty).bits / 8

/-- A value of a type from its code; no FTZ (R302). -/
def oxOfCode (ty : Ty) (code : Nat) (bad : Bool) : OxVal :=
  match cvtTy ty with
  | .int sg n => ⟨xOfInt (intOf sg n code), intOf sg n code, bad⟩
  | .flt F => ⟨(decodeF F false (code % 2 ^ (F.signBit + 1))).1, 0, bad⟩

/-- Element `k` of an operand at `base` (R299, R40). -/
def oxElem (v : OxView) (ty : Ty) (base k : Nat) : OxVal :=
  let bits := (cvtTy ty).bits
  if bits = 4 then
    let a := base + k / 2
    oxOfCode ty (elemOf 4 (k % 2) (v.byte a).toNat) (v.bad a)
  else
    let n := bits / 8
    let a := base + k * n
    oxOfCode ty (natLE ((List.range n).map (fun i => v.byte (a + i)))) (v.bad a)

-- tiles

def tileAt (t : Tile) (i j : Nat) : Word := spGet 0 t.words (16 * i + j)
def tileBad (t : Tile) (i j : Nat) : Bool := t.poison.getLsbD (16 * i + j)

/-- Write element (i, j) and its poison mark. -/
def tilePut (t : Tile) (i j : Nat) (w : Word) (bad : Bool) : Tile :=
  let bit : BitVec 256 := BitVec.ofNat 256 (2 ^ (16 * i + j))
  { t with words := spSet 0 t.words (16 * i + j) w, poison := if bad then t.poison ||| bit else t.poison &&& ~~~bit }

/-- A tile built element by element. -/
def tileOf (kind : Bool) (f : Nat → Nat → Word × Bool) : Tile :=
  (List.range 256).foldl (fun t n => tilePut t (n / 16) (n % 16) (f (n / 16) (n % 16)).1 (f (n / 16) (n % 16)).2)
    { Tile.reset with kind := kind }

/-- Accumulate as FP32 unless the type's products are integers (R297). -/
def accFloat (ty : Ty) : Bool := match cvtTy ty with | .flt _ => true | .int _ _ => false

/-- One multiply-accumulate (R302, R53): RoundF32(acc + a × b, RNE) with an exact product, or modulo 2^32. A poisoned
operand marks the element (R371). -/
def macStep (fl : Bool) (acc : Word × Bool) (a b : OxVal) : Word × Bool :=
  (if fl then BitVec.ofNat 32 (roundF fmtF32 .rne false (xSum .rne [(decodeF fmtF32 false acc.1.toNat).1, (xMul a.x b.x).1]).1).1
   else acc.1 + BitVec.ofInt 32 (a.i * b.i), acc.2 || a.bad || b.bad)

/-- The first product of a partial sum: RoundF32(a × b), or the exact product (R307, R309). -/
def mulStep (fl : Bool) (a b : OxVal) : Word × Bool :=
  (if fl then BitVec.ofNat 32 (roundF fmtF32 .rne false (xMul a.x b.x).1).1 else BitVec.ofInt 32 (a.i * b.i), a.bad || b.bad)

/-- Add a partial sum to an element (R307). -/
def addStep (fl : Bool) (acc p : Word × Bool) : Word × Bool :=
  (if fl then BitVec.ofNat 32 (addF32 .rne false acc.1.toNat p.1.toNat).1 else acc.1 + p.1, acc.2 || p.2)

-- inner product

/-- The 4-bit group field of row r, group g of a metadata register (R304). -/
def groupField (m : Meta) (r g : Nat) : Nat := (m.data.extractLsb' (64 * r + 4 * g) 4).toNat

/-- The kept positions of row i in ascending k, each with its index in the A operand (R299, R302 to R304). -/
def keptOf (sp : Nat) (ms : List Meta) (kk i : Nat) : List (Nat × Nat) :=
  if sp = 0 then (List.range kk).map (fun k => (k, i * kk + k))
  else (List.range (kk / 4)).flatMap fun g =>
    let f := groupField (listGet Meta.reset ms (g / 16)) i (g % 16)
    if sp = 1 then [(4 * g + f % 4, i * (kk / 2) + 2 * g), (4 * g + f / 4, i * (kk / 2) + 2 * g + 1)]
    else [(4 * g + f % 4, i * (kk / 4) + g)]

/-- `oxip` (R302, R303): every element takes its products in ascending k. -/
def ipTile (ta tb : Ty) (sp : Nat) (ms : List Meta) (kk : Nat) (va vb : OxView) (offA offB : Nat) (t : Tile) : Tile :=
  let fl := accFloat ta
  tileOf (!fl) fun i j =>
    (keptOf sp ms kk i).foldl (fun acc x => macStep fl acc (oxElem va ta offA x.2) (oxElem vb tb offB (16 * x.1 + j)))
      (tileAt t i j, tileBad t i j)

-- outer product

/-- The partial sum of one chunk of 16p positions for element (i, j) (R307). -/
def chunkSum (fl : Bool) (ta tb : Ty) (kk p c : Nat) (va vb : OxView) (offA offB i j : Nat) : Word × Bool :=
  let el := fun k => (oxElem va ta offA (i * kk + k), oxElem vb tb offB (16 * k + j))
  let k0 := 16 * p * c
  (List.range (16 * p - 1)).foldl (fun acc n => macStep fl acc (el (k0 + n + 1)).1 (el (k0 + n + 1)).2)
    (mulStep fl (el k0).1 (el k0).2)

/-- Dense `oxop` (R307): chunk partials are added at the bank in ascending chunk order. -/
def opTile (ta tb : Ty) (kk p : Nat) (va vb : OxView) (offA offB : Nat) (t : Tile) : Tile :=
  let fl := accFloat ta
  tileOf (!fl) fun i j =>
    (List.range (kk / (16 * p))).foldl (fun acc c => addStep fl acc (chunkSum fl ta tb kk p c va vb offA offB i j))
      (tileAt t i j, tileBad t i j)

/-- An entry of a coordinate stream: coordinate and value (R318). -/
abbrev StreamEntry := Nat × OxVal

/-- Read a coordinate stream from `off` until `groups` groups, a stream-end mark, or the end of the scratch area (`words`
words left); an open group at the end counts as closed (R318, R319). -/
def readStream (v : OxView) (ty : Ty) : Nat → Nat → Nat → List StreamEntry → List (List StreamEntry)
  | 0, _, groups, cur => if groups = 0 then [] else [cur.reverse]
  | words + 1, off, groups, cur =>
    if groups = 0 then []
    else
      let w := natLE ((List.range 4).map (fun i => v.byte (off + i)))
      let coord := w / 2 ^ 16
      if coord = 0xFFFE then [cur.reverse]
      else if coord = 0xFFFF then cur.reverse :: readStream v ty words (off + 4) (groups - 1) []
      else readStream v ty words (off + 4) groups ((coord, oxOfCode ty (w % 2 ^ 16) (v.bad off)) :: cur)

/-- Words of scratch from local address `off` to the end of the area. -/
def wordsLeft (base size off : Nat) : Nat := (base + size - off) / 4

/-- Cross the first 16 entries of two groups, A-major; a coordinate of 16 or more adds nothing (R308). -/
def crossGroups (fl : Bool) (t : Tile) (as bs : List StreamEntry) : Tile :=
  (as.take 16).foldl (fun t1 a =>
    if 16 ≤ a.1 then t1
    else (bs.take 16).foldl (fun t2 b =>
      if 16 ≤ b.1 then t2
      else
        let r := macStep fl (tileAt t2 a.1 b.1, tileBad t2 a.1 b.1) a.2 b.2
        tilePut t2 a.1 b.1 r.1 r.2) t1) t

/-- `oxop` with coordinate streams (R308): group by group, each product added at the bank. -/
def opStreamTile (ta : Ty) (as bs : List (List StreamEntry)) (t : Tile) : Tile :=
  (as.zip bs).foldl (fun acc x => crossGroups (accFloat ta) acc x.1 x.2) { t with kind := !(accFloat ta) }

-- row-wise

/-- A row slot of the merger: for each column, the entry if present (R309). -/
abbrev RowSlot := List (Option (Word × Bool))

/-- A B element that is zero is skipped (R309). -/
def oxZero (fl : Bool) (b : OxVal) : Bool := if fl then b.x.isZero else b.i == 0

/-- One A entry of a row: its products update or create the entries of the slot (R309). -/
def rowEntry (fl : Bool) (tb : Ty) (kk : Nat) (vb : OxView) (offB : Nat) (slot : RowSlot) (a : StreamEntry) : RowSlot :=
  if kk ≤ a.1 then slot
  else slot.zipIdx.map fun (cell, j) =>
    let b := oxElem vb tb offB (16 * a.1 + j)
    if oxZero fl b then cell
    else match cell with
      | some acc => some (macStep fl acc a.2 b)
      | none => some (mulStep fl a.2 b)

/-- `oxrw` with CMP = 0 (R309). A row whose group is missing keeps its values. -/
def rwTile (ta tb : Ty) (kk : Nat) (rows : List (List StreamEntry)) (vb : OxView) (offB : Nat) (t : Tile) : Tile :=
  let fl := accFloat ta
  (List.range 16).foldl (fun t1 i =>
    let slot : RowSlot := (List.range 16).map (fun j => some (tileAt t i j, tileBad t i j))
    let out := (listGet [] rows i).foldl (rowEntry fl tb kk vb offB) slot
    (List.range 16).foldl (fun t2 j =>
      match listGet none out j with
      | some (w, bad) => tilePut t2 i j w bad
      | none => t2) t1) { t with kind := !fl }

/-- The wide words that `oxrw` with CMP = 1 writes: value, column or mark, poison (R320). -/
def rwStream (ta tb : Ty) (kk : Nat) (rows : List (List StreamEntry)) (vb : OxView) (offB : Nat) : List (Nat × Bool) :=
  let fl := accFloat ta
  ((List.range 16).flatMap fun i =>
    let out := (listGet [] rows i).foldl (rowEntry fl tb kk vb offB) (copies 16 none)
    (out.zipIdx.filterMap fun (cell, j) => cell.map (fun c => (c.1.toNat + j * 2 ^ 32, c.2))) ++ [(0xFFFF * 2 ^ 32, false)])
    ++ [(0xFFFE * 2 ^ 32, false)]

-- drain

/-- One element of a drain (R52, R323): its code, its flags, its poison. Of three factors NaN, 0 and infinity the product is taken from left to
right, so NV depends on which factor is the NaN (DESIGN CHOICE, log entry 102: R52 does not rank its two sentences). -/
def drainElem (t : Tile) (tb : Ty) (mode : RMode) (scale : Option (XReal × XReal × FFlags × Bool)) (i j : Nat) : Nat × FFlags × Bool :=
  let w := tileAt t i j
  let bad := tileBad t i j
  match scale with
  | none =>
    if t.kind then
      let r := convInt (cvtTy tb) mode w.toInt
      (r.1, r.2, bad)
    else
      let (x, f1) := decodeF fmtF32 false w.toNat
      let r := convReal (cvtTy tb) mode false x
      (r.1, f1 ||| r.2, bad)
  | some (r, c, fl, sbad) =>
    let (x, f1) := if t.kind then (xOfInt w.toInt, 0) else decodeF fmtF32 false w.toNat
    let (y, f2) := xMul x r
    let (z, f3) := xMul y c
    let q := convReal (cvtTy tb) mode false z
    (q.1, fl ||| f1 ||| f2 ||| f3 ||| q.2, bad || sbad)

/-- The scales of element (i, j) under SC = 1: row[i] and column[j], with NV for a signalling NaN (R52, R323). -/
def drainScale (v : OxView) (offB offC i j : Nat) : XReal × XReal × FFlags × Bool :=
  let code := fun a => natLE ((List.range 4).map (fun k => v.byte (a + k)))
  let r := decodeF fmtF32 false (code (offB + 4 * i))
  let c := decodeF fmtF32 false (code (offC + 4 * j))
  (r.1, c.1, r.2 ||| c.2, v.bad (offB + 4 * i) || v.bad (offC + 4 * j))

/-- Pack the elements of a drain in memory order (R40, R323). -/
def drainBytes (tb : Ty) (codes : List Nat) : List Byte :=
  let bits := (cvtTy tb).bits
  bytesLE (codes.length * bits / 8) (codes.foldr (fun c acc => c + acc * 2 ^ bits) 0)

-- metadata

/-- VALID of one group (R305). -/
def groupValid (mode : Nat) (f : Nat) : Bool := if mode = 1 then decide (f % 4 < f / 4) else f / 4 == f % 4

/-- The metadata register that `ldmeta` leaves (R305, R326). -/
def metaOf (v : OxView) (off : Nat) (sp : BitVec 2) : Meta :=
  let d : BitVec 1024 := BitVec.ofNat 1024 (natLE ((List.range 128).map (fun i => v.byte (off + i))))
  let m : Meta := { data := d, mode := sp, valid := 0, poison := 0 }
  { m with
    valid := BitVec.ofNat 256 ((List.range 256).foldl (fun acc n =>
      if groupValid sp.toNat (groupField m (n / 16) (n % 16)) then acc + 2 ^ n else acc) 0)
    poison := BitVec.ofNat 32 ((List.range 32).foldl (fun acc w => if v.bad (off + 4 * w) then acc + 2 ^ w else acc) 0) }

/-- The first failure of the metadata check (R306, R371): POISON of a consumed word, a MODE mismatch, or an invalid group. -/
def metaCheck (p : Path) (g : Gang) (sp : BitVec 2) (mreg kk : Nat) : Option TrapInfo :=
  let regs := (List.range ((kk + 63) / 64)).map fun w => (mreg + w, listGet Meta.reset g.mregs (mreg + w), min 16 ((kk - 64 * w) / 4))
  let bad := regs.find? fun (_, m, n) =>
    (List.range 32).any fun w => m.poison.getLsbD w && decide (w % 2 * 8 < n)
  match bad with
  | some (r, _, _) => some (trapAll p cPOISON (BitVec.ofNat 64 r) 0x30)
  | none =>
    (regs.findSome? fun (r, m, n) =>
      if m.mode != sp then some (0x1000 + 256 * r)
      else
        (List.range 16).findSome? fun row =>
          (List.range n).findSome? fun gp =>
            if m.valid.getLsbD (16 * row + gp) then none else some (256 * r + 16 * row + gp)).map
      fun info => trapAll p cMXMETA 0 (BitVec.ofNat 32 info)

-- issue

/-- An operand of the checks of R316: scratch offset and extent in bytes. -/
abbrev OxOperand := Nat × Nat

/-- Steps 2 and 3 of R316. Of several extents that pass the area, TADDR names the first in the order A, B, C (DESIGN CHOICE, log entry 154). -/
def oxOperandTrap (p : Path) (g : Gang) (ops : List OxOperand) : Option TrapInfo :=
  match (ops.map (·.1)).filter (fun o => o % 64 != 0) with
  | o :: os => some (trapAll p cALIGN (BitVec.ofNat 64 (os.foldl min o)) 0)
  | [] =>
    match ops.find? (fun x => decide (g.kd.scratch < x.1 + x.2)) with
    | some x => some (trapAll p cPROT (BitVec.ofNat 64 x.1) 0x57)
    | none => none

/-- Local address of a scratch offset of the gang's own area. -/
def ownAddr (g : Gang) (off : Nat) : Nat := areaBase g + off

/-- Metadata registers an earlier queued `ldmeta` of the gang will write (R301). -/
def loadsMeta (e : OxEntry) (r : Nat) : Bool := match e.instr with | .ldmeta _ _ m _ => m.toNat == r | _ => false

/-- The frame of every Ox instruction (R315, R316): the guard once, the operand checks, the metadata check after the
`ldmeta` it depends on, and the queue of eight (R215, R296). `a`, `b`, `c` are the scratch offsets it captures. -/
def oxIssue (i : Instr) (gd : Guard) (vr : List Nat) (extra : Kernel → Bool) (s : State)
    (offs : Gang → Nat × Nat × Nat) (ops : Gang → List OxOperand) (ms : Gang → List Nat) (chk : Gang → Path → Option TrapInfo) : Out :=
  issueChecked i vr extra s fun gi g p =>
    if guardLanes g p gd = 0 then finish s gi g p 16 (.ok g)
    else
      match oxOperandTrap p g (ops g) with
      | some t => .next (s.trap gi g p t)
      | none =>
        let c := s.coreAt g.die g.core
        if c.oxq.any (fun e => e.gang == gi && (ms g).any (loadsMeta e)) then .next s
        else
          match chk g p with
          | some t => .next (s.trap gi g p t)
          | none =>
            if 8 ≤ c.oxq.length then .next s
            else
              let o := offs g
              let e : OxEntry := ⟨s.fresh, gi, i, ownAddr g o.1, ownAddr g o.2.1, ownAddr g o.2.2,
                (ms g).map (listGet Meta.reset g.mregs), g.round, p.mask, none, 0⟩
              let s1 := { s with fresh := s.fresh + 1 }.putCore g.die g.core { c with oxq := c.oxq ++ [e] }
              finish s1 gi g p 16 (.ok g)

/-- A uniform register as a scratch offset. -/
def sOff (g : Gang) (r : Field10) : Nat := (getS g r.toNat).toNat

/-- `oxip` (R302 to R306, R315 to R317). -/
def execOxip (gd : Guard) (ta tb : Ty) (a b : Field10) (acc mreg nk : BitVec 4) (sp : BitVec 2) (s : State) : Out :=
  let kk := oxK ta nk
  let n := if sp = 0 then 0 else oxMetaCount ta nk
  let keep := if sp = 0 then 16 * kk else if sp = 1 then 16 * kk / 2 else 16 * kk / 4
  oxIssue (.oxip gd ta tb a b acc mreg nk sp) gd [] (fun k => decide (acc.toNat < k.acc) && decide (n = 0 ∨ mreg.toNat + n ≤ k.nmeta)) s
    (fun g => (sOff g a, sOff g b, 0))
    (fun g => [(sOff g a, extentOf ta keep), (sOff g b, extentOf tb (16 * kk))])
    (fun _ => (List.range n).map (mreg.toNat + ·))
    (fun g p => if sp = 0 then none else metaCheck p g sp mreg.toNat kk)

/-- `oxop` (R307, R308, R315 to R317). -/
def execOxop (gd : Guard) (ta tb : Ty) (a b : Field10) (acc nk : BitVec 4) (cs : Bool) (s : State) : Out :=
  let kk := oxK ta nk
  oxIssue (.oxop gd ta tb a b acc nk cs) gd [] (fun k => decide (acc.toNat < k.acc)) s
    (fun g => (sOff g a, sOff g b, 0))
    (fun g => if cs then [(sOff g a, 4), (sOff g b, 4)] else [(sOff g a, extentOf ta (16 * kk)), (sOff g b, extentOf tb (16 * kk))])
    (fun _ => []) (fun _ _ => none)

/-- `oxrw` (R309, R315 to R317, R320). -/
def execOxrw (gd : Guard) (ta tb : Ty) (a b c : Field10) (acc nk : BitVec 4) (cmp : Bool) (s : State) : Out :=
  let kk := oxK ta nk
  oxIssue (.oxrw gd ta tb a b c acc nk cmp) gd [] (fun k => cmp || decide (acc.toNat < k.acc)) s
    (fun g => (sOff g a, sOff g b, if cmp then sOff g c else 0))
    (fun g => [(sOff g a, 4), (sOff g b, extentOf tb (16 * kk))] ++ (if cmp then [(sOff g c, 2184)] else []))
    (fun _ => []) (fun _ _ => none)

/-- `accz` (R321). -/
def execAccz (gd : Guard) (ty : Ty) (acc : BitVec 4) (s : State) : Out :=
  oxIssue (.accz gd ty acc) gd [] (fun k => decide (acc.toNat < k.acc)) s (fun _ => (0, 0, 0)) (fun _ => []) (fun _ => [])
    (fun _ _ => none)

/-- `accld` (R322). -/
def execAccld (gd : Guard) (tb : Ty) (a : Field10) (acc : BitVec 4) (s : State) : Out :=
  oxIssue (.accld gd tb a acc) gd [] (fun k => decide (acc.toNat < k.acc)) s (fun g => (sOff g a, 0, 0))
    (fun g => [(sOff g a, extentOf tb 256)]) (fun _ => []) (fun _ _ => none)

/-- `accst` (R310, R323, R324). -/
def execAccst (gd : Guard) (tb : Ty) (rm : RSel) (d a b c : Field10) (acc : BitVec 4) (sc : Bool) (s : State) : Out :=
  let toReg := decide (d ≠ 0x3FF#10)
  oxIssue (.accst gd tb rm d a b c acc sc) gd (if toReg then vrange d 16 else []) (fun k => decide (acc.toNat < k.acc)) s
    (fun g => (if toReg then 0 else sOff g a, if sc then sOff g b else 0, if sc then sOff g c else 0))
    (fun g => (if toReg then [] else [(sOff g a, extentOf tb 256)]) ++ (if sc then [(sOff g b, 64), (sOff g c, 64)] else []))
    (fun _ => []) (fun _ _ => none)

/-- `accmv` (R325). -/
def execAccmv (gd : Guard) (acc acc2 : BitVec 4) (s : State) : Out :=
  oxIssue (.accmv gd acc acc2) gd [] (fun k => decide (acc.toNat < k.acc) && decide (acc2.toNat < k.acc)) s (fun _ => (0, 0, 0))
    (fun _ => []) (fun _ => []) (fun _ _ => none)

/-- `ldmeta` (R305, R326). -/
def execLdmeta (gd : Guard) (a : Field10) (mreg : BitVec 4) (sp : BitVec 2) (s : State) : Out :=
  oxIssue (.ldmeta gd a mreg sp) gd [] (fun k => decide (mreg.toNat < k.nmeta)) s (fun g => (sOff g a, 0, 0))
    (fun g => [(sOff g a, 128)]) (fun _ => []) (fun _ _ => none)

-- the queue

/-- The matrix path serves `oxip`, `oxop` and `oxrw`; the tile path the rest (R296). -/
def onMatrixPath (e : OxEntry) : Bool := match e.instr with | .oxip .. | .oxop .. | .oxrw .. => true | _ => false

/-- The tiles an entry names (R300, R325). -/
def tilesNamed (e : OxEntry) : List Nat :=
  match e.instr with
  | .oxip _ _ _ _ _ acc _ _ _ => [acc.toNat]
  | .oxop _ _ _ _ _ acc _ _ => [acc.toNat]
  | .oxrw _ _ _ _ _ _ acc _ cmp => if cmp then [] else [acc.toNat]
  | .accz _ _ acc => [acc.toNat]
  | .accld _ _ _ acc => [acc.toNat]
  | .accst _ _ _ _ _ _ _ acc _ => [acc.toNat]
  | .accmv _ acc acc2 => [acc.toNat, acc2.toNat]
  | _ => []

/-- The local addresses an entry writes: base and bytes (R346). -/
def writtenExtent (e : OxEntry) : Option (Nat × Nat) :=
  match e.instr with
  | .accst _ tb _ d _ _ _ _ _ => if d = 0x3FF#10 then some (e.offA, extentOf tb 256) else none
  | .oxrw _ _ _ _ _ _ _ _ cmp => if cmp then some (e.offC, 2184) else none
  | _ => none

/-- The conditions of R300 on an entry and the entries older than it. -/
def oxCanStart (older : List OxEntry) (busy : Bool) (e : OxEntry) : Bool :=
  let mine := older.filter (fun o => o.gang == e.gang)
  e.started.isNone && !busy &&
  mine.all (fun o => (tilesNamed o).all (fun t => !(tilesNamed e).contains t)) &&
  mine.all (fun o => (writtenExtent o).isNone) &&
  ((writtenExtent e).isNone || mine.isEmpty)

/-- Least and greatest occupancy of the matrix path by an entry (R306 to R309, R312), with the scratch share of R218. -/
def oxSpan (e : OxEntry) : Nat × Nat :=
  match e.instr with
  | .oxip _ ta _ _ _ _ _ nk sp =>
    let n := oxK ta nk / (oxRate ta).getD 1 / (if sp = 0 then 1 else 2)
    (n, 4 * n)
  | .oxop _ ta _ _ _ _ nk cs => if cs then (32, 4 * 19232) else (oxK ta nk / (oxRate ta).getD 1, 4 * (oxK ta nk / (oxRate ta).getD 1))
  | .oxrw .. => (1, 4 * 55328)
  | _ => (0, 0)

/-- An entry holds its path: the matrix path until its occupancy ends, the tile path until it completes (R300, R306, R327). -/
def holdsPath (now : DWord) (o : OxEntry) : Bool := o.started.isSome && (!onMatrixPath o || decide (now.toNat < o.leaves.toNat))

/-- The entries that can start, oldest first. -/
def oxStartable (now : DWord) (q : List OxEntry) : List OxEntry :=
  q.filter fun e =>
    let older := q.takeWhile (fun o => o.id != e.id)
    oxCanStart older (q.any (fun o => holdsPath now o && onMatrixPath o == onMatrixPath e)) e

/-- Die and core of a core key. -/
def keyDie (k : Nat) : Nat := k / 256
def keyCore (k : Nat) : Nat := k % 256

/-- OX_ENTRY_START (R300): the oldest entry of its path that can start starts, on the local store as it stands. -/
def execOxEntryStart (core entry : Nat) (s : State) : Out :=
  let c := s.coreAt (keyDie core) (keyCore core)
  match (oxStartable s.clock c.oxq).find? (fun e => e.id == entry) with
  | none => .next s
  | some e =>
    if (oxStartable s.clock c.oxq).any (fun o => decide (o.id < e.id) && onMatrixPath o == onMatrixPath e) then .next s
    else
      let (lo, hi) := oxSpan e
      let q := c.oxq.map (fun o => if o.id = entry then
        { o with started := some (c.mem, c.mpoison), leaves := s.clock + BitVec.ofNat 64 (lo + Config.freeNat s.freeCtr % (hi - lo + 1)) } else o)
      .next ({ s with freeCtr := s.freeCtr + 1 }.putCore (keyDie core) (keyCore core) { c with oxq := q })

/-- What a completed entry changes in its gang and core: tile, metadata and registers of the gang, bytes of the local
store. `v` views elements of a given size: a racing store is seen whole by elements of the operand type (R345), and `ldmeta` and a
sparse stream, which have none, read units of 4 bytes (DESIGN CHOICE, log entry 165). -/
def oxEffect (e : OxEntry) (v : Nat → OxView) (g : Gang) (c : Core) : Gang × Core :=
  let tile := fun (n : BitVec 4) => listGet Tile.reset g.tiles n.toNat
  let putTile := fun (n : BitVec 4) (t : Tile) => ({ g with tiles := listSet g.tiles n.toNat t }, c)
  let left := fun off => wordsLeft (areaBase g) g.kd.scratch off
  match e.instr with
  | .oxip _ ta tb _ _ acc _ nk sp =>
    putTile acc (ipTile ta tb sp.toNat e.metas (oxK ta nk) (v (elemBytes ta)) (v (elemBytes tb)) e.offA e.offB (tile acc))
  | .oxop _ ta tb _ _ acc nk cs =>
    let kk := oxK ta nk
    if cs then
      putTile acc (opStreamTile ta (readStream (v 4) ta (left e.offA) e.offA kk []) (readStream (v 4) tb (left e.offB) e.offB kk [])
        (tile acc))
    else putTile acc (opTile ta tb kk ((oxRate ta).getD 1) (v (elemBytes ta)) (v (elemBytes tb)) e.offA e.offB (tile acc))
  | .oxrw _ ta tb _ _ _ acc nk cmp =>
    let rows := readStream (v 4) ta (left e.offA) e.offA 16 []
    if cmp then
      let ws := rwStream ta tb (oxK ta nk) rows (v (elemBytes tb)) e.offB
      let c1 := storeLocal c (imageOf e.offC (ws.flatMap (fun w => bytesLE 8 w.1)))
      (g, poisonWords c1 (ws.zipIdx.filterMap fun (w, n) => if w.2 then some (e.offC / 8 + n) else none))
    else putTile acc (rwTile ta tb (oxK ta nk) rows (v (elemBytes tb)) e.offB (tile acc))
  | .accz _ ty acc => putTile acc { Tile.reset with kind := ty == .s32 }
  | .accld _ tb _ acc =>
    putTile acc (tileOf (tb == .s32) fun i j =>
      let n := elemBytes tb
      let a := e.offA + (16 * i + j) * n
      let code := natLE ((List.range n).map (fun k => (v n).byte (a + k)))
      (BitVec.ofNat 32 (if n = 4 then code else (convert (cvtTy tb) (.flt fmtF32) .rne false code).1), (v n).bad a))
  | .accst _ tb rm d _ _ _ acc sc =>
    let mode := selMode { g with round := e.round } rm
    let out := fun i j => drainElem (tile acc) tb mode (if sc then some (drainScale (v 4) e.offB e.offC i j) else none) i j
    let fl := (List.range 256).foldl (fun acc n => acc ||| (out (n / 16) (n % 16)).2.1) 0
    let g1 := raiseFlags g fl
    if d = 0x3FF#10 then
      let codes := (List.range 256).map (fun n => (out (n / 16) (n % 16)).1)
      let c1 := storeLocal c (imageOf e.offA (drainBytes tb codes))
      (g1, poisonWords c1 ((List.range 256).filterMap fun n =>
        if (out (n / 16) (n % 16)).2.2 then some ((e.offA + n * (cvtTy tb).bits / 8) / 8) else none))
    else
      ((lanesOf e.lanes).foldl (fun g2 l =>
        (List.range 16).foldl (fun g3 i =>
          let r := out i (l % 16)
          let g4 := setV g3 (d.toNat + i) l (extendTo32 (cvtTy tb) r.1)
          if r.2.2 then { g4 with vpoison := setAdd g4.vpoison (64 * (d.toNat + i) + l) } else g4) g2) g1, c)
  | .accmv _ acc acc2 => putTile acc (tile acc2)
  | .ldmeta _ _ mreg sp => ({ g with mregs := listSet g.mregs mreg.toNat (metaOf (v 4) e.offA sp) }, c)
  | _ => (g, c)

/-- OX_COMPLETE (R312): a started entry leaves the queue and its tile, metadata, registers, flags or scratch change. -/
def execOxComplete (core entry : Nat) (s : State) : Out :=
  let c := s.coreAt (keyDie core) (keyCore core)
  match c.oxq.find? (fun e => e.id == entry) with
  | none => .next s
  | some e =>
    match e.started, s.gang e.gang with
    | some (m0, p0), some g =>
      let v := fun u => oxView s.freeCtr (max 1 u) m0 p0 c.mem c.mpoison
      let r := oxEffect e v g { c with oxq := c.oxq.filter (fun o => o.id != entry) }
      .next (({ s with freeCtr := s.freeCtr + 2 ^ 20 }.putGang e.gang r.1).putCore (keyDie core) (keyCore core) r.2)
    | _, _ => .next s

end Sys2Proof.Machine
end

