-- ==== Sys2Proof/Machine/Barriers.lean ====
section
/-! DEFINITION. Barriers, `sleep` and `exit`, which can complete a barrier (R110, R121 to R126, R149 to R153). -/

namespace Sys2Proof.Machine

/-- Linear number of the thread in lane l (R114). -/
def threadOf (g : Gang) (l : Nat) : Nat := g.gangid * g.kd.gangw + l

/-- Arrival of a lane's thread at barrier b: 0 never, 1 open, 2 its generation completed (R150). -/
def arrivalOf (c : Cohort) (g : Gang) (l b : Nat) : Nat := spGet 0 c.arrivals (16 * threadOf g l + b)

def setArrivals (c : Cohort) (g : Gang) (m : LaneMask) (b : Nat) : Cohort :=
  { c with arrivals := (lanesOf m).foldl (fun a l => spSet 0 a (16 * threadOf g l + b) 1) c.arrivals }

/-- Every thread of the cohort that has not exited has an open arrival at b (R126). -/
def barrierComplete (s : State) (c : Cohort) (b : Nat) : Bool :=
  c.gangs.all fun gi =>
    match s.gang gi with
    | none => true
    | some g => (lanesOf (gangLanes g &&& ~~~g.exited)).all (fun l => arrivalOf c g l b == 1)

/-- Some arrival at b is open. -/
def barrierOpen (c : Cohort) (b : Nat) : Bool := c.arrivals.any (fun e => e.1 % 16 == b && e.2 == 1)

/-- Close every open arrival at b: its generation completed (R150). -/
def closeArrivals (c : Cohort) (b : Nat) : Cohort :=
  { c with arrivals := c.arrivals.map (fun e => if e.1 % 16 = b ∧ e.2 = 1 then (e.1, 2) else e) }

/-- The path waits at barrier b, at `bar` or `barw`. -/
def waitsAt (p : Path) (b : Nat) : Bool := p.st == .bar b || p.st == .barw b

/-- The lanes of the path that hold arrival state `x` at b. -/
def lanesAt (c : Cohort) (g : Gang) (p : Path) (b x : Nat) : LaneMask :=
  maskWhere (fun l => p.mask.getLsbD l && arrivalOf c g l b == x)

/-- The end of a wait at b for every path of the gang that waits there; the gang's core acquires (R151, R152), for which the loads and atomics of
the gang's other paths have come back first (L): until then the paths wait on. -/
def endWaits (s : State) (gi b : Nat) : State :=
  match s.gang gi with
  | none => s
  | some g =>
    match s.cohort g.cohort with
    | none => s
    | some c =>
      let ended := fun (p : Path) => waitsAt p b && lanesAt c g p b 1 == 0
      if g.ops.isEmpty && g.paths.any ended then flashL1 (s.putGang gi (wakePaths g ended s.seq)) g.die g.core else s

/-- A path of the gang waits at b for a generation that has completed. -/
def waitOver (s : State) (g : Gang) (b : Nat) : Bool :=
  match s.cohort g.cohort with
  | none => false
  | some c => g.ops.isEmpty && g.paths.any (fun p => waitsAt p b && lanesAt c g p b 1 == 0)

/-- The end of such a wait, which the gang's loads had put off (R152). -/
def execWaitEnd (gi b : Nat) (s : State) : Out :=
  match s.gang gi with
  | none => .next s
  | some g => .next (if waitOver s g b then endWaits s gi b else s)

/-- The cores of a cohort (R124). -/
def cohortCores (c : Cohort) : List Nat := if c.quartet then [c.core, c.core + 1, c.core + 2, c.core + 3] else [c.core]

/-- A quartet barrier merges the causal vectors of the four cores (R273, R423). -/
def mergeQuartet (s : State) (c : Cohort) : State :=
  if c.quartet then
    let all := (cohortCores c).foldl (fun acc k => mergeCV acc (s.coreAt c.die k).cv) []
    (cohortCores c).foldl (fun acc k => acc.putCore c.die k { acc.coreAt c.die k with cv := mergeCV (acc.coreAt c.die k).cv all }) s
  else s

/-- Complete barrier b if every thread that has not exited has arrived (R126): a new generation begins with no arrivals,
and every wait for the completed one ends. -/
def tryComplete (s : State) (ci b : Nat) : State :=
  match s.cohort ci with
  | none => s
  | some c =>
    if barrierOpen c b && barrierComplete s c b then
      c.gangs.foldl (fun acc gi => endWaits acc gi b) (mergeQuartet (s.putCohort ci (closeArrivals c b)) c)
    else s

/-- The frame of the barrier instructions (R149, R150): the guard once for the path; BARR for an id at or above `.bars`.
`f` gets the cohort. -/
def barrierInstr (i : Instr) (gd : Guard) (b : BitVec 4) (s : State) (f : Nat → Gang → Path → Cohort → Out) : Out :=
  issueChecked i [] (fun _ => true) s fun gi g p =>
    if guardLanes g p gd = 0 then finish s gi g p 8 (.ok g)
    else if g.kd.bars ≤ b.toNat then .next (s.trap gi g p (trapAll p cBARR 0 (b.setWidth 32)))
    else
      match s.cohort g.cohort with
      | none => finish s gi g p 8 (.ok g)
      | some c => f gi g p c


/-- An Ox instruction of the gang that writes scratch has not completed (R346). -/
def oxWrites (s : State) (gi : Nat) (g : Gang) : Bool :=
  (s.coreAt g.die g.core).oxq.any (fun e => e.gang == gi && (writtenExtent e).isSome)

/-- Arrive with every active lane, after the release of `fence.rel.coh` (R150, R152) and the Ox writes of the gang (R346):
the path goes on or is held in `st`. -/
def arriveAt (b : BitVec 4) (st : Option PathSt) (s : State) (gi : Nat) (g : Gang) (p : Path) (c : Cohort) : Out :=
  if undelivered g || oxWrites s gi g || otherOp g p.id (fun _ => true) then .next s
  else if lanesAt c g p b.toNat 1 != 0 then .next (s.trap gi g p (trapAt p cBARR 0 (lanesAt c g p b.toNat 1) (b.setWidth 32)))
  else
    let g2 := match st with
      | none => advance g p.id 8 s.seq
      | some x => holdPath g p.id 8 x s.seq
    .next (tryComplete ((s.putGang gi g2).putCohort g.cohort (setArrivals c g p.mask b.toNat)) g.cohort b.toNat)

/-- `bar` (R150): arrive and wait for the generation. -/
def execBar (gd : Guard) (b : BitVec 4) (s : State) : Out :=
  barrierInstr (.bar gd b) gd b s (arriveAt b (some (.bar b.toNat)) s)

/-- `bara` (R150): arrive and go on. -/
def execBara (gd : Guard) (b : BitVec 4) (s : State) : Out :=
  barrierInstr (.bara gd b) gd b s (arriveAt b none s)

/-- `barw` (R150, R152): wait for the generation of each lane's arrival; at once, with the acquire, if it completed. -/
def execBarw (gd : Guard) (b : BitVec 4) (s : State) : Out :=
  barrierInstr (.barw gd b) gd b s fun gi g p c =>
    if lanesAt c g p b.toNat 0 != 0 then .next (s.trap gi g p (trapAt p cBARR 0 (lanesAt c g p b.toNat 0) (b.setWidth 32)))
    else
      if lanesAt c g p b.toNat 1 != 0 then .next (s.putGang gi (holdPath g p.id 8 (.barw b.toNat) s.seq))
      else if otherOp g p.id (fun _ => true) then .next s
      else .next (flashL1 (s.putGang gi (advance g p.id 8 s.seq)) g.die g.core)

/-- `sleep` (R153): the path gives up its slices until the count ends; `sleep 0` acts as `yield`. -/
def execSleep (gd : Guard) (n : Imm20) (s : State) : Out :=
  issueChecked (.sleep gd n) [] (fun _ => true) s fun gi g p =>
    if guardLanes g p gd = 0 then finish s gi g p 8 (.ok g)
    else
      .next (s.putGang gi (if n = 0 then yieldSlices (movePath g p.id (p.pc + 8)) p.id s.seq
        else holdPath g p.id 8 (.sleep s.clock n.toNat) s.seq))

/-- SLEEP_END (R153): once the count of cycles has passed the path becomes ready again. -/
def execSleepEnd (gang path : Nat) (s : State) : Out :=
  match s.gang gang with
  | none => .next s
  | some g =>
    match findPath g.paths path with
    | none => .next s
    | some p =>
      match p.st with
      | .sleep start n =>
        if n ≤ (s.clock - start).toNat then .next (s.putGang gang (wakePath g path s.seq)) else .next s
      | _ => .next s

/-- `exit` (R110): the lanes with a true guard end. An exit can complete a barrier (R126). -/
def execExit (gd : Guard) (s : State) : Out :=
  issueChecked (.exit gd) [] (fun _ => true) s fun gi g p =>
    let m := guardLanes g p gd
    if m = 0 then finish s gi g p 8 (.ok g)
    else
      let s1 := s.putGang gi (reportLate (exitLanes g p.id m (p.pc + 8) s.seq))
      .next ((List.range 16).foldl (fun acc b => tryComplete acc g.cohort b) s1)

end Sys2Proof.Machine
end

