-- ==== Sys2Proof/Decode.lean ====
section
/-! DEFINITION. The decoder and the encoder of the instruction words (R56 to R65).

A word is split once into its fields (`Fields`); `decodeFields` reads the fields by the opcode map of R64 and refuses every
reserved encoding of R65, and `encodeFields` writes them. Words become bytes little-endian (R3, R56). The events of the
opcode table have no words: their encoding is the empty list of words and no word decodes to one. -/

namespace Sys2Proof

/-- Word 0 split by R57 and R58: four ten-bit operand fields between MAJ and MIN. -/
structure Fields where
  maj : BitVec 8
  f1 : Field10
  f2 : Field10
  f3 : Field10
  f4 : Field10
  mn : BitVec 4
  ty : BitVec 4
  gp : BitVec 4
  gn : BitVec 1
  rm : BitVec 3
  deriving DecidableEq, Repr

/-- The fields put together, high field first (R57, R58). -/
def Fields.pack (f : Fields) : DWord :=
  f.maj ++ f.f1 ++ f.f2 ++ f.f3 ++ f.f4 ++ f.mn ++ f.ty ++ f.gp ++ f.gn ++ f.rm

/-- The fields of a word (R57, R58). -/
def Fields.unpack (w : DWord) : Fields where
  maj := w.extractLsb' 56 8
  f1 := w.extractLsb' 46 10
  f2 := w.extractLsb' 36 10
  f3 := w.extractLsb' 26 10
  f4 := w.extractLsb' 16 10
  mn := w.extractLsb' 12 4
  ty := w.extractLsb' 8 4
  gp := w.extractLsb' 4 4
  gn := w.extractLsb' 3 1
  rm := w.extractLsb' 0 3

/-- The guard fields GP and GN (R57, R62). -/
def Fields.guard (f : Fields) : Guard := { gp := f.gp, gn := f.gn = 1#1 }

/-- BU of Format X (R58). -/
def Fields.bu (f : Fields) : Bool := f.f4.extractLsb' 9 1 = 1#1
/-- The reserved bit [24] of Format X (R58). -/
def Fields.xr (f : Fields) : BitVec 1 := f.f4.extractLsb' 8 1
/-- PD of Format X (R58). -/
def Fields.pd (f : Fields) : BitVec 4 := f.f4.extractLsb' 4 4
/-- PS of Format X, TS of a conversion, GW of `iaddw` (R58). -/
def Fields.ps (f : Fields) : BitVec 4 := f.f4.extractLsb' 0 4
/-- The B operand of Format X (R58). -/
def Fields.src (f : Fields) : Src := { bu := f.bu, b := f.f3 }
/-- IMM of Format I (R58). -/
def Fields.imm (f : Fields) : Imm20 := f.f3 ++ f.f4
/-- DISP of Format B (R58). -/
def Fields.disp (f : Fields) : BitVec 30 := f.f2 ++ f.f3 ++ f.f4

/-- Bits [25:16] of Format X (R58). -/
def packX (bu : Bool) (pd ps : BitVec 4) : Field10 := BitVec.ofBool bu ++ 0#1 ++ pd ++ ps

/-- The matrix layout of word 1 (R59), high field first. -/
structure MatrixWord where
  acc : BitVec 4
  mreg : BitVec 4
  nk : BitVec 4
  sp : BitVec 2
  tb : BitVec 4
  cmp : BitVec 1
  sc : BitVec 1
  acc2 : BitVec 4
  res : BitVec 40
  deriving DecidableEq, Repr

def MatrixWord.pack (m : MatrixWord) : DWord :=
  m.acc ++ m.mreg ++ m.nk ++ m.sp ++ m.tb ++ m.cmp ++ m.sc ++ m.acc2 ++ m.res

def MatrixWord.unpack (w : DWord) : MatrixWord where
  acc := w.extractLsb' 60 4
  mreg := w.extractLsb' 56 4
  nk := w.extractLsb' 52 4
  sp := w.extractLsb' 50 2
  tb := w.extractLsb' 46 4
  cmp := w.extractLsb' 45 1
  sc := w.extractLsb' 44 1
  acc2 := w.extractLsb' 40 4
  res := w.extractLsb' 0 40

/-- The asynchronous layout of word 1 (R59), high field first. -/
structure AsyncWord where
  tok : BitVec 4
  scope : BitVec 3
  named : BitVec 1
  tok2 : BitVec 4
  res : BitVec 52
  deriving DecidableEq, Repr

def AsyncWord.pack (m : AsyncWord) : DWord :=
  m.tok ++ m.scope ++ m.named ++ m.tok2 ++ m.res

def AsyncWord.unpack (w : DWord) : AsyncWord where
  tok := w.extractLsb' 60 4
  scope := w.extractLsb' 57 3
  named := w.extractLsb' 56 1
  tok2 := w.extractLsb' 52 4
  res := w.extractLsb' 0 52

/-- TY codes (R60). -/
def Ty.code : Ty → BitVec 4
  | .i32 => 0 | .s32 => 1 | .z32 => 2 | .s16 => 3 | .z16 => 4 | .s8 => 5 | .z8 => 6 | .s4 => 7
  | .z4 => 8 | .b32 => 9 | .b64 => 10 | .f32 => 11 | .f16 => 12 | .bf16 => 13 | .f8a => 14 | .f8b => 15

/-- The type of a TY code (R60): every code names one. -/
def Ty.ofCode (c : BitVec 4) : Ty :=
  match c.toNat with
  | 0 => .i32 | 1 => .s32 | 2 => .z32 | 3 => .s16 | 4 => .z16 | 5 => .s8 | 6 => .z8 | 7 => .s4
  | 8 => .z4 | 9 => .b32 | 10 => .b64 | 11 => .f32 | 12 => .f16 | 13 => .bf16 | 14 => .f8a | _ => .f8b

/-- Rounding selectors (R48). -/
def RSel.code : RSel → BitVec 3
  | .dyn => 0 | .rne => 1 | .rz => 2 | .rd => 3 | .ru => 4 | .ro => 5

def RSel.ofCode (c : BitVec 3) : Option RSel :=
  match c.toNat with
  | 0 => some .dyn | 1 => some .rne | 2 => some .rz | 3 => some .rd | 4 => some .ru | 5 => some .ro
  | _ => none

/-- Compare conditions (R61). -/
def Cond.code : Cond → BitVec 3
  | .eq => 0 | .ne => 1 | .lt => 2 | .le => 3 | .gt => 4 | .ge => 5 | .un => 6 | .or => 7

def Cond.ofCode (c : BitVec 3) : Cond :=
  match c.toNat with
  | 0 => .eq | 1 => .ne | 2 => .lt | 3 => .le | 4 => .gt | 5 => .ge | 6 => .un | _ => .or

/-- Spaces of MA[1:0] (R61). -/
def Space.code : Space → BitVec 2
  | .g => 0 | .s => 1 | .q => 2

def Space.ofCode (c : BitVec 2) : Option Space :=
  match c.toNat with
  | 0 => some .g | 1 => some .s | 2 => some .q | _ => none

/-- Atomic operations of MF (R64). -/
def AtomOp.code : AtomOp → BitVec 4
  | .add => 0 | .min => 1 | .max => 2 | .and => 3 | .or => 4 | .xor => 5 | .exch => 6 | .cas => 7 | .adds => 8

def AtomOp.ofCode (c : BitVec 4) : Option AtomOp :=
  match c.toNat with
  | 0 => some .add | 1 => some .min | 2 => some .max | 3 => some .and | 4 => some .or | 5 => some .xor
  | 6 => some .exch | 7 => some .cas | 8 => some .adds | _ => none

/-- Fence semantics of MF (R64). -/
def FenceSem.code : FenceSem → BitVec 4
  | .acq => 0 | .rel => 1 | .ar => 2 | .sc => 3

def FenceSem.ofCode (c : BitVec 4) : Option FenceSem :=
  match c.toNat with
  | 0 => some .acq | 1 => some .rel | 2 => some .ar | 3 => some .sc | _ => none

/-- Scopes of `fence` (R61) and of `flsig` (R59). -/
def Scope.code : Scope → BitVec 3
  | .gang => 0 | .coh => 1 | .die => 2 | .pkg => 3 | .sys => 4

def Scope.ofCode (c : BitVec 3) : Option Scope :=
  match c.toNat with
  | 0 => some .gang | 1 => some .coh | 2 => some .die | 3 => some .pkg | 4 => some .sys | _ => none

/-- Operations of the reductions and scans (R141). -/
def XOp.code : XOp → BitVec 4
  | .add => 0 | .min => 1 | .max => 2 | .and => 3 | .or => 4 | .xor => 5

def XOp.ofCode (c : BitVec 4) : Option XOp :=
  match c.toNat with
  | 0 => some .add | 1 => some .min | 2 => some .max | 3 => some .and | 4 => some .or | 5 => some .xor | _ => none

/-- The length of an instruction by its major opcode alone (R24, R56). -/
def isLong (maj : BitVec 8) : Bool :=
  let m := maj.toNat
  m = 0x0F || (0x1C ≤ m && m ≤ 0x1F) || (0xA0 ≤ m && m ≤ 0xBF)

/-- An instruction whose unused fields must be zero (R63, R65). -/
def need (ok : Bool) (i : Instr) : Option Instr := if ok then some i else none

/-- MA[2] of majors 0x80 to 0x84 (R61). -/
def Fields.ma2 (f : Fields) : Bool := f.rm.extractLsb' 2 1 = 1#1
/-- MF[3] of the memory majors (R64). -/
def Fields.na (f : Fields) : Bool := f.mn.extractLsb' 3 1 = 1#1
/-- The address fields of Format M (R58). -/
def Fields.mem (f : Fields) : MemAddr := { vw := f.mn.extractLsb' 2 1 = 1#1, sb := f.f2, vi := f.f3, off := f.f4 }

/-- The fields of an instruction, and its word 1 where it has one (R57 to R64). -/
def encodeFields : Instr → Option (Fields × Option DWord)
  | .sadd g ty d a b => some ({ maj := 0x00#8, f1 := d, f2 := a, f3 := b, f4 := 0#10, mn := 0#4, ty := ty.code, gp := g.gp, gn := BitVec.ofBool g.gn, rm := 0#3 }, none)
  | .saddImm g ty d a imm => some ({ maj := 0x01#8, f1 := d, f2 := a, f3 := imm.extractLsb' 10 10, f4 := imm.extractLsb' 0 10, mn := 0#4, ty := ty.code, gp := g.gp, gn := BitVec.ofBool g.gn, rm := 0#3 }, none)
  | .ssub g ty d a b => some ({ maj := 0x00#8, f1 := d, f2 := a, f3 := b, f4 := 0#10, mn := 1#4, ty := ty.code, gp := g.gp, gn := BitVec.ofBool g.gn, rm := 0#3 }, none)
  | .ssubImm g ty d a imm => some ({ maj := 0x01#8, f1 := d, f2 := a, f3 := imm.extractLsb' 10 10, f4 := imm.extractLsb' 0 10, mn := 1#4, ty := ty.code, gp := g.gp, gn := BitVec.ofBool g.gn, rm := 0#3 }, none)
  | .smul g ty d a b => some ({ maj := 0x00#8, f1 := d, f2 := a, f3 := b, f4 := 0#10, mn := 2#4, ty := ty.code, gp := g.gp, gn := BitVec.ofBool g.gn, rm := 0#3 }, none)
  | .smulImm g ty d a imm => some ({ maj := 0x01#8, f1 := d, f2 := a, f3 := imm.extractLsb' 10 10, f4 := imm.extractLsb' 0 10, mn := 2#4, ty := ty.code, gp := g.gp, gn := BitVec.ofBool g.gn, rm := 0#3 }, none)
  | .smulh g ty d a b => some ({ maj := 0x00#8, f1 := d, f2 := a, f3 := b, f4 := 0#10, mn := 3#4, ty := ty.code, gp := g.gp, gn := BitVec.ofBool g.gn, rm := 0#3 }, none)
  | .smulhImm g ty d a imm => some ({ maj := 0x01#8, f1 := d, f2 := a, f3 := imm.extractLsb' 10 10, f4 := imm.extractLsb' 0 10, mn := 3#4, ty := ty.code, gp := g.gp, gn := BitVec.ofBool g.gn, rm := 0#3 }, none)
  | .sand g ty d a b => some ({ maj := 0x00#8, f1 := d, f2 := a, f3 := b, f4 := 0#10, mn := 4#4, ty := ty.code, gp := g.gp, gn := BitVec.ofBool g.gn, rm := 0#3 }, none)
  | .sandImm g ty d a imm => some ({ maj := 0x01#8, f1 := d, f2 := a, f3 := imm.extractLsb' 10 10, f4 := imm.extractLsb' 0 10, mn := 4#4, ty := ty.code, gp := g.gp, gn := BitVec.ofBool g.gn, rm := 0#3 }, none)
  | .sor g ty d a b => some ({ maj := 0x00#8, f1 := d, f2 := a, f3 := b, f4 := 0#10, mn := 5#4, ty := ty.code, gp := g.gp, gn := BitVec.ofBool g.gn, rm := 0#3 }, none)
  | .sorImm g ty d a imm => some ({ maj := 0x01#8, f1 := d, f2 := a, f3 := imm.extractLsb' 10 10, f4 := imm.extractLsb' 0 10, mn := 5#4, ty := ty.code, gp := g.gp, gn := BitVec.ofBool g.gn, rm := 0#3 }, none)
  | .sxor g ty d a b => some ({ maj := 0x00#8, f1 := d, f2 := a, f3 := b, f4 := 0#10, mn := 6#4, ty := ty.code, gp := g.gp, gn := BitVec.ofBool g.gn, rm := 0#3 }, none)
  | .sxorImm g ty d a imm => some ({ maj := 0x01#8, f1 := d, f2 := a, f3 := imm.extractLsb' 10 10, f4 := imm.extractLsb' 0 10, mn := 6#4, ty := ty.code, gp := g.gp, gn := BitVec.ofBool g.gn, rm := 0#3 }, none)
  | .sshl g ty d a b => some ({ maj := 0x00#8, f1 := d, f2 := a, f3 := b, f4 := 0#10, mn := 7#4, ty := ty.code, gp := g.gp, gn := BitVec.ofBool g.gn, rm := 0#3 }, none)
  | .sshlImm g ty d a imm => some ({ maj := 0x01#8, f1 := d, f2 := a, f3 := imm.extractLsb' 10 10, f4 := imm.extractLsb' 0 10, mn := 7#4, ty := ty.code, gp := g.gp, gn := BitVec.ofBool g.gn, rm := 0#3 }, none)
  | .sshr g ty d a b => some ({ maj := 0x00#8, f1 := d, f2 := a, f3 := b, f4 := 0#10, mn := 8#4, ty := ty.code, gp := g.gp, gn := BitVec.ofBool g.gn, rm := 0#3 }, none)
  | .sshrImm g ty d a imm => some ({ maj := 0x01#8, f1 := d, f2 := a, f3 := imm.extractLsb' 10 10, f4 := imm.extractLsb' 0 10, mn := 8#4, ty := ty.code, gp := g.gp, gn := BitVec.ofBool g.gn, rm := 0#3 }, none)
  | .ssra g ty d a b => some ({ maj := 0x00#8, f1 := d, f2 := a, f3 := b, f4 := 0#10, mn := 9#4, ty := ty.code, gp := g.gp, gn := BitVec.ofBool g.gn, rm := 0#3 }, none)
  | .ssraImm g ty d a imm => some ({ maj := 0x01#8, f1 := d, f2 := a, f3 := imm.extractLsb' 10 10, f4 := imm.extractLsb' 0 10, mn := 9#4, ty := ty.code, gp := g.gp, gn := BitVec.ofBool g.gn, rm := 0#3 }, none)
  | .smin g ty d a b => some ({ maj := 0x00#8, f1 := d, f2 := a, f3 := b, f4 := 0#10, mn := 10#4, ty := ty.code, gp := g.gp, gn := BitVec.ofBool g.gn, rm := 0#3 }, none)
  | .sminImm g ty d a imm => some ({ maj := 0x01#8, f1 := d, f2 := a, f3 := imm.extractLsb' 10 10, f4 := imm.extractLsb' 0 10, mn := 10#4, ty := ty.code, gp := g.gp, gn := BitVec.ofBool g.gn, rm := 0#3 }, none)
  | .smax g ty d a b => some ({ maj := 0x00#8, f1 := d, f2 := a, f3 := b, f4 := 0#10, mn := 11#4, ty := ty.code, gp := g.gp, gn := BitVec.ofBool g.gn, rm := 0#3 }, none)
  | .smaxImm g ty d a imm => some ({ maj := 0x01#8, f1 := d, f2 := a, f3 := imm.extractLsb' 10 10, f4 := imm.extractLsb' 0 10, mn := 11#4, ty := ty.code, gp := g.gp, gn := BitVec.ofBool g.gn, rm := 0#3 }, none)
  | .smov g ty d a => some ({ maj := 0x00#8, f1 := d, f2 := a, f3 := 0#10, f4 := 0#10, mn := 12#4, ty := ty.code, gp := g.gp, gn := BitVec.ofBool g.gn, rm := 0#3 }, none)
  | .scmp g ty c d a b => some ({ maj := 0x00#8, f1 := d, f2 := a, f3 := b, f4 := 0#10, mn := 13#4, ty := ty.code, gp := g.gp, gn := BitVec.ofBool g.gn, rm := c.code }, none)
  | .ssel g ty d a b c => some ({ maj := 0x00#8, f1 := d, f2 := a, f3 := b, f4 := c, mn := 14#4, ty := ty.code, gp := g.gp, gn := BitVec.ofBool g.gn, rm := 0#3 }, none)
  | .scmpImm g ty c d a imm => some ({ maj := 0x01#8, f1 := d, f2 := a, f3 := imm.extractLsb' 10 10, f4 := imm.extractLsb' 0 10, mn := 13#4, ty := ty.code, gp := g.gp, gn := BitVec.ofBool g.gn, rm := c.code }, none)
  | .sliShort g d imm => some ({ maj := 0x02#8, f1 := d, f2 := 0#10, f3 := imm.extractLsb' 10 10, f4 := imm.extractLsb' 0 10, mn := 0#4, ty := 0#4, gp := g.gp, gn := BitVec.ofBool g.gn, rm := 0#3 }, none)
  | .sldArg g ty d imm => some ({ maj := 0x02#8, f1 := d, f2 := 0#10, f3 := imm.extractLsb' 10 10, f4 := imm.extractLsb' 0 10, mn := 1#4, ty := ty.code, gp := g.gp, gn := BitVec.ofBool g.gn, rm := 0#3 }, none)
  | .sliLong g d k => some ({ maj := 0x0F#8, f1 := d, f2 := 0#10, f3 := 0#10, f4 := 0#10, mn := 0#4, ty := 0#4, gp := g.gp, gn := BitVec.ofBool g.gn, rm := 0#3 }, some (0#32 ++ k))
  | .slih g d k => some ({ maj := 0x0F#8, f1 := d, f2 := 0#10, f3 := 0#10, f4 := 0#10, mn := 1#4, ty := 0#4, gp := g.gp, gn := BitVec.ofBool g.gn, rm := 0#3 }, some (k))
  | .iliLong g d k => some ({ maj := 0x0F#8, f1 := d, f2 := 0#10, f3 := 0#10, f4 := 0#10, mn := 2#4, ty := 0#4, gp := g.gp, gn := BitVec.ofBool g.gn, rm := 0#3 }, some (0#32 ++ k))
  | .iliB64 g d k => some ({ maj := 0x0F#8, f1 := d, f2 := 0#10, f3 := 0#10, f4 := 0#10, mn := 3#4, ty := 0#4, gp := g.gp, gn := BitVec.ofBool g.gn, rm := 0#3 }, some (k))
  | .jmp g disp => some ({ maj := 0x10#8, f1 := 0#10, f2 := disp.extractLsb' 20 10, f3 := disp.extractLsb' 10 10, f4 := disp.extractLsb' 0 10, mn := 0#4, ty := 0#4, gp := g.gp, gn := BitVec.ofBool g.gn, rm := 0#3 }, none)
  | .bru g a disp => some ({ maj := 0x10#8, f1 := a, f2 := disp.extractLsb' 20 10, f3 := disp.extractLsb' 10 10, f4 := disp.extractLsb' 0 10, mn := 1#4, ty := 0#4, gp := g.gp, gn := BitVec.ofBool g.gn, rm := 0#3 }, none)
  | .call g a disp => some ({ maj := 0x10#8, f1 := a, f2 := disp.extractLsb' 20 10, f3 := disp.extractLsb' 10 10, f4 := disp.extractLsb' 0 10, mn := 2#4, ty := 0#4, gp := g.gp, gn := BitVec.ofBool g.gn, rm := 0#3 }, none)
  | .lpb g a disp => some ({ maj := 0x10#8, f1 := a, f2 := disp.extractLsb' 20 10, f3 := disp.extractLsb' 10 10, f4 := disp.extractLsb' 0 10, mn := 3#4, ty := 0#4, gp := g.gp, gn := BitVec.ofBool g.gn, rm := 0#3 }, none)
  | .brx g a => some ({ maj := 0x11#8, f1 := 0#10, f2 := a, f3 := 0#10, f4 := 0#10, mn := 0#4, ty := 0#4, gp := g.gp, gn := BitVec.ofBool g.gn, rm := 0#3 }, none)
  | .callReg g d a => some ({ maj := 0x11#8, f1 := d, f2 := a, f3 := 0#10, f4 := 0#10, mn := 1#4, ty := 0#4, gp := g.gp, gn := BitVec.ofBool g.gn, rm := 0#3 }, none)
  | .ret g a => some ({ maj := 0x11#8, f1 := 0#10, f2 := a, f3 := 0#10, f4 := 0#10, mn := 2#4, ty := 0#4, gp := g.gp, gn := BitVec.ofBool g.gn, rm := 0#3 }, none)
  | .exit g => some ({ maj := 0x11#8, f1 := 0#10, f2 := 0#10, f3 := 0#10, f4 := 0#10, mn := 3#4, ty := 0#4, gp := g.gp, gn := BitVec.ofBool g.gn, rm := 0#3 }, none)
  | .yield g => some ({ maj := 0x11#8, f1 := 0#10, f2 := 0#10, f3 := 0#10, f4 := 0#10, mn := 4#4, ty := 0#4, gp := g.gp, gn := BitVec.ofBool g.gn, rm := 0#3 }, none)
  | .nop g => some ({ maj := 0x11#8, f1 := 0#10, f2 := 0#10, f3 := 0#10, f4 := 0#10, mn := 5#4, ty := 0#4, gp := g.gp, gn := BitVec.ofBool g.gn, rm := 0#3 }, none)
  | .brd g disp rej => some ({ maj := 0x1C#8, f1 := 0#10, f2 := disp.extractLsb' 20 10, f3 := disp.extractLsb' 10 10, f4 := disp.extractLsb' 0 10, mn := 0#4, ty := 0#4, gp := g.gp, gn := BitVec.ofBool g.gn, rm := 0#3 }, some (rej ++ 0#34))
  | .callFar g fd => some ({ maj := 0x1D#8, f1 := 0#10, f2 := 0#10, f3 := 0#10, f4 := 0#10, mn := 0#4, ty := 0#4, gp := g.gp, gn := BitVec.ofBool g.gn, rm := 0#3 }, some (fd))
  | .iadd g ty d a b => some ({ maj := 0x20#8, f1 := d, f2 := a, f3 := b.b, f4 := packX b.bu 0#4 0#4, mn := 0#4, ty := ty.code, gp := g.gp, gn := BitVec.ofBool g.gn, rm := 0#3 }, none)
  | .iaddImm g ty d a imm => some ({ maj := 0x24#8, f1 := d, f2 := a, f3 := imm.extractLsb' 10 10, f4 := imm.extractLsb' 0 10, mn := 0#4, ty := ty.code, gp := g.gp, gn := BitVec.ofBool g.gn, rm := 0#3 }, none)
  | .isub g ty d a b => some ({ maj := 0x20#8, f1 := d, f2 := a, f3 := b.b, f4 := packX b.bu 0#4 0#4, mn := 1#4, ty := ty.code, gp := g.gp, gn := BitVec.ofBool g.gn, rm := 0#3 }, none)
  | .isubImm g ty d a imm => some ({ maj := 0x24#8, f1 := d, f2 := a, f3 := imm.extractLsb' 10 10, f4 := imm.extractLsb' 0 10, mn := 1#4, ty := ty.code, gp := g.gp, gn := BitVec.ofBool g.gn, rm := 0#3 }, none)
  | .iadds g ty d a b => some ({ maj := 0x20#8, f1 := d, f2 := a, f3 := b.b, f4 := packX b.bu 0#4 0#4, mn := 2#4, ty := ty.code, gp := g.gp, gn := BitVec.ofBool g.gn, rm := 0#3 }, none)
  | .iaddsImm g ty d a imm => some ({ maj := 0x24#8, f1 := d, f2 := a, f3 := imm.extractLsb' 10 10, f4 := imm.extractLsb' 0 10, mn := 2#4, ty := ty.code, gp := g.gp, gn := BitVec.ofBool g.gn, rm := 0#3 }, none)
  | .imul g ty d a b => some ({ maj := 0x20#8, f1 := d, f2 := a, f3 := b.b, f4 := packX b.bu 0#4 0#4, mn := 3#4, ty := ty.code, gp := g.gp, gn := BitVec.ofBool g.gn, rm := 0#3 }, none)
  | .imulImm g ty d a imm => some ({ maj := 0x24#8, f1 := d, f2 := a, f3 := imm.extractLsb' 10 10, f4 := imm.extractLsb' 0 10, mn := 3#4, ty := ty.code, gp := g.gp, gn := BitVec.ofBool g.gn, rm := 0#3 }, none)
  | .imulh g ty d a b => some ({ maj := 0x20#8, f1 := d, f2 := a, f3 := b.b, f4 := packX b.bu 0#4 0#4, mn := 4#4, ty := ty.code, gp := g.gp, gn := BitVec.ofBool g.gn, rm := 0#3 }, none)
  | .imulhImm g ty d a imm => some ({ maj := 0x24#8, f1 := d, f2 := a, f3 := imm.extractLsb' 10 10, f4 := imm.extractLsb' 0 10, mn := 4#4, ty := ty.code, gp := g.gp, gn := BitVec.ofBool g.gn, rm := 0#3 }, none)
  | .imin g ty d a b => some ({ maj := 0x20#8, f1 := d, f2 := a, f3 := b.b, f4 := packX b.bu 0#4 0#4, mn := 5#4, ty := ty.code, gp := g.gp, gn := BitVec.ofBool g.gn, rm := 0#3 }, none)
  | .iminImm g ty d a imm => some ({ maj := 0x24#8, f1 := d, f2 := a, f3 := imm.extractLsb' 10 10, f4 := imm.extractLsb' 0 10, mn := 5#4, ty := ty.code, gp := g.gp, gn := BitVec.ofBool g.gn, rm := 0#3 }, none)
  | .imax g ty d a b => some ({ maj := 0x20#8, f1 := d, f2 := a, f3 := b.b, f4 := packX b.bu 0#4 0#4, mn := 6#4, ty := ty.code, gp := g.gp, gn := BitVec.ofBool g.gn, rm := 0#3 }, none)
  | .imaxImm g ty d a imm => some ({ maj := 0x24#8, f1 := d, f2 := a, f3 := imm.extractLsb' 10 10, f4 := imm.extractLsb' 0 10, mn := 6#4, ty := ty.code, gp := g.gp, gn := BitVec.ofBool g.gn, rm := 0#3 }, none)
  | .iand g ty d a b => some ({ maj := 0x20#8, f1 := d, f2 := a, f3 := b.b, f4 := packX b.bu 0#4 0#4, mn := 7#4, ty := ty.code, gp := g.gp, gn := BitVec.ofBool g.gn, rm := 0#3 }, none)
  | .iandImm g ty d a imm => some ({ maj := 0x24#8, f1 := d, f2 := a, f3 := imm.extractLsb' 10 10, f4 := imm.extractLsb' 0 10, mn := 7#4, ty := ty.code, gp := g.gp, gn := BitVec.ofBool g.gn, rm := 0#3 }, none)
  | .ior g ty d a b => some ({ maj := 0x20#8, f1 := d, f2 := a, f3 := b.b, f4 := packX b.bu 0#4 0#4, mn := 8#4, ty := ty.code, gp := g.gp, gn := BitVec.ofBool g.gn, rm := 0#3 }, none)
  | .iorImm g ty d a imm => some ({ maj := 0x24#8, f1 := d, f2 := a, f3 := imm.extractLsb' 10 10, f4 := imm.extractLsb' 0 10, mn := 8#4, ty := ty.code, gp := g.gp, gn := BitVec.ofBool g.gn, rm := 0#3 }, none)
  | .ixor g ty d a b => some ({ maj := 0x20#8, f1 := d, f2 := a, f3 := b.b, f4 := packX b.bu 0#4 0#4, mn := 9#4, ty := ty.code, gp := g.gp, gn := BitVec.ofBool g.gn, rm := 0#3 }, none)
  | .ixorImm g ty d a imm => some ({ maj := 0x24#8, f1 := d, f2 := a, f3 := imm.extractLsb' 10 10, f4 := imm.extractLsb' 0 10, mn := 9#4, ty := ty.code, gp := g.gp, gn := BitVec.ofBool g.gn, rm := 0#3 }, none)
  | .ishl g ty d a b => some ({ maj := 0x20#8, f1 := d, f2 := a, f3 := b.b, f4 := packX b.bu 0#4 0#4, mn := 10#4, ty := ty.code, gp := g.gp, gn := BitVec.ofBool g.gn, rm := 0#3 }, none)
  | .ishlImm g ty d a imm => some ({ maj := 0x24#8, f1 := d, f2 := a, f3 := imm.extractLsb' 10 10, f4 := imm.extractLsb' 0 10, mn := 10#4, ty := ty.code, gp := g.gp, gn := BitVec.ofBool g.gn, rm := 0#3 }, none)
  | .ishr g ty d a b => some ({ maj := 0x20#8, f1 := d, f2 := a, f3 := b.b, f4 := packX b.bu 0#4 0#4, mn := 11#4, ty := ty.code, gp := g.gp, gn := BitVec.ofBool g.gn, rm := 0#3 }, none)
  | .ishrImm g ty d a imm => some ({ maj := 0x24#8, f1 := d, f2 := a, f3 := imm.extractLsb' 10 10, f4 := imm.extractLsb' 0 10, mn := 11#4, ty := ty.code, gp := g.gp, gn := BitVec.ofBool g.gn, rm := 0#3 }, none)
  | .isra g ty d a b => some ({ maj := 0x20#8, f1 := d, f2 := a, f3 := b.b, f4 := packX b.bu 0#4 0#4, mn := 12#4, ty := ty.code, gp := g.gp, gn := BitVec.ofBool g.gn, rm := 0#3 }, none)
  | .israImm g ty d a imm => some ({ maj := 0x24#8, f1 := d, f2 := a, f3 := imm.extractLsb' 10 10, f4 := imm.extractLsb' 0 10, mn := 12#4, ty := ty.code, gp := g.gp, gn := BitVec.ofBool g.gn, rm := 0#3 }, none)
  | .irot g ty d a b => some ({ maj := 0x20#8, f1 := d, f2 := a, f3 := b.b, f4 := packX b.bu 0#4 0#4, mn := 13#4, ty := ty.code, gp := g.gp, gn := BitVec.ofBool g.gn, rm := 0#3 }, none)
  | .irotImm g ty d a imm => some ({ maj := 0x24#8, f1 := d, f2 := a, f3 := imm.extractLsb' 10 10, f4 := imm.extractLsb' 0 10, mn := 13#4, ty := ty.code, gp := g.gp, gn := BitVec.ofBool g.gn, rm := 0#3 }, none)
  | .icmp g ty c a b pd ps => some ({ maj := 0x20#8, f1 := 0#10, f2 := a, f3 := b.b, f4 := packX b.bu pd ps, mn := 14#4, ty := ty.code, gp := g.gp, gn := BitVec.ofBool g.gn, rm := c.code }, none)
  | .isel g ty d a b ps => some ({ maj := 0x20#8, f1 := d, f2 := a, f3 := b.b, f4 := packX b.bu 0#4 ps, mn := 15#4, ty := ty.code, gp := g.gp, gn := BitVec.ofBool g.gn, rm := 0#3 }, none)
  | .iabs g ty d b => some ({ maj := 0x21#8, f1 := d, f2 := 0#10, f3 := b.b, f4 := packX b.bu 0#4 0#4, mn := 0#4, ty := ty.code, gp := g.gp, gn := BitVec.ofBool g.gn, rm := 0#3 }, none)
  | .ineg g ty d b => some ({ maj := 0x21#8, f1 := d, f2 := 0#10, f3 := b.b, f4 := packX b.bu 0#4 0#4, mn := 1#4, ty := ty.code, gp := g.gp, gn := BitVec.ofBool g.gn, rm := 0#3 }, none)
  | .inot g ty d b => some ({ maj := 0x21#8, f1 := d, f2 := 0#10, f3 := b.b, f4 := packX b.bu 0#4 0#4, mn := 2#4, ty := ty.code, gp := g.gp, gn := BitVec.ofBool g.gn, rm := 0#3 }, none)
  | .ipopc g ty d b => some ({ maj := 0x21#8, f1 := d, f2 := 0#10, f3 := b.b, f4 := packX b.bu 0#4 0#4, mn := 3#4, ty := ty.code, gp := g.gp, gn := BitVec.ofBool g.gn, rm := 0#3 }, none)
  | .iclz g ty d b => some ({ maj := 0x21#8, f1 := d, f2 := 0#10, f3 := b.b, f4 := packX b.bu 0#4 0#4, mn := 4#4, ty := ty.code, gp := g.gp, gn := BitVec.ofBool g.gn, rm := 0#3 }, none)
  | .ibrev g ty d b => some ({ maj := 0x21#8, f1 := d, f2 := 0#10, f3 := b.b, f4 := packX b.bu 0#4 0#4, mn := 5#4, ty := ty.code, gp := g.gp, gn := BitVec.ofBool g.gn, rm := 0#3 }, none)
  | .imov g ty d b => some ({ maj := 0x21#8, f1 := d, f2 := 0#10, f3 := b.b, f4 := packX b.bu 0#4 0#4, mn := 6#4, ty := ty.code, gp := g.gp, gn := BitVec.ofBool g.gn, rm := 0#3 }, none)
  | .imad g ty d a b c => some ({ maj := 0x22#8, f1 := d, f2 := a, f3 := b, f4 := c, mn := 0#4, ty := ty.code, gp := g.gp, gn := BitVec.ofBool g.gn, rm := 0#3 }, none)
  | .ibfx g ty d a b c => some ({ maj := 0x22#8, f1 := d, f2 := a, f3 := b, f4 := c, mn := 1#4, ty := ty.code, gp := g.gp, gn := BitVec.ofBool g.gn, rm := 0#3 }, none)
  | .ibfi g ty d a b c => some ({ maj := 0x22#8, f1 := d, f2 := a, f3 := b, f4 := c, mn := 2#4, ty := ty.code, gp := g.gp, gn := BitVec.ofBool g.gn, rm := 0#3 }, none)
  | .idp4 g ty d a b c => some ({ maj := 0x22#8, f1 := d, f2 := a, f3 := b, f4 := c, mn := 3#4, ty := ty.code, gp := g.gp, gn := BitVec.ofBool g.gn, rm := 0#3 }, none)
  | .iaddc g ty d a b pd ps => some ({ maj := 0x23#8, f1 := d, f2 := a, f3 := b.b, f4 := packX b.bu pd ps, mn := 0#4, ty := ty.code, gp := g.gp, gn := BitVec.ofBool g.gn, rm := 0#3 }, none)
  | .isubb g ty d a b pd ps => some ({ maj := 0x23#8, f1 := d, f2 := a, f3 := b.b, f4 := packX b.bu pd ps, mn := 1#4, ty := ty.code, gp := g.gp, gn := BitVec.ofBool g.gn, rm := 0#3 }, none)
  | .iaddw g ty gw d a b pd => some ({ maj := 0x23#8, f1 := d, f2 := a, f3 := b.b, f4 := packX b.bu pd gw, mn := 2#4, ty := ty.code, gp := g.gp, gn := BitVec.ofBool g.gn, rm := 0#3 }, none)
  | .iliShort g d imm => some ({ maj := 0x25#8, f1 := d, f2 := 0#10, f3 := imm.extractLsb' 10 10, f4 := imm.extractLsb' 0 10, mn := 0#4, ty := 0#4, gp := g.gp, gn := BitVec.ofBool g.gn, rm := 0#3 }, none)
  | .fadd g ty rm d a b => some ({ maj := 0x40#8, f1 := d, f2 := a, f3 := b.b, f4 := packX b.bu 0#4 0#4, mn := 0#4, ty := ty.code, gp := g.gp, gn := BitVec.ofBool g.gn, rm := rm.code }, none)
  | .fsub g ty rm d a b => some ({ maj := 0x40#8, f1 := d, f2 := a, f3 := b.b, f4 := packX b.bu 0#4 0#4, mn := 1#4, ty := ty.code, gp := g.gp, gn := BitVec.ofBool g.gn, rm := rm.code }, none)
  | .fmul g ty rm d a b => some ({ maj := 0x40#8, f1 := d, f2 := a, f3 := b.b, f4 := packX b.bu 0#4 0#4, mn := 2#4, ty := ty.code, gp := g.gp, gn := BitVec.ofBool g.gn, rm := rm.code }, none)
  | .fmin g ty d a b => some ({ maj := 0x40#8, f1 := d, f2 := a, f3 := b.b, f4 := packX b.bu 0#4 0#4, mn := 3#4, ty := ty.code, gp := g.gp, gn := BitVec.ofBool g.gn, rm := 0#3 }, none)
  | .fmax g ty d a b => some ({ maj := 0x40#8, f1 := d, f2 := a, f3 := b.b, f4 := packX b.bu 0#4 0#4, mn := 4#4, ty := ty.code, gp := g.gp, gn := BitVec.ofBool g.gn, rm := 0#3 }, none)
  | .fcmp g c a b pd ps => some ({ maj := 0x40#8, f1 := 0#10, f2 := a, f3 := b.b, f4 := packX b.bu pd ps, mn := 5#4, ty := 11#4, gp := g.gp, gn := BitVec.ofBool g.gn, rm := c.code }, none)
  | .fscale g rm d a b => some ({ maj := 0x40#8, f1 := d, f2 := a, f3 := b.b, f4 := packX b.bu 0#4 0#4, mn := 6#4, ty := 11#4, gp := g.gp, gn := BitVec.ofBool g.gn, rm := rm.code }, none)
  | .fabs g ty d b => some ({ maj := 0x41#8, f1 := d, f2 := 0#10, f3 := b.b, f4 := packX b.bu 0#4 0#4, mn := 0#4, ty := ty.code, gp := g.gp, gn := BitVec.ofBool g.gn, rm := 0#3 }, none)
  | .fneg g ty d b => some ({ maj := 0x41#8, f1 := d, f2 := 0#10, f3 := b.b, f4 := packX b.bu 0#4 0#4, mn := 1#4, ty := ty.code, gp := g.gp, gn := BitVec.ofBool g.gn, rm := 0#3 }, none)
  | .fclass g d a b pd => some ({ maj := 0x41#8, f1 := d, f2 := a, f3 := b.b, f4 := packX b.bu pd 0#4, mn := 2#4, ty := 11#4, gp := g.gp, gn := BitVec.ofBool g.gn, rm := 0#3 }, none)
  | .frnd g rm d b => some ({ maj := 0x41#8, f1 := d, f2 := 0#10, f3 := b.b, f4 := packX b.bu 0#4 0#4, mn := 3#4, ty := 11#4, gp := g.gp, gn := BitVec.ofBool g.gn, rm := rm.code }, none)
  | .fgetexp g d b => some ({ maj := 0x41#8, f1 := d, f2 := 0#10, f3 := b.b, f4 := packX b.bu 0#4 0#4, mn := 4#4, ty := 11#4, gp := g.gp, gn := BitVec.ofBool g.gn, rm := 0#3 }, none)
  | .fma g ty rm d a b c => some ({ maj := 0x42#8, f1 := d, f2 := a, f3 := b, f4 := c, mn := 0#4, ty := ty.code, gp := g.gp, gn := BitVec.ofBool g.gn, rm := rm.code }, none)
  | .fdot2 g ty rm d a b c => some ({ maj := 0x42#8, f1 := d, f2 := a, f3 := b, f4 := c, mn := 1#4, ty := ty.code, gp := g.gp, gn := BitVec.ofBool g.gn, rm := rm.code }, none)
  | .fdot4 g ty rm d a b c => some ({ maj := 0x42#8, f1 := d, f2 := a, f3 := b, f4 := c, mn := 2#4, ty := ty.code, gp := g.gp, gn := BitVec.ofBool g.gn, rm := rm.code }, none)
  | .cvt g ty ts rm d b => some ({ maj := 0x60#8, f1 := d, f2 := 0#10, f3 := b.b, f4 := packX b.bu 0#4 ts.code, mn := 0#4, ty := ty.code, gp := g.gp, gn := BitVec.ofBool g.gn, rm := rm.code }, none)
  | .cvtq g ty ts rm d a b => some ({ maj := 0x60#8, f1 := d, f2 := a, f3 := b.b, f4 := packX b.bu 0#4 ts.code, mn := 1#4, ty := ty.code, gp := g.gp, gn := BitVec.ofBool g.gn, rm := rm.code }, none)
  | .cvtdq g ty ts rm d a b => some ({ maj := 0x60#8, f1 := d, f2 := a, f3 := b.b, f4 := packX b.bu 0#4 ts.code, mn := 2#4, ty := ty.code, gp := g.gp, gn := BitVec.ofBool g.gn, rm := rm.code }, none)
  | .pack g ty d a => some ({ maj := 0x60#8, f1 := d, f2 := a, f3 := 0#10, f4 := 0#10, mn := 3#4, ty := ty.code, gp := g.gp, gn := BitVec.ofBool g.gn, rm := 0#3 }, none)
  | .unpk g ty d b => some ({ maj := 0x60#8, f1 := d, f2 := 0#10, f3 := b.b, f4 := packX b.bu 0#4 0#4, mn := 4#4, ty := ty.code, gp := g.gp, gn := BitVec.ofBool g.gn, rm := 0#3 }, none)
  | .fexp2 g d a => some ({ maj := 0x68#8, f1 := d, f2 := a, f3 := 0#10, f4 := 0#10, mn := 0#4, ty := 11#4, gp := g.gp, gn := BitVec.ofBool g.gn, rm := 0#3 }, none)
  | .flog2 g d a => some ({ maj := 0x68#8, f1 := d, f2 := a, f3 := 0#10, f4 := 0#10, mn := 1#4, ty := 11#4, gp := g.gp, gn := BitVec.ofBool g.gn, rm := 0#3 }, none)
  | .frcp g d a => some ({ maj := 0x68#8, f1 := d, f2 := a, f3 := 0#10, f4 := 0#10, mn := 2#4, ty := 11#4, gp := g.gp, gn := BitVec.ofBool g.gn, rm := 0#3 }, none)
  | .frsqrt g d a => some ({ maj := 0x68#8, f1 := d, f2 := a, f3 := 0#10, f4 := 0#10, mn := 3#4, ty := 11#4, gp := g.gp, gn := BitVec.ofBool g.gn, rm := 0#3 }, none)
  | .fsqrt g d a => some ({ maj := 0x68#8, f1 := d, f2 := a, f3 := 0#10, f4 := 0#10, mn := 4#4, ty := 11#4, gp := g.gp, gn := BitVec.ofBool g.gn, rm := 0#3 }, none)
  | .fsin g d a => some ({ maj := 0x68#8, f1 := d, f2 := a, f3 := 0#10, f4 := 0#10, mn := 5#4, ty := 11#4, gp := g.gp, gn := BitVec.ofBool g.gn, rm := 0#3 }, none)
  | .fcos g d a => some ({ maj := 0x68#8, f1 := d, f2 := a, f3 := 0#10, f4 := 0#10, mn := 6#4, ty := 11#4, gp := g.gp, gn := BitVec.ofBool g.gn, rm := 0#3 }, none)
  | .ftanh g d a => some ({ maj := 0x68#8, f1 := d, f2 := a, f3 := 0#10, f4 := 0#10, mn := 7#4, ty := 11#4, gp := g.gp, gn := BitVec.ofBool g.gn, rm := 0#3 }, none)
  | .fsigm g d a => some ({ maj := 0x68#8, f1 := d, f2 := a, f3 := 0#10, f4 := 0#10, mn := 8#4, ty := 11#4, gp := g.gp, gn := BitVec.ofBool g.gn, rm := 0#3 }, none)
  | .ferf g d a => some ({ maj := 0x68#8, f1 := d, f2 := a, f3 := 0#10, f4 := 0#10, mn := 9#4, ty := 11#4, gp := g.gp, gn := BitVec.ofBool g.gn, rm := 0#3 }, none)
  | .rstat g rm d a b n => some ({ maj := 0x69#8, f1 := d, f2 := a, f3 := b, f4 := 0#6 ++ n, mn := 0#4, ty := 11#4, gp := g.gp, gn := BitVec.ofBool g.gn, rm := rm.code }, none)
  | .vote g d a pd ps => some ({ maj := 0x70#8, f1 := d, f2 := a, f3 := 0#10, f4 := packX false pd ps, mn := 0#4, ty := 0#4, gp := g.gp, gn := BitVec.ofBool g.gn, rm := 0#3 }, none)
  | .shfl g ty d a b => some ({ maj := 0x70#8, f1 := d, f2 := a, f3 := b.b, f4 := packX b.bu 0#4 0#4, mn := 1#4, ty := ty.code, gp := g.gp, gn := BitVec.ofBool g.gn, rm := 0#3 }, none)
  | .xred g ty rm op ud d a b => some ({ maj := 0x70#8, f1 := d, f2 := a, f3 := b.b, f4 := packX b.bu (0#3 ++ BitVec.ofBool ud) op.code, mn := 2#4, ty := ty.code, gp := g.gp, gn := BitVec.ofBool g.gn, rm := rm.code }, none)
  | .xscan g ty rm op inc d a b => some ({ maj := 0x70#8, f1 := d, f2 := a, f3 := b.b, f4 := packX b.bu (0#3 ++ BitVec.ofBool inc) op.code, mn := 3#4, ty := ty.code, gp := g.gp, gn := BitVec.ofBool g.gn, rm := rm.code }, none)
  | .xmatch g ty d a b => some ({ maj := 0x70#8, f1 := d, f2 := a, f3 := b.b, f4 := packX b.bu 0#4 0#4, mn := 4#4, ty := ty.code, gp := g.gp, gn := BitVec.ofBool g.gn, rm := 0#3 }, none)
  | .xcomp g ty d a b pd ps => some ({ maj := 0x70#8, f1 := d, f2 := a, f3 := b.b, f4 := packX b.bu pd ps, mn := 5#4, ty := ty.code, gp := g.gp, gn := BitVec.ofBool g.gn, rm := 0#3 }, none)
  | .xexp g ty d a b pd ps => some ({ maj := 0x70#8, f1 := d, f2 := a, f3 := b.b, f4 := packX b.bu pd ps, mn := 6#4, ty := ty.code, gp := g.gp, gn := BitVec.ofBool g.gn, rm := 0#3 }, none)
  | .ld g ty sp cau na d m => some ({ maj := 0x80#8, f1 := d, f2 := m.sb, f3 := m.vi, f4 := m.off, mn := BitVec.ofBool na ++ BitVec.ofBool m.vw ++ 0#2, ty := ty.code, gp := g.gp, gn := BitVec.ofBool g.gn, rm := BitVec.ofBool cau ++ sp.code }, none)
  | .st g ty sp blk na d m => some ({ maj := 0x81#8, f1 := d, f2 := m.sb, f3 := m.vi, f4 := m.off, mn := BitVec.ofBool na ++ BitVec.ofBool m.vw ++ 0#2, ty := ty.code, gp := g.gp, gn := BitVec.ofBool g.gn, rm := BitVec.ofBool blk ++ sp.code }, none)
  | .ldb g sp na bl d m => some ({ maj := 0x82#8, f1 := d, f2 := m.sb, f3 := m.vi, f4 := m.off, mn := BitVec.ofBool na ++ BitVec.ofBool m.vw ++ bl, ty := 9#4, gp := g.gp, gn := BitVec.ofBool g.gn, rm := 0#1 ++ sp.code }, none)
  | .stb g sp na bl d m => some ({ maj := 0x83#8, f1 := d, f2 := m.sb, f3 := m.vi, f4 := m.off, mn := BitVec.ofBool na ++ BitVec.ofBool m.vw ++ bl, ty := 9#4, gp := g.gp, gn := BitVec.ofBool g.gn, rm := 0#1 ++ sp.code }, none)
  | .atom g op ty sp d sb vi off => some ({ maj := 0x84#8, f1 := d, f2 := sb, f3 := vi, f4 := off, mn := op.code, ty := ty.code, gp := g.gp, gn := BitVec.ofBool g.gn, rm := 0#1 ++ sp.code }, none)
  | .fence g sem sc => some ({ maj := 0x85#8, f1 := 0#10, f2 := 0#10, f3 := 0#10, f4 := 0#10, mn := sem.code, ty := 0#4, gp := g.gp, gn := BitVec.ofBool g.gn, rm := sc.code }, none)
  | .cinvAll g => some ({ maj := 0x86#8, f1 := 1#10, f2 := noField, f3 := noField, f4 := 0#10, mn := 0#4, ty := 0#4, gp := g.gp, gn := BitVec.ofBool g.gn, rm := 0#3 }, none)
  | .cinvLine g m => some ({ maj := 0x86#8, f1 := 0#10, f2 := m.sb, f3 := m.vi, f4 := m.off, mn := 0#1 ++ BitVec.ofBool m.vw ++ 0#2, ty := 0#4, gp := g.gp, gn := BitVec.ofBool g.gn, rm := 0#3 }, none)
  | .cwb g m => some ({ maj := 0x87#8, f1 := 0#10, f2 := m.sb, f3 := m.vi, f4 := m.off, mn := 0#1 ++ BitVec.ofBool m.vw ++ 0#2, ty := 0#4, gp := g.gp, gn := BitVec.ofBool g.gn, rm := 0#3 }, none)
  | .prf g m => some ({ maj := 0x88#8, f1 := 0#10, f2 := m.sb, f3 := m.vi, f4 := m.off, mn := 0#1 ++ BitVec.ofBool m.vw ++ 0#2, ty := 0#4, gp := g.gp, gn := BitVec.ofBool g.gn, rm := 0#3 }, none)
  | .prfL2 g m => some ({ maj := 0x88#8, f1 := 1#10, f2 := m.sb, f3 := m.vi, f4 := m.off, mn := 0#1 ++ BitVec.ofBool m.vw ++ 0#2, ty := 0#4, gp := g.gp, gn := BitVec.ofBool g.gn, rm := 0#3 }, none)
  | .tld g d sb vi off => some ({ maj := 0x89#8, f1 := d, f2 := sb, f3 := vi, f4 := off, mn := 0#4, ty := 9#4, gp := g.gp, gn := BitVec.ofBool g.gn, rm := 0#3 }, none)
  | .tldi g d sb vi off => some ({ maj := 0x8A#8, f1 := d, f2 := sb, f3 := vi, f4 := off, mn := 0#4, ty := 11#4, gp := g.gp, gn := BitVec.ofBool g.gn, rm := 0#3 }, none)
  | .oxip g ta tb a b acc mreg nk sp => some ({ maj := 0xA0#8, f1 := 0#10, f2 := a, f3 := b, f4 := 0#10, mn := 0#4, ty := ta.code, gp := g.gp, gn := BitVec.ofBool g.gn, rm := 0#3 }, some (MatrixWord.pack { acc := acc, mreg := mreg, nk := nk, sp := sp, tb := tb.code, cmp := 0, sc := 0, acc2 := 0, res := 0 }))
  | .oxop g ta tb a b acc nk cs => some ({ maj := 0xA1#8, f1 := 0#10, f2 := a, f3 := b, f4 := 0#10, mn := 0#4, ty := ta.code, gp := g.gp, gn := BitVec.ofBool g.gn, rm := 0#3 }, some (MatrixWord.pack { acc := acc, mreg := 0, nk := nk, sp := 0#1 ++ BitVec.ofBool cs, tb := tb.code, cmp := 0, sc := 0, acc2 := 0, res := 0 }))
  | .oxrw g ta tb a b c acc nk cmp => some ({ maj := 0xA2#8, f1 := 0#10, f2 := a, f3 := b, f4 := c, mn := 0#4, ty := ta.code, gp := g.gp, gn := BitVec.ofBool g.gn, rm := 0#3 }, some (MatrixWord.pack { acc := acc, mreg := 0, nk := nk, sp := 1, tb := tb.code, cmp := BitVec.ofBool cmp, sc := 0, acc2 := 0, res := 0 }))
  | .accz g ty acc => some ({ maj := 0xA3#8, f1 := 0#10, f2 := 0#10, f3 := 0#10, f4 := 0#10, mn := 0#4, ty := ty.code, gp := g.gp, gn := BitVec.ofBool g.gn, rm := 0#3 }, some (MatrixWord.pack { acc := acc, mreg := 0, nk := 0, sp := 0, tb := 0, cmp := 0, sc := 0, acc2 := 0, res := 0 }))
  | .accld g tb a acc => some ({ maj := 0xA3#8, f1 := 0#10, f2 := a, f3 := 0#10, f4 := 0#10, mn := 1#4, ty := 0#4, gp := g.gp, gn := BitVec.ofBool g.gn, rm := 0#3 }, some (MatrixWord.pack { acc := acc, mreg := 0, nk := 0, sp := 0, tb := tb.code, cmp := 0, sc := 0, acc2 := 0, res := 0 }))
  | .accst g tb rm d a b c acc sc => some ({ maj := 0xA3#8, f1 := d, f2 := a, f3 := b, f4 := c, mn := 2#4, ty := 0#4, gp := g.gp, gn := BitVec.ofBool g.gn, rm := rm.code }, some (MatrixWord.pack { acc := acc, mreg := 0, nk := 0, sp := 0, tb := tb.code, cmp := 0, sc := BitVec.ofBool sc, acc2 := 0, res := 0 }))
  | .accmv g acc acc2 => some ({ maj := 0xA3#8, f1 := 0#10, f2 := 0#10, f3 := 0#10, f4 := 0#10, mn := 3#4, ty := 0#4, gp := g.gp, gn := BitVec.ofBool g.gn, rm := 0#3 }, some (MatrixWord.pack { acc := acc, mreg := 0, nk := 0, sp := 0, tb := 0, cmp := 0, sc := 0, acc2 := acc2, res := 0 }))
  | .ldmeta g a mreg sp => some ({ maj := 0xA3#8, f1 := 0#10, f2 := a, f3 := 0#10, f4 := 0#10, mn := 4#4, ty := 0#4, gp := g.gp, gn := BitVec.ofBool g.gn, rm := 0#3 }, some (MatrixWord.pack { acc := 0, mreg := mreg, nk := 0, sp := sp, tb := 0, cmp := 0, sc := 0, acc2 := 0, res := 0 }))
  | .cp g a tok => some ({ maj := 0xB0#8, f1 := 0#10, f2 := a, f3 := 0#10, f4 := 0#10, mn := 0#4, ty := 0#4, gp := g.gp, gn := BitVec.ofBool g.gn, rm := 0#3 }, some (AsyncWord.pack { tok := tok, scope := 0, named := 0, tok2 := 0, res := 0 }))
  | .cpz g a tok => some ({ maj := 0xB0#8, f1 := 0#10, f2 := a, f3 := 0#10, f4 := 0#10, mn := 1#4, ty := 0#4, gp := g.gp, gn := BitVec.ofBool g.gn, rm := 0#3 }, some (AsyncWord.pack { tok := tok, scope := 0, named := 0, tok2 := 0, res := 0 }))
  | .cpx g a tok => some ({ maj := 0xB0#8, f1 := 0#10, f2 := a, f3 := 0#10, f4 := 0#10, mn := 2#4, ty := 0#4, gp := g.gp, gn := BitVec.ofBool g.gn, rm := 0#3 }, some (AsyncWord.pack { tok := tok, scope := 0, named := 0, tok2 := 0, res := 0 }))
  | .cpg g a b tok => some ({ maj := 0xB0#8, f1 := 0#10, f2 := a, f3 := b, f4 := 0#10, mn := 3#4, ty := 0#4, gp := g.gp, gn := BitVec.ofBool g.gn, rm := 0#3 }, some (AsyncWord.pack { tok := tok, scope := 0, named := 0, tok2 := 0, res := 0 }))
  | .cps g a b tok => some ({ maj := 0xB0#8, f1 := 0#10, f2 := a, f3 := b, f4 := 0#10, mn := 4#4, ty := 0#4, gp := g.gp, gn := BitVec.ofBool g.gn, rm := 0#3 }, some (AsyncWord.pack { tok := tok, scope := 0, named := 0, tok2 := 0, res := 0 }))
  | .flsig g sc named tok tok2 => some ({ maj := 0xB0#8, f1 := 0#10, f2 := 0#10, f3 := 0#10, f4 := 0#10, mn := 5#4, ty := 0#4, gp := g.gp, gn := BitVec.ofBool g.gn, rm := 0#3 }, some (AsyncWord.pack { tok := tok, scope := sc.code, named := BitVec.ofBool named, tok2 := tok2, res := 0 }))
  | .tload g loc a tok => some ({ maj := 0xB0#8, f1 := 0#9 ++ BitVec.ofBool loc, f2 := a, f3 := 0#10, f4 := 0#10, mn := 6#4, ty := 0#4, gp := g.gp, gn := BitVec.ofBool g.gn, rm := 0#3 }, some (AsyncWord.pack { tok := tok, scope := 0, named := 0, tok2 := 0, res := 0 }))
  | .twait g tok => some ({ maj := 0xB1#8, f1 := 0#10, f2 := 0#10, f3 := 0#10, f4 := 0#10, mn := 0#4, ty := 0#4, gp := g.gp, gn := BitVec.ofBool g.gn, rm := 0#3 }, some (AsyncWord.pack { tok := tok, scope := 0, named := 0, tok2 := 0, res := 0 }))
  | .tpoll g d tok => some ({ maj := 0xB1#8, f1 := d, f2 := 0#10, f3 := 0#10, f4 := 0#10, mn := 1#4, ty := 0#4, gp := g.gp, gn := BitVec.ofBool g.gn, rm := 0#3 }, some (AsyncWord.pack { tok := tok, scope := 0, named := 0, tok2 := 0, res := 0 }))
  | .bar g b => some ({ maj := 0xC0#8, f1 := 0#10, f2 := 0#10, f3 := 0#10, f4 := 0#6 ++ b, mn := 0#4, ty := 0#4, gp := g.gp, gn := BitVec.ofBool g.gn, rm := 0#3 }, none)
  | .bara g b => some ({ maj := 0xC0#8, f1 := 0#10, f2 := 0#10, f3 := 0#10, f4 := 0#6 ++ b, mn := 1#4, ty := 0#4, gp := g.gp, gn := BitVec.ofBool g.gn, rm := 0#3 }, none)
  | .barw g b => some ({ maj := 0xC0#8, f1 := 0#10, f2 := 0#10, f3 := 0#10, f4 := 0#6 ++ b, mn := 2#4, ty := 0#4, gp := g.gp, gn := BitVec.ofBool g.gn, rm := 0#3 }, none)
  | .sleep g imm => some ({ maj := 0xC0#8, f1 := 0#10, f2 := 0#10, f3 := imm.extractLsb' 10 10, f4 := imm.extractLsb' 0 10, mn := 3#4, ty := 0#4, gp := g.gp, gn := BitVec.ofBool g.gn, rm := 0#3 }, none)
  | .lmark g imm => some ({ maj := 0xD0#8, f1 := 0#10, f2 := 0#10, f3 := imm.extractLsb' 10 10, f4 := imm.extractLsb' 0 10, mn := 0#4, ty := 0#4, gp := g.gp, gn := BitVec.ofBool g.gn, rm := 0#3 }, none)
  | .capctl g imm => some ({ maj := 0xD0#8, f1 := 0#10, f2 := 0#10, f3 := imm.extractLsb' 10 10, f4 := imm.extractLsb' 0 10, mn := 1#4, ty := 0#4, gp := g.gp, gn := BitVec.ofBool g.gn, rm := 0#3 }, none)
  | .capload g a imm => some ({ maj := 0xD0#8, f1 := 0#10, f2 := a, f3 := imm.extractLsb' 10 10, f4 := imm.extractLsb' 0 10, mn := 2#4, ty := 0#4, gp := g.gp, gn := BitVec.ofBool g.gn, rm := 0#3 }, none)
  | .capsave g d a imm => some ({ maj := 0xD0#8, f1 := d, f2 := a, f3 := imm.extractLsb' 10 10, f4 := imm.extractLsb' 0 10, mn := 3#4, ty := 0#4, gp := g.gp, gn := BitVec.ofBool g.gn, rm := 0#3 }, none)
  | .capdrop g imm => some ({ maj := 0xD0#8, f1 := 0#10, f2 := 0#10, f3 := imm.extractLsb' 10 10, f4 := imm.extractLsb' 0 10, mn := 4#4, ty := 0#4, gp := g.gp, gn := BitVec.ofBool g.gn, rm := 0#3 }, none)
  | .trap g code => some ({ maj := 0xE0#8, f1 := 0#10, f2 := 0#10, f3 := 0#4 ++ code.extractLsb' 10 6, f4 := code.extractLsb' 0 10, mn := 0#4, ty := 0#4, gp := g.gp, gn := BitVec.ofBool g.gn, rm := 0#3 }, none)
  | .brk g code => some ({ maj := 0xE0#8, f1 := 0#10, f2 := 0#10, f3 := 0#4 ++ code.extractLsb' 10 6, f4 := code.extractLsb' 0 10, mn := 1#4, ty := 0#4, gp := g.gp, gn := BitVec.ofBool g.gn, rm := 0#3 }, none)
  | .eret g => some ({ maj := 0xE0#8, f1 := 0#10, f2 := 0#10, f3 := 0#10, f4 := 0#10, mn := 2#4, ty := 0#4, gp := g.gp, gn := BitVec.ofBool g.gn, rm := 0#3 }, none)
  | .mfs g vec d reg => some ({ maj := 0xE0#8, f1 := d, f2 := 0#10, f3 := BitVec.ofBool vec ++ 0#9, f4 := reg, mn := 3#4, ty := 0#4, gp := g.gp, gn := BitVec.ofBool g.gn, rm := 0#3 }, none)
  | .mts g a reg => some ({ maj := 0xE0#8, f1 := 0#10, f2 := a, f3 := 0#10, f4 := reg, mn := 4#4, ty := 0#4, gp := g.gp, gn := BitVec.ofBool g.gn, rm := 0#3 }, none)
  | _ => none

/-- The members of major 0x00 (R64). -/
def decodeMaj00 (f : Fields) : Option Instr :=
  match f.mn.toNat with
  | 0 => need (f.f4 = 0 && f.rm = 0) (.sadd f.guard (.ofCode f.ty) f.f1 f.f2 f.f3)
  | 1 => need (f.f4 = 0 && f.rm = 0) (.ssub f.guard (.ofCode f.ty) f.f1 f.f2 f.f3)
  | 2 => need (f.f4 = 0 && f.rm = 0) (.smul f.guard (.ofCode f.ty) f.f1 f.f2 f.f3)
  | 3 => need (f.f4 = 0 && f.rm = 0) (.smulh f.guard (.ofCode f.ty) f.f1 f.f2 f.f3)
  | 4 => need (f.f4 = 0 && f.rm = 0) (.sand f.guard (.ofCode f.ty) f.f1 f.f2 f.f3)
  | 5 => need (f.f4 = 0 && f.rm = 0) (.sor f.guard (.ofCode f.ty) f.f1 f.f2 f.f3)
  | 6 => need (f.f4 = 0 && f.rm = 0) (.sxor f.guard (.ofCode f.ty) f.f1 f.f2 f.f3)
  | 7 => need (f.f4 = 0 && f.rm = 0) (.sshl f.guard (.ofCode f.ty) f.f1 f.f2 f.f3)
  | 8 => need (f.f4 = 0 && f.rm = 0) (.sshr f.guard (.ofCode f.ty) f.f1 f.f2 f.f3)
  | 9 => need (f.f4 = 0 && f.rm = 0) (.ssra f.guard (.ofCode f.ty) f.f1 f.f2 f.f3)
  | 10 => need (f.f4 = 0 && f.rm = 0) (.smin f.guard (.ofCode f.ty) f.f1 f.f2 f.f3)
  | 11 => need (f.f4 = 0 && f.rm = 0) (.smax f.guard (.ofCode f.ty) f.f1 f.f2 f.f3)
  | 12 => need (f.f3 = 0 && f.f4 = 0 && f.rm = 0) (.smov f.guard (.ofCode f.ty) f.f1 f.f2)
  | 13 => need (f.f4 = 0) (.scmp f.guard (.ofCode f.ty) (.ofCode f.rm) f.f1 f.f2 f.f3)
  | 14 => need (f.rm = 0) (.ssel f.guard (.ofCode f.ty) f.f1 f.f2 f.f3 f.f4)
  | _ => none

/-- The members of major 0x01 (R64). -/
def decodeMaj01 (f : Fields) : Option Instr :=
  match f.mn.toNat with
  | 0 => need (f.rm = 0) (.saddImm f.guard (.ofCode f.ty) f.f1 f.f2 f.imm)
  | 1 => need (f.rm = 0) (.ssubImm f.guard (.ofCode f.ty) f.f1 f.f2 f.imm)
  | 2 => need (f.rm = 0) (.smulImm f.guard (.ofCode f.ty) f.f1 f.f2 f.imm)
  | 3 => need (f.rm = 0) (.smulhImm f.guard (.ofCode f.ty) f.f1 f.f2 f.imm)
  | 4 => need (f.rm = 0) (.sandImm f.guard (.ofCode f.ty) f.f1 f.f2 f.imm)
  | 5 => need (f.rm = 0) (.sorImm f.guard (.ofCode f.ty) f.f1 f.f2 f.imm)
  | 6 => need (f.rm = 0) (.sxorImm f.guard (.ofCode f.ty) f.f1 f.f2 f.imm)
  | 7 => need (f.rm = 0) (.sshlImm f.guard (.ofCode f.ty) f.f1 f.f2 f.imm)
  | 8 => need (f.rm = 0) (.sshrImm f.guard (.ofCode f.ty) f.f1 f.f2 f.imm)
  | 9 => need (f.rm = 0) (.ssraImm f.guard (.ofCode f.ty) f.f1 f.f2 f.imm)
  | 10 => need (f.rm = 0) (.sminImm f.guard (.ofCode f.ty) f.f1 f.f2 f.imm)
  | 11 => need (f.rm = 0) (.smaxImm f.guard (.ofCode f.ty) f.f1 f.f2 f.imm)
  | 13 => need (true) (.scmpImm f.guard (.ofCode f.ty) (.ofCode f.rm) f.f1 f.f2 f.imm)
  | _ => none

/-- The members of major 0x02 (R64). -/
def decodeMaj02 (f : Fields) : Option Instr :=
  match f.mn.toNat with
  | 0 => need (f.f2 = 0 && f.ty = 0 && f.rm = 0) (.sliShort f.guard f.f1 f.imm)
  | 1 => need (f.f2 = 0 && f.rm = 0) (.sldArg f.guard (.ofCode f.ty) f.f1 f.imm)
  | _ => none

/-- The members of major 0x0F (R64). -/
def decodeMaj0F (f : Fields) (w1 : DWord) : Option Instr :=
  match f.mn.toNat with
  | 0 => need (f.f2 = 0 && f.f3 = 0 && f.f4 = 0 && f.ty = 0 && f.rm = 0 && w1.extractLsb' 32 32 = 0) (.sliLong f.guard f.f1 (w1.extractLsb' 0 32))
  | 1 => need (f.f2 = 0 && f.f3 = 0 && f.f4 = 0 && f.ty = 0 && f.rm = 0) (.slih f.guard f.f1 w1)
  | 2 => need (f.f2 = 0 && f.f3 = 0 && f.f4 = 0 && f.ty = 0 && f.rm = 0 && w1.extractLsb' 32 32 = 0) (.iliLong f.guard f.f1 (w1.extractLsb' 0 32))
  | 3 => need (f.f2 = 0 && f.f3 = 0 && f.f4 = 0 && f.ty = 0 && f.rm = 0) (.iliB64 f.guard f.f1 w1)
  | _ => none

/-- The members of major 0x10 (R64). -/
def decodeMaj10 (f : Fields) : Option Instr :=
  match f.mn.toNat with
  | 0 => need (f.f1 = 0 && f.ty = 0 && f.rm = 0) (.jmp f.guard f.disp)
  | 1 => need (f.ty = 0 && f.rm = 0) (.bru f.guard f.f1 f.disp)
  | 2 => need (f.ty = 0 && f.rm = 0) (.call f.guard f.f1 f.disp)
  | 3 => need (f.ty = 0 && f.rm = 0) (.lpb f.guard f.f1 f.disp)
  | _ => none

/-- The members of major 0x11 (R64). -/
def decodeMaj11 (f : Fields) : Option Instr :=
  match f.mn.toNat with
  | 0 => need (f.f1 = 0 && f.f3 = 0 && f.f4 = 0 && f.ty = 0 && f.rm = 0) (.brx f.guard f.f2)
  | 1 => need (f.f3 = 0 && f.f4 = 0 && f.ty = 0 && f.rm = 0) (.callReg f.guard f.f1 f.f2)
  | 2 => need (f.f1 = 0 && f.f3 = 0 && f.f4 = 0 && f.ty = 0 && f.rm = 0) (.ret f.guard f.f2)
  | 3 => need (f.f1 = 0 && f.f2 = 0 && f.f3 = 0 && f.f4 = 0 && f.ty = 0 && f.rm = 0) (.exit f.guard)
  | 4 => need (f.f1 = 0 && f.f2 = 0 && f.f3 = 0 && f.f4 = 0 && f.ty = 0 && f.rm = 0) (.yield f.guard)
  | 5 => need (f.f1 = 0 && f.f2 = 0 && f.f3 = 0 && f.f4 = 0 && f.ty = 0 && f.rm = 0) (.nop f.guard)
  | _ => none

/-- The members of major 0x1C (R64). -/
def decodeMaj1C (f : Fields) (w1 : DWord) : Option Instr :=
  match f.mn.toNat with
  | 0 => need (f.f1 = 0 && f.ty = 0 && f.rm = 0 && w1.extractLsb' 0 34 = 0) (.brd f.guard f.disp (w1.extractLsb' 34 30))
  | _ => none

/-- The members of major 0x1D (R64). -/
def decodeMaj1D (f : Fields) (w1 : DWord) : Option Instr :=
  match f.mn.toNat with
  | 0 => need (f.f1 = 0 && f.f2 = 0 && f.f3 = 0 && f.f4 = 0 && f.ty = 0 && f.rm = 0) (.callFar f.guard w1)
  | _ => none

/-- The members of major 0x20 (R64). -/
def decodeMaj20 (f : Fields) : Option Instr :=
  match f.mn.toNat with
  | 0 => need (f.xr = 0 && f.pd = 0 && f.ps = 0 && f.rm = 0) (.iadd f.guard (.ofCode f.ty) f.f1 f.f2 f.src)
  | 1 => need (f.xr = 0 && f.pd = 0 && f.ps = 0 && f.rm = 0) (.isub f.guard (.ofCode f.ty) f.f1 f.f2 f.src)
  | 2 => need (f.xr = 0 && f.pd = 0 && f.ps = 0 && f.rm = 0) (.iadds f.guard (.ofCode f.ty) f.f1 f.f2 f.src)
  | 3 => need (f.xr = 0 && f.pd = 0 && f.ps = 0 && f.rm = 0) (.imul f.guard (.ofCode f.ty) f.f1 f.f2 f.src)
  | 4 => need (f.xr = 0 && f.pd = 0 && f.ps = 0 && f.rm = 0) (.imulh f.guard (.ofCode f.ty) f.f1 f.f2 f.src)
  | 5 => need (f.xr = 0 && f.pd = 0 && f.ps = 0 && f.rm = 0) (.imin f.guard (.ofCode f.ty) f.f1 f.f2 f.src)
  | 6 => need (f.xr = 0 && f.pd = 0 && f.ps = 0 && f.rm = 0) (.imax f.guard (.ofCode f.ty) f.f1 f.f2 f.src)
  | 7 => need (f.xr = 0 && f.pd = 0 && f.ps = 0 && f.rm = 0) (.iand f.guard (.ofCode f.ty) f.f1 f.f2 f.src)
  | 8 => need (f.xr = 0 && f.pd = 0 && f.ps = 0 && f.rm = 0) (.ior f.guard (.ofCode f.ty) f.f1 f.f2 f.src)
  | 9 => need (f.xr = 0 && f.pd = 0 && f.ps = 0 && f.rm = 0) (.ixor f.guard (.ofCode f.ty) f.f1 f.f2 f.src)
  | 10 => need (f.xr = 0 && f.pd = 0 && f.ps = 0 && f.rm = 0) (.ishl f.guard (.ofCode f.ty) f.f1 f.f2 f.src)
  | 11 => need (f.xr = 0 && f.pd = 0 && f.ps = 0 && f.rm = 0) (.ishr f.guard (.ofCode f.ty) f.f1 f.f2 f.src)
  | 12 => need (f.xr = 0 && f.pd = 0 && f.ps = 0 && f.rm = 0) (.isra f.guard (.ofCode f.ty) f.f1 f.f2 f.src)
  | 13 => need (f.xr = 0 && f.pd = 0 && f.ps = 0 && f.rm = 0) (.irot f.guard (.ofCode f.ty) f.f1 f.f2 f.src)
  | 14 => need (f.xr = 0 && f.f1 = 0) (.icmp f.guard (.ofCode f.ty) (.ofCode f.rm) f.f2 f.src f.pd f.ps)
  | 15 => need (f.xr = 0 && f.pd = 0 && f.rm = 0) (.isel f.guard (.ofCode f.ty) f.f1 f.f2 f.src f.ps)
  | _ => none

/-- The members of major 0x21 (R64). -/
def decodeMaj21 (f : Fields) : Option Instr :=
  match f.mn.toNat with
  | 0 => need (f.xr = 0 && f.pd = 0 && f.ps = 0 && f.f2 = 0 && f.rm = 0) (.iabs f.guard (.ofCode f.ty) f.f1 f.src)
  | 1 => need (f.xr = 0 && f.pd = 0 && f.ps = 0 && f.f2 = 0 && f.rm = 0) (.ineg f.guard (.ofCode f.ty) f.f1 f.src)
  | 2 => need (f.xr = 0 && f.pd = 0 && f.ps = 0 && f.f2 = 0 && f.rm = 0) (.inot f.guard (.ofCode f.ty) f.f1 f.src)
  | 3 => need (f.xr = 0 && f.pd = 0 && f.ps = 0 && f.f2 = 0 && f.rm = 0) (.ipopc f.guard (.ofCode f.ty) f.f1 f.src)
  | 4 => need (f.xr = 0 && f.pd = 0 && f.ps = 0 && f.f2 = 0 && f.rm = 0) (.iclz f.guard (.ofCode f.ty) f.f1 f.src)
  | 5 => need (f.xr = 0 && f.pd = 0 && f.ps = 0 && f.f2 = 0 && f.rm = 0) (.ibrev f.guard (.ofCode f.ty) f.f1 f.src)
  | 6 => need (f.xr = 0 && f.pd = 0 && f.ps = 0 && f.f2 = 0 && f.rm = 0) (.imov f.guard (.ofCode f.ty) f.f1 f.src)
  | _ => none

/-- The members of major 0x22 (R64). -/
def decodeMaj22 (f : Fields) : Option Instr :=
  match f.mn.toNat with
  | 0 => need (f.rm = 0) (.imad f.guard (.ofCode f.ty) f.f1 f.f2 f.f3 f.f4)
  | 1 => need (f.rm = 0) (.ibfx f.guard (.ofCode f.ty) f.f1 f.f2 f.f3 f.f4)
  | 2 => need (f.rm = 0) (.ibfi f.guard (.ofCode f.ty) f.f1 f.f2 f.f3 f.f4)
  | 3 => need (f.rm = 0) (.idp4 f.guard (.ofCode f.ty) f.f1 f.f2 f.f3 f.f4)
  | _ => none

/-- The members of major 0x23 (R64). -/
def decodeMaj23 (f : Fields) : Option Instr :=
  match f.mn.toNat with
  | 0 => need (f.xr = 0 && f.rm = 0) (.iaddc f.guard (.ofCode f.ty) f.f1 f.f2 f.src f.pd f.ps)
  | 1 => need (f.xr = 0 && f.rm = 0) (.isubb f.guard (.ofCode f.ty) f.f1 f.f2 f.src f.pd f.ps)
  | 2 => need (f.xr = 0 && f.rm = 0) (.iaddw f.guard (.ofCode f.ty) f.ps f.f1 f.f2 f.src f.pd)
  | _ => none

/-- The members of major 0x24 (R64). -/
def decodeMaj24 (f : Fields) : Option Instr :=
  match f.mn.toNat with
  | 0 => need (f.rm = 0) (.iaddImm f.guard (.ofCode f.ty) f.f1 f.f2 f.imm)
  | 1 => need (f.rm = 0) (.isubImm f.guard (.ofCode f.ty) f.f1 f.f2 f.imm)
  | 2 => need (f.rm = 0) (.iaddsImm f.guard (.ofCode f.ty) f.f1 f.f2 f.imm)
  | 3 => need (f.rm = 0) (.imulImm f.guard (.ofCode f.ty) f.f1 f.f2 f.imm)
  | 4 => need (f.rm = 0) (.imulhImm f.guard (.ofCode f.ty) f.f1 f.f2 f.imm)
  | 5 => need (f.rm = 0) (.iminImm f.guard (.ofCode f.ty) f.f1 f.f2 f.imm)
  | 6 => need (f.rm = 0) (.imaxImm f.guard (.ofCode f.ty) f.f1 f.f2 f.imm)
  | 7 => need (f.rm = 0) (.iandImm f.guard (.ofCode f.ty) f.f1 f.f2 f.imm)
  | 8 => need (f.rm = 0) (.iorImm f.guard (.ofCode f.ty) f.f1 f.f2 f.imm)
  | 9 => need (f.rm = 0) (.ixorImm f.guard (.ofCode f.ty) f.f1 f.f2 f.imm)
  | 10 => need (f.rm = 0) (.ishlImm f.guard (.ofCode f.ty) f.f1 f.f2 f.imm)
  | 11 => need (f.rm = 0) (.ishrImm f.guard (.ofCode f.ty) f.f1 f.f2 f.imm)
  | 12 => need (f.rm = 0) (.israImm f.guard (.ofCode f.ty) f.f1 f.f2 f.imm)
  | 13 => need (f.rm = 0) (.irotImm f.guard (.ofCode f.ty) f.f1 f.f2 f.imm)
  | _ => none

/-- The members of major 0x25 (R64). -/
def decodeMaj25 (f : Fields) : Option Instr :=
  match f.mn.toNat with
  | 0 => need (f.f2 = 0 && f.ty = 0 && f.rm = 0) (.iliShort f.guard f.f1 f.imm)
  | _ => none

/-- The members of major 0x40 (R64). -/
def decodeMaj40 (f : Fields) : Option Instr :=
  match f.mn.toNat with
  | 0 => (RSel.ofCode f.rm).bind fun rm => need (f.xr = 0 && f.pd = 0 && f.ps = 0) (.fadd f.guard (.ofCode f.ty) rm f.f1 f.f2 f.src)
  | 1 => (RSel.ofCode f.rm).bind fun rm => need (f.xr = 0 && f.pd = 0 && f.ps = 0) (.fsub f.guard (.ofCode f.ty) rm f.f1 f.f2 f.src)
  | 2 => (RSel.ofCode f.rm).bind fun rm => need (f.xr = 0 && f.pd = 0 && f.ps = 0) (.fmul f.guard (.ofCode f.ty) rm f.f1 f.f2 f.src)
  | 3 => need (f.xr = 0 && f.pd = 0 && f.ps = 0 && f.rm = 0) (.fmin f.guard (.ofCode f.ty) f.f1 f.f2 f.src)
  | 4 => need (f.xr = 0 && f.pd = 0 && f.ps = 0 && f.rm = 0) (.fmax f.guard (.ofCode f.ty) f.f1 f.f2 f.src)
  | 5 => need (f.xr = 0 && f.f1 = 0 && f.ty = 11) (.fcmp f.guard (.ofCode f.rm) f.f2 f.src f.pd f.ps)
  | 6 => (RSel.ofCode f.rm).bind fun rm => need (f.xr = 0 && f.pd = 0 && f.ps = 0 && f.ty = 11) (.fscale f.guard rm f.f1 f.f2 f.src)
  | _ => none

/-- The members of major 0x41 (R64). -/
def decodeMaj41 (f : Fields) : Option Instr :=
  match f.mn.toNat with
  | 0 => need (f.xr = 0 && f.pd = 0 && f.ps = 0 && f.f2 = 0 && f.rm = 0) (.fabs f.guard (.ofCode f.ty) f.f1 f.src)
  | 1 => need (f.xr = 0 && f.pd = 0 && f.ps = 0 && f.f2 = 0 && f.rm = 0) (.fneg f.guard (.ofCode f.ty) f.f1 f.src)
  | 2 => need (f.xr = 0 && f.ps = 0 && f.ty = 11 && f.rm = 0) (.fclass f.guard f.f1 f.f2 f.src f.pd)
  | 3 => (RSel.ofCode f.rm).bind fun rm => need (f.xr = 0 && f.pd = 0 && f.ps = 0 && f.f2 = 0 && f.ty = 11) (.frnd f.guard rm f.f1 f.src)
  | 4 => need (f.xr = 0 && f.pd = 0 && f.ps = 0 && f.f2 = 0 && f.ty = 11 && f.rm = 0) (.fgetexp f.guard f.f1 f.src)
  | _ => none

/-- The members of major 0x42 (R64). -/
def decodeMaj42 (f : Fields) : Option Instr :=
  match f.mn.toNat with
  | 0 => (RSel.ofCode f.rm).bind fun rm => need (true) (.fma f.guard (.ofCode f.ty) rm f.f1 f.f2 f.f3 f.f4)
  | 1 => (RSel.ofCode f.rm).bind fun rm => need (true) (.fdot2 f.guard (.ofCode f.ty) rm f.f1 f.f2 f.f3 f.f4)
  | 2 => (RSel.ofCode f.rm).bind fun rm => need (true) (.fdot4 f.guard (.ofCode f.ty) rm f.f1 f.f2 f.f3 f.f4)
  | _ => none

/-- The members of major 0x60 (R64). -/
def decodeMaj60 (f : Fields) : Option Instr :=
  match f.mn.toNat with
  | 0 => (RSel.ofCode f.rm).bind fun rm => need (f.xr = 0 && f.pd = 0 && f.f2 = 0) (.cvt f.guard (.ofCode f.ty) (.ofCode f.ps) rm f.f1 f.src)
  | 1 => (RSel.ofCode f.rm).bind fun rm => need (f.xr = 0 && f.pd = 0) (.cvtq f.guard (.ofCode f.ty) (.ofCode f.ps) rm f.f1 f.f2 f.src)
  | 2 => (RSel.ofCode f.rm).bind fun rm => need (f.xr = 0 && f.pd = 0) (.cvtdq f.guard (.ofCode f.ty) (.ofCode f.ps) rm f.f1 f.f2 f.src)
  | 3 => need (f.f3 = 0 && f.f4 = 0 && f.rm = 0) (.pack f.guard (.ofCode f.ty) f.f1 f.f2)
  | 4 => need (f.xr = 0 && f.pd = 0 && f.ps = 0 && f.f2 = 0 && f.rm = 0) (.unpk f.guard (.ofCode f.ty) f.f1 f.src)
  | _ => none

/-- The members of major 0x68 (R64). -/
def decodeMaj68 (f : Fields) : Option Instr :=
  match f.mn.toNat with
  | 0 => need (f.f3 = 0 && f.f4 = 0 && f.rm = 0 && f.ty = 11) (.fexp2 f.guard f.f1 f.f2)
  | 1 => need (f.f3 = 0 && f.f4 = 0 && f.rm = 0 && f.ty = 11) (.flog2 f.guard f.f1 f.f2)
  | 2 => need (f.f3 = 0 && f.f4 = 0 && f.rm = 0 && f.ty = 11) (.frcp f.guard f.f1 f.f2)
  | 3 => need (f.f3 = 0 && f.f4 = 0 && f.rm = 0 && f.ty = 11) (.frsqrt f.guard f.f1 f.f2)
  | 4 => need (f.f3 = 0 && f.f4 = 0 && f.rm = 0 && f.ty = 11) (.fsqrt f.guard f.f1 f.f2)
  | 5 => need (f.f3 = 0 && f.f4 = 0 && f.rm = 0 && f.ty = 11) (.fsin f.guard f.f1 f.f2)
  | 6 => need (f.f3 = 0 && f.f4 = 0 && f.rm = 0 && f.ty = 11) (.fcos f.guard f.f1 f.f2)
  | 7 => need (f.f3 = 0 && f.f4 = 0 && f.rm = 0 && f.ty = 11) (.ftanh f.guard f.f1 f.f2)
  | 8 => need (f.f3 = 0 && f.f4 = 0 && f.rm = 0 && f.ty = 11) (.fsigm f.guard f.f1 f.f2)
  | 9 => need (f.f3 = 0 && f.f4 = 0 && f.rm = 0 && f.ty = 11) (.ferf f.guard f.f1 f.f2)
  | _ => none

/-- The members of major 0x69 (R64). -/
def decodeMaj69 (f : Fields) : Option Instr :=
  match f.mn.toNat with
  | 0 => (RSel.ofCode f.rm).bind fun rm => need (f.ty = 11 && f.f4.extractLsb' 4 6 = 0) (.rstat f.guard rm f.f1 f.f2 f.f3 (f.f4.extractLsb' 0 4))
  | _ => none

/-- The members of major 0x70 (R64). -/
def decodeMaj70 (f : Fields) : Option Instr :=
  match f.mn.toNat with
  | 0 => need (!f.bu && f.xr = 0 && f.f3 = 0 && f.ty = 0 && f.rm = 0) (.vote f.guard f.f1 f.f2 f.pd f.ps)
  | 1 => need (f.xr = 0 && f.pd = 0 && f.ps = 0 && f.rm = 0) (.shfl f.guard (.ofCode f.ty) f.f1 f.f2 f.src)
  | 2 => (RSel.ofCode f.rm).bind fun rm => (XOp.ofCode f.ps).bind fun op => need (f.xr = 0 && f.pd.extractLsb' 1 3 = 0) (.xred f.guard (.ofCode f.ty) rm op (f.pd.extractLsb' 0 1 = 1#1) f.f1 f.f2 f.src)
  | 3 => (RSel.ofCode f.rm).bind fun rm => (XOp.ofCode f.ps).bind fun op => need (f.xr = 0 && f.pd.extractLsb' 1 3 = 0) (.xscan f.guard (.ofCode f.ty) rm op (f.pd.extractLsb' 0 1 = 1#1) f.f1 f.f2 f.src)
  | 4 => need (f.xr = 0 && f.pd = 0 && f.ps = 0 && f.rm = 0) (.xmatch f.guard (.ofCode f.ty) f.f1 f.f2 f.src)
  | 5 => need (f.xr = 0 && f.rm = 0) (.xcomp f.guard (.ofCode f.ty) f.f1 f.f2 f.src f.pd f.ps)
  | 6 => need (f.xr = 0 && f.rm = 0) (.xexp f.guard (.ofCode f.ty) f.f1 f.f2 f.src f.pd f.ps)
  | _ => none

/-- The members of major 0x80 (R64). -/
def decodeMaj80 (f : Fields) : Option Instr :=
  (Space.ofCode (f.rm.extractLsb' 0 2)).bind fun sp => need (f.mn.extractLsb' 0 2 = 0) (.ld f.guard (.ofCode f.ty) sp f.ma2 f.na f.f1 f.mem)

/-- The members of major 0x81 (R64). -/
def decodeMaj81 (f : Fields) : Option Instr :=
  (Space.ofCode (f.rm.extractLsb' 0 2)).bind fun sp => need (f.mn.extractLsb' 0 2 = 0) (.st f.guard (.ofCode f.ty) sp f.ma2 f.na f.f1 f.mem)

/-- The members of major 0x82 (R64). -/
def decodeMaj82 (f : Fields) : Option Instr :=
  (Space.ofCode (f.rm.extractLsb' 0 2)).bind fun sp => need (!f.ma2 && f.ty = 9) (.ldb f.guard sp f.na (f.mn.extractLsb' 0 2) f.f1 f.mem)

/-- The members of major 0x83 (R64). -/
def decodeMaj83 (f : Fields) : Option Instr :=
  (Space.ofCode (f.rm.extractLsb' 0 2)).bind fun sp => need (!f.ma2 && f.ty = 9) (.stb f.guard sp f.na (f.mn.extractLsb' 0 2) f.f1 f.mem)

/-- The members of major 0x84 (R64). -/
def decodeMaj84 (f : Fields) : Option Instr :=
  (AtomOp.ofCode f.mn).bind fun op => (Space.ofCode (f.rm.extractLsb' 0 2)).bind fun sp => need (!f.ma2) (.atom f.guard op (.ofCode f.ty) sp f.f1 f.f2 f.f3 f.f4)

/-- The members of major 0x85 (R64). -/
def decodeMaj85 (f : Fields) : Option Instr :=
  (FenceSem.ofCode f.mn).bind fun sem => (Scope.ofCode f.rm).bind fun sc => need (f.f1 = 0 && f.f2 = 0 && f.f3 = 0 && f.f4 = 0 && f.ty = 0) (.fence f.guard sem sc)

/-- The members of major 0x86 (R64). -/
def decodeMaj86 (f : Fields) : Option Instr :=
  (need (f.f1 = 1#10 && f.f2 = noField && f.f3 = noField && f.f4 = 0 && f.mn = 0 && f.ty = 0 && f.rm = 0) (.cinvAll f.guard)) <|> (need (f.f1 = 0#10 && !f.na && f.mn.extractLsb' 0 2 = 0 && f.ty = 0 && f.rm = 0) (.cinvLine f.guard f.mem))

/-- The members of major 0x87 (R64). -/
def decodeMaj87 (f : Fields) : Option Instr :=
  need (f.f1 = 0#10 && !f.na && f.mn.extractLsb' 0 2 = 0 && f.ty = 0 && f.rm = 0) (.cwb f.guard f.mem)

/-- The members of major 0x88 (R64). -/
def decodeMaj88 (f : Fields) : Option Instr :=
  (need (f.f1 = 0#10 && !f.na && f.mn.extractLsb' 0 2 = 0 && f.ty = 0 && f.rm = 0) (.prf f.guard f.mem)) <|> (need (f.f1 = 1#10 && !f.na && f.mn.extractLsb' 0 2 = 0 && f.ty = 0 && f.rm = 0) (.prfL2 f.guard f.mem))

/-- The members of major 0x89 (R64). -/
def decodeMaj89 (f : Fields) : Option Instr :=
  need (f.mn = 0 && f.ty = 9 && f.rm = 0) (.tld f.guard f.f1 f.f2 f.f3 f.f4)

/-- The members of major 0x8A (R64). -/
def decodeMaj8A (f : Fields) : Option Instr :=
  need (f.mn = 0 && f.ty = 11 && f.rm = 0) (.tldi f.guard f.f1 f.f2 f.f3 f.f4)

/-- The members of major 0xA0 (R64): `oxip`, with the fields R327 works out for one instruction. -/
def decodeMajA0 (f : Fields) (w1 : DWord) : Option Instr :=
  match f.mn.toNat with
  | 0 => let m := MatrixWord.unpack w1; need (f.f1 = 0 && f.f4 = 0 && f.rm = 0 && m.cmp = 0 && m.sc = 0 && m.acc2 = 0 && m.res = 0) (.oxip f.guard (.ofCode f.ty) (.ofCode m.tb) f.f2 f.f3 m.acc m.mreg m.nk m.sp)
  | _ => none

/-- The members of major 0xA1 (R64). -/
def decodeMajA1 (f : Fields) (w1 : DWord) : Option Instr :=
  match f.mn.toNat with
  | 0 => let m := MatrixWord.unpack w1; need (f.f1 = 0 && f.f4 = 0 && f.rm = 0 && m.mreg = 0 && m.cmp = 0 && m.sc = 0 && m.acc2 = 0 && m.res = 0 && m.sp.extractLsb' 1 1 = 0) (.oxop f.guard (.ofCode f.ty) (.ofCode m.tb) f.f2 f.f3 m.acc m.nk (m.sp.extractLsb' 0 1 = 1#1))
  | _ => none

/-- The members of major 0xA2 (R64). -/
def decodeMajA2 (f : Fields) (w1 : DWord) : Option Instr :=
  match f.mn.toNat with
  | 0 => let m := MatrixWord.unpack w1; need (f.f1 = 0 && f.rm = 0 && m.mreg = 0 && m.sc = 0 && m.acc2 = 0 && m.res = 0 && m.sp = 1) (.oxrw f.guard (.ofCode f.ty) (.ofCode m.tb) f.f2 f.f3 f.f4 m.acc m.nk (m.cmp = 1#1))
  | _ => none

/-- The members of major 0xA3 (R64). -/
def decodeMajA3 (f : Fields) (w1 : DWord) : Option Instr :=
  match f.mn.toNat with
  | 0 => let m := MatrixWord.unpack w1; need (f.f1 = 0 && f.f2 = 0 && f.f3 = 0 && f.f4 = 0 && f.rm = 0 && m.mreg = 0 && m.nk = 0 && m.sp = 0 && m.tb = 0 && m.cmp = 0 && m.sc = 0 && m.acc2 = 0 && m.res = 0) (.accz f.guard (.ofCode f.ty) m.acc)
  | 1 => let m := MatrixWord.unpack w1; need (f.f1 = 0 && f.f3 = 0 && f.f4 = 0 && f.ty = 0 && f.rm = 0 && m.mreg = 0 && m.nk = 0 && m.sp = 0 && m.cmp = 0 && m.sc = 0 && m.acc2 = 0 && m.res = 0) (.accld f.guard (.ofCode m.tb) f.f2 m.acc)
  | 2 => let m := MatrixWord.unpack w1; (RSel.ofCode f.rm).bind fun rm => need (f.ty = 0 && m.mreg = 0 && m.nk = 0 && m.sp = 0 && m.cmp = 0 && m.acc2 = 0 && m.res = 0) (.accst f.guard (.ofCode m.tb) rm f.f1 f.f2 f.f3 f.f4 m.acc (m.sc = 1#1))
  | 3 => let m := MatrixWord.unpack w1; need (f.f1 = 0 && f.f2 = 0 && f.f3 = 0 && f.f4 = 0 && f.ty = 0 && f.rm = 0 && m.mreg = 0 && m.nk = 0 && m.sp = 0 && m.tb = 0 && m.cmp = 0 && m.sc = 0 && m.res = 0) (.accmv f.guard m.acc m.acc2)
  | 4 => let m := MatrixWord.unpack w1; need (f.f1 = 0 && f.f3 = 0 && f.f4 = 0 && f.ty = 0 && f.rm = 0 && m.acc = 0 && m.nk = 0 && m.tb = 0 && m.cmp = 0 && m.sc = 0 && m.acc2 = 0 && m.res = 0) (.ldmeta f.guard f.f2 m.mreg m.sp)
  | _ => none

/-- The members of major 0xB0 (R64). -/
def decodeMajB0 (f : Fields) (w1 : DWord) : Option Instr :=
  match f.mn.toNat with
  | 0 => let m := AsyncWord.unpack w1; need (f.f1 = 0 && f.f3 = 0 && f.f4 = 0 && f.ty = 0 && f.rm = 0 && m.scope = 0 && m.named = 0 && m.tok2 = 0 && m.res = 0) (.cp f.guard f.f2 m.tok)
  | 1 => let m := AsyncWord.unpack w1; need (f.f1 = 0 && f.f3 = 0 && f.f4 = 0 && f.ty = 0 && f.rm = 0 && m.scope = 0 && m.named = 0 && m.tok2 = 0 && m.res = 0) (.cpz f.guard f.f2 m.tok)
  | 2 => let m := AsyncWord.unpack w1; need (f.f1 = 0 && f.f3 = 0 && f.f4 = 0 && f.ty = 0 && f.rm = 0 && m.scope = 0 && m.named = 0 && m.tok2 = 0 && m.res = 0) (.cpx f.guard f.f2 m.tok)
  | 3 => let m := AsyncWord.unpack w1; need (f.f1 = 0 && f.f4 = 0 && f.ty = 0 && f.rm = 0 && m.scope = 0 && m.named = 0 && m.tok2 = 0 && m.res = 0) (.cpg f.guard f.f2 f.f3 m.tok)
  | 4 => let m := AsyncWord.unpack w1; need (f.f1 = 0 && f.f4 = 0 && f.ty = 0 && f.rm = 0 && m.scope = 0 && m.named = 0 && m.tok2 = 0 && m.res = 0) (.cps f.guard f.f2 f.f3 m.tok)
  | 5 => let m := AsyncWord.unpack w1; (Scope.ofCode m.scope).bind fun sc => need (f.f1 = 0 && f.f2 = 0 && f.f3 = 0 && f.f4 = 0 && f.ty = 0 && f.rm = 0 && m.res = 0) (.flsig f.guard sc (m.named = 1#1) m.tok m.tok2)
  | 6 => let m := AsyncWord.unpack w1; need (f.f1.extractLsb' 1 9 = 0 && f.f3 = 0 && f.f4 = 0 && f.ty = 0 && f.rm = 0 && m.scope = 0 && m.named = 0 && m.tok2 = 0 && m.res = 0) (.tload f.guard (f.f1.extractLsb' 0 1 = 1#1) f.f2 m.tok)
  | _ => none

/-- The members of major 0xB1 (R64). -/
def decodeMajB1 (f : Fields) (w1 : DWord) : Option Instr :=
  match f.mn.toNat with
  | 0 => let m := AsyncWord.unpack w1; need (f.f1 = 0 && f.f2 = 0 && f.f3 = 0 && f.f4 = 0 && f.ty = 0 && f.rm = 0 && m.scope = 0 && m.named = 0 && m.tok2 = 0 && m.res = 0) (.twait f.guard m.tok)
  | 1 => let m := AsyncWord.unpack w1; need (f.f2 = 0 && f.f3 = 0 && f.f4 = 0 && f.ty = 0 && f.rm = 0 && m.scope = 0 && m.named = 0 && m.tok2 = 0 && m.res = 0) (.tpoll f.guard f.f1 m.tok)
  | _ => none

/-- The members of major 0xC0 (R64). -/
def decodeMajC0 (f : Fields) : Option Instr :=
  match f.mn.toNat with
  | 0 => need (f.f1 = 0 && f.f2 = 0 && f.f3 = 0 && f.ty = 0 && f.rm = 0 && f.f4.extractLsb' 4 6 = 0) (.bar f.guard (f.f4.extractLsb' 0 4))
  | 1 => need (f.f1 = 0 && f.f2 = 0 && f.f3 = 0 && f.ty = 0 && f.rm = 0 && f.f4.extractLsb' 4 6 = 0) (.bara f.guard (f.f4.extractLsb' 0 4))
  | 2 => need (f.f1 = 0 && f.f2 = 0 && f.f3 = 0 && f.ty = 0 && f.rm = 0 && f.f4.extractLsb' 4 6 = 0) (.barw f.guard (f.f4.extractLsb' 0 4))
  | 3 => need (f.f1 = 0 && f.f2 = 0 && f.ty = 0 && f.rm = 0) (.sleep f.guard f.imm)
  | _ => none

/-- The members of major 0xD0 (R64). -/
def decodeMajD0 (f : Fields) : Option Instr :=
  match f.mn.toNat with
  | 0 => need (f.f1 = 0 && f.f2 = 0 && f.ty = 0 && f.rm = 0) (.lmark f.guard f.imm)
  | 1 => need (f.f1 = 0 && f.f2 = 0 && f.ty = 0 && f.rm = 0) (.capctl f.guard f.imm)
  | 2 => need (f.f1 = 0 && f.ty = 0 && f.rm = 0) (.capload f.guard f.f2 f.imm)
  | 3 => need (f.ty = 0 && f.rm = 0) (.capsave f.guard f.f1 f.f2 f.imm)
  | 4 => need (f.f1 = 0 && f.f2 = 0 && f.ty = 0 && f.rm = 0) (.capdrop f.guard f.imm)
  | _ => none

/-- The members of major 0xE0 (R64). -/
def decodeMajE0 (f : Fields) : Option Instr :=
  match f.mn.toNat with
  | 0 => need (f.f1 = 0 && f.f2 = 0 && f.ty = 0 && f.rm = 0 && f.imm.extractLsb' 16 4 = 0) (.trap f.guard (f.imm.extractLsb' 0 16))
  | 1 => need (f.f1 = 0 && f.f2 = 0 && f.ty = 0 && f.rm = 0 && f.imm.extractLsb' 16 4 = 0) (.brk f.guard (f.imm.extractLsb' 0 16))
  | 2 => need (f.f1 = 0 && f.f2 = 0 && f.f3 = 0 && f.f4 = 0 && f.ty = 0 && f.rm = 0) (.eret f.guard)
  | 3 => need (f.f2 = 0 && f.ty = 0 && f.rm = 0 && f.f3.extractLsb' 0 9 = 0) (.mfs f.guard (f.f3.extractLsb' 9 1 = 1#1) f.f1 f.f4)
  | 4 => need (f.f1 = 0 && f.f3 = 0 && f.ty = 0 && f.rm = 0) (.mts f.guard f.f2 f.f4)
  | _ => none

/-- The opcode map of R64 by major opcode. -/
def decodeMap (f : Fields) (w1 : DWord) : Option Instr :=
  match f.maj.toNat with
  | 0x00 => decodeMaj00 f
  | 0x01 => decodeMaj01 f
  | 0x02 => decodeMaj02 f
  | 0x0F => decodeMaj0F f w1
  | 0x10 => decodeMaj10 f
  | 0x11 => decodeMaj11 f
  | 0x1C => decodeMaj1C f w1
  | 0x1D => decodeMaj1D f w1
  | 0x20 => decodeMaj20 f
  | 0x21 => decodeMaj21 f
  | 0x22 => decodeMaj22 f
  | 0x23 => decodeMaj23 f
  | 0x24 => decodeMaj24 f
  | 0x25 => decodeMaj25 f
  | 0x40 => decodeMaj40 f
  | 0x41 => decodeMaj41 f
  | 0x42 => decodeMaj42 f
  | 0x60 => decodeMaj60 f
  | 0x68 => decodeMaj68 f
  | 0x69 => decodeMaj69 f
  | 0x70 => decodeMaj70 f
  | 0x80 => decodeMaj80 f
  | 0x81 => decodeMaj81 f
  | 0x82 => decodeMaj82 f
  | 0x83 => decodeMaj83 f
  | 0x84 => decodeMaj84 f
  | 0x85 => decodeMaj85 f
  | 0x86 => decodeMaj86 f
  | 0x87 => decodeMaj87 f
  | 0x88 => decodeMaj88 f
  | 0x89 => decodeMaj89 f
  | 0x8A => decodeMaj8A f
  | 0xA0 => decodeMajA0 f w1
  | 0xA1 => decodeMajA1 f w1
  | 0xA2 => decodeMajA2 f w1
  | 0xA3 => decodeMajA3 f w1
  | 0xB0 => decodeMajB0 f w1
  | 0xB1 => decodeMajB1 f w1
  | 0xC0 => decodeMajC0 f
  | 0xD0 => decodeMajD0 f
  | 0xE0 => decodeMajE0 f
  | _ => none

/-- Decoding of the fields: the opcode map, then every other condition of R65. -/
def decodeFields (f : Fields) (w1 : DWord) : Option Instr :=
  (decodeMap f w1).filter Instr.wf

/-- The instruction words of a well-formed instruction; an event has none. -/
def encode (i : Instr) : List DWord :=
  match encodeFields i with
  | some (f, some w1) => [f.pack, w1]
  | some (f, none) => [f.pack]
  | none => []

/-- The instruction of word 0 and word 1; word 1 is read only where the major opcode says there is one (R56). -/
def decodeWords (w0 w1 : DWord) : Option Instr :=
  decodeFields (Fields.unpack w0) w1

/-- The instruction's length in bytes (R24). -/
def wordsLen (w0 : DWord) : Nat := if isLong (w0.extractLsb' 56 8) then 16 else 8

/-- Eight bytes, lowest address first, as a word (R3). -/
def bytesToWord (bs : List Byte) : DWord :=
  (bs.take 8).foldr (fun b acc => (acc <<< 8) ||| b.setWidth 64) 0#64

/-- A word as eight bytes, lowest address first (R3). -/
def wordToBytes (w : DWord) : List Byte := (List.range 8).map fun k => w.extractLsb' (8 * k) 8

/-- Decoding bytes at an instruction's address: the instruction and the bytes after it. Refused, by `none`, where the bytes
are too few or the encoding is reserved (R56, R65). -/
def decode (bs : List Byte) : Option (Instr × List Byte) :=
  if bs.length < 8 then none
  else
    let w0 := bytesToWord bs
    if wordsLen w0 = 8 then (decodeWords w0 0).map fun i => (i, bs.drop 8)
    else if bs.length < 16 then none
    else (decodeWords w0 (bytesToWord (bs.drop 8))).map fun i => (i, bs.drop 16)

/-- The bytes of an instruction (R56). -/
def encodeBytes (i : Instr) : List Byte := (encode i).flatMap wordToBytes

/-- The instruction the decoder reads from bits numbered as the opcode table numbers them: bit 0 the least significant bit
of word 0, word 1 above it; bits at and above `nbits` are zero. -/
def decodeTableWord (nbits w : Nat) : Option Instr :=
  let v := w % 2 ^ nbits
  let w0 : DWord := BitVec.ofNat 64 v
  let w1 : DWord := BitVec.ofNat 64 (v / 2 ^ 64)
  (decode (wordToBytes w0 ++ wordToBytes w1)).map Prod.fst

end Sys2Proof
end

