-- ==== Sys2Proof/Machine/Fabric.lean ====
section
/-! DEFINITION. The Vetch fabric: links and routes (R401, R413), packets in flight (R410 to R416), what a member stamps a
request with and when it may send one (R418 to R420, R425), and the delivery test (R421). -/

namespace Sys2Proof.Machine

/-- Member `i` of the causal domain (R15). -/
def State.member (s : State) (i : Nat) : Member := listGet Member.reset s.members i
def State.putMember (s : State) (i : Nat) (m : Member) : State := { s with members := listSet s.members i m }

/-- The low half, by which counters and views compare (R418). -/
def low16 (x : BitVec 32) : BitVec 16 := x.setWidth 16

/-- The 32-bit value nearest to `v` whose low half is `c`. -/
def reach32 (v : BitVec 32) (c : BitVec 16) : BitVec 32 := v + (c - low16 v).signExtend 32

/-- The later of two 32-bit values by their low halves. -/
def later32 (a b : BitVec 32) : BitVec 32 := if windowLess16 (low16 a) (low16 b) then b else a

def nth16 (v : CVec) (k : Nat) : BitVec 16 := listGet 0 v k
def nth32 (v : List (BitVec 32)) (k : Nat) : BitVec 32 := listGet 0 v k

-- Places and routes

/-- Number of a physical place: 8 · row + column, 16 for the configuration die (R11). -/
def placeOfDie (s : State) (d : Nat) : Nat :=
  if d = 16 then 16
  else
    let sl := (listGet (0 : BitVec 8) s.remap d).toNat % 8
    let row := if d < 8 then sl % 2 else 1 - sl % 2
    8 * row + sl

def placeRow (p : Nat) : Nat := p / 8
def placeCol (p : Nat) : Nat := p % 8

/-- The 24 links (R12, R401): 7r + c joins columns c and c + 1 of row r; 14 + c joins the rows at column c; 22 + r joins
die 16 to column 0 of row r. -/
def linkEnds (l : Nat) : Nat × Nat :=
  if l < 14 then (8 * (l / 7) + l % 7, 8 * (l / 7) + l % 7 + 1)
  else if l < 22 then (l - 14, 8 + (l - 14))
  else (16, 8 * (l - 22))

/-- East–west links of a row between two columns. -/
def rowLinks (row a b : Nat) : List Nat := (List.range (max a b - min a b)).map (fun i => 7 * row + min a b + i)

/-- The route between two places while every link works (R413). -/
def directRoute (a b : Nat) : List Nat :=
  if a = b then []
  else if a = 16 then (22 + placeRow b) :: rowLinks (placeRow b) 0 (placeCol b)
  else if b = 16 then rowLinks (placeRow a) 0 (placeCol a) ++ [22 + placeRow a]
  else rowLinks (placeRow a) (placeCol a) (placeCol b) ++ (if placeRow a = placeRow b then [] else [14 + placeCol b])

/-- The route in force between two members. -/
def routeOf (s : State) (src dst : Nat) : List Nat :=
  let a := placeOfDie s src
  let b := placeOfDie s dst
  match look s.routes (32 * a + b) with
  | some r => r
  | none => directRoute a b

def linkAt (s : State) (l : Nat) : Link := listGet Link.reset s.links l

/-- A link carries no flits: it has failed, or it retrains (R402, R431). -/
def linkDown (s : State) (l : Nat) : Bool :=
  let k := linkAt s l
  decide (24 ≤ l) || k.failed || (match k.busy with | some t => decide (s.clock.toNat < t.toNat) | none => false)

/-- Packets of a pair of members can arrive now (R411, R431). -/
def pairOpen (s : State) (src dst : Nat) : Bool :=
  (routeOf s src dst).all (fun l => !linkDown s l) &&
  (match look s.delays (32 * src + dst) with | some t => decide (t.toNat ≤ s.clock.toNat) | none => true)

/-- One round of a breadth-first search: places next to a reached one, with their parent and the link to it. -/
def reachOnce (s : State) (tree : List (Nat × (Nat × Nat))) : List (Nat × (Nat × Nat)) :=
  (List.range 24).foldl (fun acc l =>
    if (linkAt s l).failed then acc
    else
      let (u, v) := linkEnds l
      let inT := fun x => (look tree x).isSome
      let inA := fun x => (look acc x).isSome
      if inT u && !inA v then acc ++ [(v, (u, l))]
      else if inT v && !inA u then acc ++ [(u, (v, l))]
      else acc) tree

/-- The breadth-first tree of working links rooted at die 16 (R413). -/
def linkTree (s : State) : List (Nat × (Nat × Nat)) := (List.range 17).foldl (fun acc _ => reachOnce s acc) [(16, (16, 24))]

/-- Places from `x` up to the root, with the link taken towards each parent. -/
def upPath (tree : List (Nat × (Nat × Nat))) : Nat → Nat → List (Nat × Nat)
  | 0, _ => []
  | fuel + 1, x => if x = 16 then [] else match look tree x with
    | none => []
    | some (p, l) => (x, l) :: upPath tree fuel p

/-- Up from `a` and down to `b`: the links of the two paths to the root that they do not share (R413). -/
def treeRoute (tree : List (Nat × (Nat × Nat))) (a b : Nat) : List Nat :=
  let ua := (upPath tree 17 a).map (·.2)
  let ub := (upPath tree 17 b).map (·.2)
  ua.filter (fun l => !ub.contains l) ++ (ub.filter (fun l => !ua.contains l)).reverse

/-- A number that no link has: the route to a place that no working link reaches. -/
def noLink : Nat := 24

/-- The controller's rebuild of every route (R413). -/
def rebuildRoutes (s : State) : State :=
  if s.links.any (fun k => k.failed) then
    let tree := linkTree s
    { s with routes := (List.range 17).flatMap (fun a => (List.range 17).map (fun b =>
      (32 * a + b, if (look tree a).isSome && (look tree b).isSome then treeRoute tree a b else [noLink]))) }
  else { s with routes := [] }

/-- A place that no working link reaches from die 16 (R429). -/
def placeReached (s : State) (p : Nat) : Bool := (look (linkTree s) p).isSome

-- Packets in flight

/-- Channel of an operation: VC-A 0 to VC-D 3 (R416). -/
def chanOf : POp → Nat
  | .orderedWrite | .atomic | .causalLoad | .plainLoad | .forwardedWrite => 0
  | .readResponse | .atomicResponse | .writeAck | .flushReply => 1
  | .bulkWrite | .engineRead | .flushMarker => 2
  | .frontier | .frontierRequest | .lossNotice | .resyncControl | .management => 3

/-- OP codes (R416). -/
def opCode : POp → Nat
  | .orderedWrite => 0x01
  | .atomic => 0x02
  | .causalLoad => 0x03
  | .plainLoad => 0x04
  | .forwardedWrite => 0x05
  | .bulkWrite => 0x08
  | .engineRead => 0x09
  | .flushMarker => 0x0A
  | .readResponse => 0x10
  | .atomicResponse => 0x11
  | .writeAck => 0x12
  | .flushReply => 0x13
  | .frontier => 0x20
  | .frontierRequest => 0x21
  | .lossNotice => 0x22
  | .resyncControl => 0x23
  | .management => 0x24

/-- Channel and greatest and least LEN of an OP code (R416); none for an unassigned one. -/
def opShape (c : Nat) : Option (Nat × Nat × Nat) :=
  match c with
  | 0x01 | 0x05 => some (0, 1, 1)
  | 0x02 => some (0, 0, 1)
  | 0x03 | 0x04 => some (0, 0, 0)
  | 0x08 => some (2, 1, 1)
  | 0x09 | 0x0A => some (2, 0, 0)
  | 0x10 | 0x11 => some (1, 0, 1)
  | 0x12 | 0x13 => some (1, 0, 0)
  | 0x20 => some (3, 0, 1)
  | 0x21 | 0x22 | 0x23 => some (3, 0, 0)
  | 0x24 => some (3, 0, 4)
  | _ => none

/-- Put the low bytes of a value into a line image. -/
def placeValue (b : List Byte) (off n : Nat) (x : DWord) : List Byte := (b.take off ++ bytesLE n x.toNat ++ b.drop (off + n)).take 64

/-- The data flits of a packet, as line images of 64 bytes (R410): the line itself, or an atomic's operands at the offsets of their elements, or the
prior values that an atomic answers, in lane order (DESIGN CHOICE, log entry 137: the spec lays out neither). -/
def dataLine (p : Packet) : List Byte :=
  match p.op with
  | .atomic => match p.atom with
    | some r => r.args.foldl (fun b a => placeValue b a.off (opWidth r.ty / 8) a.x) (copies 64 0)
    | none => []
  | .atomicResponse => if p.olds.isEmpty then [] else p.olds.zipIdx.foldl (fun b x => placeValue b (8 * x.2) 8 x.1.2) (copies 64 0)
  | _ => if p.ben = 0 then p.data else p.data.zipIdx.map (fun y => if p.ben.getLsbD y.2 then y.1 else 0)

/-- LEN of a packet, in flits of 64 bytes (R410, R416). -/
def lenOf (p : Packet) : Nat := ((dataLine p).length + 63) / 64

/-- The header flit (R414). TAG is the low 16 bits of the model's number of the request (log entry 137). -/
def headerOf (p : Packet) : BitVec 512 :=
  let bit := fun (b : Bool) => if b then 1 else 0
  BitVec.ofNat 512 (p.dst % 2 ^ 5 + 2 ^ 5 * (p.src % 2 ^ 5) + 2 ^ 10 * chanOf p.op + 2 ^ 12 * opCode p.op + 2 ^ 18 * lenOf p + 2 ^ 21 * bit p.gen +
    2 ^ 22 * bit p.elide + 2 ^ 23 * bit p.fare + 2 ^ 24 * bit p.cst.isSome + 2 ^ 25 * bit p.poison.isSome + 2 ^ 26 * p.loan.toNat +
    2 ^ 32 * p.chain.toNat + 2 ^ 48 * (p.tag % 2 ^ 16) + 2 ^ 64 * (p.addr.toNat % 2 ^ 52) + 2 ^ 116 * (p.asid % 2 ^ 12) + 2 ^ 128 * p.check.toNat +
    (List.range 17).foldl (fun n k => n + 2 ^ (144 + 16 * k) * (listGet 0 p.stamp k).toNat) 0 + 2 ^ 416 * p.ben.toNat)

/-- Defects that a header shows by itself (R417): an unassigned OP, a VC or LEN against R416, a member above 16, a reserved bit. -/
def headerBad (h : BitVec 512) : Bool :=
  let f := fun (lo n : Nat) => h.toNat / 2 ^ lo % 2 ^ n
  (match opShape (f 12 6) with
   | none => true
   | some (vc, lo, hi) => f 10 2 != vc || decide (f 18 3 < lo) || decide (hi < f 18 3)) ||
  decide (16 < f 0 5) || decide (16 < f 5 5) || f 480 32 != 0

/-- Operations that the delivery rule governs (R416). -/
def isStamped : POp → Bool
  | .orderedWrite | .atomic | .causalLoad | .forwardedWrite => true
  | _ => false

/-- Operations that COUNTER counts (R419). -/
def isCounted : POp → Bool
  | .orderedWrite | .atomic | .forwardedWrite => true
  | _ => false

/-- Key of a channel between two members in `flights`. -/
def flightKey (src dst vc : Nat) : Nat := 4 * (32 * src + dst) + vc

/-- One bit and one byte of the CRC-16 with polynomial 0x1021, the most significant bit first (R230). -/
def crcBit (r : BitVec 16) (b : Bool) : BitVec 16 := if r.msb != b then (r <<< 1) ^^^ 0x1021 else r <<< 1
def crcByte (r : BitVec 16) (b : Byte) : BitVec 16 := [7, 6, 5, 4, 3, 2, 1, 0].foldl (fun x i => crcBit x (b.getLsbD i)) r

/-- The line check of a line (R230). -/
def lineCheck (b : List Byte) : BitVec 16 := b.foldl crcByte 0xFFFF

/-- LCHK of a packet: over its data line, where the bytes that a write does not write read as zero; zero when LEN = 0 (R230, R414). -/
def packetCheck (p : Packet) : BitVec 16 := if (dataLine p).isEmpty then 0 else lineCheck (dataLine p)

/-- Put a packet behind those of its channel (R350, R411), with its line check made (R231). -/
def State.post (s : State) (p : Packet) : State :=
  let k := flightKey p.src p.dst (chanOf p.op)
  { s with flights := spSet [] s.flights k (spGet [] s.flights k ++ [{ p with check := packetCheck p }]) }

/-- A home that takes no packet any more (R406). -/
def memberGone (s : State) (d : Nat) : Bool :=
  decide (8 ≤ d) && decide (d < 16) && (listGet .live s.homeModes (d - 8) == .lost || listGet .live s.homeModes (d - 8) == .retired)

/-- The next packet of a channel to arrive, when it is of operation `op` and its route is open. -/
def takeArrival (s : State) (op : POp) (src dst : Nat) : Option (Packet × State) :=
  let k := flightKey src dst (chanOf op)
  match spGet [] s.flights k with
  | [] => none
  | p :: r => if p.op = op && pairOpen s src dst && !memberGone s dst then some (p, { s with flights := spSet [] s.flights k r }) else none

/-- A packet with every field that its sender does not fill at zero. -/
def blankPacket (s : State) (op : POp) (src dst : Nat) : Packet where
  op := op
  src := src
  dst := dst
  asid := 0
  addr := 0
  tag := 0
  chain := 0
  loan := 0
  stamp := copies 17 0
  elide := false
  gen := (s.member src).gen
  ben := 0
  data := []
  check := 0
  poison := none
  cst := none
  fare := false
  dup := false
  partner := false
  resent := false
  wb := false
  atom := none
  olds := []
  flags := 0
  refused := false

/-- Both ends of a pair exchanged something on VC-D at this time (R424). -/
def markD (s : State) (a b : Nat) : State :=
  let s1 := s.putMember a { s.member a with lastD := listSet (s.member a).lastD b s.clock }
  s1.putMember b { s1.member b with lastD := listSet (s1.member b).lastD a s.clock }

/-- A frontier request from `j` to `k`, at most once per 64 fabric cycles, that is 116 core cycles (R424). -/
def askFrontier (s : State) (j k : Nat) : State :=
  let key := 32 * j + k
  let soon := match look s.lastReq key with | some t => decide ((s.clock - t).toNat < 116) | none => false
  if soon then s
  else
    let waits := if (look s.unanswered key).isNone then store s.unanswered key s.clock else s.unanswered
    (markD { s with lastReq := store s.lastReq key s.clock, unanswered := waits } j k).post (blankPacket s .frontierRequest j k)

/-- 16-bit entries as bytes, and as a data flit (R410). -/
def cvBytes (v : CVec) : List Byte := v.flatMap (fun x => bytesLE 2 x.toNat)
def cvFlit (v : CVec) : List Byte := cvBytes v ++ copies (64 - 2 * v.length) 0
def bytesCv (b : List Byte) : CVec := (List.range 17).map (fun k => BitVec.ofNat 16 (natLE ((b.drop (2 * k)).take 2)))

/-- The earlier of two entries under `WindowLess16`. -/
def earlier16 (a b : BitVec 16) : BitVec 16 := if windowLess16 b a then b else a

/-- LOW of a member (R418, R425): the lowest entry k among the stamps it holds or has outstanding; its own view of k when
there is none. -/
def lowOf (s : State) (i : Nat) : CVec :=
  let m := s.member i
  let stamps := m.holds.map (·.stamp) ++ s.reqs.filterMap (fun r => if r.die = i then r.stamp else none)
  (List.range 17).map fun k =>
    stamps.foldl (fun acc st => earlier16 acc (nth16 st k)) (low16 (nth32 m.view k))

/-- The loan a destination makes with a response or frontier (R420): one entry at a time, at most 28 to a source and 480 in all. -/
def lendTo (s : State) (j i : Nat) : BitVec 6 × State :=
  let m := s.member j
  let all := m.lentTo.foldl (· + ·) 0
  let mine := listGet 0 m.lentTo i
  if all < 480 ∧ mine < 28 then (1, s.putMember j { m with lentTo := listSet m.lentTo i (mine + 1) }) else (0, s)

/-- A frontier from `i` to `j` (R424), which may lend a hold entry (R420); `fare` for the last one of an orderly removal (R428), which lends none. -/
def sendFrontier (s0 : State) (i j : Nat) (fare : Bool) : State :=
  let (loan, s) := if fare then (0, s0) else lendTo s0 i j
  let m := s.member i
  let stamp := (List.range 17).map (fun k => if k = i then low16 m.counter else low16 (nth32 m.view k))
  let low := lowOf s i
  let data := if j = 16 then cvFlit low else if i = 16 then cvFlit (m.floor.map low16) else []
  let s1 := s.putMember i { m with low := (List.range 17).map (fun k => reach32 (nth32 m.low k) (nth16 low k)) }
  (markD s1 i j).post { blankPacket s .frontier i j with
    stamp := stamp, chain := low16 (nth32 m.sentLast j), fare := fare, data := data, loan := loan }

/-- Stamped requests of member `i` outstanding to `j` (R420). -/
def stampedOut (s : State) (i j : Nat) : Nat := (s.reqs.filter (fun r => r.die = i && r.home = j && r.stamp.isSome)).length

/-- Member `i` has leave to send a stamped packet to `j`: it is not stopped, its allowance has room (R420), and COUNTER stays
within the window when the packet counts (R425). -/
def hasLeave (s : State) (i j : Nat) (counted : Bool) : Bool :=
  let m := s.member i
  !m.quiet && decide (stampedOut s i j < 32 + listGet 0 m.borrowed j) &&
  (!counted || decide ((m.counter + 1 - nth32 m.floor i).toNat ≤ 2 ^ 15 - 1))

/-- Member `i` may send a new stamped packet to `j` now: none waits there to be sent again. -/
def maySend (s : State) (i j : Nat) (counted : Bool) : Bool :=
  hasLeave s i j counted && !s.resends.any (fun x => x.2.2.src == i && x.2.2.dst == j)

/-- A home may forward a write now (R229): neither a stop for a resynchronisation nor the start of its removal holds it, for what has reached the home
is still to be delivered and acknowledged (R427, R428 step 1, R430 step 2). -/
def mayForward (s : State) (i j : Nat) : Bool := maySend (s.putMember i { s.member i with quiet := false }) i j true

/-- Near its window a member asks die 16 for a frontier (R425). -/
def nearWindow (s : State) (i : Nat) : State :=
  let m := s.member i
  if i ≠ 16 ∧ 2 ^ 15 - 1 - 2 ^ 12 ≤ (m.counter - nth32 m.floor i).toNat then askFrontier s i 16 else s

/-- The stamp of a packet from `i` on behalf of a causal vector (R419); COUNTER is already raised. -/
def stampOf (m : Member) (i : Nat) (cv : CVec) : CVec :=
  (List.range 17).map fun k =>
    if k = i then low16 m.counter
    else later16 (later16 (nth16 cv k) (low16 (nth32 m.view k))) (low16 (nth32 m.floor k))

/-- The stamps agree in every entry but `i` (ELIDE, R419). -/
def sameBut (i : Nat) (a b : CVec) : Bool := (List.range 17).all (fun k => k == i || nth16 a k == nth16 b k)

/-- Traffic of an ASID between two members (R429). -/
def markTraffic (s : State) (a b asid : Nat) : State :=
  let s1 := s.putMember a { s.member a with traffic := setAdd (s.member a).traffic (4096 * b + asid) }
  s1.putMember b { s1.member b with traffic := setAdd (s1.member b).traffic (4096 * a + asid) }

/-- Send an unstamped request and remember who waits for it; answers the tag. A control packet is of no ASID (R414). -/
def sendPlain (s : State) (who : Who) (p : Packet) : Nat × State :=
  let tag := s.fresh
  let r : Req := ⟨tag, p.src, p.dst, none, false, who, if p.dup || p.partner then some p else none⟩
  let s1 : State := { s with fresh := tag + 1, reqs := s.reqs ++ [r] }
  (tag, (if p.op = .flushMarker then s1 else markTraffic s1 p.src p.dst p.asid).post { p with tag := tag })

/-- Only entry `i` of a stamp: what ELIDE leaves on the link (R419). -/
def ownEntry (i : Nat) (st : CVec) : CVec := (List.range 17).map (fun k => if k = i then nth16 st k else 0)

/-- Send a stamped request on behalf of `cv` (R419, R420); answers the tag. -/
def sendStamped (s : State) (who : Who) (cv : CVec) (p : Packet) : Nat × State :=
  let i := p.src
  let j := p.dst
  let m0 := s.member i
  let m1 := if isCounted p.op then { m0 with counter := m0.counter + 1, view := listSet m0.view i (m0.counter + 1) } else m0
  let stamp := stampOf m1 i cv
  let chain := low16 (nth32 m1.sentLast j)
  let elide := match listGet none m1.sentStamp j with | some st => sameBut i st stamp | none => false
  let m2 := { m1 with
    sentLast := if isCounted p.op then listSet m1.sentLast j m1.counter else m1.sentLast
    sentStamp := if elide then m1.sentStamp else listSet m1.sentStamp j (some stamp) }
  let tag := s.fresh
  let r : Req := ⟨tag, i, j, some stamp, decide (32 ≤ stampedOut s i j), who, if p.dup || p.partner then some p else none⟩
  let s1 := markTraffic ({ s with fresh := tag + 1, reqs := s.reqs ++ [r] }.putMember i m2) i j p.asid
  (tag, nearWindow (s1.post { p with tag := tag, chain := chain, stamp := if elide then ownEntry i stamp else stamp, elide := elide }) i)

/-- Send a stamped request under its own tag. -/
def sendUnder (s : State) (who : Who) (tag : Nat) (cv : CVec) (p : Packet) : State :=
  { (sendStamped { s with fresh := tag } who cv p).2 with fresh := s.fresh }

/-- Send a request again, to its home or to another, under its own tag (R229, R231). A stamped one waits while the allowance or the window of its member
is used up, or another of them waits before it (R420, R425). -/
def resend (s : State) (r : Req) (p : Packet) : State :=
  match r.stamp with
  | none => { (sendPlain { s with fresh := r.tag } r.who p).2 with fresh := s.fresh }
  | some cv =>
    if maySend s p.src p.dst (isCounted p.op) then sendUnder s r.who r.tag cv p
    else { s with
      reqs := s.reqs ++ [{ r with home := p.dst, stamp := none, lent := false, again := none }]
      resends := s.resends ++ [(r.tag, cv, p)] }

/-- Send the first request of member i that waits to be sent again and may go, the oldest to its home first; one that has ended meanwhile goes away. -/
def sendAgain (s : State) (i : Nat) : State :=
  let live : State := { s with resends := s.resends.filter (fun x => x.2.2.src != i || s.reqs.any (fun r => r.tag == x.1)) }
  match live.resends.find? (fun x => x.2.2.src == i && hasLeave live i x.2.2.dst (isCounted x.2.2.op) &&
      (live.resends.find? (fun y => y.2.2.src == i && y.2.2.dst == x.2.2.dst)).map (·.1) == some x.1) with
  | none => live
  | some (tag, cv, p) => match live.reqs.find? (fun r => r.tag == tag) with
    | none => live
    | some r => sendUnder { live with
        reqs := live.reqs.filter (fun x => x.tag ≠ tag)
        resends := live.resends.filter (fun x => x.1 ≠ tag) } r.who tag cv p

/-- The request a response answers, and the requests without it. -/
def takeReq (s : State) (tag : Nat) : Option (Req × State) :=
  match s.reqs.find? (fun r => r.tag == tag) with
  | none => none
  | some r => some (r, { s with reqs := s.reqs.filter (fun x => x.tag ≠ tag) })

-- Delivery

/-- Members whose packets the test no longer waits for (R428, R429). -/
def isRemoved (m : Member) (k : Nat) : Bool := m.removed.contains k

/-- Every view reaches the stamp, but for the source, the destination and removed members (R421). -/
def viewsReach (m : Member) (i j : Nat) (stamp : CVec) : Bool :=
  (List.range 17).all fun k => k == i || k == j || isRemoved m k || !windowLess16 (low16 (nth32 m.view k)) (nth16 stamp k)

/-- The test of R421 for a packet with no earlier packet of its source held. -/
def deliverable (m : Member) (j : Nat) (p : Packet) : Bool :=
  p.chain == low16 (nth32 m.last p.src) && viewsReach m p.src j p.stamp

/-- A packet arrives with a defect (R417): in its header, of another generation, or with a CHAIN behind LAST. -/
def defective (m : Member) (p : Packet) : Bool :=
  headerBad (headerOf p) || p.gen != m.gen || (isStamped p.op && windowLess16 p.chain (low16 (nth32 m.last p.src)))

/-- Report to Gander (R368, R417). -/
def State.check (s : State) (die code : Nat) : State := { s with checks := s.checks ++ [(die, code)] }

/-- Machine-check codes of this model, beside those of `execMachineCheck`: a defective packet, a host index without an ATC entry. -/
def ckPacket : Nat := 1
def ckAtc : Nat := 2

/-- The destination puts the elided entries back from PSTAMP, and keeps a full stamp there (R419). -/
def fullStamp (m : Member) (p : Packet) : Packet × Member :=
  if p.elide then
    let old := listGet (copies 17 0) m.pstamp p.src
    ({ p with stamp := (List.range 17).map (fun k => if k = p.src then nth16 p.stamp k else nth16 old k) }, m)
  else (p, { m with pstamp := listSet m.pstamp p.src p.stamp })

/-- Members that a held packet waits for (R424). -/
def waitsFor (m : Member) (j : Nat) (p : Packet) : List Nat :=
  (List.range 17).filter fun k => k != p.src && k != j && !isRemoved m k && windowLess16 (low16 (nth32 m.view k)) (nth16 p.stamp k)

/-- Members whose writes the primary home of a duplex line has not seen up to a load's stamp. -/
def primaryLacks (m : Member) (h : Nat) (stamp : CVec) : List Nat :=
  (List.range 17).filter fun k => k != h && !isRemoved m k && windowLess16 (low16 (nth32 m.view k)) (nth16 stamp k)

/-- Apply a kept frontier whose CHAIN has been reached (R424); FARE marks its source removed (R428). -/
def applyKept (m : Member) (i : Nat) : Member :=
  match listGet none m.kept i with
  | none => m
  | some f =>
    if f.chain = low16 (nth32 m.last i) then
      { m with
        view := listSet m.view i (later32 (nth32 m.view i) (reach32 (nth32 m.view i) f.count))
        kept := listSet m.kept i none
        removed := if f.fare then setAdd m.removed i else m.removed }
    else m

/-- A held packet finds an entry (R426): its source has 32 reserved ones and those lent to it. -/
def holdRoom (m : Member) (src : Nat) : Bool := decide ((m.holds.filter (fun q => q.src == src)).length < 32 + listGet 0 m.lentTo src)

/-- The first packet held of each source whose CHAIN equals LAST shows that every packet before it has been delivered, so
VIEW may rise to the counter before it (R418, R427). -/
def raiseViews (m : Member) : Member :=
  m.holds.foldl (fun acc p =>
    let first := match acc.holds.find? (fun q => q.src == p.src) with | some q => q.tag == p.tag | none => false
    if first && p.chain == low16 (nth32 acc.last p.src) then
      let c := nth16 p.stamp p.src - (if isCounted p.op then 1 else 0)
      let v := nth32 acc.view p.src
      { acc with view := listSet acc.view p.src (later32 v (reach32 v c)) }
    else acc) m

/-- The first held packet of a list that passes the test (R421) and meets no line hold that `ready` tells: no earlier packet of its source is
held. One that a loss has released (R429) does not wait for the test. -/
def firstFree (m : Member) (j : Nat) (ready : Packet → Bool) : List Nat → List Packet → Option Packet
  | _, [] => none
  | seen, p :: r =>
    if !seen.contains p.src && (p.cst.isSome || deliverable m j p) && ready p then some p else firstFree m j ready (p.src :: seen) r

/-- LAST, VIEW and CV on the delivery of a counted packet (R422), then a frontier that waited for it (R424). -/
def countDelivered (m : Member) (p : Packet) : Member :=
  let c := reach32 (nth32 m.last p.src) (nth16 p.stamp p.src)
  applyKept { m with
    last := listSet m.last p.src c
    view := listSet m.view p.src (later32 (nth32 m.view p.src) c)
    cv := mergeCV m.cv p.stamp } p.src

/-- A home's stamp on a response: its CV with its own entry at COUNTER (R422). -/
def homeStamp (m : Member) (j : Nat) : CVec := (List.range 17).map (fun k => if k = j then low16 m.counter else nth16 m.cv k)

/-- A stamped packet that used a lent entry gives it back when it is delivered (R420). -/
def returnLoan (s : State) (p : Packet) : State :=
  match s.reqs.find? (fun r => r.tag == p.tag) with
  | none => s
  | some r =>
    if r.lent then
      let d := s.member p.dst
      let s1 := s.putMember p.dst { d with lentTo := listSet d.lentTo p.src (listGet 0 d.lentTo p.src - 1) }
      let m := s1.member p.src
      s1.putMember p.src { m with borrowed := listSet m.borrowed p.dst (listGet 0 m.borrowed p.dst - 1) }
    else s

/-- Answer a request on VC-B, with a loan when the request was stamped (R420). -/
def respond (s : State) (p : Packet) (stamped : Bool) : State :=
  if stamped then
    let (n, s1) := lendTo s p.src p.dst
    s1.post { p with loan := n }
  else s.post p

/-- The receiver takes the loan of a response or frontier into its allowance. -/
def takeLoan (s : State) (p : Packet) : State :=
  if p.loan = 0 then s
  else
    let m := s.member p.dst
    s.putMember p.dst { m with borrowed := listSet m.borrowed p.src (listGet 0 m.borrowed p.src + p.loan.toNat) }

end Sys2Proof.Machine
end

