-- ==== Sys2Proof/Machine/Tables.lean ====
section
/-! DEFINITION. Places of bytes and the homes behind them (R227 to R229), ASIDs (R232), and page-table entries (R234, R236). A place number
names one byte anywhere: below 2^39 a PA; from 2^64 a host address; from 2^128 an address in another package. -/

namespace Sys2Proof.Machine

def hostBase : Nat := 2 ^ 64
def remoteBase : Nat := 2 ^ 128

/-- The place lies in local HBM (R227). -/
def isHbm (a : Nat) : Bool := decide (a < 2 ^ 39)

/-- One byte at a place; a byte nothing has written reads 0 (R449 for HBM). -/
def placeByte (s : State) (a : Nat) : Byte := if a < 2 ^ 39 then spGet 0 s.hbm a else spGet 0 s.hostMem a
def placeBytes (s : State) (a n : Nat) : List Byte := (List.range n).map (fun i => placeByte s (a + i))

/-- Change bytes at places. -/
def putBytes (s : State) (im : Image) : State :=
  im.foldl (fun acc x =>
    if x.1 < 2 ^ 39 then { acc with hbm := spSet 0 acc.hbm x.1 x.2 }
    else { acc with hostMem := spSet 0 acc.hostMem x.1 x.2 }) s

/-- An aligned 8-byte word of HBM, as a walker reads it (R240). -/
def hbmWord (s : State) (a : Nat) : DWord := BitVec.ofNat 64 (natLE (placeBytes s a 8))

/-- Exclusive or of the nine 3-bit groups PA[14:12] to PA[38:36] (R228). -/
def homeHash (pa : Nat) : Nat := (List.range 9).foldl (fun acc i => acc ^^^ (pa / 2 ^ (12 + 3 * i) % 8)) 0

/-- Home of a PA (R228), and the duplex partner of a PA (R229). -/
def homeOf (pa : Nat) : Nat := 8 + homeHash pa
def partnerOf (pa : Nat) : Nat := pa ^^^ 2 ^ 38

def homeMode (s : State) (d : Nat) : HomeMode := listGet .live s.homeModes (d - 8)

/-- A home that still serves accesses (R406). -/
def homeServes (s : State) (d : Nat) : Bool := d == 16 || homeMode s d == .live || homeMode s d == .degraded

/-- A table in the protected region (R236). -/
def isProtected (s : State) (table : Nat) : Bool :=
  decide (s.protBase ≤ table) && decide (table < s.protBase + 4096 * s.protPages)

-- Table entries (R234)
def pteV (e : DWord) : Bool := e.getLsbD 0
def pteLeaf (e : DWord) : Bool := e.getLsbD 1
def pteR (e : DWord) : Bool := e.getLsbD 2
def pteW (e : DWord) : Bool := e.getLsbD 3
def pteX (e : DWord) : Bool := e.getLsbD 4
def pteHost (e : DWord) : Bool := e.getLsbD 5
def pteDup (e : DWord) : Bool := e.getLsbD 6
def pteBig (e : DWord) : Bool := e.getLsbD 7
def pteAddr (e : DWord) : Nat := e.toNat / 4096 % 2 ^ 27 * 4096

/-- log2 of the size a leaf maps at a level. -/
def leafLog2 (e : DWord) (level : Nat) : Nat :=
  if level = 0 then (if pteBig e then 16 else 12) else 12 + 9 * level

/-- The limits of R234 on a valid entry, apart from the place of its table. -/
def badEntry (e : DWord) (level : Nat) : Bool :=
  e.toNat / 2 ^ 39 != 0 || e.toNat / 2 ^ 8 % 16 != 0 ||
  (if pteLeaf e then
    decide (3 ≤ level) || (pteBig e && level != 0) || pteAddr e % 2 ^ leafLog2 e level != 0 ||
    (pteW e && pteX e) || (pteHost e && (pteAddr e != 0 || pteDup e || pteX e)) || (pteDup e && pteX e)
  else level == 0 || e.toNat / 4 % 64 != 0)

/-- A malformed entry (R234, R236). -/
def malformed (s : State) (e : DWord) (level table : Nat) : Bool :=
  badEntry e level || (pteLeaf e && pteX e && !isProtected s table)

/-- Words of an ASID (R232). -/
def asidWords (s : State) (asid : Nat) : DWord × DWord := spGet (0, 0) s.asids asid
def asidValid (s : State) (asid : Nat) : Bool := (asidWords s asid).1.getLsbD 0
def asidAts (s : State) (asid : Nat) : Bool := (asidWords s asid).1.getLsbD 1
def asidFn (s : State) (asid : Nat) : Nat := (asidWords s asid).1.toNat / 2 ^ 8 % 256
def asidPasid (s : State) (asid : Nat) : Nat := (asidWords s asid).1.toNat / 2 ^ 16 % 2 ^ 20
def asidRoot (s : State) (asid : Nat) : Nat := (asidWords s asid).2.toNat % 2 ^ 39 / 4096 * 4096


-- Duplex pages

/-- Entries of a table that are present (R234): those whose first byte in HBM is odd. -/
def presentIn (s : State) (table : Nat) : List Nat :=
  s.hbm.filterMap (fun c => if table ≤ c.1 ∧ c.1 < table + 4096 ∧ c.1 % 8 = 0 ∧ c.2.getLsbD 0 then some ((c.1 - table) / 8) else none)

/-- A duplex leaf of the tables below one maps a line or its partner (R229). -/
def duplexBelow (s : State) (line : Nat) : Nat → Nat → Bool
  | level, table =>
    (presentIn s table).any fun i =>
      let e := hbmWord s (table + 8 * i)
      if malformed s e level table then false
      else if pteLeaf e then
        let n := 2 ^ leafLog2 e level
        pteDup e && (64 * line / n * n == pteAddr e || partnerOf (64 * line) / n * n == pteAddr e)
      else match level with
        | 0 => false
        | k + 1 => duplexBelow s line k (pteAddr e)

/-- A line of a duplex page of some ASID. -/
def isDuplex (s : State) (line : Nat) : Bool := s.asids.any (fun e => asidValid s e.1 && duplexBelow s line 4 (asidRoot s e.1))

end Sys2Proof.Machine
end

