-- ==== Sys2Proof/Machine/Home.lean ====
section
/-! DEFINITION. Homes: the L2 and HBM behind them (R228 to R231), the atomic operations (R258, R259), what a home does with each
request it delivers (R422), and the arrival events of the fabric. -/

namespace Sys2Proof.Machine

/-- Lines of 64 bytes in the 48 MiB of a memory-port die (R1, R228). -/
def l2Lines : Nat := 786432

/-- Note a line in the L2 of its home, which writes another line back to HBM when it is full (DESIGN CHOICE, log entry 62: the spec names no
policy); a degraded home keeps no L2 (R228, R406). -/
def touchL2 (s : State) (line : Nat) (dirty : Bool) : State :=
  let home := homeOf (64 * line)
  if homeMode s home = .degraded then s
  else
    let mine := (forget s.l2 line).filter (fun e => homeOf (64 * e.1) == home)
    let l2 := if mine.length < l2Lines then s.l2 else match mine[Config.freeNat s.freeCtr % l2Lines]? with
      | some v => forget s.l2 v.1
      | none => s.l2
    { s with
      freeCtr := if mine.length < l2Lines then s.freeCtr else s.freeCtr + 1
      l2 := store l2 line (dirty || (look s.l2 line == some true)) }

/-- The bytes that BEN enables (R414). -/
def enabled (line : Nat) (ben : LaneMask) (data : List Byte) : Image :=
  (data.zipIdx.filter (fun x => ben.getLsbD x.2)).map (fun x => (64 * line + x.2, x.1))

/-- The check that its home keeps with a line in HBM and L2 (R230): it is made anew with every change of the line's bytes, so that it always is
the one of the bytes that stand there (log entry 138). -/
def storedCheck (s : State) (line : Nat) : BitVec 16 := lineCheck (placeBytes s (64 * line) 64)

/-- Merge a write into a line of HBM (R230), whose new check is `storedCheck` of the state after: a write of all 64 bytes clears its poison, a
narrower one leaves it, and a write that arrives poisoned poisons it (R231). -/
def mergeLine (s : State) (line : Nat) (ben : LaneMask) (data : List Byte) (bad : Bool) : State :=
  let s1 := touchL2 (putBytes s (enabled line ben data)) line true
  { s1 with poison := if bad then setAdd s1.poison line else if ben = BitVec.allOnes 64 then setDel s1.poison line else s1.poison }

/-- A write through an ordinary mapping of a line that is also mapped duplex reaches the bytes of both mappings (R229). -/
def mergeBoth (s : State) (line : Nat) (ben : LaneMask) (data : List Byte) (bad : Bool) : State :=
  let s1 := mergeLine s line ben data bad
  if isDuplex s line then mergeLine s1 (partnerOf (64 * line) / 64) ben data bad else s1

/-- A line that fails its check at its home (R231): the partner supplies it, or it is poisoned. -/
def strikeLine (s : State) (line : Nat) : State :=
  let p := partnerOf (64 * line) / 64
  if isDuplex s line && homeServes s (homeOf (64 * p)) && !s.poison.contains p then
    mergeLine s line (BitVec.allOnes 64) (placeBytes s (64 * p) 64) false
  else { s with poison := setAdd s.poison line }

/-- A host address that an ATC entry and offset name (R415). -/
def hostPlace (s : State) (addr : DWord) : Option Nat :=
  let idx := (addr.toNat / 2 ^ 38) % 2 ^ 14
  match s.atc.find? (fun e => e.idx == idx) with
  | none => none
  | some e => some (hostBase + (e.host.toNat + addr.toNat % 2 ^ 30) % 2 ^ 64)

/-- ADDR of an access through entry `idx` at a byte offset of its range (R415). -/
def hostAddr (idx off : Nat) : DWord := BitVec.ofNat 64 (idx * 2 ^ 38 + off % 2 ^ 30)

-- Atomics

/-- The new value of one element (R258) and the flags of its lane (R259). -/
def atomNew (op : AtomOp) (ty : Ty) (old x cmp : DWord) : DWord × FFlags :=
  let w := opWidth ty
  let cut := fun (n : Nat) => BitVec.ofNat 64 (n % 2 ^ w)
  match op with
  | .add =>
    if ty = .f32 then
      let r := addF32 .rne false old.toNat x.toNat
      (BitVec.ofNat 64 r.1, r.2)
    else (cut (old.toNat + x.toNat), 0)
  | .min =>
    if ty = .f32 then
      let r := minMaxF fmtF32 false false old.toNat x.toNat
      (BitVec.ofNat 64 r.1, r.2)
    else (if valOf ty x < valOf ty old then x else old, 0)
  | .max =>
    if ty = .f32 then
      let r := minMaxF fmtF32 true false old.toNat x.toNat
      (BitVec.ofNat 64 r.1, r.2)
    else (if valOf ty old < valOf ty x then x else old, 0)
  | .and => (old &&& x, 0)
  | .or => (old ||| x, 0)
  | .xor => (old ^^^ x, 0)
  | .exch => (x, 0)
  | .cas => (if old = cmp then x else old, 0)
  | .adds =>
    let sg := ty == .s32
    let v := intOf sg 32 old.toNat + intOf sg 32 x.toNat
    let r := clampTo (intLo sg 32) (intHi sg 32) v
    (BitVec.ofNat 64 (wrapTo 32 r.1), flagIf r.2 fSAT)

/-- Perform an atomic's lanes one after another on the bytes of one line (R259): the bytes after, the prior values, and the
flags raised. -/
def atomLanes (op : AtomOp) (ty : Ty) : List LaneArg → List Byte → List (Nat × DWord) → FFlags → List Byte × List (Nat × DWord) × FFlags
  | [], b, olds, fl => (b, olds, fl)
  | a :: r, b, olds, fl =>
    let n := opWidth ty / 8
    let old := BitVec.ofNat 64 (natLE ((b.drop a.off).take n))
    let nw := atomNew op ty old a.x a.cmp
    atomLanes op ty r (b.take a.off ++ bytesLE n nw.1.toNat ++ b.drop (a.off + n)) (olds ++ [(a.lane, old)]) (fl ||| nw.2)

/-- The bytes of a line that an atomic writes. -/
def atomBen (r : AtomReq) : LaneMask :=
  r.args.foldl (fun acc a => acc ||| BitVec.ofNat 64 ((2 ^ (opWidth r.ty / 8) - 1) * 2 ^ a.off)) 0

-- What a home does with a request

/-- Nothing may write this byte of HBM: its page is under a write lock, or in the protected region (R27, R236). -/
def writeBarred (s : State) (a : Nat) : Bool := isHbm a && (s.locked.contains (a / 4096) || isProtected s a)

/-- A write of a duplex page, or of one that is mapped duplex too, reaches both of its homes' bytes (R229): neither may be barred (R27, R236). -/
def barredBoth (s : State) (a : Nat) (dup : Bool) : Bool :=
  writeBarred s a || (writeBarred s (partnerOf a) && (dup || isDuplex s (a / 64)))

/-- The write acknowledgement of a request (R416, R422). -/
def ackOf (s : State) (j : Nat) (p : Packet) : Packet := { blankPacket s .writeAck j p.src with tag := p.tag, asid := p.asid, addr := p.addr }

/-- The read response of a request, with the home's stamp (R416, R422); only a causal load's is merged (R423). -/
def readReply (s : State) (j : Nat) (p : Packet) (data : List Byte) (bad : Option Nat) : Packet :=
  { blankPacket s .readResponse j p.src with
    tag := p.tag, asid := p.asid, addr := p.addr, data := data, poison := bad, resent := p.resent,
    stamp := homeStamp (s.member j) j }

/-- Line number in HBM of a request's address. -/
def lineOf (p : Packet) : Nat := p.addr.toNat / 64

/-- A home writes a line back: HBM holds what the L2 holds (R266). -/
def cleanLine (s : State) (l : Nat) : State := { s with l2 := s.l2.map (fun e => if e.1 = l then (e.1, false) else e) }

/-- Read a line at its home and answer, or write it back for a `cwb` (R266, R271, R422); a host line goes to PCIe in delivery order (R243, R282). -/
def serveRead (s : State) (j : Nat) (p : Packet) : State :=
  if j = 16 then
    match hostPlace s p.addr with
    | none => s.check 16 ckAtc
    | some a => { s with pcie := s.pcie ++ [(p.tag, .read (a / 64 * 64) (readReply s j p [] none))] }
  else
    let l := lineOf p
    respond (if p.wb then cleanLine s l else touchL2 s l false) (readReply s j p (placeBytes s (64 * l) 64) (if s.poison.contains l then some 0 else none))
      (p.op = .causalLoad)

/-- A load that meets a line whose forward the partner has not acknowledged waits there (R271, R422). -/
def readOrHold (s : State) (j : Nat) (p : Packet) : State :=
  let m := s.member j
  let l := lineOf p
  if j ≠ 16 && m.lineHolds.any (fun h => h.line == l) then
    let last := (m.lineHolds.filter (fun h => h.line == l)).getLast?.map (·.tag)
    s.putMember j { m with lineHolds := m.lineHolds.map (fun h => if some h.tag = last then { h with waiting := h.waiting ++ [p] } else h) }
  else serveRead s j p

/-- The home forwards a write of a duplex page to the partner (R229): it does so when the page is duplex and the partner's
home serves. -/
def forwards (s : State) (j : Nat) (p : Packet) : Bool :=
  p.dup && j != 16 && (p.op == .orderedWrite || p.op == .atomic || p.op == .bulkWrite) && homeServes s (homeOf (partnerOf p.addr.toNat))

/-- Send a forward under its tag, with the home's stamp (R229). -/
def sendForward (s : State) (j : Nat) (f : Forward) : State :=
  let r := sendStamped { s with fresh := f.tag } (.forward (partnerOf f.packet.addr.toNat / 64) (some f.reply)) (s.member j).cv f.packet
  { r.2 with fresh := s.fresh }

/-- Send the forwards of a home that may go now, in the order of its deliveries (R229, R420, R425). -/
def sendForwards (j : Nat) : Nat → State → State
  | 0, s => s
  | fuel + 1, s =>
    match (s.member j).fwds with
    | [] => s
    | f :: r =>
      if mayForward s j f.packet.dst then sendForwards j fuel (sendForward (s.putMember j { s.member j with fwds := r }) j f) else s

/-- Forward bytes of a line to the partner; the line is held, and `reply` waits, until it acknowledges (R229, R422). The forward is sent when
the home's window and allowance let it: the delivery does not wait for that (R427, R433). -/
def forwardLine (s : State) (j : Nat) (p : Packet) (ben : LaneMask) (data : List Byte) (reply : Packet) : State :=
  let pa := partnerOf p.addr.toNat
  let q := { blankPacket s .forwardedWrite j (homeOf pa) with
    asid := p.asid, addr := BitVec.ofNat 64 pa, ben := ben, data := data, poison := p.poison }
  let m := s.member j
  let s1 : State := { s.putMember j { m with fwds := m.fwds ++ [⟨s.fresh, q, reply⟩], lineHolds := m.lineHolds ++ [⟨s.fresh, lineOf p, []⟩] } with
    fresh := s.fresh + 1 }
  sendForwards j (m.fwds.length + 1) s1

/-- Bytes of a host write in place order. -/
def hostImage (a : Nat) (ben : LaneMask) (data : List Byte) : Image :=
  (data.zipIdx.filter (fun x => ben.getLsbD x.2)).map (fun x => (a + x.2, x.1))

/-- Deliver a write: at die 16 it joins the PCIe order (R282); at a home it is merged, and acknowledged or forwarded. A write whose line check
fails changes nothing (R231), and a home refuses a write to a locked page (R27, R236). -/
def deliverWrite (s : State) (j : Nat) (p : Packet) (stamped : Bool) : State :=
  if p.check ≠ packetCheck p then respond s (ackOf s j p) stamped
  else if j = 16 then
    match hostPlace s p.addr with
    | none => s.check 16 ckAtc
    | some a =>
      respond { s with pcie := s.pcie ++ [(p.tag, .write (a / 64 * 64) (hostImage (a / 64 * 64) p.ben p.data))] } (ackOf s j p) stamped
  else if barredBoth s p.addr.toNat p.dup then respond s { ackOf s j p with refused := true } stamped
  else
    let s1 := (if p.dup || p.op == .forwardedWrite then mergeLine else mergeBoth) s (lineOf p) p.ben p.data p.poison.isSome
    if forwards s j p then forwardLine s1 j p p.ben p.data (ackOf s j p) else respond s1 (ackOf s j p) stamped

/-- Perform an atomic and answer with the home's vector (R259 to R261, R422): a poisoned line is not changed and no lane performs; a host line becomes a PCIe
AtomicOp. -/
def deliverAtomic (s : State) (j : Nat) (p : Packet) : State :=
  match p.atom with
  | none => s
  | some rq =>
    let blank := { blankPacket s .atomicResponse j p.src with
      tag := p.tag, asid := p.asid, addr := p.addr, cst := p.cst, stamp := (s.member j).cv }
    if j = 16 then
      match hostPlace s p.addr with
      | none => s.check 16 ckAtc
      | some a => { s with pcie := s.pcie ++ [(p.tag, .atomic (a / 64 * 64) rq blank)] }
    else
      let l := lineOf p
      if barredBoth s p.addr.toNat p.dup then respond s { blank with refused := true } true
      else if s.poison.contains l then respond s { blank with poison := some 0 } true
      else
        let b := atomLanes rq.op rq.ty rq.args (placeBytes s (64 * l) 64) [] 0
        let s1 := (if p.dup then mergeLine else mergeBoth) s l (atomBen rq) b.1 false
        let r := { blank with olds := b.2.1, flags := b.2.2 }
        if forwards s j p then forwardLine s1 j p (atomBen rq) b.1 r else respond s1 r true

/-- Deliver a stamped packet (R422); a causal load that a loss has released answers without data (R429). -/
def deliverStamped (s : State) (j : Nat) (p : Packet) : State :=
  let s0 := returnLoan s p
  match p.op with
  | .causalLoad => match p.cst with
    | some d => respond s0 { readReply s0 j p [] none with cst := some d } true
    | none => readOrHold s0 j p
  | .atomic => deliverAtomic (s0.putMember j (countDelivered (s0.member j) p)) j p
  | _ => deliverWrite (s0.putMember j (countDelivered (s0.member j) p)) j p true

/-- A write through an ordinary mapping meets a forward on its way of a duplex mapping of the same line, at either home: both homes deliver
the line's writes in one order (R229, R271). -/
def crossesForward (s : State) (j : Nat) (p : Packet) : Bool :=
  let l := lineOf p
  j != 16 && !p.dup && (p.op == .orderedWrite || p.op == .atomic || p.op == .bulkWrite) &&
  ((s.member j).lineHolds.any (fun h => h.line == l) ||
   (s.member (homeOf (partnerOf p.addr.toNat))).lineHolds.any (fun h => h.line == partnerOf (64 * l) / 64)) && isDuplex s l

/-- The primary home of a line that a load reads at the partner home. -/
def primaryOf (p : Packet) : Nat := homeOf (partnerOf p.addr.toNat)

/-- A causal load at the partner home of a duplex page has every write before it there (R229, R274): the primary home, while it serves, has
delivered what the load's stamp names, and has no forward of the line on its way (log entry 139). -/
def partnerSeen (s : State) (p : Packet) : Bool :=
  !(p.op == .causalLoad && p.partner && p.cst.isNone && homeServes s (primaryOf p)) ||
  ((primaryLacks (s.member (primaryOf p)) (primaryOf p) p.stamp).isEmpty &&
    !(s.member (primaryOf p)).lineHolds.any (fun h => h.line == partnerOf (64 * lineOf p) / 64))

/-- No line hold stands against a packet that passes the test of R421: an atomic waits at the primary home for the forward of its line (R271). -/
def holdFree (s : State) (j : Nat) (p : Packet) : Bool :=
  !(p.op == .atomic && (s.member j).lineHolds.any (fun h => h.line == lineOf p)) && !crossesForward s j p && partnerSeen s p

/-- Frontier requests of a destination that holds packets; those of a load at a partner home are made for the primary home too. -/
def askForHolds (s : State) (j : Nat) : State :=
  let m := s.member j
  let s1 := (m.holds.flatMap (waitsFor m j)).eraseDups.foldl (fun acc k => askFrontier acc j k) s
  (m.holds.filter (fun p => !partnerSeen s p)).foldl (fun acc p =>
    (primaryLacks (s.member (primaryOf p)) (primaryOf p) p.stamp).foldl (fun a k => askFrontier a (primaryOf p) k) acc) s1

/-- An access to host memory whose index names no valid ATC entry (R415). -/
def hostDefect (s : State) (p : Packet) : Bool :=
  p.dst == 16 && (isStamped p.op || p.op == .plainLoad || p.op == .bulkWrite || p.op == .engineRead) && (hostPlace s p.addr).isNone

/-- Arrival of a stamped packet (R415, R417, R421): discarded with a defect, delivered, or held in an entry of its source (R426). -/
def arriveStamped (op : POp) (src dst : Nat) (s : State) : Out :=
  match takeArrival s op src dst with
  | none => .next s
  | some (p0, s1) =>
    if defective (s1.member dst) p0 then .next (s1.check dst ckPacket)
    else if hostDefect s1 p0 then .next (s1.check dst ckAtc)
    else if isRemoved (s1.member dst) src then .next s1
    else
      let (p, m) := fullStamp (s1.member dst) p0
      let s2 := s1.putMember dst m
      if !m.holds.any (fun q => q.src == src) && deliverable m dst p && holdFree s2 dst p then .next (deliverStamped s2 dst p)
      else if !holdRoom m src then .next s
      else .next (askForHolds (s2.putMember dst { m with holds := m.holds ++ [p] }) dst)

/-- ORDERED_WRITE (R421, R422). -/
def execOrderedWrite (src dst : Nat) (s : State) : Out := arriveStamped .orderedWrite src dst s

/-- ATOMIC (R259, R421, R422). -/
def execAtomic (src dst : Nat) (s : State) : Out := arriveStamped .atomic src dst s

/-- CAUSAL_LOAD (R274, R421, R422). -/
def execCausalLoad (src dst : Nat) (s : State) : Out := arriveStamped .causalLoad src dst s

/-- FORWARDED_WRITE (R229, R422): the partner delivers a duplex write in the primary's order. -/
def execForwardedWrite (src dst : Nat) (s : State) : Out := arriveStamped .forwardedWrite src dst s

/-- PLAIN_LOAD (R421): performed on arrival; only a duplex line hold makes it wait. -/
def execPlainLoad (src dst : Nat) (s : State) : Out :=
  match takeArrival s .plainLoad src dst with
  | none => .next s
  | some (p, s1) =>
    if defective (s1.member dst) p then .next (s1.check dst ckPacket)
    else if hostDefect s1 p then .next (s1.check dst ckAtc)
    else .next (readOrHold s1 dst p)

/-- Every write that has reached a home is delivered there, and at the partner (R229, R350). -/
def allDelivered (m : Member) : Bool := m.lineHolds.isEmpty && !m.holds.any (fun p => isCounted p.op)

/-- The home performs a packet of its write queue: a bulk write (R336), an engine read (R349), or a flush marker, which it answers with its
causal vector (R350). -/
def performQueued (s : State) (j : Nat) (p : Packet) : State :=
  match p.op with
  | .bulkWrite => deliverWrite s j p false
  | .engineRead => readOrHold s j p
  | _ => s.post { blankPacket s .flushReply j p.src with tag := p.tag, stamp := homeStamp (s.member j) j }

/-- A packet of VC-C behind `before` in the write queue may be performed: nothing of its source is before it (R350); a flush marker waits for
every write that reached the home before, a bulk write for a forward that it would cross. -/
def queueFree (s : State) (j : Nat) (before : List Packet) (p : Packet) : Bool :=
  !before.any (fun q => q.src == p.src) &&
  (match p.op with
   | .flushMarker => allDelivered (s.member j) && !before.any (fun q => q.op == .bulkWrite)
   | _ => !crossesForward s j p)

/-- Arrival on VC-C (R412, R453): without a free entry in the home's write queue the packet waits for a credit; else it is performed, or takes an
entry and is performed later: a free value says which (DESIGN CHOICE, log entry 156: the spec sets no time to a home's writes). -/
def arriveQueued (op : POp) (src dst : Nat) (s : State) : Out :=
  match takeArrival s op src dst with
  | none => .next s
  | some (p, s1) =>
    let m := s1.member dst
    if defective m p then .next (s1.check dst ckPacket)
    else if hostDefect s1 p then .next (s1.check dst ckAtc)
    else if Config.writeQueue < m.writeq.length then .next s
    else
      let s2 : State := { s1 with freeCtr := s1.freeCtr + 1 }
      if queueFree s2 dst m.writeq p && Config.freeNat s1.freeCtr % 2 == 0 then .next (performQueued s2 dst p)
      else .next (s2.putMember dst { m with writeq := m.writeq ++ [p] })

/-- BULK_WRITE (R336, R350). -/
def execBulkWrite (src dst : Nat) (s : State) : Out := arriveQueued .bulkWrite src dst s

/-- ENGINE_READ (R336, R349). -/
def execEngineRead (src dst : Nat) (s : State) : Out := arriveQueued .engineRead src dst s

/-- FLUSH_MARKER (R350): once every write that reached the home before is delivered, it replies with its causal vector. -/
def execFlushMarker (src dst : Nat) (s : State) : Out := arriveQueued .flushMarker src dst s

/-- The first packet of a write queue that may be performed. -/
def firstQueued (s : State) (j : Nat) : List Packet → List Packet → Option Packet
  | _, [] => none
  | before, p :: r => if queueFree s j before p then some p else firstQueued s j (before ++ [p]) r

/-- A member sends what may go now of the requests that are to be sent again and of its forwards, and goes on with its write queue. -/
def driveHome (j : Nat) (s : State) : Out :=
  let s1 := sendForwards j (s.member j).fwds.length (sendAgain s j)
  let m := s1.member j
  match if memberGone s1 j then none else firstQueued s1 j [] m.writeq with
  | none => .next s1
  | some p => .next (performQueued (s1.putMember j { m with writeq := m.writeq.filter (fun q => q.tag ≠ p.tag) }) j p)

/-- HOLD_RELEASE (R421, R426): one held packet that now passes the test is delivered; when none does, the members it waits
for are asked again (R424). -/
def execHoldRelease (dst : Nat) (s : State) : Out :=
  let m := raiseViews (s.member dst)
  match if memberGone s dst then none else firstFree m dst (holdFree s dst) [] m.holds with
  | none => .next (askForHolds (s.putMember dst m) dst)
  | some p => .next (deliverStamped (s.putMember dst { m with holds := m.holds.filter (fun q => q.tag ≠ p.tag) }) dst p)

-- Control

/-- FLOOR at die 16 (R425): for each member the earliest VIEW and LOW over the live members, as last reported. -/
def floorNow (s : State) : List (BitVec 32) :=
  let m := s.member 16
  let own := m.view.map low16
  let reports := ((List.range 16).filter (fun i => !isRemoved m i)).map
    (fun i => (listGet (copies 17 0) s.seenView i, listGet (copies 17 0) s.seenLow i))
  (List.range 17).map fun k =>
    let e0 := earlier16 (nth16 own k) (nth16 (lowOf s 16) k)
    let e := reports.foldl (fun acc r => earlier16 (earlier16 acc (nth16 r.1 k)) (nth16 r.2 k)) e0
    later32 (nth32 m.floor k) (reach32 (nth32 m.floor k) e)

def refloor (s : State) : State := s.putMember 16 { s.member 16 with floor := floorNow s }

/-- FRONTIER (R424, R425). -/
def execFrontier (src dst : Nat) (s : State) : Out :=
  match takeArrival s .frontier src dst with
  | none => .next s
  | some (p, s1) =>
    if defective (s1.member dst) p then .next (s1.check dst ckPacket)
    else
      let m := (takeLoan s1 p).member dst
      let m1 := applyKept { m with kept := listSet m.kept src (some ⟨nth16 p.stamp src, p.chain, p.fare⟩) } src
      let m2 := if src = 16 ∧ dst ≠ 16 then
          { m1 with floor := (List.range 17).map (fun k => reach32 (nth32 m1.floor k) (nth16 (bytesCv p.data) k)) }
        else m1
      let s2 := s1.putMember dst m2
      let s3 : State := { s2 with unanswered := forget s2.unanswered (32 * dst + src) }
      if dst = 16 then
        .next (refloor { s3 with seenView := listSet s3.seenView src p.stamp, seenLow := listSet s3.seenLow src (bytesCv p.data) })
      else .next s3

/-- A member that has sent its farewell has stopped (R428). -/
def hasLeft (s : State) (i : Nat) : Bool := isRemoved (s.member i) i

/-- FRONTIER_REQUEST (R424): the member answers with a frontier of its present state. -/
def execFrontierRequest (src dst : Nat) (s : State) : Out :=
  match takeArrival s .frontierRequest src dst with
  | none => .next s
  | some (p, s1) =>
    if defective (s1.member dst) p then .next (s1.check dst ckPacket)
    else if hasLeft s1 dst then .next s1 else .next (sendFrontier s1 dst src false)

/-- FRONTIER_IDLE_TIMER (R424): 256 fabric cycles, that is 461 core cycles, with no VC-D traffic on the pair. -/
def execFrontierIdleTimer (src dst : Nat) (s : State) : Out :=
  let m := s.member src
  if src ≠ dst ∧ src < 17 ∧ dst < 17 ∧ !isRemoved (s.member 16) src ∧ !hasLeft s src ∧ 461 ≤ (s.clock - listGet 0 m.lastD dst).toNat then
    .next (sendFrontier s src dst false)
  else .next s

/-- MANAGEMENT (R416): consumed on arrival; it carries no state of the chapters. -/
def execManagement (src dst : Nat) (s : State) : Out :=
  match takeArrival s .management src dst with
  | none => .next s
  | some (p, s1) => if defective (s1.member dst) p then .next (s1.check dst ckPacket) else .next s1

/-- The links of a route, each with the place from which it is entered. -/
def routeHops : Nat → List Nat → List (Nat × Nat)
  | _, [] => []
  | at_, l :: r =>
    let (u, v) := linkEnds l
    (l, at_) :: routeHops (if u = at_ then v else u) r

/-- The pairs of members whose route enters a link from a place. -/
def pairsOver (s : State) (hop : Nat × Nat) : List (Nat × Nat) :=
  (List.range 17).flatMap fun a => ((List.range 17).filter (fun b => a != b && (routeHops (placeOfDie s a) (routeOf s a b)).contains hop)).map (fun b => (a, b))

/-- LINK_REPLAY (R411): a flit from `src` to `dst` fails its check on a link of their route; every flit behind it on that link, of whatever pair and
channel, comes at most 80 fabric cycles, that is 144 core cycles, later. -/
def execLinkReplay (src dst : Nat) (s : State) : Out :=
  let hops := routeHops (placeOfDie s src) (routeOf s src dst)
  let until_ := s.clock + BitVec.ofNat 64 (Config.freeNat s.freeCtr % 145)
  match hops[Config.freeNat (s.freeCtr + 1) % hops.length]? with
  | none => .next s
  | some h => .next { s with
      freeCtr := s.freeCtr + 2
      delays := (pairsOver s h).foldl (fun acc x => store acc (32 * x.1 + x.2) until_) s.delays }

end Sys2Proof.Machine
end

