-- ==== Sys2Proof/Machine/Xlate.lean ====
section
/-! DEFINITION. Address translation: page-table entries and walks (R233 to R236, R240), TLBs (R238, R239), host pages (R243,
R244), windows (R444), what an access needs (R237) and in what order its failures are reported (R241, R242), and the
translation events. -/

namespace Sys2Proof.Machine

/-- The 4 KiB page of a virtual address, VA[56:12]. -/
def pageOf (va : DWord) : Nat := va.toNat % 2 ^ 57 / 4096

/-- VA[63:57] all equal bit 56 (R220). -/
def canonical (va : DWord) : Bool := va.toNat / 2 ^ 56 == 0 || va.toNat / 2 ^ 56 == 255

/-- How a walk ends (R240, R242). -/
inductive WalkEnd where
  | leaf (e : DWord) (level : Nat)
  | absent (level : Nat)
  | malformed (level : Nat)
  | poisoned (source : Nat)
  deriving DecidableEq, Repr

/-- Walk from the table of a level, collecting the pointers followed (R233, R240). -/
def walkFrom (s : State) (asid page : Nat) : Nat → Nat → List PtrEntry → WalkEnd × List PtrEntry
  | level, table, acc =>
    let a := table + 8 * (page / 2 ^ (9 * level) % 512)
    if !homeServes s (homeOf a) then (.poisoned 5, acc)
    else if s.poison.contains (a / 64) then (.poisoned 0, acc)
    else
      let e := hbmWord s a
      if !pteV e then (.absent level, acc)
      else if malformed s e level table then (.malformed level, acc)
      else if pteLeaf e then (.leaf e level, acc)
      else match level with
        | 0 => (.malformed 0, acc)
        | n + 1 => walkFrom s asid page n (pteAddr e) (⟨asid, n, page / 2 ^ (9 * (n + 1)), pteAddr e⟩ :: acc)

def State.xlOf (s : State) (d : Nat) : DieXl := spGet DieXl.reset s.dieXl d
def State.putXl (s : State) (d : Nat) (x : DieXl) : State := { s with dieXl := spSet DieXl.reset s.dieXl d x }

/-- The deepest level that the walk cache holds for a page (R240), or the root. -/
def walkStart (s : State) (d asid page : Nat) : Nat × Nat :=
  let fits := (s.xlOf d).wcache.filter (fun e => e.asid == asid && e.prefix_ == page / 2 ^ (9 * (e.level + 1)))
  match fits with
  | [] => (4, asidRoot s asid)
  | e :: r =>
    let best := r.foldl (fun b x => if x.level < b.level then x else b) e
    (best.level, best.table)

/-- The walk of a page as a compute die makes it. -/
def walkPage (s : State) (d asid page : Nat) : WalkEnd × List PtrEntry :=
  let (level, table) := walkStart s d asid page
  walkFrom s asid page level table []

/-- The TLB entry of a leaf (R235). -/
def entryOf (asid page : Nat) (e : DWord) (level : Nat) : TlbEntry :=
  let n := leafLog2 e level
  ⟨asid, page * 4096 / 2 ^ n * 2 ^ n, n, e, level⟩

def covers (t : TlbEntry) (asid page : Nat) : Bool :=
  t.asid == asid && decide (t.base ≤ page * 4096) && decide (page * 4096 < t.base + 2 ^ t.log2)

/-- The ATC entry that covers a page of a PASID (R243). -/
def findAtc (s : State) (pasid page : Nat) : Option AtcEntry :=
  s.atc.find? (fun e => e.live && e.pasid == pasid && decide (e.base ≤ page * 4096) && decide (page * 4096 < e.base + 2 ^ e.log2))

/-- What a leaf answers for a page; none when it must first be translated by ATS (R243). -/
def xlOfLeaf (s : State) (asid page : Nat) (e : DWord) (level : Nat) : Option Xl :=
  if pteHost e then
    if !asidAts s asid then some (.atsOff e level)
    else match findAtc s (asidPasid s asid) page with
      | none => none
      | some a => some (.host a.idx (page * 4096 - a.base) e level a.r a.w)
  else some (.leaf (pteAddr e + page * 4096 % 2 ^ leafLog2 e level) e level)

/-- The window that an access of an ASID falls into (R444). -/
def windowOf (s : State) (asid page : Nat) : Option Window :=
  s.windows.find? (fun w => w.fn == asidFn s asid && w.asid == asid && decide (w.base ≤ page / 2 ^ 18) && decide (page / 2 ^ 18 < w.base + w.gib))

/-- Add what a page answers. -/
def Xc.learn (x : Xc) (page : Nat) (r : Xl) : Xc := { x with got := store x.got page r }
def Xc.want (x : Xc) (page : Nat) : Xc := { x with wants := setAdd x.wants page }

/-- Take a leaf: learn what it answers; a HOST leaf that the ATC does not cover is known, and a Translation Request is sent (R243). -/
def useLeaf (s : State) (x : Xc) (asid page : Nat) (e : DWord) (level : Nat) : Xc × State :=
  match xlOfLeaf s asid page e level with
  | some r => (x.learn page r, s)
  | none => ((x.learn page (.needAts e level)).want page, if s.atsReqs.contains (asid, page) then s else { s with atsReqs := s.atsReqs ++ [(asid, page)] })

/-- Look a page up for a requester on a core: its own answers, a window, the core's TLB, the die's TLB, else a walk (R238,
R239). At most 128 walks run and 512 misses wait; past that the request is made again later. A full L1 TLB gives up its oldest entry (DESIGN
CHOICE, log entry 35: the spec names no policy). -/
def lookPage (d c asid : Nat) (xs : Xc × State) (page : Nat) : Xc × State :=
  let (x, s) := xs
  if (look x.got page).isSome || x.wants.contains page then (x, s)
  else match windowOf s asid page with
    | some w => (x.learn page (.remote w.package w.remote), s)
    | none =>
      let co := s.coreAt d c
      match co.l1tlb.find? (fun t => covers t asid page) with
      | some t => useLeaf s x asid page t.leaf t.level
      | none =>
        let dx := s.xlOf d
        match dx.tlb.find? (fun t => covers t asid page) with
        | some t => useLeaf (s.putCore d c { co with l1tlb := (t :: co.l1tlb).take 64 }) x asid page t.leaf t.level
        | none =>
          if dx.walks.contains (asid, page) then (x.want page, s)
          else if dx.walks.length < 640 then (x.want page, s.putXl d { dx with walks := dx.walks ++ [(asid, page)] })
          else (x, s)

/-- Look up every page of a list. -/
def lookPages (d c asid : Nat) (x : Xc) (s : State) (pages : List Nat) : Xc × State :=
  pages.foldl (lookPage d c asid) (x, s)

-- What an answer allows

/-- Why a page refuses an access (R237, R241 to R244). -/
inductive XErr where
  | prot (reason level : Nat)
  | poison (source : Nat)
  | park (pri : Bool) (level : Nat)
  /-- the answer of ATS is still to come -/
  | wait
  deriving DecidableEq, Repr

/-- A leaf lacks a permission that the access needs (R237). -/
def leafLacks (rd wr : Bool) (e : DWord) : Bool := (rd && !pteR e) || (wr && !pteW e)

/-- Judge an answer for an access that reads or writes. A HOST leaf that itself lacks the permission is PROT at the leaf, before ATS is looked at
(R237, R241; DEDUCED, log entry 110, where ASID.ATS is 0). -/
def judge (s : State) (rd wr : Bool) : Xl → Option XErr
  | .leaf pa e level =>
    if leafLacks rd wr e then some (.prot 1 level)
    else if wr && barredBoth s pa (pteDup e) then some (.prot 6 level)
    else none
  | .host _ _ e level r w => if (rd && !(pteR e && r)) || (wr && !(pteW e && w)) then some (.prot 1 level) else none
  | .remote package asid =>
    if s.unreachable.contains package then some (.poison 5)
    else if Config.remoteGrants package asid then none else some (.prot 1 7)
  | .absent level => some (.park false level)
  | .malformed level => some (.prot 2 level)
  | .poisoned source => some (.poison source)
  | .atsOff e level => some (.prot (if leafLacks rd wr e then 1 else 4) level)
  | .needAts e level => some (if leafLacks rd wr e then .prot 1 level else .wait)
  | .noGrant e level => some (if leafLacks rd wr e then .prot 1 level else .park true level)

/-- Place number of a virtual address under an answer. -/
def placeOf (s : State) (va : DWord) : Xl → Nat
  | .leaf pa _ _ => pa + va.toNat % 4096
  | .host idx off _ _ _ _ =>
    match s.atc.find? (fun e => e.idx == idx) with
    | some e => hostBase + (e.host.toNat + off + va.toNat % 4096) % 2 ^ 64
    | none => hostBase
  | .remote package asid => remoteBase + package * 2 ^ 80 + asid * 2 ^ 64 + va.toNat
  | _ => 0

/-- The virtual address of a page number, in the canonical form of R238. -/
def pageVa (page : Nat) : DWord := (BitVec.ofNat 57 (page * 4096)).signExtend 64

/-- TINFO of PAGE and PROT (R242), and of POISON (R360). -/
def pageInfo (reason level : Nat) : Word := BitVec.ofNat 32 (16 * reason + level)
/-- REASON and LEVEL of a write that the home of a page refuses, as TINFO holds them (R236, R242, R260). -/
def refusalOf : Xl → Nat
  | .host _ _ _ level _ _ => 16 * 4 + level
  | .leaf _ _ level => 16 * 6 + level
  | _ => 16 * 6 + 7
def poisonInfo (source : Nat) : Word := BitVec.ofNat 32 (16 * source)

/-- How translating the lanes of one instruction ends (R241). -/
inductive XRes where
  | ready (places : List (Nat × Nat)) (xls : List (Nat × Xl))
  | wait
  | trap (cause : Word) (addr : DWord) (lanes : LaneMask) (info : Word)
  | park (pages : List Park)
  deriving DecidableEq, Repr

/-- The lanes that meet a condition, with the address of the lowest of them. -/
def hitLanes (as : List (Nat × DWord)) (f : Nat × DWord → Bool) : Option (DWord × LaneMask) :=
  match as.filter f with
  | [] => none
  | x :: r => some (x.2, (x :: r).foldl (fun acc y => acc ||| laneBit y.1) 0)

/-- One park for each distinct page (R242). -/
def parksOf (as : List (Nat × DWord)) (kind : Nat × DWord → Bool × Nat) : List Park :=
  (as.map (fun a => pageOf a.2)).eraseDups.map fun pg =>
    let mine := as.filter (fun a => pageOf a.2 == pg)
    ⟨pg, (mine.map kind).any (·.1), ((mine.map kind).headD (false, 0)).2, mine.foldl (fun acc y => acc ||| laneBit y.1) 0, (mine.head?.map (·.2)).getD 0, none, none⟩

/-- R241 over lanes in rising order whose pages have been looked up. -/
def judgeLanes (s : State) (x : Xc) (rd wr : Bool) (as : List (Nat × DWord)) : XRes :=
  let err := fun (a : Nat × DWord) => (look x.got (pageOf a.2)).bind (judge s rd wr)
  let isProt := fun a => match err a with | some (.prot _ _) => true | _ => false
  let isPoison := fun a => match err a with | some (.poison _) => true | _ => false
  let isPark := fun a => match err a with | some (.park _ _) => true | _ => false
  match hitLanes as (fun a => !canonical a.2) with
  | some (va, m) => .trap cPROT va m (pageInfo 3 7)
  | none =>
    match hitLanes as isProt, as.find? isProt with
    | some (va, m), some a => match err a with
      | some (.prot reason level) => .trap cPROT va m (pageInfo reason level)
      | _ => .wait
    | _, _ =>
      if as.any (fun a => (look x.got (pageOf a.2)).isNone || err a == some .wait) then .wait
      else
        match hitLanes as isPoison, as.find? isPoison with
        | some (va, m), some a => match err a with
          | some (.poison source) => .trap cPOISON va m (poisonInfo source)
          | _ => .wait
        | _, _ =>
          match as.filter isPark with
          | [] => .ready (as.map (fun a => (a.1, match look x.got (pageOf a.2) with | some r => placeOf s a.2 r | none => 0)))
              (as.filterMap (fun a => (look x.got (pageOf a.2)).map (fun r => (a.1, r))))
          | ps => .park (parksOf ps (fun a => match err a with | some (.park b n) => (b, n) | _ => (false, 0)))

/-- Translate the lanes of an instruction of a gang. -/
def translateLanes (s : State) (g : Gang) (rd wr : Bool) (as : List (Nat × DWord)) : XRes × Xc × State :=
  let ok := as.filter (fun a => canonical a.2)
  let (x, s1) := lookPages g.die g.core g.kd.asid g.xc s (ok.map (fun a => pageOf a.2)).eraseDups
  (judgeLanes s1 x rd wr as, x, s1)

-- Parking

/-- Make a fault record or a PRI request for a page; answers the record id. -/
def State.fn (s : State) (f : Nat) : Fn := spGet Fn.reset s.fns f
def State.putFn (s : State) (f : Nat) (x : Fn) : State := { s with fns := spSet Fn.reset s.fns f x }

/-- Add a record to a function's records that wait to be written (R443); it gets the next id. -/
def addRecord (s : State) (f : Nat) (r : FaultRec) : Nat × State :=
  let x := s.fn f
  (x.nextId, s.putFn f { x with
    records := x.records ++ [{ r with id := x.nextId }]
    nextId := x.nextId + 1
    pageIds := if r.kind = 1 then x.pageIds ++ [x.nextId] else x.pageIds })

def noTrap : TrapInfo := ⟨0, 0, 0, 0, 0⟩

/-- The host's PRI allocation of a function has room for another request (R244). -/
def priRoom (s : State) (f : Nat) : Bool :=
  !(s.fn f).priStopped && decide ((s.pri.filter (fun r => r.fn == f && r.sent)).length ≤ Config.priAllocation f)

/-- Requests of a function that waited are sent as far as there is room, oldest first (R244). -/
def sendPri (s : State) (f : Nat) : State :=
  s.pri.foldl (fun acc r =>
    if r.fn = f ∧ !r.sent ∧ priRoom acc f then { acc with pri := acc.pri.map (fun x => if x = r then { x with sent := true } else x) } else acc) s

/-- Ask for a page: a page request record (R242), or a PRI request, sent when there is room for it (R244). -/
def askPage (s : State) (asid queue launch die core gangid : Nat) (p : Park) : Park × State :=
  let f := asidFn s asid
  if p.pri then
    if s.pri.any (fun r => r.asid == asid && r.page == p.page) then (p, s)
    else (p, { s with pri := s.pri ++ [⟨f, asid, p.page, priRoom s f⟩] })
  else
    let r := addRecord s f ⟨1, asid, 0, queue, launch, die, core, gangid, pageVa p.page, noTrap, none⟩
    ({ p with record := some r.1 }, r.2)

-- Delivering answers

/-- Tell a requester that a page is looked up: it learns the answer, or looks again. The level of a page without a grant is that at which its
own walk ended (R242); one that an invalidation has made it forget is translated again. -/
def Xc.told (x : Xc) (page : Nat) (r : Option Xl) : Xc :=
  if x.wants.contains page then
    let y := { x with wants := setDel x.wants page }
    match r with
    | none => { y with got := forget y.got page }
    | some (.noGrant _ _) => match look y.got page with
      | some (Xl.needAts e level) => y.learn page (.noGrant e level)
      | _ => { y with got := forget y.got page }
    | some v => y.learn page v
  else x

/-- Tell the requesters of an ASID on the dies that `on` picks. -/
def tellAll (s : State) (on : Nat → Bool) (asid page : Nat) (r : Option Xl) : State :=
  { s with
    gangs := s.gangs.map (fun e => if e.2.kd.asid = asid ∧ on e.2.die then (e.1, { e.2 with xc := e.2.xc.told page r }) else e)
    cores := spMap Core.reset (fun k c => if on (k / 256) then
      { c with
        copyq := c.copyq.map (fun q => if q.asid = asid then { q with xc := q.xc.told page r } else q)
        streams := c.streams.map (fun q => if q.asid = asid then { q with xc := q.xc.told page r } else q) } else c) s.cores }

/-- Walks under way, at most 128; the misses behind them wait for a walker in arrival order (R238, R239). -/
def walking (x : DieXl) : List (Nat × Nat) := x.walks.take 128

/-- WALK_COMPLETE (R239, R240, R246): the walk reads its entries, fills the TLB and the walk cache, and answers everyone who
waits for the page on the die. A full TLB or walk cache gives up its oldest entry (DESIGN CHOICE, log entry 35). -/
def execWalkComplete (die asid : Nat) (va : DWord) (s : State) : Out :=
  let page := pageOf va
  let x := s.xlOf die
  if !(walking x).contains (asid, page) then .next s
  else
    let (e, ptrs) := walkPage s die asid page
    let x1 := { x with
      walks := x.walks.filter (fun w => w ≠ (asid, page))
      wcache := (ptrs ++ x.wcache.filter (fun q => !ptrs.contains q)).take 256 }
    match e with
    | .leaf e level =>
      let s1 := s.putXl die { x1 with tlb := (entryOf asid page e level :: x1.tlb).take 8192 }
      .next (tellAll s1 (· == die) asid page (if pteHost e then none else xlOfLeaf s1 asid page e level))
    | .absent level => .next (tellAll (s.putXl die x1) (· == die) asid page (some (.absent level)))
    | .malformed level => .next (tellAll (s.putXl die x1) (· == die) asid page (some (.malformed level)))
    | .poisoned source => .next (tellAll (s.putXl die x1) (· == die) asid page (some (.poisoned source)))

/-- An access sent or translated through an ATC entry is not delivered yet (R245). -/
def atcUsed (s : State) (idx : Nat) : Bool :=
  let pk := fun (p : Packet) => p.dst == 16 && p.addr.toNat / 2 ^ 38 % 2 ^ 14 == idx &&
    (p.op == .orderedWrite || p.op == .bulkWrite || p.op == .atomic || p.op == .causalLoad || p.op == .plainLoad || p.op == .engineRead)
  let xl := fun (r : Xl) => match r with | .host i _ _ _ _ _ => i == idx | _ => false
  let xc := fun (x : Xc) => x.got.any (fun e => xl e.2)
  let op := fun (o : MemOp) => o.unsent.any (fun x => pk x.2)
  s.flights.any (fun f => f.2.any pk) || (s.member 16).holds.any pk ||
  s.gangs.any (fun e => xc e.2.xc || e.2.ops.any op) ||
  s.cores.any (fun e => e.2.copyq.any (fun q => xc q.xc) || e.2.streams.any (fun q => xc q.xc ||
    q.held.any (fun h => h.lines.any (fun l => xl l.2)) || q.loads.any (fun l => op l.op)))

/-- Entries that must stay when room is made for another: those in use, and the live ones but, when all 16384 are taken, the oldest that is not
in use (R243; DESIGN CHOICE, log entry 35). -/
def atcKept (s : State) : List AtcEntry :=
  let l := s.atc.filter (fun e => e.live || atcUsed s e.idx)
  if l.length < 16384 then l
  else match l.find? (fun e => !atcUsed s e.idx) with
    | some v => l.filter (fun e => e.idx ≠ v.idx)
    | none => l

/-- The lowest ATC index not in use, of 16384 (R243). -/
def freeAtc (l : List AtcEntry) : Nat := ((List.range (l.length + 1)).find? (fun i => !l.any (fun e => e.idx == i))).getD 0

/-- ATS_COMPLETION (R243, R244): a grant of either permission fills the ATC, once one of its 16384 entries is not in use; one of neither leaves a page to ask for. -/
def execAtsCompletion (asid : Nat) (va : DWord) (read write : Bool) (addr : DWord) (log2size : Nat) (s : State) : Out :=
  let page := pageOf va
  if !s.atsReqs.contains (asid, page) then .next s
  else
    let s1 : State := { s with
      atsReqs := s.atsReqs.filter (fun r => r ≠ (asid, page))
      atsBy16 := if read || write then s.atsBy16.filter (fun r => r.1 ≠ (asid, page))
        else s.atsBy16.map (fun r => if r.1 = (asid, page) then (r.1, true) else r) }
    if read || write then
      let n := max 12 (min 30 log2size)
      let keep := atcKept s1
      if 16384 ≤ keep.length then .next s else
      let e : AtcEntry := ⟨freeAtc keep, true, asidPasid s asid, page * 4096 / 2 ^ n * 2 ^ n, n, addr, read, write⟩
      .next (tellAll { s1 with atc := keep ++ [e] } (fun _ => true) asid page none)
    else
      .next (tellAll s1 (fun _ => true) asid page (some (.noGrant 0x3F 0)))

/-- PRI_RESPONSE codes (R244): 0 Success, 1 Invalid Request, others Response Failure. The answer reaches everyone parked
on the page; a failure reaches everyone parked on any request of the function. -/
def answerParks (x : List Park) (pri : Bool) (hit : Park → Bool) (ok : Bool) : List Park :=
  x.map (fun p => if p.pri = pri ∧ hit p ∧ p.answer = none then { p with answer := some ok } else p)

/-- PAGE of a gang whose pages were refused (R242): TLANES the lanes of the pages that failed, TADDR the lowest lane's. -/
def pageTrap (p : Path) (ps : List Park) : TrapInfo :=
  let bad := ps.filter (fun x => x.answer == some false)
  let lanes := bad.foldl (fun acc x => acc ||| x.lanes) 0
  let low := bad.find? (fun x => x.lanes.getLsbD (lowestLane lanes))
  ⟨cPAGE, p.pc, (low.map (·.addr)).getD 0, lanes,
    pageInfo (if (low.map (·.pri)).getD false then 4 else 0) ((low.map (·.level)).getD 0)⟩

/-- A parked path stands at its instruction again, and waits for no page. -/
def endPark (g : Gang) : Gang :=
  { g with parks := [], xc := Xc.empty, paths := g.paths.map (fun p => if p.st = .parked then { p with st := .ready } else p) }

/-- A parked gang whose every page has its answer goes on (R242): it issues again, or takes PAGE once the accesses that it issued before have
completed (R361). -/
def unpark (s : State) (gi : Nat) : State :=
  match s.gang gi with
  | none => s
  | some g =>
    if g.parks.isEmpty || g.parks.any (fun p => p.answer == none) then s
    else
      let g1 := endPark g
      match g.paths.find? (fun p => p.st == .parked) with
      | none => s.putGang gi g1
      | some p =>
        if g.parks.any (fun x => x.answer == some false) then
          if otherOp g p.id (fun _ => true) then s else s.putGang gi (takeTrapGang (dropOp g1 p.id) p.id (pageTrap p g.parks) s.seq)
        else s.putGang gi g1

/-- Queue and launch sequence number of a gang's grid (R443). -/
def launchOf (s : State) (g : Gang) : Nat × Nat :=
  match look s.grids g.grid with
  | some r => (r.queue, r.launch)
  | none => (0, 0)

/-- Park a gang's path at its instruction on pages (R242, R244). -/
def parkGang (s : State) (gi : Nat) (g : Gang) (id : Nat) (ps : List Park) : State :=
  let (queue, launch) := launchOf s g
  let r := ps.foldl (fun acc p =>
    let q := askPage acc.2 g.kd.asid queue launch g.die g.core g.gangid p
    (acc.1 ++ [q.1], q.2)) (([] : List Park), s)
  r.2.putGang gi (waitPath { g with parks := r.1, xc := Xc.empty } id .parked)

/-- Answer the parks that `hit` picks in every gang and command; gangs whose pages are all answered go on. -/
def answerAll (s : State) (pri : Bool) (asidOk : Nat → Bool) (hit : Park → Bool) (ok : Bool) : State :=
  let s1 : State := { s with
    gangs := s.gangs.map (fun e => if asidOk e.2.kd.asid then (e.1, { e.2 with parks := answerParks e.2.parks pri hit ok }) else e)
    cores := spMap Core.reset (fun _ c => { c with copyq := c.copyq.map (fun q =>
      if asidOk q.asid then { q with park := (answerParks q.park.toList pri hit ok).head? } else q) }) s.cores }
  (s1.gangs.map (·.1)).foldl unpark s1

/-- PRI_RESPONSE (R244). -/
def execPriResponse (fn asid : Nat) (va : DWord) (code : Nat) (s : State) : Out :=
  let page := pageOf va
  if !s.pri.any (fun r => r.fn == fn && r.asid == asid && r.page == page && r.sent) then .next s
  else if code = 0 ∨ code = 1 then
    .next (answerAll (sendPri { s with pri := s.pri.filter (fun r => !(r.asid == asid && r.page == page)) } fn) true (· == asid)
      (fun p => p.page == page) (code == 0))
  else
    let s1 := s.putFn fn { s.fn fn with priStopped := true }
    .next (answerAll { s1 with pri := s1.pri.filter (fun r => r.fn ≠ fn) } true (fun a => asidFn s a == fn) (fun _ => true) false)

/-- PRI_REENABLE (R244): the driver lets the function's requests go again; those that waited are sent. -/
def execPriReenable (fn : Nat) (s : State) : Out :=
  .next (sendPri (s.putFn fn { s.fn fn with priStopped := false }) fn)

/-- Drop what may translate a VA range of an ASID on every die, and flash-invalidate the L1 of every core that runs a gang
of it (R245). -/
def dropRange (s : State) (asid : Nat) (lo size : Nat) : State :=
  let hitT := fun (t : TlbEntry) => t.asid == asid && decide (t.base < lo + size) && decide (lo < t.base + 2 ^ t.log2)
  let hitP := fun (t : PtrEntry) =>
    let n := 12 + 9 * (t.level + 1)
    t.asid == asid && decide (t.prefix_ * 2 ^ n < lo + size) && decide (lo < (t.prefix_ + 1) * 2 ^ n)
  let runs := fun (k : Nat) => s.gangs.any (fun e => e.2.kd.asid == asid && coreKey e.2.die e.2.core == k)
  let inR := fun (page : Nat) => decide (page * 4096 < lo + size) && decide (lo < page * 4096 + 4096)
  let cut := fun (x : Xc) => { x with got := x.got.filter (fun e => !inR e.1) }
  { s with
    atsBy16 := s.atsBy16.filter (fun r => !(r.1.1 == asid && r.2 && inR r.1.2))
    dieXl := spMap DieXl.reset (fun _ x => { x with tlb := x.tlb.filter (fun t => !hitT t), wcache := x.wcache.filter (fun t => !hitP t) }) s.dieXl
    gangs := s.gangs.map (fun e => if e.2.kd.asid = asid then (e.1, { e.2 with xc := cut e.2.xc }) else e)
    cores := spMap Core.reset (fun k c =>
      let c1 := { c with
        l1tlb := c.l1tlb.filter (fun t => !hitT t)
        copyq := c.copyq.map (fun q => if q.asid = asid then { q with xc := cut q.xc } else q)
        streams := c.streams.map (fun q => if q.asid = asid then { q with xc := cut q.xc } else q) }
      if runs k then { c1 with l1 := [], l1Epoch := c1.l1Epoch + 1 } else c1) s.cores }

end Sys2Proof.Machine
end

