-- ==== Sys2Proof/Machine/Fetch.lean ====
section
/-! DEFINITION. Instruction fetch (R24, R25, R66): one word through the gang's translations, and the fetches that the placer
and a revalidation make (R171, R198). -/

namespace Sys2Proof.Machine

/-- Why a page cannot be fetched from (R25, R237). -/
def judgeFetch : Xl → Option XErr
  | .leaf _ e level => if pteX e then none else some (.prot 1 level)
  | .host _ _ _ level _ _ => some (.prot 1 level)
  | .remote _ _ => some (.prot 1 7)
  | .absent level => some (.park false level)
  | .malformed level => some (.prot 2 level)
  | .poisoned source => some (.poison source)
  | .atsOff _ level | .needAts _ level | .noGrant _ level => some (.prot 1 level)

/-- How the fetch of a word ends. -/
inductive FetchEnd where
  | word (w : DWord)
  | wait
  | trap (cause : Word) (info : Word)
  | park (pri : Bool) (level : Nat)
  deriving DecidableEq, Repr

/-- Read a word of code at a place: its line may be poisoned, or its home gone, and a page of code has no duplex partner (R234, R370). -/
def readCode (s : State) (a : Nat) : FetchEnd :=
  if !homeServes s (homeOf a) then .trap cPOISON (poisonInfo 5)
  else if s.poison.contains (a / 64) then .trap cPOISON (poisonInfo 0)
  else .word (hbmWord s a)

/-- Fetch the word at a virtual address for a gang (R25). -/
def fetchWord (s : State) (g : Gang) (va : DWord) : FetchEnd × Xc × State :=
  if !canonical va then (.trap cPROT (pageInfo 3 7), g.xc, s)
  else
    let (x, s1) := lookPage g.die g.core g.kd.asid (g.xc, s) (pageOf va)
    match look x.got (pageOf va) with
    | none => (.wait, x, s1)
    | some r =>
      match judgeFetch r with
      | none => (readCode s1 (placeOf s1 va r), x, s1)
      | some (.prot reason level) => (.trap cPROT (pageInfo reason level), x, s1)
      | some (.poison source) => (.trap cPOISON (poisonInfo source), x, s1)
      | some (.park pri level) => (.park pri level, x, s1)
      | some .wait => (.wait, x, s1)

/-- The word at a virtual address by a fetch that does not wait: through the TLBs of a core, or by a walk of its own. -/
def fetchNow (s : State) (d c asid : Nat) (va : DWord) : Option DWord :=
  let page := pageOf va
  let fromLeaf := fun (e : DWord) (level : Nat) =>
    match xlOfLeaf s asid page e level with
    | some (.leaf pa e' n) =>
      match judgeFetch (.leaf pa e' n), readCode s (pa + va.toNat % 4096) with
      | none, .word w => some w
      | _, _ => none
    | _ => none
  if !canonical va then none
  else match ((s.coreAt d c).l1tlb ++ (s.xlOf d).tlb).find? (fun t => covers t asid page) with
    | some t => fromLeaf t.leaf t.level
    | none =>
      match (walkPage s d asid page).1 with
      | .leaf e level => fromLeaf e level
      | _ => none

/-- Words from an address on, as far as they can be fetched. -/
def fetchRun (s : State) (d c asid : Nat) (va : DWord) : Nat → List DWord
  | 0 => []
  | n + 1 => match fetchNow s d c asid va with
    | none => []
    | some w => w :: fetchRun s d c asid (va + 8) n

/-- Instructions of a run of words, each with its byte offset, as far as they decode; the run stops at the first that does
not. -/
def decodeRun : Nat → Nat → List DWord → List (Nat × Instr)
  | 0, _, _ => []
  | _, _, [] => []
  | fuel + 1, off, w0 :: r =>
    match decodeWords w0 (r.headD 0) with
    | none => []
    | some i =>
      let n := wordsLen w0
      if n = 16 then (if r.isEmpty then [] else (off, i) :: decodeRun fuel (off + 16) (r.drop 1))
      else (off, i) :: decodeRun fuel (off + 8) r

end Sys2Proof.Machine
end

