-- ==== Sys2Proof/Machine/Integer.lean ====
section
/-! DEFINITION. The scalar, long-immediate and vector integer instructions (R85 to R97), over one set of integer
operations. Operands arrive zero-extended to 64 bits; a 32-bit result is cut when it is written. -/

namespace Sys2Proof.Machine

/-- The immediate of a twin form: sign-extended to the operand width (R85, R90). -/
def immOp (ty : Ty) (imm : Imm20) : DWord := if isWide ty then immS imm else ((immS imm).setWidth 32).setWidth 64

/-- Bits [63:32] of the exact product, operands read by type (R85, R90). -/
def mulHigh (ty : Ty) (a b : DWord) : DWord := BitVec.ofInt 64 (valOf ty a * valOf ty b) >>> 32

/-- The lesser and the greater, read by type. -/
def minBy (ty : Ty) (a b : DWord) : DWord := if valOf ty b < valOf ty a then b else a
def maxBy (ty : Ty) (a b : DWord) : DWord := if valOf ty a < valOf ty b then b else a

/-- The shifts of R92 by `n`, at the operand width of the type. -/
def shlBy (ty : Ty) (a : DWord) (n : Nat) : DWord := if n < opWidth ty then a <<< n else 0
def shrBy (ty : Ty) (a : DWord) (n : Nat) : DWord := if n < opWidth ty then a >>> n else 0
def sraBy (ty : Ty) (a : DWord) (n : Nat) : DWord :=
  if isWide ty then a.sshiftRight n else ((a.setWidth 32).sshiftRight n).signExtend 64

/-- A shift amount: the low eight bits of its operand (R92). -/
def shiftAmount (x : Word) : Nat := (x.extractLsb' 0 8).toNat

/-- Rotate left by n mod 32 (R90). -/
def rotBy (a : DWord) (n : Nat) : DWord := ((a.setWidth 32).rotateLeft (n % 32)).setWidth 64

/-- SatS32 or SatZ32 of a sum (R90, R258), and whether it clamped. -/
def addSat (ty : Ty) (a b : DWord) : DWord × Bool :=
  let sg := ty == .s32
  let r := clampTo (intLo sg 32) (intHi sg 32) (valOf ty a + valOf ty b)
  ((BitVec.ofInt 32 r.1).setWidth 64, r.2)

/-- Leading zeros of a 32-bit value (R91). -/
def clz32 (x : Word) : Nat := if x = 0 then 32 else 31 - x.toNat.log2

/-- Bit reversal of a 32-bit value (R91). -/
def brev32 (x : Word) : Word :=
  BitVec.ofNat 32 ((List.range 32).foldl (fun acc i => if x.getLsbD (31 - i) then acc + 2 ^ i else acc) 0)

/-- A position or length of R95: the low eight bits, at most 32. -/
def fieldCount (x : Word) : Nat := min (shiftAmount x) 32

/-- `ibfx` (R95): bits of `a` above 31 read as zero or as bit 31. -/
def bitField (ty : Ty) (a : Word) (p n : Nat) : Word :=
  if n = 0 then 0
  else
    let x : DWord := if ty = .s32 then a.signExtend 64 else a.setWidth 64
    let f := ((x.sshiftRight p).toNat) % 2 ^ n
    BitVec.ofInt 32 (intOf (ty == .s32) n f)

/-- `ibfi` (R95): bits p to p + n − 1 below bit 32 of `old` replaced by the low bits of `a`. -/
def insertField (old a : Word) (p n : Nat) : Word :=
  let mask : Word := BitVec.ofNat 32 ((2 ^ n - 1) * 2 ^ p)
  (old &&& ~~~mask) ||| ((a <<< p) &&& mask)

/-- `idp4` (R95): the four products of 8-bit elements and the addend, modulo 2^32. -/
def dot4 (ty : Ty) (a b c : Word) : Word :=
  let el := fun (x : Word) i => intOf (ty == .s8) 8 (elemOf 8 i x.toNat)
  BitVec.ofInt 32 ((c.toNat : Int) + el a 0 * el b 0 + el a 1 * el b 1 + el a 2 * el b 2 + el a 3 * el b 3)

-- frames of the scalar forms

def scalarBin (i : Instr) (gd : Guard) (ty : Ty) (d a b : Field10) (op : DWord → DWord → DWord) (s : State) : Out :=
  scalarInstr i gd s fun g => writeS g ty d (op (readS g ty a) (readS g ty b))

def scalarShift (i : Instr) (gd : Guard) (ty : Ty) (d a b : Field10) (op : DWord → Nat → DWord) (s : State) : Out :=
  scalarInstr i gd s fun g => writeS g ty d (op (readS g ty a) (shiftAmount (getS g b.toNat)))

def scalarImm (i : Instr) (gd : Guard) (ty : Ty) (d a : Field10) (imm : Imm20) (op : DWord → DWord → DWord) (s : State) : Out :=
  scalarInstr i gd s fun g => writeS g ty d (op (readS g ty a) (immOp ty imm))

def scalarShiftImm (i : Instr) (gd : Guard) (ty : Ty) (d a : Field10) (imm : Imm20) (op : DWord → Nat → DWord) (s : State) : Out :=
  scalarInstr i gd s fun g => writeS g ty d (op (readS g ty a) imm.toNat)

-- frames of the vector forms

def vecBin (i : Instr) (gd : Guard) (ty : Ty) (d a : Field10) (b : Src) (op : DWord → DWord → DWord) (s : State) : Out :=
  vectorInstr i gd (vregs ty a ++ vregsB ty b) (vregs ty d) s fun g _ m =>
    .ok (writeLanes g ty d m fun l => op (readV g ty a l) (readB g ty b l))

def vecShift (i : Instr) (gd : Guard) (ty : Ty) (d a : Field10) (b : Src) (op : DWord → Nat → DWord) (s : State) : Out :=
  vectorInstr i gd (vregs ty a ++ vregsB .i32 b) (vregs ty d) s fun g _ m =>
    .ok (writeLanes g ty d m fun l => op (readV g ty a l) (shiftAmount (readB32 g b l)))

def vecImm (i : Instr) (gd : Guard) (ty : Ty) (d a : Field10) (imm : Imm20) (op : DWord → DWord → DWord) (s : State) : Out :=
  vectorInstr i gd (vregs ty a) (vregs ty d) s fun g _ m =>
    .ok (writeLanes g ty d m fun l => op (readV g ty a l) (immOp ty imm))

def vecShiftImm (i : Instr) (gd : Guard) (ty : Ty) (d a : Field10) (imm : Imm20) (op : DWord → Nat → DWord) (s : State) : Out :=
  vectorInstr i gd (vregs ty a) (vregs ty d) s fun g _ m =>
    .ok (writeLanes g ty d m fun l => op (readV g ty a l) imm.toNat)

def vecUn (i : Instr) (gd : Guard) (ty : Ty) (d : Field10) (b : Src) (op : DWord → DWord) (s : State) : Out :=
  vectorInstr i gd (vregsB ty b) (vregs ty d) s fun g _ m =>
    .ok (writeLanes g ty d m fun l => op (readB g ty b l))

def vecTri (i : Instr) (gd : Guard) (d a b c : Field10) (op : Word → Word → Word → Word) (s : State) : Out :=
  vectorInstr i gd [a.toNat, b.toNat, c.toNat] [d.toNat] s fun g _ m =>
    .ok (writeLanes32 g d m fun l => op (getV g a.toNat l) (getV g b.toNat l) (getV g c.toNat l))

-- scalar group, majors 0x00 and 0x01 (R85)

/-- `sadd` (R85): Wrap(a + b, w). -/
def execSadd (gd : Guard) (ty : Ty) (d a b : Field10) (s : State) : Out :=
  scalarBin (.sadd gd ty d a b) gd ty d a b (· + ·) s

/-- `sadd` with an immediate (R85). -/
def execSaddImm (gd : Guard) (ty : Ty) (d a : Field10) (imm : Imm20) (s : State) : Out :=
  scalarImm (.saddImm gd ty d a imm) gd ty d a imm (· + ·) s

/-- `ssub` (R85): Wrap(a − b, w). -/
def execSsub (gd : Guard) (ty : Ty) (d a b : Field10) (s : State) : Out :=
  scalarBin (.ssub gd ty d a b) gd ty d a b (· - ·) s

/-- `ssub` with an immediate (R85). -/
def execSsubImm (gd : Guard) (ty : Ty) (d a : Field10) (imm : Imm20) (s : State) : Out :=
  scalarImm (.ssubImm gd ty d a imm) gd ty d a imm (· - ·) s

/-- `smul` (R85): Wrap(a × b, 32). -/
def execSmul (gd : Guard) (ty : Ty) (d a b : Field10) (s : State) : Out :=
  scalarBin (.smul gd ty d a b) gd ty d a b (· * ·) s

/-- `smul` with an immediate (R85). -/
def execSmulImm (gd : Guard) (ty : Ty) (d a : Field10) (imm : Imm20) (s : State) : Out :=
  scalarImm (.smulImm gd ty d a imm) gd ty d a imm (· * ·) s

/-- `smulh` (R85): bits [63:32] of the exact product. -/
def execSmulh (gd : Guard) (ty : Ty) (d a b : Field10) (s : State) : Out :=
  scalarBin (.smulh gd ty d a b) gd ty d a b (mulHigh ty) s

/-- `smulh` with an immediate (R85). -/
def execSmulhImm (gd : Guard) (ty : Ty) (d a : Field10) (imm : Imm20) (s : State) : Out :=
  scalarImm (.smulhImm gd ty d a imm) gd ty d a imm (mulHigh ty) s

/-- `sand` (R85): bitwise AND. -/
def execSand (gd : Guard) (ty : Ty) (d a b : Field10) (s : State) : Out :=
  scalarBin (.sand gd ty d a b) gd ty d a b (· &&& ·) s

/-- `sand` with an immediate (R85). -/
def execSandImm (gd : Guard) (ty : Ty) (d a : Field10) (imm : Imm20) (s : State) : Out :=
  scalarImm (.sandImm gd ty d a imm) gd ty d a imm (· &&& ·) s

/-- `sor` (R85): bitwise OR. -/
def execSor (gd : Guard) (ty : Ty) (d a b : Field10) (s : State) : Out :=
  scalarBin (.sor gd ty d a b) gd ty d a b (· ||| ·) s

/-- `sor` with an immediate (R85). -/
def execSorImm (gd : Guard) (ty : Ty) (d a : Field10) (imm : Imm20) (s : State) : Out :=
  scalarImm (.sorImm gd ty d a imm) gd ty d a imm (· ||| ·) s

/-- `sxor` (R85): bitwise XOR. -/
def execSxor (gd : Guard) (ty : Ty) (d a b : Field10) (s : State) : Out :=
  scalarBin (.sxor gd ty d a b) gd ty d a b (· ^^^ ·) s

/-- `sxor` with an immediate (R85). -/
def execSxorImm (gd : Guard) (ty : Ty) (d a : Field10) (imm : Imm20) (s : State) : Out :=
  scalarImm (.sxorImm gd ty d a imm) gd ty d a imm (· ^^^ ·) s

/-- `smin` (R85): the lesser by TY. -/
def execSmin (gd : Guard) (ty : Ty) (d a b : Field10) (s : State) : Out :=
  scalarBin (.smin gd ty d a b) gd ty d a b (minBy ty) s

/-- `smin` with an immediate (R85). -/
def execSminImm (gd : Guard) (ty : Ty) (d a : Field10) (imm : Imm20) (s : State) : Out :=
  scalarImm (.sminImm gd ty d a imm) gd ty d a imm (minBy ty) s

/-- `smax` (R85): the greater by TY. -/
def execSmax (gd : Guard) (ty : Ty) (d a b : Field10) (s : State) : Out :=
  scalarBin (.smax gd ty d a b) gd ty d a b (maxBy ty) s

/-- `smax` with an immediate (R85). -/
def execSmaxImm (gd : Guard) (ty : Ty) (d a : Field10) (imm : Imm20) (s : State) : Out :=
  scalarImm (.smaxImm gd ty d a imm) gd ty d a imm (maxBy ty) s

/-- `sshl` (R85): left shift (R92). -/
def execSshl (gd : Guard) (ty : Ty) (d a b : Field10) (s : State) : Out :=
  scalarShift (.sshl gd ty d a b) gd ty d a b (shlBy ty) s

/-- `sshl` with an immediate amount (R85). -/
def execSshlImm (gd : Guard) (ty : Ty) (d a : Field10) (imm : Imm20) (s : State) : Out :=
  scalarShiftImm (.sshlImm gd ty d a imm) gd ty d a imm (shlBy ty) s

/-- `sshr` (R85): logical right shift (R92). -/
def execSshr (gd : Guard) (ty : Ty) (d a b : Field10) (s : State) : Out :=
  scalarShift (.sshr gd ty d a b) gd ty d a b (shrBy ty) s

/-- `sshr` with an immediate amount (R85). -/
def execSshrImm (gd : Guard) (ty : Ty) (d a : Field10) (imm : Imm20) (s : State) : Out :=
  scalarShiftImm (.sshrImm gd ty d a imm) gd ty d a imm (shrBy ty) s

/-- `ssra` (R85): arithmetic right shift (R92). -/
def execSsra (gd : Guard) (ty : Ty) (d a b : Field10) (s : State) : Out :=
  scalarShift (.ssra gd ty d a b) gd ty d a b (sraBy ty) s

/-- `ssra` with an immediate amount (R85). -/
def execSsraImm (gd : Guard) (ty : Ty) (d a : Field10) (imm : Imm20) (s : State) : Out :=
  scalarShiftImm (.ssraImm gd ty d a imm) gd ty d a imm (sraBy ty) s

/-- `smov` (R85). -/
def execSmov (gd : Guard) (ty : Ty) (d a : Field10) (s : State) : Out :=
  scalarInstr (.smov gd ty d a) gd s fun g => writeS g ty d (readS g ty a)

/-- `scmp` (R85, R86): 0 or 1 into the 32-bit register s(D). -/
def execScmp (gd : Guard) (ty : Ty) (c : Cond) (d a b : Field10) (s : State) : Out :=
  scalarInstr (.scmp gd ty c d a b) gd s fun g =>
    setS g d.toNat (if condI c ty (readS g ty a) (readS g ty b) then 1 else 0)

/-- `scmp` with an immediate (R85, R86). -/
def execScmpImm (gd : Guard) (ty : Ty) (c : Cond) (d a : Field10) (imm : Imm20) (s : State) : Out :=
  scalarInstr (.scmpImm gd ty c d a imm) gd s fun g =>
    setS g d.toNat (if condI c ty (readS g ty a) (immOp ty imm) then 1 else 0)

/-- `ssel` (R85): a if s(C) ≠ 0, else b. -/
def execSsel (gd : Guard) (ty : Ty) (d a b c : Field10) (s : State) : Out :=
  scalarInstr (.ssel gd ty d a b c) gd s fun g =>
    writeS g ty d (if getS g c.toNat ≠ 0 then readS g ty a else readS g ty b)

-- immediates (R87, R88)

/-- `sli`, short form (R87). -/
def execSliShort (gd : Guard) (d : Field10) (imm : Imm20) (s : State) : Out :=
  scalarInstr (.sliShort gd d imm) gd s fun g => setS g d.toNat (imm.signExtend 32)

/-- `sld.arg` (R87): 4 or 8 bytes of the parameter block. -/
def execSldArg (gd : Guard) (ty : Ty) (d : Field10) (imm : Imm20) (s : State) : Out :=
  scalarInstr (.sldArg gd ty d imm) gd s fun g =>
    writeS g ty d (BitVec.ofNat 64 (paramBytes g imm.toNat (if isWide ty then 8 else 4)))

/-- `sli`, long form (R88). -/
def execSliLong (gd : Guard) (d : Field10) (k : Word) (s : State) : Out :=
  scalarInstr (.sliLong gd d k) gd s fun g => setS g d.toNat k

/-- `slih` (R88). -/
def execSlih (gd : Guard) (d : Field10) (k : DWord) (s : State) : Out :=
  scalarInstr (.slih gd d k) gd s fun g => setSS g d.toNat k

/-- `ili`, long form (R88). -/
def execIliLong (gd : Guard) (d : Field10) (k : Word) (s : State) : Out :=
  vectorInstr (.iliLong gd d k) gd [] [d.toNat] s fun g _ m => .ok (writeLanes32 g d m fun _ => k)

/-- `ili.b64` (R88). -/
def execIliB64 (gd : Guard) (d : Field10) (k : DWord) (s : State) : Out :=
  vectorInstr (.iliB64 gd d k) gd [] (vregs .b64 d) s fun g _ m => .ok (writeLanes g .b64 d m fun _ => k)

/-- `ili`, short form (R88). -/
def execIliShort (gd : Guard) (d : Field10) (imm : Imm20) (s : State) : Out :=
  vectorInstr (.iliShort gd d imm) gd [] [d.toNat] s fun g _ m => .ok (writeLanes32 g d m fun _ => imm.signExtend 32)

-- vector integer, majors 0x20 and 0x24 (R90)

/-- `iadd` (R90): Wrap(a + b, w). -/
def execIadd (gd : Guard) (ty : Ty) (d a : Field10) (b : Src) (s : State) : Out :=
  vecBin (.iadd gd ty d a b) gd ty d a b (· + ·) s

/-- `iadd` with an immediate (R90). -/
def execIaddImm (gd : Guard) (ty : Ty) (d a : Field10) (imm : Imm20) (s : State) : Out :=
  vecImm (.iaddImm gd ty d a imm) gd ty d a imm (· + ·) s

/-- `isub` (R90): Wrap(a − b, w). -/
def execIsub (gd : Guard) (ty : Ty) (d a : Field10) (b : Src) (s : State) : Out :=
  vecBin (.isub gd ty d a b) gd ty d a b (· - ·) s

/-- `isub` with an immediate (R90). -/
def execIsubImm (gd : Guard) (ty : Ty) (d a : Field10) (imm : Imm20) (s : State) : Out :=
  vecImm (.isubImm gd ty d a imm) gd ty d a imm (· - ·) s

/-- `imul` (R90): Wrap(a × b, 32). -/
def execImul (gd : Guard) (ty : Ty) (d a : Field10) (b : Src) (s : State) : Out :=
  vecBin (.imul gd ty d a b) gd ty d a b (· * ·) s

/-- `imul` with an immediate (R90). -/
def execImulImm (gd : Guard) (ty : Ty) (d a : Field10) (imm : Imm20) (s : State) : Out :=
  vecImm (.imulImm gd ty d a imm) gd ty d a imm (· * ·) s

/-- `imulh` (R90): bits [63:32] of the exact product. -/
def execImulh (gd : Guard) (ty : Ty) (d a : Field10) (b : Src) (s : State) : Out :=
  vecBin (.imulh gd ty d a b) gd ty d a b (mulHigh ty) s

/-- `imulh` with an immediate (R90). -/
def execImulhImm (gd : Guard) (ty : Ty) (d a : Field10) (imm : Imm20) (s : State) : Out :=
  vecImm (.imulhImm gd ty d a imm) gd ty d a imm (mulHigh ty) s

/-- `imin` (R90): the lesser by TY. -/
def execImin (gd : Guard) (ty : Ty) (d a : Field10) (b : Src) (s : State) : Out :=
  vecBin (.imin gd ty d a b) gd ty d a b (minBy ty) s

/-- `imin` with an immediate (R90). -/
def execIminImm (gd : Guard) (ty : Ty) (d a : Field10) (imm : Imm20) (s : State) : Out :=
  vecImm (.iminImm gd ty d a imm) gd ty d a imm (minBy ty) s

/-- `imax` (R90): the greater by TY. -/
def execImax (gd : Guard) (ty : Ty) (d a : Field10) (b : Src) (s : State) : Out :=
  vecBin (.imax gd ty d a b) gd ty d a b (maxBy ty) s

/-- `imax` with an immediate (R90). -/
def execImaxImm (gd : Guard) (ty : Ty) (d a : Field10) (imm : Imm20) (s : State) : Out :=
  vecImm (.imaxImm gd ty d a imm) gd ty d a imm (maxBy ty) s

/-- `iand` (R90): bitwise AND. -/
def execIand (gd : Guard) (ty : Ty) (d a : Field10) (b : Src) (s : State) : Out :=
  vecBin (.iand gd ty d a b) gd ty d a b (· &&& ·) s

/-- `iand` with an immediate (R90). -/
def execIandImm (gd : Guard) (ty : Ty) (d a : Field10) (imm : Imm20) (s : State) : Out :=
  vecImm (.iandImm gd ty d a imm) gd ty d a imm (· &&& ·) s

/-- `ior` (R90): bitwise OR. -/
def execIor (gd : Guard) (ty : Ty) (d a : Field10) (b : Src) (s : State) : Out :=
  vecBin (.ior gd ty d a b) gd ty d a b (· ||| ·) s

/-- `ior` with an immediate (R90). -/
def execIorImm (gd : Guard) (ty : Ty) (d a : Field10) (imm : Imm20) (s : State) : Out :=
  vecImm (.iorImm gd ty d a imm) gd ty d a imm (· ||| ·) s

/-- `ixor` (R90): bitwise XOR. -/
def execIxor (gd : Guard) (ty : Ty) (d a : Field10) (b : Src) (s : State) : Out :=
  vecBin (.ixor gd ty d a b) gd ty d a b (· ^^^ ·) s

/-- `ixor` with an immediate (R90). -/
def execIxorImm (gd : Guard) (ty : Ty) (d a : Field10) (imm : Imm20) (s : State) : Out :=
  vecImm (.ixorImm gd ty d a imm) gd ty d a imm (· ^^^ ·) s

/-- `ishl` (R90): left shift (R92). -/
def execIshl (gd : Guard) (ty : Ty) (d a : Field10) (b : Src) (s : State) : Out :=
  vecShift (.ishl gd ty d a b) gd ty d a b (shlBy ty) s

/-- `ishl` with an immediate amount (R90). -/
def execIshlImm (gd : Guard) (ty : Ty) (d a : Field10) (imm : Imm20) (s : State) : Out :=
  vecShiftImm (.ishlImm gd ty d a imm) gd ty d a imm (shlBy ty) s

/-- `ishr` (R90): logical right shift (R92). -/
def execIshr (gd : Guard) (ty : Ty) (d a : Field10) (b : Src) (s : State) : Out :=
  vecShift (.ishr gd ty d a b) gd ty d a b (shrBy ty) s

/-- `ishr` with an immediate amount (R90). -/
def execIshrImm (gd : Guard) (ty : Ty) (d a : Field10) (imm : Imm20) (s : State) : Out :=
  vecShiftImm (.ishrImm gd ty d a imm) gd ty d a imm (shrBy ty) s

/-- `isra` (R90): arithmetic right shift (R92). -/
def execIsra (gd : Guard) (ty : Ty) (d a : Field10) (b : Src) (s : State) : Out :=
  vecShift (.isra gd ty d a b) gd ty d a b (sraBy ty) s

/-- `isra` with an immediate amount (R90). -/
def execIsraImm (gd : Guard) (ty : Ty) (d a : Field10) (imm : Imm20) (s : State) : Out :=
  vecShiftImm (.israImm gd ty d a imm) gd ty d a imm (sraBy ty) s

/-- `irot` (R90): rotate left by n mod 32. -/
def execIrot (gd : Guard) (ty : Ty) (d a : Field10) (b : Src) (s : State) : Out :=
  vecBin (.irot gd ty d a b) gd ty d a b (fun x y => rotBy x y.toNat) s

/-- `irot` with an immediate amount (R90). -/
def execIrotImm (gd : Guard) (ty : Ty) (d a : Field10) (imm : Imm20) (s : State) : Out :=
  vecShiftImm (.irotImm gd ty d a imm) gd ty d a imm rotBy s

/-- `iadds` (R90): the clamped sum; SAT in a lane whose sum was clamped. -/
def execIadds (gd : Guard) (ty : Ty) (d a : Field10) (b : Src) (s : State) : Out :=
  vectorInstr (.iadds gd ty d a b) gd (vregs ty a ++ vregsB ty b) (vregs ty d) s fun g _ m =>
    let r := fun l => addSat ty (readV g ty a l) (readB g ty b l)
    .ok (raiseFlags (writeLanes g ty d m fun l => (r l).1) (flagsOver m fun l => flagIf (r l).2 fSAT))

/-- `iadds` with an immediate (R90). -/
def execIaddsImm (gd : Guard) (ty : Ty) (d a : Field10) (imm : Imm20) (s : State) : Out :=
  vectorInstr (.iaddsImm gd ty d a imm) gd (vregs ty a) (vregs ty d) s fun g _ m =>
    let r := fun l => addSat ty (readV g ty a l) (immOp ty imm)
    .ok (raiseFlags (writeLanes g ty d m fun l => (r l).1) (flagsOver m fun l => flagIf (r l).2 fSAT))

/-- `icmp` (R93): the condition and p(PS) into p(PD). -/
def execIcmp (gd : Guard) (ty : Ty) (c : Cond) (a : Field10) (b : Src) (pd ps : BitVec 4) (s : State) : Out :=
  vectorInstr (.icmp gd ty c a b pd ps) gd (vregs ty a ++ vregsB ty b) [] s fun g _ m =>
    .ok (writePred g pd m fun l => condI c ty (readV g ty a l) (readB g ty b l) && (getPred g ps).getLsbD l)

/-- `isel` (R93): a where p(PS) is true, else b. -/
def execIsel (gd : Guard) (ty : Ty) (d a : Field10) (b : Src) (ps : BitVec 4) (s : State) : Out :=
  vectorInstr (.isel gd ty d a b ps) gd (vregs ty a ++ vregsB ty b) (vregs ty d) s fun g _ m =>
    .ok (writeLanes g ty d m fun l => if (getPred g ps).getLsbD l then readV g ty a l else readB g ty b l)

-- single-source members, major 0x21 (R91)

/-- `iabs` (R91): Wrap(|b|, 32). -/
def execIabs (gd : Guard) (ty : Ty) (d : Field10) (b : Src) (s : State) : Out :=
  vecUn (.iabs gd ty d b) gd ty d b (fun x => BitVec.ofInt 64 (valOf .s32 x).natAbs) s

/-- `ineg` (R91): Wrap(−b, 32). -/
def execIneg (gd : Guard) (ty : Ty) (d : Field10) (b : Src) (s : State) : Out :=
  vecUn (.ineg gd ty d b) gd ty d b (fun x => 0 - x) s

/-- `inot` (R91): bitwise complement. -/
def execInot (gd : Guard) (ty : Ty) (d : Field10) (b : Src) (s : State) : Out :=
  vecUn (.inot gd ty d b) gd ty d b (fun x => ~~~x) s

/-- `ipopc` (R91): number of 1 bits. -/
def execIpopc (gd : Guard) (ty : Ty) (d : Field10) (b : Src) (s : State) : Out :=
  vecUn (.ipopc gd ty d b) gd ty d b (fun x => BitVec.ofNat 64 (popCount (x.setWidth 32))) s

/-- `iclz` (R91): number of 0 bits above the highest 1 bit. -/
def execIclz (gd : Guard) (ty : Ty) (d : Field10) (b : Src) (s : State) : Out :=
  vecUn (.iclz gd ty d b) gd ty d b (fun x => BitVec.ofNat 64 (clz32 (x.setWidth 32))) s

/-- `ibrev` (R91): bit reversal. -/
def execIbrev (gd : Guard) (ty : Ty) (d : Field10) (b : Src) (s : State) : Out :=
  vecUn (.ibrev gd ty d b) gd ty d b (fun x => (brev32 (x.setWidth 32)).setWidth 64) s

/-- `imov` (R91): b. -/
def execImov (gd : Guard) (ty : Ty) (d : Field10) (b : Src) (s : State) : Out :=
  vecUn (.imov gd ty d b) gd ty d b (fun x => x) s

-- three-source members, major 0x22 (R95)

/-- `imad` (R95): Wrap(a × b + c, 32). -/
def execImad (gd : Guard) (ty : Ty) (d a b c : Field10) (s : State) : Out :=
  vecTri (.imad gd ty d a b c) gd d a b c (fun x y z => x * y + z) s

/-- `ibfx` (R95). -/
def execIbfx (gd : Guard) (ty : Ty) (d a b c : Field10) (s : State) : Out :=
  vecTri (.ibfx gd ty d a b c) gd d a b c (fun x y z => bitField ty x (fieldCount y) (fieldCount z)) s

/-- `ibfi` (R95): D is a source as well. -/
def execIbfi (gd : Guard) (ty : Ty) (d a b c : Field10) (s : State) : Out :=
  vectorInstr (.ibfi gd ty d a b c) gd [d.toNat, a.toNat, b.toNat, c.toNat] [d.toNat] s fun g _ m =>
    .ok (writeLanes32 g d m fun l =>
      insertField (getV g d.toNat l) (getV g a.toNat l) (fieldCount (getV g b.toNat l)) (fieldCount (getV g c.toNat l)))

/-- `idp4` (R95). -/
def execIdp4 (gd : Guard) (ty : Ty) (d a b c : Field10) (s : State) : Out :=
  vecTri (.idp4 gd ty d a b c) gd d a b c (dot4 ty) s

-- carries, major 0x23 (R94, R96, R97)

/-- `iaddc` (R94): sum with the carry p(PS), carry out into p(PD). -/
def execIaddc (gd : Guard) (ty : Ty) (d a : Field10) (b : Src) (pd ps : BitVec 4) (s : State) : Out :=
  vectorInstr (.iaddc gd ty d a b pd ps) gd (a.toNat :: vregsB .i32 b) [d.toNat] s fun g _ m =>
    let t := fun l => (getV g a.toNat l).toNat + (readB32 g b l).toNat + (if (getPred g ps).getLsbD l then 1 else 0)
    .ok (writePred (writeLanes32 g d m fun l => BitVec.ofNat 32 (t l)) pd m fun l => decide (2 ^ 32 ≤ t l))

/-- `isubb` (R94): difference with the borrow p(PS), borrow out into p(PD). -/
def execIsubb (gd : Guard) (ty : Ty) (d a : Field10) (b : Src) (pd ps : BitVec 4) (s : State) : Out :=
  vectorInstr (.isubb gd ty d a b pd ps) gd (a.toNat :: vregsB .i32 b) [d.toNat] s fun g _ m =>
    let t := fun l => ((getV g a.toNat l).toNat : Int) - (readB32 g b l).toNat - (if (getPred g ps).getLsbD l then 1 else 0)
    .ok (writePred (writeLanes32 g d m fun l => BitVec.ofInt 32 (t l)) pd m fun l => decide (t l < 0))

/-- Lanes of group j for groups of n lanes (R96). -/
def groupLanes (n j : Nat) : LaneMask := BitVec.ofNat 64 ((2 ^ n - 1) * 2 ^ (n * j))

/-- The wide sum of group j (R96): absent lanes count zero. -/
def groupSum (n j : Nat) (present : LaneMask) (a b : Nat → Word) : Nat :=
  (List.range n).foldl (fun acc i =>
    if present.getLsbD (j * n + i) then acc + ((a (j * n + i)).toNat + (b (j * n + i)).toNat) * 2 ^ (32 * i) else acc) 0

/-- The named lanes of `iaddw`: the groups with a present lane, within the gang (R96, R97). -/
def groupsNamed (w n : Nat) (present : LaneMask) : LaneMask :=
  maskWhere (fun l => decide (l < w) && groupLanes n (l / n) &&& present != 0)

/-- XLMISS, or XLCTL.MISS with the result, for the absent named lanes (R97, R139, R360). -/
def withMiss (g : Gang) (p : Path) (absent : LaneMask) (high : Bool) (info : Word) (r : Gang) : GRes :=
  if absent = 0 && !high then .ok r
  else if xlen g then .trap (trapAt p cXLMISS 0 absent info)
  else .ok (setMiss r)

/-- `iaddw` (R96, R97). -/
def execIaddw (gd : Guard) (ty : Ty) (gw : BitVec 4) (d a : Field10) (b : Src) (pd : BitVec 4) (s : State) : Out :=
  vectorInstr (.iaddw gd ty gw d a b pd) gd (a.toNat :: vregsB .i32 b) [d.toNat] s fun g p m =>
    let n := 2 ^ gw.toNat
    let sum := fun l => groupSum n (l / n) m (fun k => getV g a.toNat k) (fun k => readB32 g b k)
    let r := writePred (writeLanes32 g d m fun l => BitVec.ofNat 32 (sum l >>> (32 * (l % n)))) pd m
      fun l => decide (2 ^ (32 * n) ≤ sum l)
    withMiss g p (groupsNamed g.kd.gangw n m &&& ~~~m) false 0x102 r

end Sys2Proof.Machine
end

