-- ==== Sys2Proof/Machine/Memory.lean ====
section
/-! DEFINITION. Memory, atomic, fence, cache and table instructions (R164 to R168, R219 to R226, R247 to R268). A load or
atomic is issued here and finishes when its last answer comes; until then it is the gang's `op`. -/

namespace Sys2Proof.Machine

-- Addresses

/-- Access size of `ld`, `st` and `atom` (R248, R258). -/
def accessSize : Ty → Nat
  | .s8 | .z8 | .f8a | .f8b => 1
  | .s16 | .z16 | .f16 | .bf16 => 2
  | .b64 => 8
  | _ => 4

/-- What `ld` writes from the bytes of an element (R248). -/
def extendLoad (ty : Ty) (n : Nat) : DWord :=
  match ty with
  | .s8 => ((BitVec.ofNat 8 n).signExtend 32).setWidth 64
  | .s16 => ((BitVec.ofNat 16 n).signExtend 32).setWidth 64
  | _ => BitVec.ofNat 64 n

/-- Block size in bytes of `ldb` and `stb` (R257). -/
def blockSize (bl : BitVec 2) : Nat := 16 * 2 ^ bl.toNat

/-- Vector registers of the index term. -/
def indexRegs (m : MemAddr) : List Nat := if m.vi = 0x3FF#10 then [] else if m.vw then [m.vi.toNat, m.vi.toNat + 1] else [m.vi.toNat]

/-- Effective address of a `.g` access (R220). -/
def eaGlobal (g : Gang) (m : MemAddr) (size l : Nat) : DWord :=
  (if m.sb = 0x3FF#10 then 0 else getSS g m.sb.toNat) +
  (if m.vi = 0x3FF#10 then 0 else if m.vw then getVV g m.vi.toNat l else (getV g m.vi.toNat l).signExtend 64) +
  m.off.signExtend 64 * BitVec.ofNat 64 size

/-- Offset of a `.s` or `.q` access (R221). -/
def eaLocal (g : Gang) (m : MemAddr) (size l : Nat) : Word :=
  (if m.sb = 0x3FF#10 then 0 else getS g m.sb.toNat) +
  (if m.vi = 0x3FF#10 then 0 else getV g m.vi.toNat l) +
  m.off.signExtend 32 * BitVec.ofNat 32 size

/-- Addresses of the lanes of `m`, rising by lane; a local offset is zero-extended (R221). -/
def laneAddrs (g : Gang) (sp : Space) (m : MemAddr) (size : Nat) (lanes : LaneMask) : List (Nat × DWord) :=
  (lanesOf lanes).map fun l => (l, if sp = .g then eaGlobal g m size l else (eaLocal g m size l).setWidth 64)

/-- ALIGN (R268 step 2). -/
def alignTrap (p : Path) (size : Nat) (as : List (Nat × DWord)) : Option TrapInfo :=
  (hitLanes as (fun a => a.2.toNat % size != 0)).map fun x => trapAt p cALIGN x.1 x.2 0

/-- The bound of a local space (R268 step 3). -/
def boundTrap (g : Gang) (p : Path) (sp : Space) (size : Nat) (as : List (Nat × DWord)) : Option TrapInfo :=
  (hitLanes as (fun a => decide (localBound g sp < a.2.toNat + size))).map fun x => trapAt p cPROT x.1 x.2 (pageInfo 5 7)

-- Local accesses

/-- Place number of a byte of a core's local store, for lines a local load reads. -/
def localPlace (core a : Nat) : Nat := 2 ^ 200 + core * 2 ^ 18 + a

/-- Core and local address of an offset (R125, R221). -/
def localWhere (g : Gang) (sp : Space) (off : Nat) : Nat × Nat :=
  let x := localAt g sp off
  (coreOfPos g x.1, x.2)

/-- The accesses touch scratch that an Ox instruction of the gang will write (R346). -/
def extentHolds (s : State) (gi : Nat) (g : Gang) (sp : Space) (size : Nat) (as : List (Nat × DWord)) : Bool :=
  (s.coreAt g.die g.core).oxq.any fun e => e.gang == gi && (match writtenExtent e with
    | none => false
    | some (o, n) => as.any (fun a =>
      let w := localWhere g sp a.2.toNat
      w.1 == g.core && decide (w.2 < o + n) && decide (o < w.2 + size)))

/-- Lanes whose bytes lie in a poisoned word of a local store (R369). -/
def localPoison (s : State) (g : Gang) (p : Path) (sp : Space) (size : Nat) (as : List (Nat × DWord)) : Option TrapInfo :=
  (hitLanes as (fun a =>
    let w := localWhere g sp a.2.toNat
    poisonedAt (s.coreAt g.die w.1).mpoison w.2 size)).map fun x => trapAt p cPOISON x.1 x.2 (poisonInfo 2)

/-- Bytes of one lane's local access. -/
def localRead (s : State) (g : Gang) (sp : Space) (off n : Nat) : List Byte :=
  let w := localWhere g sp off
  localBytes (s.coreAt g.die w.1).mem w.2 n

/-- Perform a local store of the lanes in rising order, so that the highest lane wins a byte (R251, R253). -/
def localWrite (s : State) (g : Gang) (sp : Space) (as : List (Nat × DWord)) (bytes : Nat → List Byte) : State :=
  (as.map (fun a => (localWhere g sp a.2.toNat).1)).eraseDups.foldl (fun acc c =>
    let im := as.flatMap (fun a =>
      let w := localWhere g sp a.2.toNat
      if w.1 = c then imageOf w.2 (bytes a.1) else [])
    acc.putCore g.die c (storeLocal (acc.coreAt g.die c) im)) s

-- Requests

/-- Where the request for a line goes: the home, the address on the packet, whether the home forwards. -/
structure Target where
  dst : Option Nat
  addr : DWord
  dup : Bool
  host : Bool
  remote : Bool
  /-- the partner home of a duplex page, which serves beside its primary home -/
  partner : Bool
  deriving DecidableEq, Repr

/-- Columns between a die and a home (R229). -/
def columnsTo (s : State) (die home : Nat) : Nat :=
  let a := placeCol (placeOfDie s die)
  let b := placeCol (placeOfDie s home)
  max a b - min a b

/-- The home of a line of a page (R228, R229): a write or atomic goes to the primary home, a load of a duplex page to the
nearer one; a home that is gone is replaced by its partner. -/
def targetOf (s : State) (die : Nat) (load : Bool) (place : Nat) (xl : Xl) : Target :=
  match xl with
  | .leaf _ e _ =>
    let pa := place / 64 * 64
    let h1 := homeOf pa
    let h2 := homeOf (partnerOf pa)
    let ok1 := homeServes s h1
    let ok2 := pteDup e && homeServes s h2
    let second := ok2 && (!ok1 || (load && decide (columnsTo s die h2 < columnsTo s die h1)))
    if second then ⟨some h2, BitVec.ofNat 64 (partnerOf pa), false, false, false, ok1⟩
    else ⟨if ok1 then some h1 else none, BitVec.ofNat 64 pa, pteDup e, false, false, false⟩
  | .host idx off _ _ _ _ => ⟨some 16, hostAddr idx ((off + place % 4096) / 64 * 64), false, true, false, false⟩
  | .remote _ _ => ⟨none, 0, false, false, true, false⟩
  | _ => ⟨none, 0, false, false, false, false⟩

/-- The distinct lines of the lanes, in lane order, each with the answer for its page. -/
def linesOf (places : List (Nat × Nat)) (xls : List (Nat × Xl)) : List (Nat × Xl) :=
  places.foldl (fun acc x =>
    if (look acc (x.2 / 64)).isSome then acc
    else match look xls x.1 with
      | some r => acc ++ [(x.2 / 64, r)]
      | none => acc) []

/-- Offset in a HOST page needs the VA's low bits, which the host place keeps. -/
def linePlace (key : Nat) : Nat := 64 * key

/-- A line of another package's memory (R444, R445): it holds what this package has written there; what the others do to it is outside (log entry
142). -/
def remoteLine (s : State) (key : Nat) : LineGot := ⟨key, placeBytes s (64 * key) 64, none, none⟩

/-- Bytes of a line that the lanes of an access touch. -/
def touched (places : List (Nat × Nat)) (size key : Nat) : LaneMask :=
  places.foldl (fun acc x => if x.2 / 64 = key then acc ||| BitVec.ofNat 64 ((2 ^ size - 1) * 2 ^ (x.2 % 64)) else acc) 0

/-- An earlier write of the gang to bytes of the line is not delivered yet (R255); `only` picks the writes that count. -/
def writePending (g : Gang) (key : Nat) (ben : LaneMask) (only : Outst → Bool) : Bool :=
  g.outst.any (fun o => o.line == key && o.ben &&& ben != 0 && only o)

/-- The gate of a release or `.ar` fence on later stores (R263): the writes before it are delivered, and issued on PCIe for
`.sys`. -/
def gateOpen (s : State) (g : Gang) : Bool :=
  g.storeGate.all (fun t => !g.outst.any (fun o => o.tag == t)) &&
  g.sysGate.all (fun t => !s.reqs.any (fun r => r.tag == t) && (look s.pcie t).isNone)

/-- An operation of a gang at its start. -/
def newOp (i : Instr) (p : Path) (lanes : LaneMask) (as : List (Nat × DWord)) (places : List (Nat × Nat)) (epoch : Nat) : MemOp where
  instr := i
  path := p.id
  pc := p.pc
  lanes := lanes
  addrs := as
  places := places
  waits := []
  unsent := []
  epoch := epoch
  got := []
  olds := []
  done := 0
  poisoned := 0
  source := 0
  refused := 0
  released := 0
  member := 0
  flags := 0
  refusals := []
  phase := 0

/-- Bytes of a lane's access among the lines that came back. -/
def gotBytes (op : MemOp) (l n : Nat) : List Byte :=
  match look op.places l with
  | none => []
  | some a => match op.got.find? (fun x => x.key == a / 64) with
    | none => []
    | some x => (x.data.drop (a % 64)).take n

/-- Lanes of an operation whose line satisfies `f`. -/
def gotLanes (op : MemOp) (f : LineGot → Bool) : Option (DWord × LaneMask) :=
  hitLanes op.addrs fun a => match look op.places a.1 with
    | none => false
    | some x => op.got.any (fun y => y.key == x / 64 && f y)

/-- Registers an `ld` or `ldb` writes (R248, R252, R257). -/
def writeLoad (g : Gang) (op : MemOp) : Gang :=
  match op.instr with
  | .ld _ ty _ _ _ d _ =>
    forLanes op.lanes g fun acc l => writeV acc ty d l (extendLoad ty (natLE (gotBytes op l (accessSize ty))))
  | .ldb _ _ _ bl d _ =>
    forLanes op.lanes g fun acc l =>
      (List.range (4 * 2 ^ bl.toNat)).foldl (fun a i =>
        setV a (d.toNat + i) l (BitVec.ofNat 32 (natLE (((gotBytes op l (blockSize bl)).drop (4 * i)).take 4)))) acc
  | _ => g

/-- Registers an `atom` writes, in the lanes that performed (R258, R261). -/
def writeOlds (g : Gang) (op : MemOp) : Gang :=
  match op.instr with
  | .atom _ _ ty _ d _ _ _ => op.olds.foldl (fun acc x => writeV acc ty d x.1 x.2) g
  | _ => g

/-- The trap, if any, that the answers of a load call for: POISON (R268 step 4), then CAUSAL (R367). -/
def loadTrap (p : Path) (op : MemOp) : Option TrapInfo :=
  match gotLanes op (fun x => x.poison.isSome) with
  | some (a, m) =>
    let src := (op.got.find? (fun x => x.poison.isSome)).bind (·.poison)
    some (trapAt p cPOISON a m (poisonInfo (src.getD 0)))
  | none => match gotLanes op (fun x => x.cst.isSome) with
    | some (a, m) =>
      let mem := (op.got.find? (fun x => x.cst.isSome)).bind (·.cst)
      some (trapAt p cCAUSAL a m (BitVec.ofNat 32 (mem.getD 0)))
    | none => none

/-- Address of the lowest lane of a mask. -/
def lowAddr (op : MemOp) (m : LaneMask) : DWord := ((op.addrs.find? (fun a => m.getLsbD a.1)).map (·.2)).getD 0

/-- What the refusals of an operation's lines report (R236, R242, R260). -/
def refusalsOf (ls : List (Nat × Xl)) : List (Nat × Nat) := ls.map (fun x => (x.1, refusalOf x.2))

/-- REASON and LEVEL of the refusal of a line. -/
def lineRefusal (op : MemOp) (key : Nat) : Nat := (look op.refusals key).getD (16 * 6 + 7)

/-- The report of an atomic (R261, R367): lanes not performed, with PART, and POISON where one line is poisoned and another is refused (DESIGN CHOICE,
log entry 144); or lanes released by the loss of a member. -/
def atomTrap (p : Path) (op : MemOp) : Option TrapInfo :=
  let part : Word := if op.done = 0 then 0 else 1
  let bad := op.poisoned ||| op.refused
  if bad != 0 then
    if op.poisoned != 0 then some (trapAt p cPOISON (lowAddr op bad) bad (poisonInfo op.source ||| part))
    else some (trapAt p cPROT (lowAddr op bad) bad (BitVec.ofNat 32 (lineRefusal op ((look op.places (lowestLane bad)).getD 0 / 64)) ||| part))
  else if op.released != 0 then some (trapAt p cCAUSAL (lowAddr op op.released) op.released (BitVec.ofNat 32 op.member))
  else none

/-- The trap that the answers of an operation call for. -/
def opTrap (p : Path) (op : MemOp) : Option TrapInfo :=
  match op.instr with
  | .atom _ _ _ _ _ _ _ _ => atomTrap p op
  | .cwb _ _ => none
  | .capload _ _ _ => (loadTrap p op).map (fun t => { t with lanes := p.mask })
  | _ => loadTrap p op

/-- An operation that ends without an effect: its path stands at the instruction, which runs again. -/
def rerunOp (g : Gang) (op : MemOp) : Gang := waitPath (dropOp g op.path) op.path .ready

/-- The answers of an operation make it trap. -/
def opTraps (g : Gang) (op : MemOp) : Bool := answered op && (findPath g.paths op.path).any (fun p => (opTrap p op).isSome)

/-- Take the trap of the operation that was issued first, when the answers of every operation in flight call for one (R361, R378): the others have
no effect and run again, and so does an instruction that is parked. None of them is an atomic that performed, since an atomic is issued only while
no other path's access is in flight, and so is the first (log entry 134). -/
def takeFirstTrap (now : Nat) (g : Gang) : Gang :=
  match g.ops with
  | [] => g
  | op :: _ =>
    match findPath g.paths op.path with
    | none => dropOp g op.path
    | some p =>
      let g1 := endPark (g.ops.foldl rerunOp g)
      let g2 := match op.instr with
        | .atom _ _ _ _ _ _ _ _ => raiseFlags (writeOlds g1 op) op.flags
        | _ => g1
      match opTrap { p with st := .ready } op with
      | some t => takeTrapGang g2 op.path t now
      | none => g2

/-- Finish a path's operation when nothing of it is outstanding: registers, then the next instruction, or the trap, which waits until the
operations of the gang's other paths have their answers, and is that of the one issued first (R361, R378). -/
def finishOp (s : State) (gi : Nat) (g : Gang) (op : MemOp) : State :=
  match findPath g.paths op.path with
  | none => s.putGang gi (dropOp g op.path)
  | some p0 =>
    let g0 := waitPath (dropOp g op.path) op.path .ready
    let p := { p0 with st := .ready }
    match op.instr, opTrap p op with
    | .capload _ _ _, none => s.putGang gi (waitPath (putOp g op) op.path .ready)
    | .atom _ _ _ _ _ _ _ _, none => s.putGang gi (advance (raiseFlags (writeOlds g0 op) op.flags) p.id 8 s.seq)
    | _, none => s.putGang gi (advance (writeLoad g0 op) p.id 8 s.seq)
    | _, some _ =>
      let g1 := waitPath (putOp g op) op.path .mem
      s.putGang gi (if otherOp g op.path (fun o => !opTraps g o) then g1 else takeFirstTrap s.seq g1)

/-- The bytes of a line as a list. -/
def lineBytes (x : Line) : List Byte := bytesLE 64 x.toNat
def bytesLine (b : List Byte) : Line := BitVec.ofNat 512 (natLE b)

/-- A line as the L1 keeps it, with its check made (R223, R230). -/
def madeLine (b : List Byte) (poison : Bool) : L1Line := ⟨bytesLine b, lineCheck b, poison⟩

/-- Bytes of a line in a core's L1, when the line is there and its check holds: one that fails is fetched again (R231). -/
def l1Line (c : Core) (key : Nat) : Option L1Line := (look c.l1 key).filter (fun x => x.check == lineCheck (lineBytes x.data))

/-- A store updates the line in the core's L1 if it is there (R225). -/
def storeL1 (c : Core) (key : Nat) (ben : LaneMask) (data : List Byte) : Core :=
  match l1Line c key with
  | none => c
  | some x =>
    let b := (lineBytes x.data).zipIdx.map (fun y => if ben.getLsbD y.2 then (data[y.2]?).getD 0 else y.1)
    { c with l1 := store c.l1 key (madeLine b (x.poison && ben != BitVec.allOnes 64)) }

/-- Fills on their way for lines that the core drops or writes are not kept (R225, R226, R265). -/
def dropFills (s : State) (die core : Nat) (keys : List Nat) : State :=
  { s with reqs := s.reqs.map (fun r => match r.who with
      | .load gi pi k _ ep =>
        match s.gang gi with
        | some g => if g.die = die ∧ g.core = core ∧ keys.contains k then { r with who := .load gi pi k false ep } else r
        | none => r
      | .prefetch d c k _ => if d = die ∧ c = core ∧ keys.contains k then { r with who := .prefetch d c k 0 } else r
      | .cell d c a k _ => if d = die ∧ c = core ∧ keys.contains k then { r with who := .cell d c a k false } else r
      | _ => r) }

/-- A store or atomic of the core to the line is on its way: a line read before its delivery lacks it, so that a fill asked for now is not
kept (R33, R225; DESIGN CHOICE, log entry 111). -/
def coreWrites (s : State) (die core key : Nat) : Bool :=
  s.gangs.any (fun e => e.2.die == die && e.2.core == core && e.2.outst.any (fun o => o.line == key))

/-- A store that the core sends updates the line in its L1, and a fill on its way is not kept (R225). -/
def storeInL1 (s : State) (g : Gang) (key : Nat) (ben : LaneMask) (data : List Byte) : State :=
  dropFills (s.putCore g.die g.core (storeL1 (s.coreAt g.die g.core) key ben data)) g.die g.core [key]

/-- An atomic that the core sends drops the line from its L1 (R225). -/
def atomInL1 (s : State) (g : Gang) (key : Nat) : State :=
  let c := s.coreAt g.die g.core
  dropFills (s.putCore g.die g.core { c with l1 := forget c.l1 key }) g.die g.core [key]

/-- What the gang keeps of a write it sends. -/
def writeRecord (op : MemOp) (key : Nat) (pk : Packet) (tag : Nat) (bulk : Bool) : Outst :=
  let lanes := op.places.foldl (fun m x => if x.2 / 64 = key then m ||| laneBit x.1 else m) 0
  { tag := tag, home := pk.dst, line := key, ben := pk.ben, bulk := bulk, host := pk.dst == 16, lanes := lanes, va := lowAddr op lanes, pc := op.pc,
    refusal := lineRefusal op key }

/-- Send one request of an operation if there is room for it (R419, R420, R425): the state after and the wait it leaves. -/
def sendOne (s : State) (gi : Nat) (g : Gang) (op : MemOp) (key : Nat) (pk : Packet) : Option (State × Gang × MemOp) :=
  let c := s.coreAt g.die g.core
  let out := fun (tag : Nat) (bulk : Bool) =>
    { g with
      outst := g.outst ++ [writeRecord op key pk tag bulk]
      hostWrites := if pk.dst = 16 ∧ !bulk then g.hostWrites ++ [tag] else g.hostWrites
      engineHost := if pk.dst = 16 ∧ bulk then g.engineHost ++ [(tag, (writeRecord op key pk tag bulk).va)] else g.engineHost }
  match pk.op with
  | .orderedWrite =>
    if maySend s pk.src pk.dst true then
      let r := sendStamped (storeInL1 s g key pk.ben pk.data) (.store gi) c.cv pk
      some (r.2, out r.1 false, op)
    else none
  | .bulkWrite =>
    let r := sendPlain (storeInL1 s g key pk.ben pk.data) (.store gi) pk
    some (r.2, out r.1 true, op)
  | .causalLoad =>
    if maySend s pk.src pk.dst false then
      let r := sendStamped s (.load gi op.path key false op.epoch) c.cv pk
      some (r.2, g, { op with waits := op.waits ++ [r.1] })
    else none
  | .atomic =>
    if maySend s pk.src pk.dst true then
      let r := sendStamped (atomInL1 s g key) (.atomic gi op.path key) c.cv pk
      some (r.2, out r.1 false, { op with waits := op.waits ++ [r.1] })
    else none
  | _ =>
    let r := sendPlain s (.load gi op.path key (!pk.wb && !coreWrites s g.die g.core key) op.epoch) pk
    some (r.2, g, { op with waits := op.waits ++ [r.1] })

/-- Send the unsent requests that have room, in order. -/
def sendAll (s : State) (gi : Nat) (g : Gang) (op : MemOp) : State × Gang × MemOp :=
  op.unsent.foldl (fun acc x =>
    match sendOne acc.1 gi acc.2.1 acc.2.2 x.1 x.2 with
    | some r => r
    | none => (acc.1, acc.2.1, { acc.2.2 with unsent := acc.2.2.unsent ++ [x] })) (s, g, { op with unsent := [] })

/-- The instruction only stores: it is over once every write is sent (R254). -/
def onlyStores : Instr → Bool
  | .st _ _ _ _ _ _ _ | .stb _ _ _ _ _ _ | .capsave _ _ _ _ => true
  | _ => false

/-- Send what can be sent; the path goes on, waits for answers, or issues again to send the rest. -/
def driveOp (s : State) (gi : Nat) (g : Gang) (op : MemOp) : State :=
  let (s1, g1, op1) := sendAll s gi g op
  if op1.unsent.isEmpty then
    if onlyStores op.instr then s1.putGang gi (advance { dropOp g1 op.path with xc := Xc.empty } op.path 8 s1.seq)
    else if op1.waits.isEmpty then finishOp s1 gi { g1 with xc := Xc.empty } op1
    else s1.putGang gi (waitPath (putOp { g1 with xc := Xc.empty } op1) op.path .mem)
  else s1.putGang gi (putOp { g1 with xc := Xc.empty } op1)

/-- The frame of an access (R23, R66, R268): guard, poisoned registers, then `k`; an operation that still has requests to
send goes on with them. One of another path has sent all of its requests before (R117). -/
def memFrame (i : Instr) (gd : Guard) (rd wr : List Nat) (s : State) (k : Nat → Gang → Path → LaneMask → Out) : Out :=
  issueChecked i (rd ++ wr) (fun _ => true) s fun gi g p =>
    match opOf g p.id with
    | some op => .next (driveOp s gi g op)
    | none =>
      let m := guardLanes g p gd
      if m = 0 then finish s gi g p 8 (.ok g)
      else if otherOp g p.id (fun o => !o.unsent.isEmpty) then .next s
      else match poisonedRead g m rd with
        | some (r, hit) => .next (s.trap gi g p (regPoison p r hit))
        | none => k gi g p m

/-- A causal load or a `.g` atomic of another path has not returned its value yet: a later causal load or ordered store of the gang waits for it, as
its path's own would (R273, R275). -/
def causalBusy (g : Gang) (p : Path) : Bool :=
  otherOp g p.id (fun o => match o.instr with
    | .ld _ _ sp cau _ _ _ => cau && sp == .g
    | .atom _ _ _ sp _ _ _ _ => sp == .g
    | _ => false)

/-- A trap of an access: what it had translated is forgotten. -/
def memTrap (s : State) (gi : Nat) (g : Gang) (p : Path) (t : TrapInfo) : Out := .next (s.trap gi { g with xc := Xc.empty } p t)

/-- Translate, and go on only with a place for every lane (R241, R242). -/
def withPlaces (s : State) (gi : Nat) (g : Gang) (p : Path) (rd wr : Bool) (as : List (Nat × DWord))
    (k : State → Gang → List (Nat × Nat) → List (Nat × Xl) → Out) : Out :=
  match translateLanes s g rd wr as with
  | (.trap c a m info, _, s1) => memTrap s1 gi g p (trapAt p c a m info)
  | (.wait, x, s1) => .next (s1.putGang gi { g with xc := x })
  | (.park ps, _, s1) => .next (parkGang s1 gi g p.id ps)
  | (.ready places xls, x, s1) => k s1 { g with xc := x } places xls

/-- A load's packet for a line. -/
def loadPacket (s : State) (g : Gang) (cau : Bool) (t : Target) (dst : Nat) : Packet :=
  { blankPacket s (if cau then .causalLoad else .plainLoad) g.die dst with asid := g.kd.asid, addr := t.addr, dup := t.dup, partner := t.partner }

/-- A `.g` load (R224, R252, R255, R256): lines in L1 answer a plain load at once; the others are asked of their homes once
no write of the gang to them is outstanding. A line of another package and a line without a home answer here. -/
def loadGlobal (i : Instr) (cau : Bool) (size : Nat) (gi : Nat) (g : Gang) (p : Path) (m : LaneMask) (as : List (Nat × DWord)) (s : State) : Out :=
  withPlaces s gi g p true false as fun s1 g1 places xls =>
    let c := s1.coreAt g.die g.core
    let ls := linesOf places xls
    let hit := fun (x : Nat × Xl) => if cau && !(match x.2 with | .remote _ _ => true | _ => false) then none else l1Line c x.1
    let miss := ls.filter (fun x => (hit x).isNone)
    if (cau && causalBusy g1 p) || miss.any (fun x => writePending g1 x.1 (touched places size x.1) (fun _ => true)) then .next (s1.putGang gi g1)
    else
      let op0 := newOp i p m as places c.l1Epoch
      let hits := ls.filterMap (fun x => (hit x).map (fun y => (⟨x.1, lineBytes y.data, if y.poison then some 0 else none, none⟩ : LineGot)))
      let op1 := { op0 with got := hits }
      let r := miss.foldl (fun (acc : State × MemOp) x =>
        let t := targetOf acc.1 g.die true (linePlace x.1) x.2
        if t.remote then (acc.1, { acc.2 with got := acc.2.got ++ [remoteLine acc.1 x.1] })
        else match t.dst with
          | none => (acc.1, { acc.2 with got := acc.2.got ++ [⟨x.1, [], some 5, none⟩] })
          | some d => (acc.1, { acc.2 with unsent := acc.2.unsent ++ [(x.1, loadPacket acc.1 g cau t d)] })) (s1, op1)
      .next (driveOp r.1 gi g1 r.2)

/-- A `.s` or `.q` load (R221, R251): performed at issue, its values come with LOCAL_LOAD_RETURN (R222). -/
def loadLocal (i : Instr) (sp : Space) (size : Nat) (gi : Nat) (g : Gang) (p : Path) (m : LaneMask) (as : List (Nat × DWord)) (s : State) : Out :=
  match boundTrap g p sp size as with
  | some t => memTrap s gi g p t
  | none =>
    if extentHolds s gi g sp size as then .next s
    else match localPoison s g p sp size as with
      | some t => memTrap s gi g p t
      | none =>
        let place := fun (a : Nat × DWord) => let w := localWhere g sp a.2.toNat; localPlace w.1 w.2
        let keys := (as.map (fun a => place a / 64)).eraseDups
        let got := keys.map (fun k =>
          let x := 64 * k - 2 ^ 200
          (⟨k, localBytes (s.coreAt g.die (x / 2 ^ 18)).mem (x % 2 ^ 18) 64, none, none⟩ : LineGot))
        let op := { newOp i p m as (as.map (fun a => (a.1, place a))) 0 with got := got }
        .next (s.putGang gi (waitPath (putOp g op) p.id .mem))

/-- `ld` (R248, R252). -/
def execLd (gd : Guard) (ty : Ty) (sp : Space) (cau na : Bool) (d : Field10) (m : MemAddr) (s : State) : Out :=
  memFrame (.ld gd ty sp cau na d m) gd (indexRegs m) (vregs ty d) s fun gi g p lanes =>
    let as := laneAddrs g sp m (accessSize ty) lanes
    match alignTrap p (accessSize ty) as with
    | some t => memTrap s gi g p t
    | none =>
      if sp = .g then loadGlobal (.ld gd ty sp cau na d m) cau (accessSize ty) gi g p lanes as s
      else loadLocal (.ld gd ty sp cau na d m) sp (accessSize ty) gi g p lanes as s

/-- `ldb` (R257). -/
def execLdb (gd : Guard) (sp : Space) (na : Bool) (bl : BitVec 2) (d : Field10) (m : MemAddr) (s : State) : Out :=
  memFrame (.ldb gd sp na bl d m) gd (indexRegs m) (vrange d (4 * 2 ^ bl.toNat)) s fun gi g p lanes =>
    let as := laneAddrs g sp m (blockSize bl) lanes
    match alignTrap p (blockSize bl) as with
    | some t => memTrap s gi g p t
    | none =>
      if sp = .g then loadGlobal (.ldb gd sp na bl d m) false (blockSize bl) gi g p lanes as s
      else loadLocal (.ldb gd sp na bl d m) sp (blockSize bl) gi g p lanes as s

/-- The operation is answered and its path still waits for it: a local access (R222), or one whose trap waits (R361) for operations that have
their answers now. -/
def mayReturn (g : Gang) (op : MemOp) : Bool :=
  answered op && g.paths.any (fun p => p.id == op.path && p.st == .mem &&
    ((opTrap p op).isNone || !otherOp g op.path (fun o => !opTraps g o)))

/-- LOCAL_LOAD_RETURN (R222): the values of a local access reach their registers. -/
def execLocalLoadReturn (gang : Nat) (s : State) : Out :=
  match s.gang gang with
  | none => .next s
  | some g =>
    match g.ops.find? (fun o => mayReturn g o) with
    | some op => .next (finishOp s gang g op)
    | none => .next s

-- Stores

/-- The image of the lanes' bytes in one line: the highest lane wins a byte (R253). -/
def lineImage (places : List (Nat × Nat)) (bytes : Nat → List Byte) (key : Nat) : List Byte :=
  places.foldl (fun acc x =>
    if x.2 / 64 = key then
      let o := x.2 % 64
      let b := bytes x.1
      acc.take o ++ b ++ acc.drop (o + b.length)
    else acc) (copies 64 0)

/-- Lanes whose line has no home left, with the address of the lowest of them. -/
def homelessLanes (s : State) (g : Gang) (places : List (Nat × Nat)) (ls : List (Nat × Xl)) (as : List (Nat × DWord)) : Option (DWord × LaneMask) :=
  let gone := ls.filter (fun x => match x.2 with | .remote _ _ => false | _ => (targetOf s g.die false (linePlace x.1) x.2).dst.isNone)
  hitLanes as (fun a => match look places a.1 with | some y => gone.any (fun x => x.1 == y / 64) | none => false)

/-- R370: a write whose line has no home left is taken at rank 2, SOURCE 5. -/
def homelessStore (s : State) (gi : Nat) (g : Gang) (p : Path) (a : DWord) (m : LaneMask) : Out :=
  .next (s.putGang gi (escalate { g with xc := Xc.empty } (trapAt p cPOISON a m (poisonInfo 5))))

/-- Address of the lowest lane in a line. -/
def lineVa (places : List (Nat × Nat)) (as : List (Nat × DWord)) (key : Nat) : DWord :=
  ((as.find? (fun a => (look places a.1).map (· / 64) == some key)).map (·.2)).getD 0

/-- The other package bars writes to a page of its memory (R236). -/
def remoteBars (s : State) (line : Nat) : Bool := Config.remoteLocks (line / 64) s.freeCtr

/-- Store lines into the memory of other packages (R236, R444): a line that is refused is not written, and stays for a `flsig.sys` that covers
it, with its address (R338, R339). -/
def storeFar (s : State) (g : Gang) (vaOf : Nat → DWord) (lines : List (Nat × LaneMask × List Byte)) : State × Gang :=
  lines.foldl (fun acc x =>
    let s1 : State := { acc.1 with freeCtr := acc.1.freeCtr + 1 }
    if remoteBars acc.1 x.1 then
      ({ s1 with fresh := s1.fresh + 1, refusedHost := s1.refusedHost ++ [s1.fresh] }, { acc.2 with engineHost := acc.2.engineHost ++ [(s1.fresh, vaOf x.1)] })
    else (putBytes s1 (enabled x.1 x.2.1 x.2.2), acc.2)) (s, g)

/-- A `.g` store (R225, R250, R252 to R254): one write per line, ordered or bulk; through a window it is a bulk store
(R445). A store of one class waits while one of the other class to the same bytes is on its way (R28, R33). -/
def storeGlobal (i : Instr) (blk : Bool) (size : Nat) (bytes : Nat → List Byte) (gi : Nat) (g : Gang) (p : Path) (m : LaneMask)
    (as : List (Nat × DWord)) (s : State) : Out :=
  withPlaces s gi g p false true as fun s1 g1 places xls =>
    let ls := linesOf places xls
    let isRemote := fun (x : Nat × Xl) => match x.2 with | .remote _ _ => true | _ => false
    let near := ls.filter (fun x => !isRemote x)
    if !gateOpen s1 g1 || (!blk && causalBusy g1 p) || near.any (fun x => writePending g1 x.1 (touched places size x.1) (fun o => o.bulk != blk)) then
      .next (s1.putGang gi g1)
    else
      match homelessLanes s1 g places ls as with
      | some (a, mm) => homelessStore s1 gi g1 p a mm
      | none =>
        let (s2, g2) := storeFar s1 g1 (lineVa places as) ((ls.filter isRemote).map (fun x => (x.1, touched places size x.1, lineImage places bytes x.1)))
        let pks := near.filterMap (fun x =>
          let t := targetOf s1 g.die false (linePlace x.1) x.2
          t.dst.map (fun d => (x.1, { blankPacket s1 (if blk then .bulkWrite else .orderedWrite) g.die d with
            asid := g.kd.asid, addr := t.addr, dup := t.dup, ben := touched places size x.1, data := lineImage places bytes x.1 })))
        .next (driveOp s2 gi g2 { newOp i p m as places 0 with unsent := pks, refusals := refusalsOf ls })

/-- A `.s` or `.q` store (R221, R251): performed at issue. -/
def storeLocalLanes (sp : Space) (size : Nat) (bytes : Nat → List Byte) (gi : Nat) (g : Gang) (p : Path)
    (as : List (Nat × DWord)) (s : State) : Out :=
  match boundTrap g p sp size as with
  | some t => memTrap s gi g p t
  | none =>
    if extentHolds s gi g sp size as || !gateOpen s g then .next s
    else .next ((localWrite s g sp as bytes).putGang gi (advance g p.id 8 s.seq))

/-- Low bytes of a data register or pair (R248). -/
def storeBytes (g : Gang) (ty : Ty) (d : Field10) (l : Nat) : List Byte := bytesLE (accessSize ty) (readV g ty d l).toNat

/-- `st` (R248, R252). -/
def execSt (gd : Guard) (ty : Ty) (sp : Space) (blk na : Bool) (d : Field10) (m : MemAddr) (s : State) : Out :=
  memFrame (.st gd ty sp blk na d m) gd (indexRegs m ++ vregs ty d) [] s fun gi g p lanes =>
    let as := laneAddrs g sp m (accessSize ty) lanes
    match alignTrap p (accessSize ty) as with
    | some t => memTrap s gi g p t
    | none =>
      if sp = .g then storeGlobal (.st gd ty sp blk na d m) blk (accessSize ty) (storeBytes g ty d) gi g p lanes as s
      else storeLocalLanes sp (accessSize ty) (storeBytes g ty d) gi g p as s

/-- Bytes of a block of registers (R257). -/
def blockBytes (g : Gang) (bl : BitVec 2) (d : Field10) (l : Nat) : List Byte :=
  (List.range (4 * 2 ^ bl.toNat)).flatMap (fun i => bytesLE 4 (getV g (d.toNat + i) l).toNat)

/-- `stb` (R257). -/
def execStb (gd : Guard) (sp : Space) (na : Bool) (bl : BitVec 2) (d : Field10) (m : MemAddr) (s : State) : Out :=
  memFrame (.stb gd sp na bl d m) gd (indexRegs m ++ vrange d (4 * 2 ^ bl.toNat)) [] s fun gi g p lanes =>
    let as := laneAddrs g sp m (blockSize bl) lanes
    match alignTrap p (blockSize bl) as with
    | some t => memTrap s gi g p t
    | none =>
      if sp = .g then storeGlobal (.stb gd sp na bl d m) false (blockSize bl) (blockBytes g bl d) gi g p lanes as s
      else storeLocalLanes sp (blockSize bl) (blockBytes g bl d) gi g p as s

-- Atomics

/-- Registers an atomic reads: its operand, and the comparand of `.cas` (R258). -/
def atomRegs (op : AtomOp) (ty : Ty) (d : Field10) : List Nat :=
  vrange d ((if isWide ty then 2 else 1) * (if op = .cas then 2 else 1))

/-- x and cmp of a lane (R258). -/
def atomOperands (g : Gang) (op : AtomOp) (ty : Ty) (d : Field10) (l : Nat) : DWord × DWord :=
  if op = .cas then
    if isWide ty then (getVV g (d.toNat + 2) l, getVV g d.toNat l)
    else ((getV g (d.toNat + 1) l).setWidth 64, (getV g d.toNat l).setWidth 64)
  else (readV g ty d l, 0)

/-- Operations that PCIe has an AtomicOp for (R260). -/
def hostAtomic (op : AtomOp) (ty : Ty) : Bool :=
  match op with
  | .add => ty != .f32
  | .exch | .cas => true
  | _ => false

/-- The lanes of an atomic in one line, in rising order (R259). -/
def atomArgs (g : Gang) (op : AtomOp) (ty : Ty) (d : Field10) (places : List (Nat × Nat)) (key : Nat) : List LaneArg :=
  places.filterMap fun x =>
    if x.2 / 64 = key then
      let y := atomOperands g op ty d x.1
      some ⟨x.1, x.2 % 64, y.1, y.2⟩
    else none

/-- A `.g` atomic (R259 to R261): one request per line to the primary home; a line without a home is reported before any is sent. It is issued when no
access of another path is in flight (R275; an access that traps after an atomic could not run again, log entry 134). Through a window the other
package performs it (R445). -/
def atomGlobal (i : Instr) (op : AtomOp) (ty : Ty) (d : Field10) (gi : Nat) (g : Gang) (p : Path) (m : LaneMask)
    (as : List (Nat × DWord)) (s : State) : Out :=
  withPlaces s gi g p true true as fun s1 g1 places xls =>
    let ls := linesOf places xls
    let isRemote := fun (x : Nat × Xl) => match x.2 with | .remote _ _ => true | _ => false
    let hostLevel := fun (a : Nat × DWord) => match look xls a.1 with | some (.host _ _ _ level _ _) => some level | _ => none
    match hitLanes as (fun a => (hostLevel a).isSome && !hostAtomic op ty) with
    | some (va, mm) => memTrap s1 gi g p (trapAt p cPROT va mm (pageInfo 4 (((as.filterMap hostLevel).head?).getD 0)))
    | none =>
      if !gateOpen s1 g1 || otherOp g1 p.id (fun _ => true) || ls.any (fun x => writePending g1 x.1 (touched places (accessSize ty) x.1) (fun o => o.bulk)) then
        .next (s1.putGang gi g1)
      else match homelessLanes s1 g places ls as with
      | some (va, mm) => memTrap s1 gi g p (trapAt p cPOISON va mm (poisonInfo 5))
      | none =>
        let op0 := { newOp i p m as places 0 with refusals := refusalsOf ls }
        let r := ls.foldl (fun (acc : State × MemOp) x =>
          let t := targetOf acc.1 g.die false (linePlace x.1) x.2
          let args := atomArgs g op ty d places x.1
          let lanes := args.foldl (fun a y => a ||| laneBit y.lane) 0
          if isRemote x && remoteBars acc.1 x.1 then
            ({ acc.1 with freeCtr := acc.1.freeCtr + 1 }, { acc.2 with refused := acc.2.refused ||| lanes })
          else if isRemote x then
            let b := atomLanes op ty args (placeBytes acc.1 (64 * x.1) 64) [] 0
            (putBytes acc.1 (enabled x.1 (atomBen ⟨op, ty, args⟩) b.1),
             { acc.2 with olds := acc.2.olds ++ b.2.1, done := acc.2.done ||| lanes, flags := acc.2.flags ||| b.2.2 })
          else match t.dst with
            | none => (acc.1, { acc.2 with poisoned := acc.2.poisoned ||| lanes, source := 5 })
            | some h => (acc.1, { acc.2 with unsent := acc.2.unsent ++ [(x.1,
                { blankPacket acc.1 .atomic g.die h with
                  asid := g.kd.asid, addr := t.addr, dup := t.dup, ben := touched places (accessSize ty) x.1, atom := some ⟨op, ty, args⟩ })] })) (s1, op0)
        .next (driveOp r.1 gi g1 r.2)

/-- A `.s` or `.q` atomic (R260, R280): performed at issue, its prior values come with LOCAL_LOAD_RETURN. -/
def atomLocal (i : Instr) (sp : Space) (op : AtomOp) (ty : Ty) (d : Field10) (gi : Nat) (g : Gang) (p : Path) (m : LaneMask)
    (as : List (Nat × DWord)) (s : State) : Out :=
  match boundTrap g p sp (accessSize ty) as with
  | some t => memTrap s gi g p t
  | none =>
    if extentHolds s gi g sp (accessSize ty) as || !gateOpen s g then .next s
    else match localPoison s g p sp (accessSize ty) as with
      | some t => memTrap s gi g p t
      | none =>
        let r := as.foldl (fun (acc : State × List (Nat × DWord) × FFlags) a =>
          let old := BitVec.ofNat 64 (natLE (localRead acc.1 g sp a.2.toNat (accessSize ty)))
          let y := atomOperands g op ty d a.1
          let nw := atomNew op ty old y.1 y.2
          (localWrite acc.1 g sp [a] (fun _ => bytesLE (accessSize ty) nw.1.toNat), acc.2.1 ++ [(a.1, old)], acc.2.2 ||| nw.2)) (s, [], 0)
        let o := { newOp i p m as [] 0 with olds := r.2.1, flags := r.2.2, done := m }
        .next (r.1.putGang gi (waitPath (putOp g o) p.id .mem))

/-- `atom` (R258 to R261). -/
def execAtom (gd : Guard) (op : AtomOp) (ty : Ty) (sp : Space) (d sb vi off : Field10) (s : State) : Out :=
  let m : MemAddr := ⟨false, sb, vi, off⟩
  memFrame (.atom gd op ty sp d sb vi off) gd (indexRegs m ++ atomRegs op ty d) [] s fun gi g p lanes =>
    let as := laneAddrs g sp m (accessSize ty) lanes
    match alignTrap p (accessSize ty) as with
    | some t => memTrap s gi g p t
    | none =>
      if sp = .g then atomGlobal (.atom gd op ty sp d sb vi off) op ty d gi g p lanes as s
      else atomLocal (.atom gd op ty sp d sb vi off) sp op ty d gi g p lanes as s

-- Fences

/-- Every earlier write of the gang to host memory has been issued on PCIe (R263). -/
def hostIssued (s : State) (g : Gang) : Bool :=
  g.hostWrites.all (fun t => !s.reqs.any (fun r => r.tag == t) && (look s.pcie t).isNone)

/-- `fence` (R262 to R264). Local accesses are performed when they issue (S). It waits at its issue for the loads and atomics of the gang's other
paths (L); `.rel` and `.ar` let loads go on and hold later stores; `.sc` waits, at `.sys` also for a zero-length read. -/
def execFence (gd : Guard) (sem : FenceSem) (sc : Scope) (s : State) : Out :=
  issueChecked (.fence gd sem sc) [] (fun _ => true) s fun gi g p =>
    if guardLanes g p gd = 0 then finish s gi g p 8 (.ok g)
    else if otherOp g p.id (fun _ => true) then .next s
    else if sc = .gang then finish s gi g p 8 (.ok g)
    else
      let gate := { g with
        storeGate := (g.outst.filter (fun o => !o.bulk)).map (·.tag)
        sysGate := if sc = .sys then g.hostWrites else g.sysGate }
      match sem with
      | .acq => .next (flashL1 (s.putGang gi (advance g p.id 8 s.seq)) g.die g.core)
      | .rel => .next (s.putGang gi (advance gate p.id 8 s.seq))
      | .ar => .next (flashL1 (s.putGang gi (advance gate p.id 8 s.seq)) g.die g.core)
      | .sc =>
        if undelivered g then .next s
        else if sc = .sys then
          if !hostIssued s g then .next s
          else match g.sysRead with
            | none => let s1 : State := { s with fresh := s.fresh + 1, pcie := s.pcie ++ [(s.fresh, .zeroRead)] }
              .next (s1.putGang gi { g with sysRead := some s.fresh })
            | some t =>
              if (look s.pcie t).isSome then .next s
              else .next (flashL1 (s.putGang gi (advance { g with sysRead := none } p.id 8 s.seq)) g.die g.core)
        else .next (flashL1 (s.putGang gi (advance g p.id 8 s.seq)) g.die g.core)

-- Cache instructions

/-- Addresses of `cinv`, `cwb` and `prf`, in lines (R249). -/
def lineAddrs (g : Gang) (m : MemAddr) (lanes : LaneMask) : List (Nat × DWord) := laneAddrs g .g m 64 lanes

/-- `cinv` of the whole L1 (R226, R265). -/
def execCinvAll (gd : Guard) (s : State) : Out :=
  issueChecked (.cinvAll gd) [] (fun _ => true) s fun gi g p =>
    if guardLanes g p gd = 0 then finish s gi g p 8 (.ok g)
    else .next (flashL1 (s.putGang gi (advance g p.id 8 s.seq)) g.die g.core)

/-- The lanes whose translation succeeded, for the instructions that need nothing of it (R237); none while pages are looked
up. -/
def softPlaces (s : State) (g : Gang) (as : List (Nat × DWord)) : Option (List (Nat × Xl)) × Xc × State :=
  let ok := as.filter (fun a => canonical a.2)
  let (x, s1) := lookPages g.die g.core g.kd.asid g.xc s (ok.map (fun a => pageOf a.2)).eraseDups
  if ok.any (fun a => match look x.got (pageOf a.2) with | none | some (.needAts _ _) => true | _ => false) then (none, x, s1)
  else
    (some (ok.filterMap (fun a => match look x.got (pageOf a.2) with
      | some (.leaf pa e n) => some (placeOf s1 a.2 (.leaf pa e n) / 64, Xl.leaf pa e n)
      | some (.host i o e n r w) => some (placeOf s1 a.2 (.host i o e n r w) / 64, Xl.host i o e n r w)
      | _ => none)), x, s1)

/-- `cinv` of lines (R265). -/
def execCinvLine (gd : Guard) (m : MemAddr) (s : State) : Out :=
  memFrame (.cinvLine gd m) gd [] (indexRegs m) s fun gi g p lanes =>
    match softPlaces s g (lineAddrs g m lanes) with
    | (none, x, s1) => .next (s1.putGang gi { g with xc := x })
    | (some ls, _, s1) =>
      let keys := ls.map (·.1)
      let c := s1.coreAt g.die g.core
      let s2 := dropFills (s1.putCore g.die g.core { c with l1 := c.l1.filter (fun e => !keys.contains e.1) }) g.die g.core keys
      .next (s2.putGang gi (advance { g with xc := Xc.empty } p.id 8 s.seq))

/-- The requests of a `cwb` for a line (R250, R266): to its home, and on a duplex page to the partner's too; none for a host line or another
package's, and none to a home that is gone. -/
def cwbPackets (s : State) (g : Gang) (x : Nat × Xl) : List (Nat × Packet) :=
  match x.2 with
  | .leaf _ e _ =>
    let a := 64 * x.1
    ((if pteDup e then [a, partnerOf a] else [a]).filter (fun b => homeServes s (homeOf b))).map (fun b =>
      (x.1, { blankPacket s .plainLoad g.die (homeOf b) with asid := g.kd.asid, addr := BitVec.ofNat 64 b, wb := true }))
  | _ => []

/-- `cwb` (R250, R266): once the gang's ordered writes to the lines are delivered it asks their homes to write them back, and waits for every answer. It
never raises POISON. -/
def execCwb (gd : Guard) (m : MemAddr) (s : State) : Out :=
  memFrame (.cwb gd m) gd (indexRegs m) [] s fun gi g p lanes =>
    withPlaces s gi g p true false (lineAddrs g m lanes) fun s1 g1 places xls =>
      let ls := linesOf places xls
      if ls.any (fun x => g1.outst.any (fun o => o.line == x.1 && !o.bulk)) then .next (s1.putGang gi g1)
      else .next (driveOp s1 gi g1 { newOp (.cwb gd m) p lanes (lineAddrs g m lanes) places 0 with unsent := ls.flatMap (cwbPackets s1 g) })

/-- `prf` into L1 (R267): fetches that the path does not wait for. -/
def execPrf (gd : Guard) (m : MemAddr) (s : State) : Out :=
  memFrame (.prf gd m) gd [] (indexRegs m) s fun gi g p lanes =>
    match softPlaces s g (lineAddrs g m lanes) with
    | (none, x, s1) => .next (s1.putGang gi { g with xc := x })
    | (some ls, _, s1) =>
      let c := s1.coreAt g.die g.core
      let s2 := (ls.eraseDups.filter (fun x => (l1Line c x.1).isNone)).foldl (fun acc x =>
        let t := targetOf acc g.die true (linePlace x.1) x.2
        match t.dst with
        | none => acc
        | some d => (sendPlain acc (.prefetch g.die g.core x.1 (if coreWrites acc g.die g.core x.1 then 0 else c.l1Epoch + 1)) (loadPacket acc g false t d)).2) s1
      .next (s2.putGang gi (advance { g with xc := Xc.empty } p.id 8 s.seq))

/-- `prf.l2` (R250, R267): plain loads bring the lines into their homes' L2; nothing is kept of the answers. -/
def execPrfL2 (gd : Guard) (m : MemAddr) (s : State) : Out :=
  memFrame (.prfL2 gd m) gd [] (indexRegs m) s fun gi g p lanes =>
    match softPlaces s g (lineAddrs g m lanes) with
    | (none, x, s1) => .next (s1.putGang gi { g with xc := x })
    | (some ls, _, s1) =>
      let s2 := (ls.eraseDups.filter (fun x => isHbm (64 * x.1))).foldl (fun acc x =>
        let t := targetOf acc g.die true (linePlace x.1) x.2
        match t.dst with
        | none => acc
        | some d => (sendPlain acc (.prefetch g.die g.core x.1 0) (loadPacket acc g false t d)).2) s1
      .next (s2.putGang gi (advance { g with xc := Xc.empty } p.id 8 s.seq))

-- Tables

/-- The active bank belongs to the gang's cohort (R167). -/
def ownsTable (s : State) (g : Gang) : Bool := (s.coreAt g.die g.core).tableOwner == some g.cohort

/-- Local address of entry e of a bank (R167). -/
def tableAddr (bank e : Nat) : Nat := 0x3E000 + 0x1000 * bank + 4 * e

/-- Clamp to 0–1023. -/
def clampEntry (e : Int) : Nat := if e < 0 then 0 else if 1023 < e then 1023 else e.toNat

def tableEntry (s : State) (g : Gang) (e : Nat) : Word :=
  let c := s.coreAt g.die g.core
  if ownsTable s g then BitVec.ofNat 32 (localNat c.mem (tableAddr c.bank e) 4) else 0

/-- Entry of `tld` in a lane (R165). -/
def tldEntry (g : Gang) (sb vi off : Field10) (l : Nat) : Nat :=
  let a := (if sb = 0x3FF#10 then 0 else (getS g sb.toNat).toInt) + (if vi = 0x3FF#10 then 0 else (getV g vi.toNat l).toInt) + 4 * off.toInt
  clampEntry (a / 4)

/-- Entries and Q16 fraction of `tldi` in a lane (R166): the first entry, and the fraction towards the next when one is
needed. -/
def tldiEntry (g : Gang) (sb vi off : Field10) (l : Nat) : Nat × Nat :=
  let e0 := ((if sb = 0x3FF#10 then 0 else (getS g sb.toNat).toInt) + 4 * off.toInt) / 4
  let q := if vi = 0x3FF#10 then 0 else (getV g vi.toNat l).toInt
  let i := e0 + q / 65536
  if i < 0 then (0, 0) else if 1023 ≤ i then (1023, 0) else (i.toNat, (q % 65536).toNat)

/-- T[i] + f·(T[i+1] − T[i]) rounded once (R166); a NaN gives the canonical NaN. -/
def interpolate (a b : Word) (f : Nat) : Word × FFlags :=
  let (x, f1) := decodeF fmtF32 false a.toNat
  let (y, f2) := decodeF fmtF32 false b.toNat
  let fr : XReal := .fin false f (-16)
  let (d, f3) := xSum .rne [y, xNeg x]
  let (m, f4) := xMul fr d
  let (r, f5) := xSum .rne [x, m]
  let (c, f6) := roundF fmtF32 .rne false r
  (BitVec.ofNat 32 c, f1 ||| f2 ||| f3 ||| f4 ||| f5 ||| f6)

/-- Lanes whose entries stand in a poisoned word of the bank (R360, R369). -/
def tablePoison (s : State) (g : Gang) (p : Path) (as : List (Nat × Nat)) : Option TrapInfo :=
  let c := s.coreAt g.die g.core
  if ownsTable s g then
    (hitLanes (as.map (fun a => (a.1, BitVec.ofNat 64 (4 * a.2)))) (fun a => poisonedAt c.mpoison (tableAddr c.bank 0 + a.2.toNat) 4)).map
      fun x => trapAt p cPOISON x.1 x.2 (poisonInfo 2)
  else none

/-- `tld` (R164, R165, R167). -/
def execTld (gd : Guard) (d sb vi off : Field10) (s : State) : Out :=
  vectorInstr (.tld gd d sb vi off) gd (if vi = 0x3FF#10 then [] else [vi.toNat]) [d.toNat] s fun g p m =>
    match tablePoison s g p ((lanesOf m).map (fun l => (l, tldEntry g sb vi off l))) with
    | some t => .trap t
    | none => .ok (writeLanes32 g d m (fun l => tableEntry s g (tldEntry g sb vi off l)))

/-- The value `tldi` reads in a lane, with its flags (R166). A lookup by a cohort that does not own the table is zero. -/
def tldiValue (s : State) (g : Gang) (sb vi off : Field10) (l : Nat) : Word × FFlags :=
  if ownsTable s g then
    let (i, f) := tldiEntry g sb vi off l
    if f = 0 then
      let (x, fl) := decodeF fmtF32 false (tableEntry s g i).toNat
      if x.isNan then (BitVec.ofNat 32 fmtF32.nanCode, fl) else (tableEntry s g i, 0)
    else interpolate (tableEntry s g i) (tableEntry s g (i + 1)) f
  else (0, 0)

/-- `tldi` (R164, R166, R167). -/
def execTldi (gd : Guard) (d sb vi off : Field10) (s : State) : Out :=
  vectorInstr (.tldi gd d sb vi off) gd (if vi = 0x3FF#10 then [] else [vi.toNat]) [d.toNat] s fun g p m =>
    let es := (lanesOf m).flatMap (fun l =>
      let (i, f) := tldiEntry g sb vi off l
      if f = 0 then [(l, i)] else [(l, i), (l, i + 1)])
    match tablePoison s g p es with
    | some t => .trap t
    | none =>
      .ok (raiseFlags (writeLanes32 g d m (fun l => (tldiValue s g sb vi off l).1)) (flagsOver m (fun l => (tldiValue s g sb vi off l).2)))

end Sys2Proof.Machine
end

