-- ==== Sys2Proof/Machine/Sha3.lean ====
section
/-! DEFINITION. SHA3-256, which the manual names for digests (R196, R198, R447, R448); its definition is that of its own
standard (log entry 12). -/

namespace Sys2Proof.Machine

/-- Rotation offsets of the 25 lanes, lane x + 5y. -/
def keccakRot : List Nat :=
  [0, 1, 62, 28, 27, 36, 44, 6, 55, 20, 3, 10, 43, 25, 39, 41, 45, 15, 21, 8, 18, 2, 61, 56, 14]

/-- Round constants. -/
def keccakRc : List DWord :=
  [0x0000000000000001, 0x0000000000008082, 0x800000000000808A, 0x8000000080008000, 0x000000000000808B, 0x0000000080000001,
   0x8000000080008081, 0x8000000000008009, 0x000000000000008A, 0x0000000000000088, 0x0000000080008009, 0x000000008000000A] ++
  [0x000000008000808B, 0x800000000000008B, 0x8000000000008089, 0x8000000000008003, 0x8000000000008002, 0x8000000000000080,
   0x000000000000800A, 0x800000008000000A, 0x8000000080008081, 0x8000000000008080, 0x0000000080000001, 0x8000000080008008]

def lane64 (a : List DWord) (i : Nat) : DWord := listGet 0 a i

/-- One round of Keccak-f[1600]. -/
def keccakRound (a : List DWord) (rc : DWord) : List DWord :=
  let c := (List.range 5).map (fun x => lane64 a x ^^^ lane64 a (x + 5) ^^^ lane64 a (x + 10) ^^^ lane64 a (x + 15) ^^^ lane64 a (x + 20))
  let d := (List.range 5).map (fun x => lane64 c ((x + 4) % 5) ^^^ (lane64 c ((x + 1) % 5)).rotateLeft 1)
  let t := (List.range 25).map (fun i => lane64 a i ^^^ lane64 d (i % 5))
  -- lane (x, y) moves to (y, 2x + 3y)
  let b := (List.range 25).map (fun j =>
    let x := j % 5
    let y := j / 5
    let sx := (x + 3 * y) % 5
    let i := sx + 5 * x
    (lane64 t i).rotateLeft (listGet 0 keccakRot i))
  (List.range 25).map (fun i =>
    let y := i / 5
    let v := lane64 b i ^^^ (~~~(lane64 b (5 * y + (i + 1) % 5)) &&& lane64 b (5 * y + (i + 2) % 5))
    if i = 0 then v ^^^ rc else v)

def keccakF (a : List DWord) : List DWord := keccakRc.foldl keccakRound a

/-- Absorb a block of 136 bytes. -/
def absorb (a : List DWord) (b : List Byte) : List DWord :=
  keccakF ((List.range 25).map (fun i => if i < 17 then lane64 a i ^^^ BitVec.ofNat 64 (natLE ((b.drop (8 * i)).take 8)) else lane64 a i))

def absorbAll : Nat → List DWord → List Byte → List DWord
  | 0, a, _ => a
  | n + 1, a, b => absorbAll n (absorb a (b.take 136)) (b.drop 136)

/-- The padded message: 0x06, zeros, and 0x80 in the last byte of a block. -/
def sha3Pad (m : List Byte) : List Byte :=
  let z := 135 - m.length % 136
  if z = 0 then m ++ [0x86] else m ++ [0x06] ++ copies (z - 1) 0 ++ [0x80]

/-- The 32 bytes of SHA3-256. -/
def sha3 (m : List Byte) : List Byte :=
  ((absorbAll (m.length / 136 + 1) (copies 25 0) (sha3Pad m)).take 4).flatMap (fun x => bytesLE 8 x.toNat)

end Sys2Proof.Machine
end

