-- ==== Sys2Proof/Machine/Special.lean ====
section
/-! DEFINITION. The special functions (R154 to R159) and row statistics (R160 to R162).

The coefficients of the special functions are not published (R155): where a result is inexact it is chosen by free values, held to the error
bound of R156 and to the order of R157. The exact result stands in 256-bit fixed point, which is far finer than the bound. -/

namespace Sys2Proof.Machine

/-- Fraction bits of the fixed-point approximations. -/
def fxBits : Nat := 256
def fxOne : Nat := 2 ^ fxBits
def fxLn2 : Nat := 0xb17217f7d1cf79abc9e3b39803f2f6af40f343267298b62d8a0d175b8baafa2b
def fxTwoPi : Nat := 0x6487ed5110b4611a62633145c06e0e68948127044533e63a0105df531d89cd912
def fxLog2e : Nat := 0x171547652b82fe1777d0ffda0d23a7d11d6aef551bad2b4b1164a2cd9a342648f
def fxTwoOverSqrtPi : Nat := 0x120dd750429b6d11ae3a914fed7fd8688281341d7587cea2e7342b06199cc4161

def fxMul (a b : Nat) : Nat := (a * b) >>> fxBits

/-- A positive exact value m × 2^e as fixed point. -/
def fxOf (m : Nat) (e : Int) : Nat :=
  if 0 ≤ e + fxBits then m <<< (e + fxBits).toNat else m >>> (-(e + fxBits)).toNat

/-- Sum of t^k / k! for k from `k` on, where `term` is t^k / k!. -/
def fxExpSum (t : Nat) : Nat → Nat → Nat → Nat
  | 0, _, _ => 0
  | n + 1, k, term => term + fxExpSum t n (k + 1) (fxMul term t / (k + 1))

/-- 2^f for f in [0, 1). -/
def fxExp2Frac (f : Nat) : Nat := fxExpSum (fxMul f fxLn2) 60 0 fxOne

/-- 2^x for a signed fixed-point x, as mantissa and exponent. -/
def fxExp2 (x : Int) : Nat × Int :=
  (fxExp2Frac (x.emod fxOne).toNat, x.ediv fxOne - fxBits)

/-- Sum of z^(2k+1) / (2k+1). -/
def fxArtanhSum (z2 : Nat) : Nat → Nat → Nat → Nat
  | 0, _, _ => 0
  | n + 1, k, p => p / k + fxArtanhSum z2 n (k + 2) (fxMul p z2)

/-- log2 of m × 2^e, signed. -/
def fxLog2 (m : Nat) (e : Int) : Int :=
  let z := ((m - 2 ^ m.log2) <<< fxBits) / (m + 2 ^ m.log2)
  let ln := 2 * fxArtanhSum (fxMul z z) 90 1 z
  (e + m.log2) * (fxOne : Nat) + ((ln <<< fxBits) / fxLn2 : Nat)

/-- Alternating sum of θ^(2k+1) / (2k+1)!. -/
def fxSinSum (t2 : Nat) : Nat → Nat → Nat → Int
  | 0, _, _ => 0
  | n + 1, k, term => (term : Int) - fxSinSum t2 n (k + 2) (fxMul term t2 / ((k + 1) * (k + 2)))

/-- sin(2πa) for a in [0, 1/4]. -/
def fxSin (a : Nat) : Nat :=
  let t := fxMul a fxTwoPi
  (fxSinSum (fxMul t t) 40 1 t).toNat

/-- Alternating sum of x^(2k+1) / (k! (2k+1)). -/
def fxErfSum (x2 : Nat) : Nat → Nat → Nat → Int
  | 0, _, _ => 0
  | n + 1, k, p => (p / (2 * k + 1) : Nat) - fxErfSum x2 n (k + 1) (fxMul p x2 / (k + 1))

/-- Integer square root by bits, from bit `n` down. -/
def isqrtFrom (x : Nat) : Nat → Nat → Nat
  | 0, r => r
  | n + 1, r => if (r + 2 ^ n) * (r + 2 ^ n) ≤ x then isqrtFrom x n (r + 2 ^ n) else isqrtFrom x n r

/-- Square root of m × 2^e, as mantissa and exponent. -/
def fxSqrt (m : Nat) (e : Int) : Nat × Int :=
  let odd := e.emod 2
  let big := m <<< (200 + odd.toNat)
  (isqrtFrom big (big.log2 / 2 + 1) 0, (e - odd - 200) / 2)

/-- Minor codes of major 0x68 (R64). -/
def sfExp2 : Nat := 0
def sfLog2 : Nat := 1
def sfRcp : Nat := 2
def sfRsqrt : Nat := 3
def sfSqrt : Nat := 4
def sfSin : Nat := 5
def sfCos : Nat := 6
def sfTanh : Nat := 7
def sfSigm : Nat := 8
def sfErf : Nat := 9

/-- The F32 code of a positive value, rounded to nearest, at most the largest finite one. -/
def codeNear (m : Nat) (e : Int) : Nat :=
  let c := (roundF fmtF32 .rne false (.fin false m e)).1
  if fmtF32.maxCode < c then fmtF32.maxCode else c

/-- Base-two exponent of a positive value, and of its unit in the last place in F32 (R156). -/
def expOf (m : Nat) (e : Int) : Int := (m.log2 : Int) + e
def ulpOf (m : Nat) (e : Int) : Int := (if expOf m e < fmtF32.emin then fmtF32.emin else expOf m e) - 23

/-- m × 2^e in units of 2^q. -/
def inUnits (q : Int) (m : Nat) (e : Int) : Nat := if q ≤ e then m <<< (e - q).toNat else m >>> (q - e).toNat

/-- The value of a positive finite code in units of 2^q, and the exponent of its unit in the last place. -/
def codeUnits (q : Int) (c : Nat) : Nat := match (decodeF fmtF32 false c).1 with | .fin _ m e => inUnits q m e | _ => 0
def codeUlp (c : Nat) : Int := match (decodeF fmtF32 false c).1 with | .fin _ m e => ulpOf m e | _ => 0

/-- What the fixed point may be off by, as a part of a unit in the last place: every test of a bound keeps this far inside it. -/
def ulpSlack (u : Nat) : Nat := u / 2 ^ 32

/-- |c − m × 2^e| is within `ulps` units in the last place of m × 2^e in F32 (R156), for a positive finite code c. -/
def withinUlps (ulps c m : Nat) (e : Int) : Bool :=
  let q := ulpOf m e - 64
  let y := inUnits q m e
  let x := codeUnits q c
  decide ((y - x) + (x - y) + ulpSlack (2 ^ 64) ≤ ulps * 2 ^ 64)

/-- The exact result y = m × 2^e must give at least the code c, since the code before it would be more than `ulps` units below y, or below some
smaller value: just under a power of two the unit is half as large (R156, R157). -/
def mustReach (ulps c m : Nat) (e : Int) : Bool :=
  let q := codeUlp c - 200
  let before := codeUnits q (c - 1)
  let u := inUnits q 1 (ulpOf m e)
  let edge := if fmtF32.emin < expOf m e then inUnits q 1 (expOf m e) else 0
  decide (before + ulps * u < inUnits q m e + ulpSlack u) || decide (before + ulps * u / 2 < edge + ulpSlack u)

/-- The exact result y = m × 2^e gives at least the code c: it must, or it may and stands at or past the free cut of c. -/
def reaches (fn : Nat) (neg : Bool) (ulps c m : Nat) (e : Int) : Bool :=
  let q := codeUlp c - 200
  let y := inUnits q m e
  let x := codeUnits q c
  let u := inUnits q 1 (ulpOf m e)
  mustReach ulps c m e || (decide (x + ulpSlack u ≤ y + ulps * u) && decide (Config.specialCut fn neg c ≤ (y : Int) - x))

/-- The magnitude an inexact result takes: the highest code that the exact result reaches, between the exact results `lo` and `hi` around it.
A larger exact result reaches every code that a smaller one does, so that the order of R157 is kept whatever the cuts are. -/
def heldMagnitude (fn : Nat) (neg : Bool) (ulps lo hi m : Nat) (e : Int) : Nat :=
  let near := codeNear m e
  let c := ((List.range 17).map (fun i => near + 8 - i)).find? (fun c => c == 0 || decide (c ≤ fmtF32.maxCode) && reaches fn neg ulps c m e)
  max lo (min hi (c.getD near))

/-- The magnitude of an inexact `fsin` or `fcos` whose argument folds to b (R156): the free candidate if it keeps the bound, else the nearest
value; at most 1 (R157). -/
def turnMagnitude (fn b m : Nat) (e : Int) : Nat :=
  let c := (Config.specialBits fn (BitVec.ofNat 32 (codeNear b (-(fxBits : Int))))).toNat % 2 ^ 31
  min 0x3F800000 (if decide (c ≤ fmtF32.maxCode) && withinUlps 3 c m e then c else codeNear m e)

/-- The F32 code of 2^k, 0 below the subnormals and the largest finite code above the range. -/
def codePow2 (k : Int) : Nat := if k < -149 then 0 else if 127 < k then fmtF32.maxCode else codeNear 1 k

/-- The F32 code of an integer. -/
def codeNat (n : Nat) : Nat := codeNear n 0

/-- Finish an inexact result of sign `neg` and magnitude code `c`: PE, UF when it is tiny, and a zero of its sign under FTZ
(R48, R159). -/
def sfInexact (ftz neg : Bool) (c : Nat) : Nat × FFlags :=
  let sgn := if neg then 2 ^ 31 else 0
  let tiny := decide (c < 2 ^ 23)
  (sgn + (if ftz && tiny then 0 else c), fPE ||| flagIf tiny fUF)

/-- An exact result (R156, R158). -/
def sfExact (neg : Bool) (c : Nat) : Nat × FFlags := ((if neg then 2 ^ 31 else 0) + c, 0)

def codeInf : Nat := 0x7F800000
def codeOne : Nat := 0x3F800000
def codeHalf : Nat := 0x3F000000

/-- The magnitude is a power of two. -/
def isPow2 (m : Nat) : Bool := m == 2 ^ m.log2

/-- `fexp2` of a finite nonzero x (R156, R159). -/
def sfExp2Val (ftz neg : Bool) (m : Nat) (e : Int) : Nat × FFlags :=
  if 8 ≤ expOf m e then
    -- |x| ≥ 256
    if neg then (0, fUF ||| fPE) else (codeInf, fOF ||| fPE)
  else
    let x : Int := signedNat neg (fxOf m e)
    -- a source below the fixed point's last bit still moves the result off the exact point
    let sticky := fxOf m e == 0
    let n := if sticky && neg then -1 else x.ediv fxOne
    let frac := x.emod fxOne
    if 128 ≤ n then (codeInf, fOF ||| fPE)
    else if n < -150 then (0, fUF ||| fPE)
    else if frac = 0 && !sticky && decide (-149 ≤ n) then
      if ftz && decide (n < -126) then (0, fUF ||| fPE) else sfExact false (codePow2 n)
    else
      let r := fxExp2 x
      let hi := if n = -150 then 1 else codePow2 (n + 1)
      sfInexact ftz false (heldMagnitude sfExp2 false 3 (codePow2 n) hi r.1 r.2)

/-- `flog2` of a finite positive x. -/
def sfLog2Val (ftz : Bool) (m : Nat) (e : Int) : Nat × FFlags :=
  let k := expOf m e
  if isPow2 m then sfExact (decide (k < 0)) (codeNat k.natAbs)
  else
    let v := fxLog2 m e
    let lo := if 0 ≤ k then k.natAbs else (k + 1).natAbs
    sfInexact ftz (decide (k < 0)) (heldMagnitude sfLog2 (decide (k < 0)) 3 (codeNat lo) (codeNat (lo + 1)) v.natAbs (-(fxBits : Int)))

/-- `frcp` of a finite nonzero x. At magnitude 2^-128 exactly the result is an inexact finite one, since only a smaller source gives infinity
(R159; DESIGN CHOICE, log entry 104). -/
def sfRcpVal (ftz neg : Bool) (m : Nat) (e : Int) : Nat × FFlags :=
  let k := expOf m e
  if k < -128 then ((if neg then 2 ^ 31 else 0) + codeInf, fOF ||| fPE)
  else if isPow2 m && decide (-127 ≤ k) && decide (k ≤ 126) then sfExact neg (codePow2 (-k))
  else
    let num := 2 ^ (m.log2 + 300) / m
    -- the exact results around it: the powers of two from 2^-126 on
    let lo := if k < 126 then codePow2 (-k - 1) else 0
    let hi := if k < 127 then codePow2 (-k) else codePow2 (-126)
    sfInexact ftz neg (heldMagnitude sfRcp false 2 lo hi num (-(m.log2 : Int) - 300 - e))

/-- `fsqrt` of a finite positive x. -/
def sfSqrtVal (ftz : Bool) (m : Nat) (e : Int) : Nat × FFlags :=
  let k := expOf m e
  if isPow2 m && k.emod 2 == 0 then sfExact false (codePow2 (k / 2))
  else
    let r := fxSqrt m e
    let h := k.ediv 2
    sfInexact ftz false (heldMagnitude sfSqrt false 2 (codePow2 h) (codePow2 (h + 1)) r.1 r.2)

/-- `frsqrt` of a finite positive x. -/
def sfRsqrtVal (ftz : Bool) (m : Nat) (e : Int) : Nat × FFlags :=
  let k := expOf m e
  if isPow2 m && k.emod 2 == 0 then sfExact false (codePow2 (-(k / 2)))
  else
    let r := fxSqrt m e
    let h := k.ediv 2
    let num := 2 ^ (r.1.log2 + 300) / r.1
    sfInexact ftz false (heldMagnitude sfRsqrt false 2 (codePow2 (-h - 1)) (codePow2 (-h)) num (-(r.1.log2 : Int) - 300 - r.2))

/-- `fsin` and `fcos` of a finite nonzero x, in turns: t = x − RoundInt(x, RNE), folded onto [0, 1/4] (R156). -/
def sfTurnVal (ftz cosine neg : Bool) (m : Nat) (e : Int) : Nat × FFlags :=
  let x := fxOf m e
  let f := x % fxOne
  -- |t| and its sign for a positive x; a negative x mirrors it
  let up := decide (fxOne / 2 < f)
  let a := if up then fxOne - f else f
  let b := min a (fxOne / 2 - a)
  let tneg := up != neg
  if a = 0 then (if cosine then sfExact false codeOne else sfExact neg 0)
  else if a = fxOne / 2 then (if cosine then sfExact true codeOne else sfExact neg 0)
  else if a = fxOne / 4 then (if cosine then sfExact false 0 else sfExact tneg codeOne)
  else if cosine then
    sfInexact ftz (decide (fxOne / 4 < a)) (turnMagnitude sfCos b (fxSin (fxOne / 4 - b)) (-(fxBits : Int)))
  else sfInexact ftz tneg (turnMagnitude sfSin b (fxSin b) (-(fxBits : Int)))

/-- `ftanh` of a finite nonzero x (R156, R159): from 2^-12 on it is not below the largest x that is its own result (R157). -/
def sfTanhVal (ftz neg : Bool) (code m : Nat) (e : Int) : Nat × FFlags :=
  if expOf m e < -12 then sfInexact ftz neg (code % 2 ^ 31)
  else if 9 * fxOne ≤ fxOf m e then ((if neg then 2 ^ 31 else 0) + codeOne, fPE)
  else
    let y := fxExp2 (-(fxMul (2 * fxOf m e) fxLog2e : Int))
    let yf := y.1 >>> (-(y.2 + fxBits)).toNat
    sfInexact ftz neg (heldMagnitude sfTanh false 3 (codePow2 (-12) - 1) codeOne (((fxOne - yf) <<< fxBits) / (fxOne + yf)) (-(fxBits : Int)))

/-- `fsigm` of a finite nonzero x (R156, R159). -/
def sfSigmVal (ftz neg : Bool) (m : Nat) (e : Int) : Nat × FFlags :=
  let big := decide (18 * fxOne ≤ fxOf m e) || decide (8 ≤ expOf m e)
  let low := decide (104 * fxOne ≤ fxOf m e) || decide (8 ≤ expOf m e)
  if !neg && big then (codeOne, fPE)
  else if neg && low then (0, fUF ||| fPE)
  else
    let y := fxExp2 (-(fxMul (fxOf m e) fxLog2e : Int))
    let yf := y.1 >>> (-(y.2 + fxBits)).toNat
    if neg then
      sfInexact ftz false (heldMagnitude sfSigm false 3 0 codeHalf ((y.1 <<< fxBits) / (fxOne + yf)) y.2)
    else
      sfInexact ftz false (heldMagnitude sfSigm false 3 codeHalf codeOne ((fxOne <<< fxBits) / (fxOne + yf)) (-(fxBits : Int)))

/-- `ferf` of a finite nonzero x (R156, R159). -/
def sfErfVal (ftz neg : Bool) (m : Nat) (e : Int) : Nat × FFlags :=
  let x := fxOf m e
  if 2 ≤ expOf m e then ((if neg then 2 ^ 31 else 0) + codeOne, fPE)
  else
    let v := fxMul (fxErfSum (fxMul x x) 160 0 x).toNat fxTwoOverSqrtPi
    sfInexact ftz neg (heldMagnitude sfErf false 3 0 codeOne v (-(fxBits : Int)))

/-- A finite nonzero source (R156, R158, R159). -/
def sfFinite (fn : Nat) (ftz neg : Bool) (code m : Nat) (e : Int) : Nat × FFlags :=
  let bad : Nat × FFlags := (fmtF32.nanCode, fNV)
  if fn = sfExp2 then sfExp2Val ftz neg m e
  else if fn = sfLog2 then (if neg then bad else sfLog2Val ftz m e)
  else if fn = sfRcp then sfRcpVal ftz neg m e
  else if fn = sfRsqrt then (if neg then bad else sfRsqrtVal ftz m e)
  else if fn = sfSqrt then (if neg then bad else sfSqrtVal ftz m e)
  else if fn = sfSin then sfTurnVal ftz false neg m e
  else if fn = sfCos then sfTurnVal ftz true neg m e
  else if fn = sfTanh then sfTanhVal ftz neg code m e
  else if fn = sfSigm then sfSigmVal ftz neg m e
  else sfErfVal ftz neg m e

/-- The results at ±0 (R158). -/
def sfZero (fn : Nat) (neg : Bool) : Nat × FFlags :=
  let sgn := if neg then 2 ^ 31 else 0
  if fn = sfExp2 ∨ fn = sfCos then (codeOne, 0)
  else if fn = sfLog2 then (2 ^ 31 + codeInf, fDZ)
  else if fn = sfRcp ∨ fn = sfRsqrt then (sgn + codeInf, fDZ)
  else if fn = sfSigm then (codeHalf, 0)
  else (sgn, 0)

/-- The results at ±∞ (R158). -/
def sfInf (fn : Nat) (neg : Bool) : Nat × FFlags :=
  let bad : Nat × FFlags := (fmtF32.nanCode, fNV)
  let sgn := if neg then 2 ^ 31 else 0
  if fn = sfExp2 then (if neg then 0 else codeInf, 0)
  else if fn = sfLog2 ∨ fn = sfSqrt then (if neg then bad else (codeInf, 0))
  else if fn = sfRcp then (sgn, 0)
  else if fn = sfRsqrt then (if neg then bad else (0, 0))
  else if fn = sfSin ∨ fn = sfCos then bad
  else if fn = sfSigm then (if neg then 0 else codeOne, 0)
  else (sgn + codeOne, 0)

/-- One special function on one F32 source (R154 to R159). -/
def specialVal (fn : Nat) (ftz : Bool) (a : Word) : Word × FFlags :=
  let (x, f1) := decodeF fmtF32 ftz a.toNat
  let r := match x with
    | .nan => (fmtF32.nanCode, f1)
    | .inf neg => sfInf fn neg
    | .fin neg m e => if m = 0 then sfZero fn neg else sfFinite fn ftz neg a.toNat m e
  (BitVec.ofNat 32 r.1, r.2)

def specialInstr (i : Instr) (gd : Guard) (fn : Nat) (d a : Field10) (s : State) : Out :=
  vectorInstr i gd [a.toNat] [d.toNat] s fun g _ m =>
    .ok (floatLanes g d m fun l => specialVal fn (ftzOn g) (getV g a.toNat l))

/-- `fexp2` (R154). -/
def execFexp2 (gd : Guard) (d a : Field10) (s : State) : Out := specialInstr (.fexp2 gd d a) gd sfExp2 d a s
/-- `flog2` (R154). -/
def execFlog2 (gd : Guard) (d a : Field10) (s : State) : Out := specialInstr (.flog2 gd d a) gd sfLog2 d a s
/-- `frcp` (R154). -/
def execFrcp (gd : Guard) (d a : Field10) (s : State) : Out := specialInstr (.frcp gd d a) gd sfRcp d a s
/-- `frsqrt` (R154). -/
def execFrsqrt (gd : Guard) (d a : Field10) (s : State) : Out := specialInstr (.frsqrt gd d a) gd sfRsqrt d a s
/-- `fsqrt` (R154). -/
def execFsqrt (gd : Guard) (d a : Field10) (s : State) : Out := specialInstr (.fsqrt gd d a) gd sfSqrt d a s
/-- `fsin` (R154). -/
def execFsin (gd : Guard) (d a : Field10) (s : State) : Out := specialInstr (.fsin gd d a) gd sfSin d a s
/-- `fcos` (R154). -/
def execFcos (gd : Guard) (d a : Field10) (s : State) : Out := specialInstr (.fcos gd d a) gd sfCos d a s
/-- `ftanh` (R154). -/
def execFtanh (gd : Guard) (d a : Field10) (s : State) : Out := specialInstr (.ftanh gd d a) gd sfTanh d a s
/-- `fsigm` (R154). -/
def execFsigm (gd : Guard) (d a : Field10) (s : State) : Out := specialInstr (.fsigm gd d a) gd sfSigm d a s
/-- `ferf` (R154). -/
def execFerf (gd : Guard) (d a : Field10) (s : State) : Out := specialInstr (.ferf gd d a) gd sfErf d a s

-- row statistics

/-- x − c for one element, and NV for ∞ − ∞ (R161, R162). -/
def rowDiff (x c : XReal) : XReal × FFlags := xSum .rne [x, xNeg c]

/-- An exact sum with a zero that is +0 in every mode (R55, R161). -/
def rowSum (ts : List XReal) : XReal × FFlags :=
  let r := xSum .rne ts
  (if r.1.isZero then .fin false 0 0 else r.1, r.2)

/-- `rstat` on the row of the lanes of `m` (R161, R162): sum, sum of squares, flags. -/
def rowStats (g : Gang) (mode : RMode) (a b : Field10) (n : Nat) (m : LaneMask) : Word × Word × FFlags :=
  let ftz := ftzOn g
  let (c, f0) := decodeF fmtF32 ftz (getV g b.toNat (lowestLane m)).toNat
  let xs := (List.range n).flatMap fun j => (lanesOf m).map fun l => decodeF fmtF32 ftz (getV g (a.toNat + j) l).toNat
  let ds := xs.map (fun x => rowDiff x.1 c)
  let sq := ds.map (fun d => (xMul d.1 d.1).1)
  let s1 := rowSum (ds.map (·.1))
  let q1 := rowSum sq
  let r1 := roundF fmtF32 mode ftz s1.1
  let r2 := roundF fmtF32 mode ftz q1.1
  let fl := (xs.foldl (fun acc x => acc ||| x.2) f0) ||| (ds.foldl (fun acc d => acc ||| d.2) 0) ||| s1.2 ||| r1.2 ||| r2.2
  (BitVec.ofNat 32 r1.1, BitVec.ofNat 32 r2.1, fl)

/-- `rstat` (R160 to R162). -/
def execRstat (gd : Guard) (rm : RSel) (d a b : Field10) (n : BitVec 4) (s : State) : Out :=
  vectorInstr (.rstat gd rm d a b n) gd (vrange a (n.toNat + 1) ++ [b.toNat]) (vregs .b64 d) s fun g _ m =>
    if m = 0 then .ok g
    else
      let r := rowStats g (selMode g rm) a b (n.toNat + 1) m
      .ok (raiseFlags (writeLanes g .b64 d m fun _ => r.2.1 ++ r.1) r.2.2)

end Sys2Proof.Machine
end

