-- ==== Sys2Proof/Machine/CloverCells.lean ====
section
/-! DEFINITION. What a loop body may hold and what its cells do (R172 to R174): the registers an instruction names, the kinds of
cell that execute it, eligibility of a body, the checks on a placement (R175, R196, R198), and an element-wise cell's
computation, which is that of the front end. -/

namespace Sys2Proof.Machine

/-- What an instruction of a body uses (R172): its guard, the vector registers it reads and writes, the predicates it reads beside the guard
and writes (p0 left out), and the uniform registers it reads, a pair under its even register. -/
structure Uses where
  g : Guard
  rv : List Nat
  wv : List Nat
  rp : List Nat
  wp : List Nat
  ru : List Nat
  deriving DecidableEq, Repr

def pr (p : BitVec 4) : List Nat := if p = 0 then [] else [p.toNat]
def uregB (b : Src) : List Nat := if b.bu then [b.b.toNat] else []

/-- The uniform register or pair of a base (R247): one entry of the register map, as the context worked out in the chapter on pre-emption
counts it. -/
def baseReg (m : MemAddr) : List Nat := if m.sb = noField then [] else [m.sb.toNat]

/-- Uses of an instruction that reads vector registers and one B operand and writes vector registers. -/
def usesX (g : Guard) (rv : List Nat) (ty : Ty) (b : Src) (wv : List Nat) : Uses := ⟨g, rv ++ vregsB ty b, wv, [], [], uregB b⟩

/-- Uses of an instruction that reads and writes vector registers only. -/
def usesV (g : Guard) (rv wv : List Nat) : Uses := ⟨g, rv, wv, [], [], []⟩

/-- Uses of the instructions a body may hold (R172); none for one that it may not. -/
def usesOf : Instr → Option Uses
  | .iliLong g d _ | .iliShort g d _ => some (usesV g [] [d.toNat])
  | .iliB64 g d _ => some (usesV g [] (vregs .b64 d))
  | .iadd g ty d a b | .isub g ty d a b | .iadds g ty d a b | .imul g ty d a b | .imulh g ty d a b | .imin g ty d a b | .imax g ty d a b
  | .iand g ty d a b | .ior g ty d a b | .ixor g ty d a b => some (usesX g (vregs ty a) ty b (vregs ty d))
  | .ishl g ty d a b | .ishr g ty d a b | .isra g ty d a b | .irot g ty d a b => some (usesX g (vregs ty a) .i32 b (vregs ty d))
  | .icmp g ty _ a b pd ps => some { usesX g (vregs ty a) ty b [] with rp := pr ps, wp := pr pd }
  | .isel g ty d a b ps => some { usesX g (vregs ty a) ty b (vregs ty d) with rp := pr ps }
  | .iaddImm g ty d a _ | .isubImm g ty d a _ | .iaddsImm g ty d a _ | .imulImm g ty d a _ | .imulhImm g ty d a _ | .iminImm g ty d a _
  | .imaxImm g ty d a _ | .iandImm g ty d a _ | .iorImm g ty d a _ | .ixorImm g ty d a _ | .ishlImm g ty d a _ | .ishrImm g ty d a _
  | .israImm g ty d a _ | .irotImm g ty d a _ => some (usesV g (vregs ty a) (vregs ty d))
  | .iabs g ty d b | .ineg g ty d b | .inot g ty d b | .ipopc g ty d b | .iclz g ty d b | .ibrev g ty d b | .imov g ty d b =>
    some (usesX g [] ty b (vregs ty d))
  | .imad g _ d a b c | .ibfx g _ d a b c | .idp4 g _ d a b c | .fma g _ _ d a b c | .fdot2 g _ _ d a b c | .fdot4 g _ _ d a b c =>
    some (usesV g [a.toNat, b.toNat, c.toNat] [d.toNat])
  | .ibfi g _ d a b c => some (usesV g [a.toNat, b.toNat, c.toNat, d.toNat] [d.toNat])
  | .iaddc g _ d a b pd ps | .isubb g _ d a b pd ps => some { usesX g [a.toNat] .i32 b [d.toNat] with rp := pr ps, wp := pr pd }
  | .fadd g _ _ d a b | .fsub g _ _ d a b | .fmul g _ _ d a b | .fmin g _ d a b | .fmax g _ d a b | .fscale g _ d a b | .cvtq g _ _ _ d a b
  | .cvtdq g _ _ _ d a b => some (usesX g [a.toNat] .i32 b [d.toNat])
  | .fcmp g _ a b pd ps => some { usesX g [a.toNat] .i32 b [] with rp := pr ps, wp := pr pd }
  | .fclass g d a b pd => some { usesX g [a.toNat] .i32 b [d.toNat] with wp := pr pd }
  | .fabs g _ d b | .fneg g _ d b | .frnd g _ d b | .fgetexp g d b | .cvt g _ _ _ d b => some (usesX g [] .i32 b [d.toNat])
  | .pack g ty d a => some (usesV g (vrange a (packCount ty)) [d.toNat])
  | .unpk g ty d b => some (usesX g [] .i32 b (vrange d (packCount ty)))
  | .fexp2 g d a | .flog2 g d a | .frcp g d a | .frsqrt g d a | .fsqrt g d a | .fsin g d a | .fcos g d a | .ftanh g d a | .fsigm g d a
  | .ferf g d a => some (usesV g [a.toNat] [d.toNat])
  | .ld g ty _ _ _ d m => some { usesV g (indexRegs m) (vregs ty d) with ru := baseReg m }
  | .st g ty _ _ _ d m => some { usesV g (indexRegs m ++ vregs ty d) [] with ru := baseReg m }
  | .jmp g _ | .brd g _ _ | .nop g => some (usesV g [] [])
  | .bru g a _ | .lpb g a _ => some { usesV g [] [] with ru := [a.toNat] }
  | _ => none

/-- `st.blk` is absent from bodies (R172). -/
def bodyAllows (i : Instr) : Bool :=
  (usesOf i).isSome && (match i with | .st _ _ _ blk _ _ _ => !blk | _ => true)

/-- The guard of an instruction of a body. -/
def guardOf (i : Instr) : Guard := match usesOf i with | some u => u.g | none => ⟨0, false⟩

/-- Kinds of R174: 1 arithmetic, 2 integer and logic, 3 memory, 4 special function, 5 control, 6 route or delay. -/
def kindOf : Instr → Nat
  | .ld _ _ _ _ _ _ _ | .st _ _ _ _ _ _ _ => 3
  | .jmp _ _ | .bru _ _ _ | .lpb _ _ _ | .brd _ _ _ => 5
  | .nop _ => 0
  | .fexp2 _ _ _ | .flog2 _ _ _ | .frcp _ _ _ | .frsqrt _ _ _ | .fsqrt _ _ _ | .fsin _ _ _ | .fcos _ _ _ | .ftanh _ _ _ | .fsigm _ _ _ | .ferf _ _ _ => 4
  | .fadd _ _ _ _ _ _ | .fsub _ _ _ _ _ _ | .fmul _ _ _ _ _ _ | .fmin _ _ _ _ _ | .fmax _ _ _ _ _ | .fcmp _ _ _ _ _ _ | .fscale _ _ _ _ _ | .fabs _ _ _ _ | .fneg _ _ _ _ | .fclass _ _ _ _ _ | .frnd _ _ _ _ | .fgetexp _ _ _ | .fma _ _ _ _ _ _ _ | .fdot2 _ _ _ _ _ _ _ | .fdot4 _ _ _ _ _ _ _ | .cvt _ _ _ _ _ _ | .cvtq _ _ _ _ _ _ _ | .cvtdq _ _ _ _ _ _ _ | .pack _ _ _ _ | .unpk _ _ _ _ => 1
  | _ => 2

/-- An element-wise instruction as the front end runs it (R174). -/
def cellRun (i : Instr) (s : State) : Out :=
  match i with
  | .iliLong g d k => execIliLong g d k s
  | .iliB64 g d k => execIliB64 g d k s
  | .iliShort g d imm => execIliShort g d imm s
  | .iadd g ty d a b => execIadd g ty d a b s
  | .isub g ty d a b => execIsub g ty d a b s
  | .iadds g ty d a b => execIadds g ty d a b s
  | .imul g ty d a b => execImul g ty d a b s
  | .imulh g ty d a b => execImulh g ty d a b s
  | .imin g ty d a b => execImin g ty d a b s
  | .imax g ty d a b => execImax g ty d a b s
  | .iand g ty d a b => execIand g ty d a b s
  | .ior g ty d a b => execIor g ty d a b s
  | .ixor g ty d a b => execIxor g ty d a b s
  | .ishl g ty d a b => execIshl g ty d a b s
  | .ishr g ty d a b => execIshr g ty d a b s
  | .isra g ty d a b => execIsra g ty d a b s
  | .irot g ty d a b => execIrot g ty d a b s
  | .icmp g ty c a b pd ps => execIcmp g ty c a b pd ps s
  | .isel g ty d a b ps => execIsel g ty d a b ps s
  | .iaddImm g ty d a imm => execIaddImm g ty d a imm s
  | .isubImm g ty d a imm => execIsubImm g ty d a imm s
  | .iaddsImm g ty d a imm => execIaddsImm g ty d a imm s
  | .imulImm g ty d a imm => execImulImm g ty d a imm s
  | .imulhImm g ty d a imm => execImulhImm g ty d a imm s
  | .iminImm g ty d a imm => execIminImm g ty d a imm s
  | .imaxImm g ty d a imm => execImaxImm g ty d a imm s
  | .iandImm g ty d a imm => execIandImm g ty d a imm s
  | .iorImm g ty d a imm => execIorImm g ty d a imm s
  | .ixorImm g ty d a imm => execIxorImm g ty d a imm s
  | .ishlImm g ty d a imm => execIshlImm g ty d a imm s
  | .ishrImm g ty d a imm => execIshrImm g ty d a imm s
  | .israImm g ty d a imm => execIsraImm g ty d a imm s
  | .irotImm g ty d a imm => execIrotImm g ty d a imm s
  | .iabs g ty d b => execIabs g ty d b s
  | .ineg g ty d b => execIneg g ty d b s
  | .inot g ty d b => execInot g ty d b s
  | .ipopc g ty d b => execIpopc g ty d b s
  | .iclz g ty d b => execIclz g ty d b s
  | .ibrev g ty d b => execIbrev g ty d b s
  | .imov g ty d b => execImov g ty d b s
  | .imad g ty d a b c => execImad g ty d a b c s
  | .ibfx g ty d a b c => execIbfx g ty d a b c s
  | .ibfi g ty d a b c => execIbfi g ty d a b c s
  | .idp4 g ty d a b c => execIdp4 g ty d a b c s
  | .iaddc g ty d a b pd ps => execIaddc g ty d a b pd ps s
  | .isubb g ty d a b pd ps => execIsubb g ty d a b pd ps s
  | .fadd g ty rm d a b => execFadd g ty rm d a b s
  | .fsub g ty rm d a b => execFsub g ty rm d a b s
  | .fmul g ty rm d a b => execFmul g ty rm d a b s
  | .fmin g ty d a b => execFmin g ty d a b s
  | .fmax g ty d a b => execFmax g ty d a b s
  | .fcmp g c a b pd ps => execFcmp g c a b pd ps s
  | .fscale g rm d a b => execFscale g rm d a b s
  | .fabs g ty d b => execFabs g ty d b s
  | .fneg g ty d b => execFneg g ty d b s
  | .fclass g d a b pd => execFclass g d a b pd s
  | .frnd g rm d b => execFrnd g rm d b s
  | .fgetexp g d b => execFgetexp g d b s
  | .fma g ty rm d a b c => execFma g ty rm d a b c s
  | .fdot2 g ty rm d a b c => execFdot2 g ty rm d a b c s
  | .fdot4 g ty rm d a b c => execFdot4 g ty rm d a b c s
  | .cvt g ty ts rm d b => execCvt g ty ts rm d b s
  | .cvtq g ty ts rm d a b => execCvtq g ty ts rm d a b s
  | .cvtdq g ty ts rm d a b => execCvtdq g ty ts rm d a b s
  | .pack g ty d a => execPack g ty d a s
  | .unpk g ty d b => execUnpk g ty d b s
  | .fexp2 g d a => execFexp2 g d a s
  | .flog2 g d a => execFlog2 g d a s
  | .frcp g d a => execFrcp g d a s
  | .frsqrt g d a => execFrsqrt g d a s
  | .fsqrt g d a => execFsqrt g d a s
  | .fsin g d a => execFsin g d a s
  | .fcos g d a => execFcos g d a s
  | .ftanh g d a => execFtanh g d a s
  | .fsigm g d a => execFsigm g d a s
  | .ferf g d a => execFerf g d a s
  | _ => .next s

-- Bodies

/-- Byte displacement of an encoded word displacement. -/
def dispOf (d : BitVec 30) : Int := 8 * d.toInt

/-- How an instruction of a body transfers control (R172, R173); offsets are from the head, `size` is the fall-through. -/
inductive Turns where
  | none
  /-- predication: lanes, or the stream, skip to an offset inside the body -/
  | skip (target : Nat)
  | exit
  | unmapped
  /-- the closing transfer -/
  | close
  /-- a backward transfer other than the closing one -/
  | backward
  deriving DecidableEq, Repr

/-- Class of a displacement target from offset `off`. -/
def classJump (off size : Nat) (d : BitVec 30) (last : Bool) : Turns :=
  let t := (off : Int) + dispOf d
  if last then (if t = 0 then .close else if t ≤ off then .backward else .unmapped)
  else if t ≤ off then .backward
  else if t < size then .skip t.toNat
  else if t = size then .exit
  else .unmapped

/-- Class of an instruction at offset `off` of a body of `size` bytes (R173). -/
def turnsOf (off size : Nat) (last : Bool) : Instr → Turns
  | .jmp _ d => classJump off size d last
  | .bru _ _ d => classJump off size d last
  | .lpb _ _ d => if last then classJump off size d true else .backward
  | .brd _ d r =>
    let l := (off : Int) + dispOf d
    let j := (off : Int) + dispOf r
    if last then (if l = 0 ∧ j = size then .close else .backward)
    else if l ≤ off then .backward
    else if off < j ∧ l < size ∧ j < size then .skip l.toNat
    else if l = size ∧ j = size then .exit
    else .unmapped
  | _ => .none

/-- Bytes of a body. -/
def bodySize (body : List (Nat × Instr)) : Nat :=
  match body.getLast? with
  | none => 0
  | some (off, i) => off + (instrBytes i).toNat

/-- Classes of the instructions of a body, in order. -/
def bodyTurns (body : List (Nat × Instr)) : List (Nat × Turns) :=
  let size := bodySize body
  body.zipIdx.map (fun x => (x.1.1, turnsOf x.1.1 size (x.2 + 1 == body.length) x.1.2))

/-- Vector registers (as r) and predicates (as 1024 + p) that an instruction reads or writes. -/
def readsOf (i : Instr) : List Nat := match usesOf i with | some u => u.rv ++ (pr u.g.gp ++ u.rp).map (1024 + ·) | none => []
def writesOf (i : Instr) : List Nat := match usesOf i with | some u => u.wv ++ (u.wp.filter (· ≠ 0)).map (1024 + ·) | none => []
def uniformsOf (i : Instr) : List Nat := match usesOf i with | some u => u.ru | none => []

/-- What an instruction reads and writes, with the uniform registers as 2048 + s, a pair as both of its registers: a read of the `lpb` counter
comes before the decrement of its iteration (R36, R192). -/
def allReads (i : Instr) : List Nat := readsOf i ++ (uniformsOf i).flatMap (fun u => [2048 + u, 2048 + u + 1])
def allWrites (i : Instr) : List Nat := writesOf i ++ (match i with | .lpb _ a _ => [2048 + a.toNat] | _ => [])

/-- Registers that a body writes. -/
def bodyWrites (body : List (Nat × Instr)) : List Nat := (body.flatMap (fun x => writesOf x.2)).eraseDups

/-- An instruction acts in every lane that reaches it, or in none (R24). -/
def always (i : Instr) : Bool := (guardOf i).gp == 0 && !(guardOf i).gn
def never (i : Instr) : Bool := (guardOf i).gp == 0 && (guardOf i).gn

/-- Offsets that a lane may go to from an instruction of a body, within the body (R172, R173). -/
def goesTo (off : Nat) (i : Instr) (t : Turns) : List Nat :=
  let next := off + (instrBytes i).toNat
  let sure := always i && (match i with | .jmp _ _ | .brd _ _ _ => true | _ => false)
  match t with
  | .none => [next]
  | .skip x => if never i then [next] else if sure then [x] else [next, x]
  | _ => if sure then [] else [next]

/-- What reaches each instruction of a body along some path: whether register `r` may still hold its value at entry there, and which instructions may have
written it last. One pass suffices, for every transfer inside a body goes forward (R172). The last element is the end of the body. -/
def reaching (body : List (Nat × Instr)) (r : Nat) : List (Bool × List Nat) :=
  let start : List (Nat × (Bool × List Nat)) := [(0, (true, []))]
  let at_ := fun (m : List (Nat × (Bool × List Nat))) (off : Nat) => (look m off).getD (false, [])
  let join := fun (x y : Bool × List Nat) => (x.1 || y.1, (x.2 ++ y.2).eraseDups)
  let step := fun (acc : List (Nat × (Bool × List Nat)) × List (Bool × List Nat)) (x : ((Nat × Instr) × Nat) × (Nat × Turns)) =>
    let (off, i) := x.1.1
    let here := at_ acc.1 off
    let out := if (writesOf i).contains r && !never i then (if always i then (false, [x.1.2]) else (here.1, here.2 ++ [x.1.2])) else here
    ((goesTo off i x.2.2).foldl (fun m t => store m t (join (at_ m t) out)) acc.1, acc.2 ++ [here])
  let (m, l) := (body.zipIdx.zip (bodyTurns body)).foldl step (start, [])
  l ++ [at_ m (bodySize body)]

/-- The value of register `r` at entry may reach instruction `j`, and the instructions that may have written it last. -/
def reachesAt (body : List (Nat × Instr)) (r j : Nat) : Bool × List Nat := ((reaching body r)[j]?).getD (false, [])

/-- Registers that some path reads before it writes them (R172). -/
def earlyReads (body : List (Nat × Instr)) : List Nat :=
  ((body.flatMap (fun x => readsOf x.2)).eraseDups).filter (fun r =>
    ((reaching body r).zip body).any (fun x => x.1.1 && (readsOf x.2.2).contains r))

/-- Loop-carried registers (R172). -/
def carried (body : List (Nat × Instr)) : List Nat := (earlyReads body).filter (fun r => (bodyWrites body).contains r)

/-- Register-map entries that a body needs (R172, R196): every register read at entry or written, the uniform registers,
and the counter. -/
def mapEntries (body : List (Nat × Instr)) : Nat :=
  ((earlyReads body ++ bodyWrites body).eraseDups).length + ((body.flatMap (fun x => uniformsOf x.2)).eraseDups).length

/-- Cells of each kind suffice (R173): integer work overflows into arithmetic cells. -/
def cellsSuffice (body : List (Nat × Instr)) : Bool :=
  let n := fun (k : Nat) => (body.filter (fun x => kindOf x.2 = k)).length
  decide (n 1 + (n 2 - 16) ≤ 16) && decide (n 3 ≤ 8) && decide (n 4 ≤ 4) && decide (n 5 ≤ 8)

/-- R172. -/
def bodyEligible (body : List (Nat × Instr)) : Bool :=
  body.all (fun x => bodyAllows x.2) && decide (body.length ≤ 56) &&
  (match (bodyTurns body).getLast? with | some (_, .close) => true | _ => false) &&
  (bodyTurns body).all (fun t => t.2 != .backward) &&
  decide ((carried body).length ≤ 16) && decide ((bodyWrites body).length ≤ 32) && decide (mapEntries body ≤ 48) && cellsSuffice body

-- Placements

/-- Canonical kinds of the 64 cells (R174). -/
def canonicalKinds : List Nat :=
  [6, 5, 2, 1, 1, 2, 5, 6] ++ [6, 2, 1, 4, 4, 1, 2, 6] ++ [3, 2, 1, 6, 6, 1, 2, 3] ++ [3, 1, 2, 5, 5, 2, 1, 3] ++
  [3, 1, 2, 5, 5, 2, 1, 3] ++ [3, 2, 1, 6, 6, 1, 2, 3] ++ [6, 2, 1, 4, 4, 1, 2, 6] ++ [6, 5, 2, 1, 1, 2, 5, 6]

-- Fields of a cell record (R196)
def cellInstr (w : DWord × DWord) : Nat := w.1.toNat / 2 ^ 56
def cellKind (w : DWord × DWord) : Nat := w.1.toNat / 2 ^ 48 % 256
def cellFunc (w : DWord × DWord) : Nat := w.1.toNat / 2 ^ 44 % 16
def cellDly (w : DWord × DWord) : Nat := w.1.toNat / 2 ^ 40 % 16 + 1
def cellPrime (w : DWord × DWord) : Nat := w.1.toNat / 2 ^ 32 % 256
def cellPorts (w : DWord × DWord) : List Nat := [w.1.toNat / 2 ^ 24 % 256, w.1.toNat / 2 ^ 16 % 256, w.1.toNat / 2 ^ 8 % 256, w.1.toNat % 256]
def cellOpIdx (w : DWord × DWord) : Nat := w.2.toNat / 2 ^ 56
def cellDly2 (w : DWord × DWord) : Nat := w.2.toNat / 2 ^ 52 % 16 + 1
def cellPrime2 (w : DWord × DWord) : Nat := w.2.toNat / 2 ^ 44 % 256

/-- Rows and columns apart, in sum (R175). -/
def cellDistance (a b : Nat) : Nat := (max (a / 8) (b / 8) - min (a / 8) (b / 8)) + (max (a % 8) (b % 8) - min (a % 8) (b % 8))

/-- A port source of cell c (R175, R196). -/
def portOk (c nreg : Nat) (p : Nat) : Bool :=
  p == 0xFF || (decide (p < 64) && decide (cellDistance c p ≤ 3)) || (decide (0x80 ≤ p) && decide (p < 0x80 + nreg))

/-- FUNC of a control instruction (R196): exit steer 0, loop counter 1, predicate combine 2, path merge 3, drain trigger 4. A forward
transfer inside the body becomes predication (R173), for which the table names no code: it takes 3 (DESIGN CHOICE, log entry 152). -/
def controlFunc (i : Instr) (t : Turns) : Nat :=
  match t with
  | .exit => 0
  | .skip _ => 3
  | .unmapped => 4
  | .close => match i with
    | .lpb _ _ _ => 1
    | .brd _ _ _ => 0
    | _ => 2
  | _ => 3

/-- Operation index of a memory instruction (R183). -/
def opIndex (body : List (Nat × Instr)) (k : Nat) : Nat := ((body.take k).filter (fun x => kindOf x.2 = 3)).length

/-- One cell record agrees with the body (R196, R198). -/
def cellOk (body : List (Nat × Instr)) (nreg : Nat) (c : Nat) (w : DWord × DWord) : Bool :=
  let kind := cellKind w
  let j := cellInstr w
  w.2.toNat % 2 ^ 44 == 0 && (cellPorts w).all (portOk c nreg) &&
  (kind == 0 || kind == listGet 0 canonicalKinds c) &&
  (if kind = 0 ∨ kind = 6 then
    j == 0xFF && cellOpIdx w == 0 && decide (cellFunc w ≤ 2) &&
    [cellPrime w, cellPrime2 w].all (fun p => p == 0xFF || decide (p < nreg))
  else
    match body[j]? with
    | none => false
    | some (_, i) =>
      (kindOf i == kind || (kindOf i == 2 && kind == 1)) &&
      (if kind = 5 then cellFunc w == controlFunc i ((bodyTurns body)[j]?.map (·.2) |>.getD .none) else cellFunc w == 0) &&
      cellOpIdx w == (if kind = 3 then opIndex body j else 0))

/-- A cell's output feeds at most four ports (R175). -/
def fanoutOk (cells : List (DWord × DWord)) (c : Nat) : Bool :=
  decide ((cells.flatMap (fun w => (cellPorts w).filter (· == c))).length ≤ 4)

-- Fields of a register-map entry (R196)
def mapClass (m : Word) : Nat := m.toNat / 2 ^ 30
def mapNum (m : Word) : Nat := m.toNat / 2 ^ 20 % 1024
def mapOk (kd : Kernel) (m : Word) : Bool :=
  m.toNat / 2 ^ 19 % 2 == 0 && m.toNat % 256 == 0 &&
  (match mapClass m with
   | 0 => decide (mapNum m < kd.regs)
   | 1 => decide (mapNum m < 16)
   | _ => decide (mapNum m < 128))

/-- A mapping of a body onto the canonical array (R172, R173, R175, R198): each instruction but `nop` in exactly one cell. -/
def mappingOk (kd : Kernel) (body : List (Nat × Instr)) (cells : List (DWord × DWord)) (regmap : List Word) : Bool :=
  bodyEligible body && cells.length == 64 && decide (1 ≤ regmap.length) && decide (regmap.length ≤ 48) && regmap.all (mapOk kd) &&
  cells.zipIdx.all (fun x => cellOk body regmap.length x.2 x.1) && (List.range 64).all (fanoutOk cells) &&
  (List.range body.length).all (fun j =>
    let n := (cells.filter (fun w => cellInstr w == j)).length
    match body[j]? with
    | some (_, .nop _) => n == 0
    | _ => n == 1)

/-- Keys of a register map (R196): vector registers, predicates from 1024 on, uniform registers from 2048 on, the counter from 4096 on. -/
def counterOf (body : List (Nat × Instr)) : Option Nat := match body.getLast? with | some (_, .lpb _ a _) => some a.toNat | _ => none
def mapKeys (body : List (Nat × Instr)) : List Nat :=
  (earlyReads body ++ bodyWrites body ++ (body.flatMap (fun x => uniformsOf x.2)).map (fun u => if counterOf body = some u then 4096 + u else 2048 + u)).eraseDups
def mapKey (m : Word) : Nat := match mapClass m with
  | 0 => mapNum m
  | 1 => 1024 + mapNum m
  | 2 => 2048 + mapNum m
  | _ => 4096 + mapNum m

/-- Index of the one cell that executes an instruction of a body, 64 if none does. -/
def cellOf (cells : List (DWord × DWord)) (j : Nat) : Nat := cells.findIdx (fun w => cellInstr w == j)

/-- The last instruction of a body that writes a register. -/
def lastWriter (body : List (Nat × Instr)) (r : Nat) : Option Nat := ((body.zipIdx.filter (fun x => (writesOf x.1.2).contains r)).getLast?).map (·.2)

/-- CARRY, WRITE, LIVEIN and CELL of a register-map entry say what the body does with the register (R172, R196). The `lpb` counter is read at
entry, carried and written, by its control cell. -/
def entryAgrees (body : List (Nat × Instr)) (cells : List (DWord × DWord)) (m : Word) : Bool :=
  let k := mapKey m
  let flags := fun (carry write livein : Bool) => m.getLsbD 18 == carry && m.getLsbD 17 == write && m.getLsbD 16 == livein
  let cell := m.toNat / 256 % 256
  if 4096 ≤ k then flags true true true && cell == cellOf cells (body.length - 1)
  else if 2048 ≤ k then flags false false true && cell == 0xFF
  else
    flags ((carried body).contains k) ((bodyWrites body).contains k) ((earlyReads body).contains k) &&
    (match lastWriter body k with | some j => cell == cellOf cells j | none => cell == 0xFF)

/-- The register-map entries that prime the delay lines of a cell (R178, R196). -/
def primesOf (w : DWord × DWord) : List Nat :=
  if cellKind w ≠ 6 then [] else match cellFunc w with
    | 1 => [cellPrime w]
    | 2 => [cellPrime w, cellPrime2 w]
    | _ => []

/-- Delay lines of the cells, as the register-map entries that prime them (R178, R196). -/
def linePrimes (cells : List (DWord × DWord)) : List Nat := cells.flatMap primesOf

/-- What stands at the far end of a connection (R175, R196): the cell of an instruction of the body, a register-map entry read at entry, or a delay line
that an entry primes. -/
inductive Brought where
  | result (j : Nat)
  | entry (e : Nat)
  | line (e : Nat)
  deriving DecidableEq, Repr

/-- What a connection from a port source brings: a route cell passes on what comes to its own ports. -/
def bringers (cells : List (DWord × DWord)) : Nat → Nat → List Brought
  | 0, _ => []
  | fuel + 1, p =>
    if 0x80 ≤ p then (if p = 0xFF then [] else [.entry (p - 0x80)])
    else match cells[p]? with
      | none => []
      | some w =>
        if cellKind w = 0 then []
        else if cellKind w ≠ 6 then [.result (cellInstr w)]
        else if (primesOf w).isEmpty then ((cellPorts w).filter (· ≠ 0xFF)).flatMap (bringers cells fuel)
        else (primesOf w).map (.line ·)

/-- A register-map entry is the one of a register, a key of `mapKey`. -/
def entryIs (regmap : List Word) (e r : Nat) : Bool := match regmap[e]? with | some m => mapKey m == r | none => false

/-- The connection from port source `p` brings register `r` to instruction `j` (R173, R175): from an instruction that may have written it last; or, where
its value at entry may stand, from its register-map entry, or from its delay line when it is loop-carried. -/
def brings (body : List (Nat × Instr)) (cells : List (DWord × DWord)) (regmap : List Word) (p j r : Nat) : Bool :=
  let old := reachesAt body r j
  let carry := decide (r < 2048) && (carried body).contains r
  (bringers cells 13 p).any fun x => match x with
    | .result k => old.2.contains k
    | .entry e => old.1 && !carry && entryIs regmap e r
    | .line e => old.1 && carry && entryIs regmap e r

/-- A delay line takes what the body leaves in its register (R178): a port of its cell is connected to an instruction that may have written it last, or to a
line of the same register. -/
def lineFed (body : List (Nat × Instr)) (cells : List (DWord × DWord)) (regmap : List Word) (w : DWord × DWord) : Bool :=
  (primesOf w).all (fun e => match regmap[e]? with
    | none => false
    | some m => ((cellPorts w).filter (· ≠ 0xFF)).any (fun p => brings body cells regmap p body.length (mapKey m)))

/-- The connection from port source `p` comes from a control cell, which guards the instruction (R173). -/
def steered (body : List (Nat × Instr)) (cells : List (DWord × DWord)) (p : Nat) : Bool :=
  (bringers cells 13 p).any fun x => match x with
    | .result j => match body[j]? with | some (_, i) => kindOf i == 5 | none => false
    | _ => false

/-- Registers that come to the ports of an instruction: its vector registers, a pair under its first register, its predicates and its uniform
registers. -/
def portRegs (body : List (Nat × Instr)) (i : Instr) : List Nat :=
  let r := readsOf i
  ((r.filter (fun k => !(decide (k < 1024) && k % 2 == 1 && r.contains (k - 1)))) ++
    (uniformsOf i).map (fun u => if counterOf body = some u then 4096 + u else 2048 + u)).eraseDups

/-- The ports of an instruction's cell carry the body's connections (R173, R175): each port in use brings a register that the instruction
reads, or what a control cell steers, and every register it reads comes to one, as far as four ports go (log entry 135). -/
def wired (body : List (Nat × Instr)) (cells : List (DWord × DWord)) (regmap : List Word) (w : DWord × DWord) : Bool :=
  match body[cellInstr w]? with
  | none => true
  | some (_, i) =>
    let need := portRegs body i
    let used := (cellPorts w).filter (· ≠ 0xFF)
    let j := cellInstr w
    used.all (fun p => steered body cells p || need.any (brings body cells regmap p j)) &&
    decide (min 4 need.length ≤ (need.filter (fun r => used.any (fun p => brings body cells regmap p j r))).length)

/-- What the placer writes (R173, R178, R196): a mapping whose register map holds exactly the registers of the body, described as the body uses
them, with the body's connections, and with one delay line for each loop-carried register, which takes what the body leaves in it. -/
def placedOk (kd : Kernel) (body : List (Nat × Instr)) (cells : List (DWord × DWord)) (regmap : List Word) : Bool :=
  cells.all (wired body cells regmap) && cells.all (lineFed body cells regmap) && mappingOk kd body cells regmap && regmap.length == (mapKeys body).length && (mapKeys body).all (fun k => regmap.any (fun m => mapKey m == k)) &&
  regmap.all (entryAgrees body cells) &&
  regmap.zipIdx.all (fun x => (linePrimes cells).count x.2 == if decide (mapKey x.1 < 2048) && (carried body).contains (mapKey x.1) then 1 else 0)

/-- Streams the array admits for a placement (R178): a quarter of the shortest delay line, or 16 without one. -/
def admits (sl : Slot) : Nat :=
  let ds := sl.cells.flatMap (fun w => if cellKind w = 6 then
    (if cellFunc w = 1 then [cellDly w] else if cellFunc w = 2 then [cellDly w, cellDly2 w] else []) else [])
  match ds with
  | [] => 16
  | d :: r => r.foldl min d / 4

/-- The body of a slot. -/
def slotBody (sl : Slot) : List (Nat × Instr) := decodeRun 112 0 sl.body

-- Images (R196)

/-- First eight bytes of the digest of a body's words. -/
def bodyDigest (ws : List DWord) : List Byte := (sha3 (ws.flatMap wordToBytes)).take 8

/-- The image of a placement. -/
def imageBytes (sl : Slot) : List Byte :=
  let body := slotBody sl
  let n := sl.regmap.length
  [0x43#8, 0x4C#8, 0x56#8, 0x31#8] ++ bytesLE 2 1 ++ bytesLE 2 (1056 + 4 * n) ++ bytesLE 4 sl.body.length ++ bytesLE 1 n ++
  bytesLE 1 (body.filter (fun x => kindOf x.2 = 3)).length ++ bytesLE 1 (carried body).length ++ [0] ++ bodyDigest sl.body ++
  copies 8 0 ++ sl.cells.flatMap (fun w => bytesLE 8 w.1.toNat ++ bytesLE 8 w.2.toNat) ++ sl.regmap.flatMap (fun m => bytesLE 4 m.toNat)

/-- Little-endian field of an image. -/
def imageField (b : List Byte) (off n : Nat) : Nat := natLE ((b.drop off).take n)

/-- Revalidate an image against a head (R198): the placement it holds, if it passes. The words are read by fetches on the
core. -/
def revalidate (s : State) (die core asid : Nat) (kd : Kernel) (head : DWord) (b : List Byte) : Option Slot :=
  let nreg := imageField b 0x0C 1
  let words := imageField b 0x08 4
  let ws := fetchRun s die core asid head words
  let body := decodeRun 112 0 ws
  let cells := (List.range 64).map (fun c => (BitVec.ofNat 64 (imageField b (0x20 + 16 * c) 8), BitVec.ofNat 64 (imageField b (0x28 + 16 * c) 8)))
  let regmap := (List.range nreg).map (fun k => BitVec.ofNat 32 (imageField b (0x420 + 4 * k) 4))
  if imageField b 0 4 == 0x31564C43 && imageField b 4 2 == 1 && imageField b 6 2 == 1056 + 4 * nreg &&
      decide (1056 + 4 * nreg ≤ b.length) && imageField b 0x0F 1 == 0 && imageField b 0x18 8 == 0 &&
      decide (1 ≤ words) && decide (words ≤ 112) && decide (1 ≤ nreg) && decide (nreg ≤ 48) &&
      ws.length == words && bodySize body == 8 * words && (b.drop 0x10).take 8 == bodyDigest ws &&
      imageField b 0x0D 1 == (body.filter (fun x => kindOf x.2 = 3)).length && imageField b 0x0E 1 == (carried body).length &&
      inCodeRange kd head && mappingOk kd body cells regmap then
    some ⟨head, asid, ws, cells, regmap, true, true, s.seq⟩
  else none

/-- Put a placement into a slot (R194): the slot of its key, a free slot, else the least recently entered one that is not
in the active plane; none when no slot qualifies. -/
def placeSlot (c : Core) (sl : Slot) : Option Core :=
  let keyed := fun (x : Option Slot) => match x with | some y => y.head == sl.head && y.asid == sl.asid | none => false
  let inPlane := fun (y : Slot) => match c.plane with | some z => z.head == y.head && z.asid == y.asid | none => false
  let idx :=
    match c.slots.findIdx? keyed with
    | some i => some i
    | none =>
      match c.slots.findIdx? (fun (x : Option Slot) => x.isNone) with
      | some i => some i
      | none =>
        let cand : List (Nat × Nat) := c.slots.zipIdx.filterMap (fun (x : Option Slot × Nat) => match x.1 with | some y => if inPlane y then none else some (y.used, x.2) | none => none)
        match cand with
        | [] => none
        | e :: r => some (r.foldl (fun (b x : Nat × Nat) => if x.1 < b.1 then x else b) e).2
  idx.map (fun i => { c with slots := listSet c.slots i (some sl) })

end Sys2Proof.Machine
end

