-- ==== Sys2Proof/Machine/Copy.lean ====
section
/-! DEFINITION. Tokens and the copy engine: asynchronous commands at issue (R328 to R333), their elements (R334 to R338), `flsig`
(R339, R350), `tload` (R340), `twait` and `tpoll` (R341, R342). -/

namespace Sys2Proof.Machine

-- Codes of R338
def ceDESC : Nat := 1
def cePAGE : Nat := 2
def cePROT : Nat := 3
def cePOISON : Nat := 4
def ceSCRATCH : Nat := 5
def ceCAPACITY : Nat := 6
def ceTABLE : Nat := 7
def ceLOST : Nat := 8
def ceREMOTE : Nat := 9

def tokenOf (g : Gang) (k : Nat) : Token := listGet Token.reset g.tokens k
def putToken (g : Gang) (k : Nat) (t : Token) : Gang := { g with tokens := listSet g.tokens k t }

/-- ENGINE for a token in FAULT (R338). -/
def engineTrap (p : Path) (t : Token) : TrapInfo := ⟨cENGINE, p.pc, t.addr, t.lanes, t.info⟩

/-- A token becomes FREE (R329). -/
def freeToken (g : Gang) (k : Nat) : Gang := putToken g k Token.reset

/-- The frame of majors 0xB0 and 0xB1 (R328): the guard once, the token below `.tokens` (R63). -/
def tokenFrame (i : Instr) (gd : Guard) (toks : List Nat) (s : State) (k : Nat → Gang → Path → Out) : Out :=
  issueChecked i [] (fun kd => toks.all (fun t => decide (t < kd.tokens))) s fun gi g p =>
    if guardLanes g p gd = 0 then finish s gi g p 16 (.ok g) else k gi g p

/-- The descriptor at a local address (R331). -/
def readDesc (m : List Host.Cell) (a : Nat) : CopyDesc where
  src := BitVec.ofNat 64 (localNat m a 8)
  dst := BitVec.ofNat 64 (localNat m (a + 8) 8)
  ctl := BitVec.ofNat 32 (localNat m (a + 16) 4)
  n0 := localNat m (a + 20) 4
  n1 := localNat m (a + 24) 4
  n2 := localNat m (a + 28) 4
  ss1 := BitVec.ofNat 64 (localNat m (a + 32) 8)
  ss2 := BitVec.ofNat 64 (localNat m (a + 40) 8)
  ds1 := BitVec.ofNat 64 (localNat m (a + 48) 8)
  ds2 := BitVec.ofNat 64 (localNat m (a + 56) 8)

def noDesc : CopyDesc := ⟨0, 0, 0, 0, 0, 0, 0, 0, 0, 0⟩

/-- A command as it enters the queue. -/
def newCmd (s : State) (gi : Nat) (g : Gang) (p : Path) (i : Instr) (tok : Nat) (off : DWord) (idx : Nat) (d : CopyDesc) : CopyCmd where
  id := s.fresh
  gang := gi
  asid := g.kd.asid
  instr := i
  tok := tok
  pc := p.pc
  off := off
  idxOff := idx
  round := g.round
  desc := d
  base := areaBase g
  limit := g.kd.scratch
  active := false
  started := false
  before := (g.outst.filter (fun o => !o.bulk)).map (·.tag)
  oxBefore := ((s.coreAt g.die g.core).oxq.filter (fun e => e.gang == gi && (writtenExtent e).isSome)).map (·.id)
  n := 0
  rn := 0
  stage := []
  reads := []
  writes := []
  hostWrites := []
  zero := none
  zw := 0
  xc := Xc.empty
  park := none
  fault := none
  covers := []
  bulk := []
  asked := false
  replies := []
  cv := []

/-- The gang's cohort has been named for pre-emption: it gives no more commands to the copy engine (R381 step 1), so that its context keeps the size for
which the request has kept a place (R442). -/
def isLeaving (s : State) (g : Gang) : Bool := (s.cohort g.cohort).any (·.asked)

/-- Issue a command (R330): the token rules, then `chk`, then a free entry of the queue (R215). The lines that another path's access has still to send
are sent first: they are earlier writes of the gang (R336, R349). -/
def issueCmd (i : Instr) (gd : Guard) (tok : BitVec 4) (more : List Nat) (minor : Nat) (s : State)
    (chk : Gang → Path → Option TrapInfo) (mk : Nat → Gang → Path → CopyCmd) : Out :=
  tokenFrame i gd (tok.toNat :: more) s fun gi g p =>
    let t := tokenOf g tok.toNat
    match t.st with
    | .busy => .next s
    | .fault => .next (s.trap gi (freeToken g tok.toNat) p (engineTrap p t))
    | _ =>
      match chk g p with
      | some tr => .next (s.trap gi g p tr)
      | none =>
        let c := s.coreAt g.die g.core
        if 16 ≤ c.copyq.length || isLeaving s g || otherOp g p.id (fun o => !o.unsent.isEmpty) then .next s
        else
          let cmd := mk gi g p
          let s1 : State := { s with fresh := s.fresh + 1 }
          let g1 := putToken g tok.toNat { Token.reset with st := .busy, cmd := minor, id := cmd.id, pc := p.pc }
          .next ((s1.putCore g.die g.core { c with copyq := c.copyq ++ [cmd] }).putGang gi (advance g1 p.id 16 s.seq))

/-- Steps 3 to 5 of R330 for a descriptor at `off`. -/
def descTrap (s : State) (g : Gang) (p : Path) (off : Nat) : Option TrapInfo :=
  if off % 64 ≠ 0 then some (trapAll p cALIGN (BitVec.ofNat 64 off) 0)
  else if g.kd.scratch < off + 64 then some (trapAll p cPROT (BitVec.ofNat 64 off) (pageInfo 5 7))
  else
    let a := areaBase g + off
    match (s.coreAt g.die g.core).mpoison.find? (fun w => decide (a ≤ 8 * w) && decide (8 * w < a + 64)) with
    | some w => some (trapAll p cPOISON (BitVec.ofNat 64 (8 * w - areaBase g)) (poisonInfo 2))
    | none => none

/-- A command with a descriptor and, for `cpg` and `cps`, an index array (R328, R330). Where both offsets are misaligned, ALIGN names the
descriptor's (DESIGN CHOICE, log entry 148); the descriptor is read as it stands, also when an older Ox instruction has still to write those bytes
(DESIGN CHOICE, log entry 149). -/
def issueCopy (i : Instr) (gd : Guard) (a : Field10) (b : Option Field10) (tok : BitVec 4) (minor : Nat) (s : State) : Out :=
  issueCmd i gd tok [] minor s
    (fun g p =>
      let off := (getS g a.toNat).toNat
      match b with
      | some r =>
        let idx := (getS g r.toNat).toNat
        if off % 64 = 0 ∧ idx % 4 ≠ 0 then some (trapAll p cALIGN (BitVec.ofNat 64 idx) 0) else descTrap s g p off
      | none => descTrap s g p off)
    (fun gi g p =>
      let off := (getS g a.toNat).toNat
      newCmd s gi g p i tok.toNat (BitVec.ofNat 64 off) ((b.map (fun r => (getS g r.toNat).toNat)).getD 0)
        (readDesc (s.coreAt g.die g.core).mem (areaBase g + off)))

/-- `cp` (R328 to R334). -/
def execCp (gd : Guard) (a : Field10) (tok : BitVec 4) (s : State) : Out := issueCopy (.cp gd a tok) gd a none tok 0 s

/-- `cpx` (R328 to R334). -/
def execCpx (gd : Guard) (a : Field10) (tok : BitVec 4) (s : State) : Out := issueCopy (.cpx gd a tok) gd a none tok 2 s

/-- `cpz` (R328 to R335). -/
def execCpz (gd : Guard) (a : Field10) (tok : BitVec 4) (s : State) : Out := issueCopy (.cpz gd a tok) gd a none tok 1 s

/-- `cpg` (R328 to R334). -/
def execCpg (gd : Guard) (a b : Field10) (tok : BitVec 4) (s : State) : Out := issueCopy (.cpg gd a b tok) gd a (some b) tok 3 s

/-- `cps` (R328 to R334). -/
def execCps (gd : Guard) (a b : Field10) (tok : BitVec 4) (s : State) : Out := issueCopy (.cps gd a b tok) gd a (some b) tok 4 s

/-- A command of major 0xB0 that `flsig` is. -/
def isFlsig : Instr → Bool
  | .flsig _ _ _ _ _ => true
  | _ => false

def isTload : Instr → Bool
  | .tload _ _ _ _ => true
  | _ => false

/-- `flsig` (R339): the commands and bulk stores it covers are those of the gang so far, or the one that a token names. -/
def execFlsig (gd : Guard) (sc : Scope) (named : Bool) (tok tok2 : BitVec 4) (s : State) : Out :=
  issueCmd (.flsig gd sc named tok tok2) gd tok (if named then [tok2.toNat] else []) 5 s (fun _ _ => none) fun gi g p =>
    let q := (s.coreAt g.die g.core).copyq
    let c := newCmd s gi g p (.flsig gd sc named tok tok2) tok.toNat 0 0 noDesc
    if named then
      let t := tokenOf g tok2.toNat
      { c with covers := if t.st = .busy then [t.id] else [], hostWrites := t.host }
    else
      { c with
        covers := (q.filter (fun x => x.gang == gi && !isFlsig x.instr && !isTload x.instr)).map (·.id)
        bulk := (g.outst.filter (·.bulk)).map (·.tag)
        hostWrites := g.engineHost }

/-- `tload` (R328, R330, R340). -/
def execTload (gd : Guard) (loc : Bool) (a : Field10) (tok : BitVec 4) (s : State) : Out :=
  let at_ := fun (g : Gang) => if loc then (getS g a.toNat).setWidth 64 else getSS g a.toNat
  issueCmd (.tload gd loc a tok) gd tok [] 6 s
    (fun g p =>
      if (at_ g).toNat % 64 ≠ 0 then some (trapAll p cALIGN (at_ g) 0)
      else if loc ∧ g.kd.scratch < (at_ g).toNat + 4096 then some (trapAll p cPROT (at_ g) (pageInfo 5 7))
      else none)
    (fun gi g p => newCmd s gi g p (.tload gd loc a tok) tok.toNat (at_ g) 0 noDesc)

/-- `twait` (R341): TOKEN, ENGINE, wait, or the acquire actions. -/
def execTwait (gd : Guard) (tok : BitVec 4) (s : State) : Out :=
  tokenFrame (.twait gd tok) gd [tok.toNat] s fun gi g p =>
    let t := tokenOf g tok.toNat
    match t.st with
    | .free => .next (s.trap gi g p (trapAll p cTOKEN 0 (tok.setWidth 32)))
    | .fault => .next (s.trap gi (freeToken g tok.toNat) p (engineTrap p t))
    | .busy => .next (s.putGang gi (holdPath g p.id 0 (.twait tok.toNat) s.seq))
    | .done =>
      let s1 := s.putGang gi (advance (freeToken g tok.toNat) p.id 16 s.seq)
      let s2 := if t.cmd = 6 then s1 else flashL1 s1 g.die g.core
      if t.cmd = 5 then
        let c := s2.coreAt g.die g.core
        .next (s2.putCore g.die g.core { c with cv := mergeCV c.cv t.cv })
      else .next s2

/-- State code of a token (R329). -/
def tokCode : TokSt → Word
  | .free => 0
  | .busy => 1
  | .done => 2
  | .fault => 3

/-- `tpoll` (R342). -/
def execTpoll (gd : Guard) (d : Field10) (tok : BitVec 4) (s : State) : Out :=
  tokenFrame (.tpoll gd d tok) gd [tok.toNat] s fun gi g p =>
    finish s gi g p 16 (.ok (setS g d.toNat (tokCode (tokenOf g tok.toNat).st)))

-- Descriptors

def ctlOri (c : Word) : Bool := c.getLsbD 23
def ctlRnd (c : Word) : Nat := c.toNat / 2 ^ 20 % 8
def ctlDty (c : Word) : Nat := c.toNat / 2 ^ 16 % 16
def ctlSty (c : Word) : Nat := c.toNat / 2 ^ 12 % 16
def ctlEsz (c : Word) : Nat := c.toNat / 2 ^ 8 % 8
def ctlDsp (c : Word) : Nat := c.toNat / 4 % 4
def ctlSsp (c : Word) : Nat := c.toNat % 4

/-- Type of a code (R60). -/
def tyOfCode (n : Nat) : Ty :=
  listGet .b64 [.i32, .s32, .z32, .s16, .z16, .s8, .z8, .s4, .z4, .b32, .b64, .f32, .f16, .bf16, .f8a, .f8b] n

/-- Types that `cpx` converts (R333), with their sizes in bytes; 0 for another. -/
def cpxSize : Ty → Nat
  | .s32 | .z32 | .f32 => 4
  | .s16 | .z16 | .f16 | .bf16 => 2
  | .s8 | .z8 | .f8a | .f8b => 1
  | _ => 0

/-- Types that `cpz` reads (R333), with their bits; 0 for another. -/
def cpzBits : Ty → Nat
  | .s16 | .z16 | .f16 | .bf16 => 16
  | .s8 | .z8 | .f8a | .f8b => 8
  | .s4 | .z4 => 4
  | _ => 0

/-- Source and destination element sizes in bytes (R333, R334). The elements of a `tload` are its 64 lines, by which a fault counts (DESIGN CHOICE, log
entry 155). For a 4-bit element of a `cpz` the byte that holds it is staged (DESIGN CHOICE, log entry 167). -/
def elemSizes (c : CopyCmd) : Nat × Nat :=
  let k := c.desc.ctl
  match c.instr with
  | .cpx _ _ _ => (cpxSize (tyOfCode (ctlSty k)), cpxSize (tyOfCode (ctlDty k)))
  | .cpz _ _ _ => (max 1 (cpzBits (tyOfCode (ctlSty k)) / 8), 4)
  | .tload _ _ _ _ => (64, 64)
  | _ => (2 ^ ctlEsz k, 2 ^ ctlEsz k)

/-- Elements of a command. -/
def elemCount (c : CopyCmd) : Nat :=
  match c.instr with
  | .cpz _ _ _ => c.desc.n0 * c.desc.n1
  | .tload _ _ _ _ => 64
  | .flsig _ _ _ _ _ => 0
  | _ => c.desc.n0 * c.desc.n1 * c.desc.n2

/-- R333: the descriptor is refused. -/
def descRefused (c : CopyCmd) : Bool :=
  let d := c.desc
  let k := d.ctl
  let (es, ed) := elemSizes c
  let common :=
    k &&& 0xFF0008F0 != 0 || decide (1 < ctlSsp k) || decide (1 < ctlDsp k) ||
    d.n0 == 0 || decide (2 ^ 20 < d.n0) || d.n1 == 0 || decide (2 ^ 16 < d.n1) || d.n2 == 0 || decide (2 ^ 16 < d.n2) ||
    (ctlSsp k == 1 && d.src.toNat / 2 ^ 32 != 0) || (ctlDsp k == 1 && d.dst.toNat / 2 ^ 32 != 0)
  let off := fun (x : DWord) (n : Nat) => x.toNat % n != 0
  let plain := ctlOri k || ctlRnd k != 0 || ctlDty k != 0 || ctlSty k != 0 || decide (4 < ctlEsz k)
  let aligned := off d.src es || off d.ss1 es || off d.ss2 es || off d.dst ed || off d.ds1 ed || off d.ds2 ed
  match c.instr with
  | .cpx _ _ _ => common || ctlOri k || ctlEsz k != 0 || decide (5 < ctlRnd k) || es == 0 || ed == 0 || aligned
  | .cpz _ _ _ =>
    let bits := cpzBits (tyOfCode (ctlSty k))
    common || ctlRnd k != 0 || ctlDty k != 0 || ctlEsz k != 0 || ctlDsp k != 1 || d.n2 != 1 || decide (4096 < d.n0) ||
    decide (4096 < d.n1) || bits == 0 || (bits == 4 && d.n0 % 2 != 0) || d.ss2 != 0 || d.ds2 != 0 ||
    off d.dst 4 || off d.ds1 4 || off d.src es || off d.ss1 es
  | .cpg _ _ _ _ => common || plain || d.ss1 != 0 || d.ss2 != 0 || aligned
  | .cps _ _ _ _ => common || plain || d.ds1 != 0 || d.ds2 != 0 || aligned
  | .cp _ _ _ => common || plain || aligned
  | _ => false

-- Elements

/-- Loop counters of element n (R334); a `cpz` of columns counts the rows of a column first (R335). -/
def elemIjk (c : CopyCmd) (n : Nat) : Nat × Nat × Nat :=
  match c.instr with
  | .cpz _ _ _ => if ctlOri c.desc.ctl then (n / c.desc.n1, n % c.desc.n1, 0) else (n % c.desc.n0, n / c.desc.n0 % c.desc.n1, n / (c.desc.n0 * c.desc.n1))
  | _ => (n % c.desc.n0, n / c.desc.n0 % c.desc.n1, n / (c.desc.n0 * c.desc.n1))

/-- Row and column of element n of a `cpz`, in the order its groups are formed (R335). -/
def cpzRc (c : CopyCmd) (n : Nat) : Nat × Nat :=
  if ctlOri c.desc.ctl then (n % c.desc.n1, n / c.desc.n1) else (n / c.desc.n0, n % c.desc.n0)

def nat64 (n : Nat) : DWord := BitVec.ofNat 64 n

/-- Source address of element n (R334, R335, R340). -/
def elemSrc (c : CopyCmd) (n idx : Nat) : DWord :=
  let d := c.desc
  let (i0, i1, i2) := elemIjk c n
  match c.instr with
  | .cpg _ _ _ _ => d.src + nat64 (idx * (elemSizes c).1)
  | .cpz _ _ _ =>
    let (r, col) := cpzRc c n
    d.src + nat64 r * d.ss1 + nat64 (col * cpzBits (tyOfCode (ctlSty d.ctl)) / 8)
  | .tload _ _ _ _ => c.off + nat64 (64 * n)
  | _ => d.src + nat64 i2 * d.ss2 + nat64 i1 * d.ss1 + nat64 (i0 * (elemSizes c).1)

/-- Destination address of element n (R334). -/
def elemDst (c : CopyCmd) (n idx : Nat) : DWord :=
  let d := c.desc
  let (i0, i1, i2) := elemIjk c n
  match c.instr with
  | .cps _ _ _ _ => d.dst + nat64 (idx * (elemSizes c).2)
  | _ => d.dst + nat64 i2 * d.ds2 + nat64 i1 * d.ds1 + nat64 (i0 * (elemSizes c).2)

/-- The source lies in scratch. -/
def srcLocal (c : CopyCmd) : Bool :=
  match c.instr with
  | .tload _ loc _ _ => loc
  | _ => ctlSsp c.desc.ctl == 1

/-- A scratch access of a command: outside the area SCRATCH, poisoned POISON (R337). -/
def cmdLocal (c : CopyCmd) (co : Core) (a : DWord) (n : Nat) (read : Bool) : Option (Nat × DWord) :=
  if c.limit < a.toNat + n then some (ceSCRATCH, a)
  else if read && poisonedAt co.mpoison (c.base + a.toNat) n then some (cePOISON, a)
  else none

/-- Rounding of `cpx` (R332): RND, or ROUND.MODE at issue. -/
def cpxMode (c : CopyCmd) : RMode := roundMode (if ctlRnd c.desc.ctl = 0 then c.round else BitVec.ofNat 32 (ctlRnd c.desc.ctl - 1))

/-- What an element writes from what it read (R334): `cpx` converts, setting no flag. -/
def elemOut (c : CopyCmd) (data : List Byte) : List Byte :=
  match c.instr with
  | .cpx _ _ _ =>
    match numTy (tyOfCode (ctlSty c.desc.ctl)), numTy (tyOfCode (ctlDty c.desc.ctl)) with
    | some a, some b => bytesLE (elemSizes c).2 (convert a b (cpxMode c) false (natLE data)).1
    | _, _ => data
  | _ => data

/-- Commands of a core by id. -/
def findCmd (co : Core) (id : Nat) : Option CopyCmd := co.copyq.find? (fun c => c.id == id)
def mapCmd (co : Core) (id : Nat) (f : CopyCmd → CopyCmd) : Core := { co with copyq := co.copyq.map (fun c => if c.id = id then f c else c) }
def State.putCmd (s : State) (k : Nat) (c : CopyCmd) : State :=
  s.putCore (keyDie k) (keyCore k) (mapCmd (s.coreAt (keyDie k) (keyCore k)) c.id (fun _ => c))

/-- A fault at element n ends a command; of two the one of the lower element counts (R337, R338). -/
def failCmd (c : CopyCmd) (code : Nat) (a : DWord) (n : Nat) : CopyCmd :=
  let first := match c.fault with | some (_, _, m) => decide (n < m) | none => true
  { c with fault := if first then some (code, a, n) else c.fault, stage := [] }

/-- A `tload` may not read an executable or locked page (R27, R236). -/
def tloadBars (s : State) (c : CopyCmd) (place : Nat) (xl : Xl) : Bool :=
  isTload c.instr && (match xl with | .leaf _ e _ => pteX e || s.locked.contains (place / 4096) | _ => false)

/-- What a command finds when it translates one address (R336, R337). -/
inductive CmdXl where
  | ok (place : Nat) (xl : Xl)
  | wait
  | fault (code : Nat)
  | park (pri : Bool) (level : Nat)
  deriving DecidableEq, Repr

/-- Translate an address for a command. -/
def cmdTranslate (s : State) (k : Nat) (c : CopyCmd) (rd wr : Bool) (va : DWord) : CmdXl × CopyCmd × State :=
  if !canonical va then (.fault cePROT, c, s)
  else
    let (x, s1) := lookPage (keyDie k) (keyCore k) c.asid (c.xc, s) (pageOf va)
    let c1 := { c with xc := x }
    match look x.got (pageOf va) with
    | none => (.wait, c1, s1)
    | some r =>
      match judge s1 rd wr r with
      | none => (if tloadBars s1 c (placeOf s1 va r) r then .fault cePROT else .ok (placeOf s1 va r) r, c1, s1)
      | some (.prot _ _) => (.fault (match r with | .remote _ _ => ceREMOTE | _ => cePROT), c1, s1)
      | some (.poison source) => (.fault (match r with | .remote _ _ => ceREMOTE | _ => if source = 5 then ceLOST else cePOISON), c1, s1)
      | some (.park pri level) => (.park pri level, c1, s1)
      | some .wait => (.wait, c1, s1)

/-- Park a command on a page (R336): the record names its gang. `n` is the element concerned. -/
def parkCmd (s : State) (k : Nat) (c : CopyCmd) (n : Nat) (va : DWord) (pri : Bool) (level : Nat) : State :=
  let p : Park := ⟨pageOf va, pri, level, nat64 n, va, none, none⟩
  let (q, l, gid) := match s.gang c.gang with
    | some g => ((launchOf s g).1, (launchOf s g).2, g.gangid)
    | none => (0, 0, 0)
  let r := askPage s c.asid q l (keyDie k) (keyCore k) gid p
  r.2.putCmd k { c with park := some r.1, xc := { c.xc with got := forget c.xc.got (pageOf va) } }

/-- Read element `rn` into staging (R334, R336): from scratch at once, from global memory through an engine read.
R229 names no home for an engine read of a duplex page: it goes to the nearer one, as a load does (DESIGN CHOICE, log entry 166). -/
def readElement (s : State) (k : Nat) (c : CopyCmd) : State :=
  let co := s.coreAt (keyDie k) (keyCore k)
  let n := c.rn
  let es := (elemSizes c).1
  let indexed := match c.instr with | .cpg _ _ _ _ | .cps _ _ _ _ => true | _ => false
  let idxA : DWord := nat64 (c.idxOff + 4 * n)
  let put := fun (s : State) (c : CopyCmd) (x : Staged) => s.putCmd k { c with rn := n + 1, stage := c.stage ++ [(n, x)] }
  match if indexed then cmdLocal c co idxA 4 true else none with
  | some (code, a) => put s c (.fault code a)
  | none =>
    let idx := if indexed then localNat co.mem (c.base + c.idxOff + 4 * n) 4 else 0
    let a := elemSrc c n idx
    if srcLocal c then
      match cmdLocal c co a es true with
      | some (code, x) => put s c (.fault code x)
      | none => put s c (.bytes (localBytes co.mem (c.base + a.toNat) es) idx)
    else
      match cmdTranslate s k c true false a with
      | (.wait, c1, s1) => s1.putCmd k c1
      | (.fault code, c1, s1) => put s1 c1 (.fault code a)
      | (.park pri level, c1, s1) => parkCmd s1 k c1 n a pri level
      | (.ok place xl, c1, s1) =>
        let t := targetOf s1 (keyDie k) true place xl
        if t.remote then
          put s1 c1 (.bytes (placeBytes s1 place es) idx)
        else match t.dst with
          | none => put s1 c1 (.fault ceLOST a)
          | some d =>
            let r := sendPlain s1 (.engineRead (keyDie k) (keyCore k) c.id (place % 64))
              { blankPacket s1 .engineRead (keyDie k) d with asid := c.asid, addr := t.addr, dup := t.dup, partner := t.partner }
            r.2.putCmd k { c1 with rn := n + 1, reads := c1.reads ++ [(r.1, n, a)] }

/-- Write a command's bytes into scratch; a fault leaves everything. -/
def cmdStore (s : State) (k : Nat) (c : CopyCmd) (a : DWord) (b : List Byte) : Option (Nat × DWord) × State :=
  let co := s.coreAt (keyDie k) (keyCore k)
  match cmdLocal c co a b.length false with
  | some f => (some f, s)
  | none => (none, s.putCore (keyDie k) (keyCore k) (storeLocal co (imageOf (c.base + a.toNat) b)))

/-- Words that element n of a `cpz` writes, each with the number of elements consumed when it does not fit (R335). -/
def cpzWords (c : CopyCmd) (n : Nat) (data : List Byte) : List (Nat × Nat) :=
  let ty := tyOfCode (ctlSty c.desc.ctl)
  let (r, col) := cpzRc c n
  let bits := cpzBits ty
  let code := if bits = 4 then natLE data / 16 ^ (col % 2) % 16 else natLE data
  let zero := match ty with | .f16 | .bf16 => code % 2 ^ 15 == 0 | _ => code == 0
  let ori := ctlOri c.desc.ctl
  let ends := if ori then r + 1 == c.desc.n1 else col + 1 == c.desc.n0
  (if zero then [] else [((if ori then r else col) * 2 ^ 16 + code, n)]) ++
  (if ends then [(0xFFFF0000, n + 1)] else []) ++
  (if n + 1 = c.desc.n0 * c.desc.n1 then [(0xFFFE0000, n + 1)] else [])

/-- Write the words of a `cpz` one after another (R335). -/
def cpzStore (k : Nat) : List (Nat × Nat) → State → CopyCmd → State × CopyCmd
  | [], s, c => (s, c)
  | (w, cnt) :: r, s, c =>
    if c.desc.ds1.toNat < 4 * (c.zw + 1) then (s, failCmd c ceCAPACITY (c.desc.dst + c.desc.ds1) cnt)
    else
      match cmdStore s k c (c.desc.dst + nat64 (4 * c.zw)) (bytesLE 4 w) with
      | (some (code, a), s1) => (s1, failCmd c code a cnt)
      | (none, s1) => cpzStore k r s1 { c with zw := c.zw + 1 }

/-- Write the element at the head of a command (R334, R336, R337, R340). A `.g` write waits until the one before it is delivered, so that no element
after one that is refused or lost is written (R337; log entry 119). -/
def writeElement (s : State) (k : Nat) (c : CopyCmd) (data : List Byte) (idx : Nat) : State :=
  let n := c.n
  let c1 := { c with n := n + 1, stage := c.stage.filter (fun e => e.1 ≠ n) }
  let out := elemOut c data
  let a := elemDst c n idx
  match c.instr with
  | .tload _ _ _ _ =>
    let co := s.coreAt (keyDie k) (keyCore k)
    (s.putCore (keyDie k) (keyCore k) (storeLocal co (imageOf (tableAddr (1 - co.bank) 0 + 64 * n) data))).putCmd k c1
  | .cpz _ _ _ =>
    let r := cpzStore k (cpzWords c n data) s c1
    r.1.putCmd k r.2
  | _ =>
    if ctlDsp c.desc.ctl = 1 then
      match cmdStore s k c a out with
      | (some (code, x), s1) => s1.putCmd k (failCmd c code x n)
      | (none, s1) => s1.putCmd k c1
    else if !c.writes.isEmpty then s
    else
      match cmdTranslate s k c false true a with
      | (.wait, c2, s1) => s1.putCmd k c2
      | (.fault code, c2, s1) => s1.putCmd k (failCmd c2 code a n)
      | (.park pri level, c2, s1) => parkCmd s1 k c2 n a pri level
      | (.ok place xl, c2, s1) =>
        let t := targetOf s1 (keyDie k) false place xl
        let c3 := { c2 with n := n + 1, stage := c2.stage.filter (fun e => e.1 ≠ n) }
        let img := copies (place % 64) 0 ++ out
        let line := img ++ copies (64 - img.length) 0
        let ben : LaneMask := BitVec.ofNat 64 ((2 ^ out.length - 1) * 2 ^ (place % 64))
        if t.remote then
          let s2 : State := { s1 with freeCtr := s1.freeCtr + 1 }
          if remoteBars s1 (place / 64) then
            { s2 with fresh := s2.fresh + 1, refusedHost := s2.refusedHost ++ [s2.fresh] }.putCmd k { c3 with hostWrites := c3.hostWrites ++ [(s2.fresh, a)] }
          else (putBytes s2 (imageOf place out)).putCmd k c3
        else match t.dst with
          | none => s1.putCmd k (failCmd c2 ceLOST a n)
          | some d =>
            let r := sendPlain s1 (.engineWrite (keyDie k) (keyCore k) c.id)
              { blankPacket s1 .bulkWrite (keyDie k) d with asid := c.asid, addr := t.addr, dup := t.dup, ben := ben, data := line }
            r.2.putCmd k { c3 with writes := c3.writes ++ [(r.1, n, a)], hostWrites := if d = 16 then c3.hostWrites ++ [(r.1, a)] else c3.hostWrites }

/-- A command of a cohort that is being saved stands still (R343, R380). -/
def cmdMoves (s : State) (c : CopyCmd) : Bool :=
  match s.gang c.gang with
  | none => true
  | some g => match s.cohort g.cohort with
    | none => true
    | some h => !h.stopping || (match look s.grids h.grid with | some gr => gr.failed | none => true) || c.fault.isSome

/-- COPY_ELEMENT (R334 to R337, R343): a parked command whose page has its answer goes on; the element at the head is written
when it is staged; otherwise the next element is read, within 256 bytes of staging. -/
def execCopyElement (core cmd : Nat) (s : State) : Out :=
  match findCmd (s.coreAt (keyDie core) (keyCore core)) cmd with
  | none => .next s
  | some c =>
    if !c.active || !c.started || c.fault.isSome || !cmdMoves s c then .next s
    else
      match c.park with
      | some p =>
        match p.answer with
        | none => .next s
        | some true => .next (s.putCmd core { c with park := none })
        | some false =>
          let n := p.lanes.toNat
          if c.stage.any (fun e => e.1 == n) then .next (s.putCmd core (failCmd { c with park := none } cePAGE p.addr n))
          else .next (s.putCmd core { c with park := none, rn := n + 1, stage := c.stage ++ [(n, .fault cePAGE p.addr)] })
      | none =>
        match look c.stage c.n with
        | some (.bytes data idx) => .next (writeElement s core c data idx)
        | some (.fault code a) => .next (s.putCmd core (failCmd c code a c.n))
        | none => if c.rn < elemCount c ∧ c.rn < c.n + max 1 (256 / (elemSizes c).1) then .next (readElement s core c) else .next s

/-- Accesses before the first are over (R336, R346). -/
def mayStart (s : State) (k : Nat) (c : CopyCmd) : Bool :=
  c.before.all (fun t => !s.reqs.any (fun r => r.tag == t)) &&
  c.oxBefore.all (fun i => !(s.coreAt (keyDie k) (keyCore k)).oxq.any (fun e => e.id == i)) &&
  (!isTload c.instr || !((s.coreAt (keyDie k) (keyCore k)).copyq.takeWhile (fun x => x.id ≠ c.id)).any (fun x => isTload x.instr))

/-- The homes of the package that still answer (R339, R350). -/
def liveHomes (s : State) : List Nat := ([8, 9, 10, 11, 12, 13, 14, 15].filter (homeServes s)) ++ [16]

/-- Send the flush markers of a `flsig` (R350). -/
def sendMarkers (s : State) (k : Nat) (c : CopyCmd) : State :=
  let hs := liveHomes s
  let s1 := hs.foldl (fun acc h => (sendPlain acc (.flush (keyDie k) (keyCore k) c.id) (blankPacket acc .flushMarker (keyDie k) h)).2) s
  s1.putCmd k { c with asked := true, replies := hs }

/-- COPY_CMD_START (R333, R336, R339, R340, R346): commands start in queue order with at most four in flight; the first
access waits for the gang's earlier writes; a refused descriptor or a cohort without the table faults here; a `flsig` asks
every home once what it covers is done. -/
def execCopyCmdStart (core cmd : Nat) (s : State) : Out :=
  let co := s.coreAt (keyDie core) (keyCore core)
  match findCmd co cmd with
  | none => .next s
  | some c =>
    if !cmdMoves s c then .next s
    else if !c.active then
      if (co.copyq.filter (·.active)).length < 4 ∧ (co.copyq.takeWhile (fun x => x.id ≠ cmd)).all (·.active) then
        .next (s.putCmd core { c with active := true })
      else .next s
    else if isFlsig c.instr then
      if !c.asked && c.fault.isNone && c.covers.all (fun i => (findCmd co i).isNone) then .next (sendMarkers s core { c with started := true })
      else .next s
    else if c.started || !mayStart s core c then .next s
    else
      let c1 := { c with started := true }
      let owner := match s.gang c.gang with | some g => co.tableOwner == some g.cohort | none => false
      if isTload c.instr && !owner then .next (s.putCmd core (failCmd c1 ceTABLE c.off 0))
      else if descRefused c then .next (s.putCmd core (failCmd c1 ceDESC c.off 0))
      else .next (s.putCmd core c1)

/-- Writes to host memory or to another package that a command made (R339). -/
def madeHost (c : CopyCmd) : List (Nat × DWord) := if isFlsig c.instr then [] else c.hostWrites

/-- A command ends: its token becomes DONE or FAULT, and the paths that wait on the token go on (R329, R337, R341). A fault
of a gang that has ended goes to the supervisor (R122). -/
def settleCmd (s : State) (k : Nat) (c : CopyCmd) : State :=
  let co := s.coreAt (keyDie k) (keyCore k)
  let s1 := s.putCore (keyDie k) (keyCore k) { co with copyq := (co.copyq.filter (fun x => x.id ≠ c.id)).map (fun x =>
    if x.covers.contains c.id then { x with hostWrites := x.hostWrites ++ madeHost c } else x) }
  match s1.gang c.gang with
  | none => s1
  | some g =>
    let t := tokenOf g c.tok
    if t.id = c.id ∧ t.st = .busy then
      let t1 : Token := match c.fault with
        | none => { t with st := .done, cv := c.cv, host := madeHost c }
        | some (code, a, n) => { t with st := .fault, host := madeHost c, addr := a, lanes := nat64 n, info := BitVec.ofNat 32 (16 * code + c.tok) }
      let g1 := putToken { g with engineHost := g.engineHost ++ madeHost c } c.tok t1
      let g2 := wakePaths g1 (fun p => p.st == .twait c.tok) s.seq
      let g3 := if gangEnded g && c.fault.isSome then { g2 with pending := g2.pending ++ [(⟨cENGINE, t1.pc, t1.addr, t1.lanes, t1.info⟩, none)] } else g2
      s1.putGang c.gang g3
    else s1

/-- COPY_CMD_DONE (R336, R337): every element is written, or it faulted, and every write is delivered. -/
def execCopyCmdDone (core cmd : Nat) (s : State) : Out :=
  match findCmd (s.coreAt (keyDie core) (keyCore core)) cmd with
  | none => .next s
  | some c =>
    if c.started && !isFlsig c.instr && !isTload c.instr && c.writes.isEmpty && (c.fault.isSome || c.n == elemCount c) then
      .next (settleCmd s core c)
    else .next s

/-- TLOAD_COMPLETE (R168, R340): the bank that was written becomes active; after a fault the banks stay. -/
def execTloadComplete (core cmd : Nat) (s : State) : Out :=
  let co := s.coreAt (keyDie core) (keyCore core)
  match findCmd co cmd with
  | none => .next s
  | some c =>
    if c.started && isTload c.instr then
      if c.fault.isSome then .next (settleCmd s core c)
      else if c.n = 64 then .next (settleCmd (s.putCore (keyDie core) (keyCore core) { co with bank := 1 - co.bank }) core c)
      else .next s
    else .next s

/-- A `flsig.sys` whose zero-length read has come back faults when a covered write, or that read, was refused: TADDR is the address of the first such
write (R338, R339). -/
def remoteEnd (s : State) (zero : Nat) (c : CopyCmd) : CopyCmd :=
  match c.hostWrites.find? (fun x => s.refusedHost.contains x.1) with
  | some x => failCmd c ceREMOTE x.2 0
  | none => if s.refusedHost.contains zero then failCmd c ceREMOTE (((c.hostWrites.head?).map (·.2)).getD 0) 0 else c

/-- FLSIG_COMPLETE (R339): every covered write is delivered and every home has replied; at `.sys` a zero-length read behind
the host writes has come back, and none of them was refused. -/
def execFlsigComplete (core cmd : Nat) (s : State) : Out :=
  match findCmd (s.coreAt (keyDie core) (keyCore core)) cmd with
  | none => .next s
  | some c =>
    let sys : Bool := match c.instr with | .flsig _ sc _ _ _ => sc == Scope.sys | _ => false
    if !isFlsig c.instr || !c.active then .next s
    else if c.fault.isSome then .next (settleCmd s core c)
    else if !(c.asked && c.replies.isEmpty && c.bulk.all (fun t => !s.reqs.any (fun r => r.tag == t))) then .next s
    else if sys && !c.hostWrites.isEmpty then
      match c.zero with
      | none =>
        let s1 : State := { s with fresh := s.fresh + 1, pcie := s.pcie ++ [(s.fresh, PcieOp.zeroRead)] }
        .next (s1.putCmd core { c with zero := some s.fresh })
      | some t =>
        if (look s.pcie t).isSome then .next s
        else .next (settleCmd s core (remoteEnd s t c))
    else .next (settleCmd s core c)

end Sys2Proof.Machine
end

