-- ==== Sys2Proof/Machine/Clover.lean ====
section
/-! DEFINITION. Loop capture and the Clover array: the placer and its slots (R169, R171, R194, R195), streams from entry to
leaving (R176 to R187), drains (R188 to R193), and the capture-control instructions (R199 to R203). -/

namespace Sys2Proof.Machine

-- CAPSTAT

def capSet (w : Word) (bit : Nat) : Word := w ||| BitVec.ofNat 32 (2 ^ bit)
def capClear (w : Word) (bit : Nat) : Word := w &&& ~~~(BitVec.ofNat 32 (2 ^ bit))

/-- Change CAPSTAT of a gang that still exists. -/
def onCapstat (s : State) (gi : Nat) (f : Word → Word) : State :=
  match s.gang gi with
  | none => s
  | some g => s.putGang gi { g with capstat := f g.capstat }

-- Slots

def keyed (head : DWord) (asid : Nat) (x : Option Slot) : Bool :=
  match x with
  | some y => y.head == head && y.asid == asid
  | none => false

/-- Free the slot of a placement and take the placement out of the planes (R193, R203). -/
def dropPlacement (c : Core) (head : DWord) (asid : Nat) : Core :=
  { c with
    slots := c.slots.map (fun x => if keyed head asid x then none else x)
    plane := if keyed head asid c.plane then none else c.plane }

/-- A shadow plane that is being loaded is discarded; the paths that wait for it stay on the front end at H (R195, R286). -/
def discardShadow (s : State) (k : Nat) : State :=
  let c := s.coreAt (keyDie k) (keyCore k)
  match c.shadow with
  | none => s
  | some (sl, _, _) =>
    let s1 := s.putCore (keyDie k) (keyCore k) { c with shadow := none }
    { s1 with gangs := s1.gangs.map (fun e =>
        if coreKey e.2.die e.2.core = k ∧ e.2.kd.asid = sl.asid ∧ e.2.paths.any (fun p => p.st == .planeWait) then
          (e.1, { e.2 with
            frontAt := some sl.head
            paths := e.2.paths.map (fun p => if p.st = .planeWait then { p with st := .ready } else p) })
        else e) }

/-- A fault of gang `gi` while a placement that it wants is loaded discards the shadow plane (R195). -/
def dropLoading (s : State) (gi : Nat) : State :=
  match s.gang gi with
  | none => s
  | some g => match (s.coreAt g.die g.core).shadow with
    | some (_, w, _) => if w = gi then discardShadow s (coreKey g.die g.core) else s
    | none => s

-- The placer

/-- Words from `va` on up to `n`, read by the placer; whether all could be fetched. -/
def placerWords (s : State) (k asid : Nat) (va : DWord) (n : Nat) : List DWord × Bool :=
  let ws := fetchRun s (keyDie k) (keyCore k) asid va n
  (ws, ws.length == n)

/-- Offset and bytes of the first backward transfer to the head of a run (R200). -/
def closingOf (body : List (Nat × Instr)) : Option (Nat × Nat) :=
  (body.find? (fun x => match x.2 with
    | .jmp _ d | .bru _ _ d | .lpb _ _ d => (x.1 : Int) + dispOf d == 0
    | .brd _ d _ => (x.1 : Int) + dispOf d == 0
    | _ => false)).map (fun x => (x.1, (instrBytes x.2).toNat))

/-- What the placer finds at a head: the words of the body; none when it must refuse; and whether a word that it needs cannot be
fetched (R171, R200). -/
def placerBody (s : State) (k : Nat) (r : PlacerReq) : Option (List DWord) × Bool :=
  match r.last with
  | some last =>
    let span := (last - r.head).toNat / 8
    if 111 < span then (none, false)
    else
      let (ws, ok) := placerWords s k r.asid r.head (span + 1)
      if !ok then (none, true)
      else if wordsLen (ws.getLastD 0) = 16 then
        let (ws2, ok2) := placerWords s k r.asid r.head (span + 2)
        if !ok2 then (none, true) else if 112 < span + 2 then (none, false) else (some ws2, false)
      else (some ws, false)
  | none =>
    let (ws, ok) := placerWords s k r.asid r.head 112
    match closingOf (decodeRun 112 0 ws) with
    | some (off, n) => (some (ws.take ((off + n) / 8)), false)
    | none => (none, !ok)

/-- The placer refuses (R171). -/
def refuseLoop (s : State) (k : Nat) (r : PlacerReq) : State :=
  let c := s.coreAt (keyDie k) (keyCore k)
  onCapstat (s.putCore (keyDie k) (keyCore k) { c with refused := (c.refused ++ [(r.head, r.asid)]).drop (c.refused.length + 1 - 16) })
    r.gang (fun w => setLast (capSet w 5) 8)

/-- PLACER_DONE (R171 to R173, R194): the placer abandons the request, refuses the loop, or writes the placement whose cells
and register map are given. It refuses an eligible body when it finds no assignment, which the spec leaves to it. Where the gang that asked has ended, it
refuses the loop too (DESIGN CHOICE, log entry 160). -/
def execPlacerDone (core : Nat) (cells : Option (List (DWord × DWord) × List Word)) (s : State) : Out :=
  let c := s.coreAt (keyDie core) (keyCore core)
  match c.placer with
  | none => .next s
  | some r =>
    let s1 := s.putCore (keyDie core) (keyCore core) { c with placer := none }
    match placerBody s core r with
    | (_, true) => .next s1
    | (none, false) => .next (refuseLoop s1 core r)
    | (some ws, false) =>
      let body := decodeRun 112 0 ws
      match s.gang r.gang, cells with
      | some g, some (cs, rm) =>
        if bodySize body = 8 * ws.length && placedOk g.kd body cs rm then
          let c1 := s1.coreAt (keyDie core) (keyCore core)
          match placeSlot c1 ⟨r.head, r.asid, ws, cs, rm, false, false, s.seq⟩ with
          | some c2 => .next (s1.putCore (keyDie core) (keyCore core) c2)
          | none => .next (onCapstat s1 r.gang (fun w => setLast w 6))
        else .next (refuseLoop s1 core r)
      | _, _ => .next (refuseLoop s1 core r)

/-- The assignment that the placer of a core finds (R173; log entry 114). -/
def foundPlacement (s : State) (k : Nat) : Option (List (DWord × DWord) × List Word) :=
  match (s.coreAt (keyDie k) (keyCore k)).placer with
  | none => none
  | some r => match (placerBody s k r).1 with
    | some ws => Config.placement ws
    | none => none

-- Entry

/-- Streams in the array of a core, one for each slice (R176). -/
def streamCount (c : Core) : Nat := (c.streams.map (·.count)).foldl (· + ·) 0

/-- Slices that hold a lane of a mask. -/
def sliceCount (m : LaneMask) : Nat := popCount (slicesOf m)

/-- What an arrival of path `p` at a head does (R179, R195, R286). -/
inductive Arrival where
  /-- it runs on the front end -/
  | front
  | enter (sl : Slot)
  /-- it starts the loading of a slot's placement into the shadow plane -/
  | load (sl : Slot)
  | wait
  deriving DecidableEq, Repr

/-- A placement that the gang may enter. -/
def mayUse (g : Gang) (sl : Slot) : Bool := !sl.pre || capPre g.capctl

def arrival (s : State) (g : Gang) (p : Path) : Arrival :=
  let c := s.coreAt g.die g.core
  if !capEn g.capctl || g.handler.isSome || g.frontAt == some p.pc || !g.paths.all (fun q => q.id == p.id || q.st == .atRejoin) then .front
  else
    match c.plane.filter (fun sl => keyed p.pc g.kd.asid (some sl)), c.shadow with
    | some sl, _ => if mayUse g sl && !c.streams.any (·.draining) && decide (streamCount c + sliceCount p.mask ≤ admits sl) then .enter sl else .front
    | none, some (sl, _, _) => if sl.head = p.pc ∧ sl.asid = g.kd.asid ∧ mayUse g sl then .wait else .front
    | none, none =>
      match findSlot c p.pc g.kd.asid with
      | some sl => if c.streams.isEmpty && mayUse g sl && decide (sliceCount p.mask ≤ admits sl) then .load sl else .front
      | none => .front

/-- The registers of a gang as a stream takes them. -/
def regsOf (g : Gang) : Regs := ⟨g.v, g.vpoison, g.p, g.s, 0⟩

/-- The lanes of a quarter, numbered 4 · slice + quarter (R176), and the quarters that hold a lane. -/
def quarterMask (q : Nat) : LaneMask := BitVec.ofNat 64 (0xF * 2 ^ (4 * q))
def quartersOf (m : LaneMask) : List Nat := (List.range 16).filter (fun q => m &&& quarterMask q != 0)

/-- A lane's value of a register, by its key: a vector register, a predicate, or a uniform register or counter. -/
def regValue (x : Regs) (r l : Nat) : Word :=
  if r < 1024 then spGet 0 x.v (64 * r + l)
  else if r < 2048 then (if (spGet (0 : LaneMask) x.p (r - 1024)).getLsbD l then 1 else 0)
  else spGet 0 x.s (r % 2048)

/-- The token of register `r` for a quarter (R176). -/
def tokenAt (st : Stream) (r q : Nat) : ArrayToken where
  data := (List.range 4).map (fun i => regValue st.work r (4 * q + i))
  mask := ((st.live >>> (4 * q)).setWidth 4)
  quarter := BitVec.ofNat 2 (q % 4)
  stream := BitVec.ofNat 4 ((look st.nums (q / 4)).getD 0)
  tag := BitVec.ofNat 8 st.iter

/-- Each delay line holds one token for every quarter with a lane in the array: primed at entry, and passed on at the end of an iteration (R178, R180). -/
def primeLines (st : Stream) (keys : List Nat) : Stream :=
  { st with lines := keys.map (fun r => (r, (quartersOf st.live).map (tokenAt st r))) }

/-- Registers that the delay lines of a placement hold (R178, R196). -/
def lineKeys (sl : Slot) : List Nat := (linePrimes sl.cells).filterMap (fun e => (sl.regmap[e]?).map mapKey)

/-- Numbers for the streams of a path's slices, of the 16 that the array has, which no other stream there has (R176, R178). -/
def freeNums (c : Core) (m : LaneMask) : List (Nat × Nat) :=
  let used := c.streams.flatMap (fun st => st.nums.map (·.2))
  let slices := (List.range 4).filter (fun i => (slicesOf m).getLsbD i)
  slices.zip ((List.range 16).filter (fun n => !used.contains n))

/-- Prime the streams of a path (R180). -/
def newStream (gi : Nat) (g : Gang) (p : Path) (sl : Slot) : Stream where
  gang := gi
  path := p.id
  head := sl.head
  asid := sl.asid
  fall := sl.head + BitVec.ofNat 64 (bodySize (slotBody sl))
  entered := p.mask
  count := sliceCount p.mask
  nums := []
  body := slotBody sl
  rel := regsOf g
  relLive := p.mask
  boundary := 0
  iter := 0
  work := regsOf g
  live := p.mask
  fired := []
  part := []
  lines := []
  jumps := []
  ends := []
  held := []
  loads := []
  faultAt := none
  trigger := none
  draining := false
  xc := Xc.empty

/-- The slot of a placement counts as entered now (R194). -/
def markUsed (c : Core) (sl : Slot) (now : Nat) : Core :=
  { c with slots := c.slots.map (fun x => match x with
      | some y => if y.head = sl.head ∧ y.asid = sl.asid then some { y with used := now } else some y
      | none => none) }

/-- The path enters (R179, R180). -/
def enterArray (s : State) (gi : Nat) (g : Gang) (p : Path) (sl : Slot) : State :=
  let c := markUsed (s.coreAt g.die g.core) sl s.seq
  (s.putCore g.die g.core { c with streams := c.streams ++ [primeLines { newStream gi g p sl with nums := freeNums c p.mask } (lineKeys sl)] }).putGang gi
    (waitPath { g with capstat := capSet (bump8 g.capstat 16) 4 } p.id .streaming)

/-- What the revalidation of a slot's placement finds when its loading begins (R195, R198). -/
inductive Reload where
  | sound
  /-- a fetch made for it faults: the loading is discarded -/
  | unread
  /-- the words at the head are no longer those of the image -/
  | changed
  deriving DecidableEq, Repr

/-- The words at the head of a placement that came as an image are read again when it is loaded (R195). -/
def reloadCheck (s : State) (g : Gang) (sl : Slot) : Reload :=
  let ws := fetchRun s g.die g.core sl.asid sl.head sl.body.length
  if !sl.loaded then .sound
  else if ws.length ≠ sl.body.length then .unread
  else if ws = sl.body then .sound else .changed

/-- An instruction of the gang that waited for a translation at H is not what runs there now. -/
def unengaged (g : Gang) : Gang := { g with engaged := none, fetching := none, xc := Xc.empty }

/-- The arrival of a path at H: it enters, starts a loading, or waits for one; a drain of the Ox queue that will write a register
of the body comes first (R134). -/
def arrive (s : State) (gi : Nat) (g : Gang) (p : Path) (a : Arrival) : State :=
  match a with
  | .front => s
  | .enter sl =>
    if drainHolds s gi g ((slotBody sl).flatMap (fun x => (readsOf x.2 ++ writesOf x.2).filter (· < 1024))) then s else enterArray s gi (unengaged g) p sl
  | .load sl =>
    let c := s.coreAt g.die g.core
    match reloadCheck s g sl with
    | .sound => (s.putCore g.die g.core { c with shadow := some (sl, gi, s.clock) }).putGang gi (waitPath (unengaged g) p.id .planeWait)
    | .unread => s.putGang gi { g with frontAt := some sl.head }
    | .changed => (s.putCore g.die g.core (dropPlacement c sl.head sl.asid)).putGang gi
        { g with frontAt := some sl.head, capstat := setLast (capSet g.capstat 6) 7 }
  | .wait => s.putGang gi (waitPath (unengaged g) p.id .planeWait)

/-- The path of a gang that could arrive: ready and current on all its slices. -/
def arriving (s : State) (g : Gang) : Option (Path × Arrival) :=
  match g.paths.find? (fun p => p.st == .ready && fullyCurrent p && arrival s g p != .front) with
  | none => none
  | some p => some (p, arrival s g p)

/-- CLOVER_ENTER (R179, R180, R195, R286). -/
def execCloverEnter (core gang : Nat) (s : State) : Out :=
  match s.gang gang with
  | none => .next s
  | some g =>
    if coreKey g.die g.core ≠ core ∨ g.stopped ∨ g.paused ∨ !g.parks.isEmpty ∨ !g.ops.isEmpty then .next s
    else match arriving s g with
      | none => .next s
      | some (p, a) => .next (arrive s gang g p a)

/-- The paths of a core that wait for the shadow plane, the one that started the loading first (R286). -/
def planeWaiters (s : State) (k first : Nat) : List (Nat × Nat) :=
  let all := s.gangs.flatMap (fun e => if coreKey e.2.die e.2.core = k then
    (e.2.paths.filter (fun p => p.st == .planeWait)).map (fun p => (e.1, p.id)) else [])
  all.filter (fun x => x.1 == first) ++ all.filter (fun x => x.1 != first)

/-- A path that waited at H enters when the planes have switched, if the array leaves it a stream; else the front end runs the iteration
(R286). An operand that an Ox drain has still to write (R134), or a move of its gang's registers (R133), lets it arrive again; a gang that a fault or a
pre-emption has stopped does not enter (R195, R366). -/
def enterWaiter (s : State) (gi pi : Nat) : State :=
  match s.gang gi with
  | none => s
  | some g0 =>
    let g := waitPath g0 pi .ready
    match findPath g.paths pi with
    | none => s
    | some p => if g.paused || g.stopped then s.putGang gi g else match arrival s g p with
      | .enter sl => arrive (s.putGang gi g) gi g p (.enter sl)
      | _ => s.putGang gi { g with frontAt := some p.pc }

/-- PLANE_SWITCH (R195, R286): after 64 cycles all cells switch, and the paths that wait at H enter. A path may still enter the old plane while the shadow
plane is loaded, and the switch then waits until the array is empty again (DESIGN CHOICE, log entry 153). -/
def execPlaneSwitch (core : Nat) (s : State) : Out :=
  let c := s.coreAt (keyDie core) (keyCore core)
  match c.shadow with
  | none => .next s
  | some (sl, first, since) =>
    if (s.clock - since).toNat < 64 ∨ !c.streams.isEmpty then .next s
    else
      .next ((planeWaiters s core first).foldl (fun acc x => enterWaiter acc x.1 x.2)
        (s.putCore (keyDie core) (keyCore core) { c with plane := some sl, shadow := none }))

-- Streams of a core

def putStream (s : State) (k : Nat) (st : Stream) : State :=
  let c := s.coreAt (keyDie k) (keyCore k)
  s.putCore (keyDie k) (keyCore k) { c with streams := c.streams.map (fun x => if x.gang = st.gang then st else x) }

def dropStream (s : State) (k gi : Nat) : State :=
  let c := s.coreAt (keyDie k) (keyCore k)
  s.putCore (keyDie k) (keyCore k) { c with streams := c.streams.filter (fun x => x.gang ≠ gi) }

/-- Lanes for which the instruction at an offset is skipped, or which have left (R173, R181). -/
def skippedAt (st : Stream) (off : Nat) : LaneMask :=
  st.jumps.foldl (fun acc j => if j.2.1 < off ∧ off < j.2.2 then acc ||| j.1 else acc) 0

def activeAt (st : Stream) (off : Nat) : LaneMask := st.live &&& ~~~(skippedAt st off)

/-- Lanes that took the transfer at an offset in this iteration. -/
def takenAt (st : Stream) (off : Nat) : LaneMask := st.jumps.foldl (fun acc j => if j.2.1 = off then acc ||| j.1 else acc) 0

/-- The paths that the front end would have at an offset: the active lanes, parted by each `brd` of the body whose rejoin lies
ahead (R109, R173). -/
def groupsAt (st : Stream) (off : Nat) : List LaneMask :=
  (st.body.foldl (fun ms x => match x.2 with
    | .brd _ _ r =>
      if x.1 < off ∧ (off : Int) < (x.1 : Int) + dispOf r then
        let t := takenAt st x.1
        ms.flatMap (fun m => [m &&& t, m &&& ~~~t])
      else ms
    | _ => ms) [activeAt st off]).filter (· ≠ 0)

/-- The gang as an instruction of the body sees it: the registers of its stream, the active lanes as its one path. -/
def cellGang (g : Gang) (st : Stream) (off : Nat) (m : LaneMask) : Gang :=
  { g with
    kd := { g.kd with handler := none }
    v := st.work.v
    vpoison := st.work.vpoison
    p := st.work.p
    s := st.work.s
    paths := [⟨0, st.head + BitVec.ofNat 64 off, m, .ready, 0, slicesOf m⟩]
    stack := []
    handler := none
    fpstat := 0
    xc := st.xc
    ops := []
    pending := [] }

def cellPath (st : Stream) (off : Nat) (m : LaneMask) : Path := ⟨0, st.head + BitVec.ofNat 64 off, m, .ready, 0, slicesOf m⟩

/-- The end of the iteration being computed (R187): all its instructions have fired and its loads have returned. -/
def endIteration (st : Stream) : Stream :=
  let done := st.body.zipIdx.all (fun x => st.fired.contains x.2 || (match x.1.2 with | .nop _ => true | _ => false)) && st.loads.all (·.done)
  if !done || st.live = 0 || st.faultAt.isSome then st
  else
    let live := match st.body.getLast? with | some (off, _) => takenAt st off | none => 0
    primeLines { st with
      ends := st.ends ++ [⟨st.iter, st.work, live⟩]
      iter := st.iter + 1
      work := { st.work with fpstat := 0 }
      live := live
      fired := []
      part := []
      jumps := []
      loads := [] } (st.lines.map (·.1))

/-- Registers that a load of the iteration has yet to write. -/
def loadDests (st : Stream) : List Nat :=
  st.loads.flatMap (fun x => if x.done then [] else match st.body[x.idx]? with | some (_, i) => writesOf i | none => [])

def overlaps (a b : List Nat) : Bool := a.any (fun x => b.contains x)

/-- A causal load. -/
def isCausal : Instr → Bool
  | .ld _ _ _ cau _ _ _ => cau
  | _ => false

/-- Loads that keep the order of their tags: causal loads (R275), and local loads (R281). -/
def mustPrecede (a b : Instr) : Bool :=
  (isCausal a && isCausal b) ||
  (match a, b with
   | .ld _ _ x _ _ _ _, .ld _ _ y _ _ _ _ => x != .g && y != .g
   | _, _ => false)

/-- An instruction has its operands (R177): nothing before it in the iteration that it depends on is still to fire or to return. -/
def mayFire (st : Stream) (j : Nat) : Bool :=
  match st.body[j]? with
  | none => false
  | some (_, i) =>
    let r := allReads i
    let w := allWrites i
    st.live != 0 && !st.fired.contains j && st.faultAt.isNone && st.trigger.isNone && !st.draining && decide (st.ends.length < 4) &&
    !overlaps (loadDests st) (r ++ w) &&
    (st.body.take j).zipIdx.all (fun x =>
      (st.fired.contains x.2 && !(isCausal x.1.2 && isCausal i && st.loads.any (fun y => y.idx == x.2 && !y.done))) ||
      (match x.1.2 with | .nop _ => true | _ => false) ||
      (kindOf x.1.2 != 5 && !overlaps (allWrites x.1.2) (r ++ w) && !overlaps (allReads x.1.2) w && !mustPrecede x.1.2 i))

def markFired (st : Stream) (j : Nat) : Stream := { st with fired := setAdd st.fired j }

/-- An element-wise instruction: its cell fires for one token after another (R176, R177). -/
def isElement (i : Instr) : Bool := kindOf i == 1 || kindOf i == 2 || kindOf i == 4

/-- Instruction j has fired for a quarter. -/
def hasFired (st : Stream) (j q : Nat) : Bool := st.fired.contains j || st.part.contains (j, q)

/-- The next quarter for which an element-wise instruction fires: the tokens of a port come in order (R177). -/
def nextQuarter (st : Stream) (off j : Nat) : Option Nat := (quartersOf (activeAt st off)).find? (fun q => !st.part.contains (j, q))

/-- The tokens of instruction j that wait in the queue of the port through which instruction c takes them (R177). -/
def onEdge (st : Stream) (j c : Nat) : List ArrayToken :=
  match st.body[j]?, st.body[c]? with
  | some (off, i), some (_, k) => match (writesOf i).find? (fun r => (readsOf k).contains r) with
    | some r => ((quartersOf (activeAt st off)).filter (fun q => hasFired st j q && !hasFired st c q)).map (tokenAt st r)
    | none => []
  | _, _ => []

/-- Every edge that leaves the cell of instruction j has a free slot among the four of the receiving queue (R177). A memory or control cell takes each token
as it comes, and what lies behind it takes tokens from there (log entry 57). -/
def edgesFree (st : Stream) (j : Nat) : Bool :=
  let behind := ((st.body.drop (j + 1)).takeWhile (fun x => isElement x.2 || kindOf x.2 == 0)).length
  (List.range behind).all (fun n => decide ((onEdge st j (j + 1 + n)).length < 4))

/-- An element-wise cell has the tokens of a quarter at its ports, and a free slot behind each edge (R177). -/
def mayFireAt (st : Stream) (j q : Nat) : Bool :=
  match st.body[j]? with
  | none => false
  | some (_, i) =>
    let r := allReads i
    let w := allWrites i
    st.live != 0 && !st.fired.contains j && st.faultAt.isNone && st.trigger.isNone && !st.draining && decide (st.ends.length < 4) &&
    !overlaps (loadDests st) (r ++ w) && edgesFree st j &&
    (st.body.take j).zipIdx.all (fun x =>
      hasFired st x.2 q || (match x.1.2 with | .nop _ => true | _ => false) ||
      (isElement x.1.2 && !(quartersOf (activeAt st x.1.1)).contains q) ||
      (kindOf x.1.2 != 5 && !overlaps (allWrites x.1.2) (r ++ w) && !overlaps (allReads x.1.2) w))

/-- The cell of instruction j can fire for the streams of a path: for a quarter when it is element-wise, else for the path. -/
def canFire (st : Stream) (j : Nat) : Bool :=
  match st.body[j]? with
  | none => false
  | some (off, i) => match if isElement i then nextQuarter st off j else none with
    | some q => mayFireAt st j q
    | none => mayFire st j

/-- Instruction j has fired for quarter q; once it has for each, it has fired. -/
def markPart (st : Stream) (off j q : Nat) : Stream :=
  let st1 := { st with part := st.part ++ [(j, q)] }
  if (nextQuarter st1 off j).isNone then { markFired st1 j with part := st1.part.filter (fun x => x.1 ≠ j) } else st1

/-- A fault is held with its iteration (R189). -/
def holdFault (st : Stream) : Stream := { st with faultAt := some st.iter }

-- Firing

/-- An element-wise cell computes what the front end computes (R174), in the lanes of one quarter (R176, R177); where no lane is active there is no token, and
nothing to compute. -/
def fireElement (s : State) (g : Gang) (st : Stream) (off j : Nat) (i : Instr) : State × Stream :=
  match nextQuarter st off j with
  | none => (s, markFired st j)
  | some q =>
  let g0 := cellGang g st off (activeAt st off &&& quarterMask q)
  match cellRun i { s with gangs := [(0, g0)], cur := some (0, 0) } with
  | .next s1 =>
    match s1.gang 0 with
    | none => (s, st)
    | some g1 =>
      if !g1.pending.isEmpty then (s, holdFault st)
      else
        ({ s1 with gangs := s.gangs, cur := s.cur },
         markPart { st with work := ⟨g1.v, g1.vpoison, g1.p, g1.s, st.work.fpstat ||| g1.fpstat⟩ } off j q)
  | _ => (s, st)

/-- A control cell (R173, R181, R190). The guard of `jmp`, `bru` and `lpb` is taken for each path of the front end. -/
def fireControl (g : Gang) (st : Stream) (off j : Nat) (i : Instr) : Stream :=
  let size := bodySize st.body
  let g0 := cellGang g st off (activeAt st off)
  let gd := guardOf i
  let groups := (groupsAt st off).filter (fun m => guardLanes g0 (cellPath st off m) gd != 0)
  let union := groups.foldl (· ||| ·) 0
  let (taken, st1) :=
    match i with
    | .bru _ a _ => (if getS g0 a.toNat ≠ 0 then union else 0, st)
    | .lpb _ a _ =>
      if union = 0 then (0, st)
      else
        let g1 := setS g0 a.toNat (getS g0 a.toNat - 1)
        (if getS g1 a.toNat ≠ 0 then union else 0, { st with work := { st.work with s := g1.s } })
    | .brd _ _ _ => (guardLanes g0 (cellPath st off (activeAt st off)) gd, st)
    | _ => (union, st)
  let st2 := markFired st1 j
  if taken = 0 then st2
  else match turnsOf off size (j + 1 == st.body.length) i with
    | .skip x => { st2 with jumps := st2.jumps ++ [(taken, off, x)] }
    | .exit => { st2 with jumps := st2.jumps ++ [(taken, off, size)] }
    | .close => { st2 with jumps := st2.jumps ++ [(taken, off, size)] }
    | _ => { st2 with trigger := some .unmapped }

/-- Put a byte into an image, replacing an earlier one of the same place. -/
def imageBytesOf (as : List (Nat × Nat)) (bytes : Nat → List Byte) : Image :=
  as.foldl (fun acc a => (imageOf a.2 (bytes a.1)).foldl (fun im x => store im x.1 x.2) acc) []

/-- Places of every byte that the lanes touch. -/
def bytePlaces (places : List (Nat × Nat)) (size : Nat) : List Nat := places.flatMap (fun x => (List.range size).map (x.2 + ·))

/-- Bytes that a load takes from the stores held before it in tag order, the latest first (R184, R287). -/
def forwarded (st : Stream) (na : Bool) (j : Nat) (want : List Nat) : Image :=
  if na then []
  else
    let before := st.held.filter (fun h => !h.na && (decide (h.iter < st.iter) || decide (h.idx < j)))
    let im := before.foldl (fun acc h => h.bytes.foldl (fun a x => store a x.1 x.2) acc) ([] : Image)
    im.filter (fun x => want.contains x.1)

/-- Send the requests of a memory cell's load that have room. -/
def sendCell (s : State) (k id : Nat) (g : Gang) (op : MemOp) : State × MemOp :=
  op.unsent.foldl (fun (acc : State × MemOp) x =>
    let cv := (acc.1.coreAt g.die g.core).cv
    if x.2.op = .causalLoad then
      if maySend acc.1 x.2.src x.2.dst false then
        let r := sendStamped acc.1 (.cell (keyDie k) (keyCore k) id x.1 false) cv x.2
        (r.2, { acc.2 with waits := acc.2.waits ++ [r.1] })
      else (acc.1, { acc.2 with unsent := acc.2.unsent ++ [x] })
    else
      let r := sendPlain acc.1 (.cell (keyDie k) (keyCore k) id x.1 (!coreWrites acc.1 g.die g.core x.1)) x.2
      (r.2, { acc.2 with waits := acc.2.waits ++ [r.1] })) (s, { op with unsent := [] })

/-- The load joins the ones in flight. -/
def addLoad (s : State) (k : Nat) (g : Gang) (st : Stream) (j : Nat) (na : Bool) (op : MemOp) (fw : Image) (want : List Nat) : State × Stream :=
  let id := s.fresh
  let (s1, op1) := sendCell { s with fresh := s.fresh + 1 } k id g op
  (s1, markFired { st with loads := st.loads ++ [⟨id, st.iter, j, na, op1, fw, want, false⟩], xc := Xc.empty } j)

/-- The address of the store at body index j is known: nothing before it that gives its index or its guard is still to come (R184). -/
def addressKnown (st : Stream) (j : Nat) (rd : List Nat) : Bool :=
  !overlaps (loadDests st) rd &&
  (st.body.take j).zipIdx.all (fun x => st.fired.contains x.2 || (kindOf x.1.2 != 5 && !overlaps (writesOf x.1.2) rd))

/-- Ranges of `n` and `m` bytes meet. -/
def accessesMeet (a : DWord) (n : Nat) (b : DWord) (m : Nat) : Bool := decide ((b - a).toNat < n) || decide ((a - b).toNat < m)

/-- An address as the compare of R184 sees it: a global one, or a core and a place in its local store (R125), the same through `.s` and `.q`.
A global one is the virtual address, as the instruction computes it (DESIGN CHOICE, log entry 164). -/
def seenAt (g : Gang) (sp : Space) (a : DWord) : DWord :=
  if sp = .g then a else let w := localWhere g sp a.toNat; BitVec.ofNat 64 (w.1 * 2 ^ 32 + w.2)

/-- A load meets an earlier store of its iteration whose address is known and whose data has not reached its cell: it waits there (R287). The
compare covers every lane that the store acts in (R184). -/
def awaitsData (g0 : Gang) (st : Stream) (j : Nat) (sp : Space) (as : List (Nat × DWord)) (size : Nat) : Bool :=
  (st.body.take j).zipIdx.any fun x =>
    match x.1.2 with
    | .st gd ty sp' _ na _ m =>
      let rd := indexRegs m ++ (pr gd.gp).map (1024 + ·)
      !na && !st.fired.contains x.2 && (sp' == .g) == (sp == .g) && addressKnown st x.2 rd &&
      (laneAddrs g0 sp' m (accessSize ty) (guardLanes g0 (cellPath st x.1.1 (activeAt st x.1.1)) gd)).any (fun a =>
        as.any (fun b => accessesMeet (seenAt g0 sp' a.2) (accessSize ty) (seenAt g0 sp b.2) size))
    | _ => false

/-- A memory cell issues a load (R183, R184): bytes that no held store covers are read from memory, when no committed store of the
gang to them is on its way (R255). -/
def fireLoad (s : State) (k : Nat) (g : Gang) (st : Stream) (off j : Nat) (i : Instr) (gd : Guard) (ty : Ty) (sp : Space) (cau na : Bool)
    (d : Field10) (m : MemAddr) : State × Stream :=
  let act := activeAt st off
  let g0 := cellGang g st off act
  let p := cellPath st off act
  let lanes := guardLanes g0 p gd
  let size := accessSize ty
  let as := laneAddrs g0 sp m size lanes
  if !i.wf || !(indexRegs m ++ vregs ty d).all (fun r => decide (r < g.kd.regs)) then (s, holdFault st)
  else if lanes = 0 then (s, markFired st j)
  else if (poisonedRead g0 lanes (indexRegs m)).isSome || (alignTrap p size as).isSome then (s, holdFault st)
  else if !na && awaitsData g0 st j sp as size then (s, st)
  else if sp = .g then
    match translateLanes s g0 true false as with
    | (.wait, x, s1) => (s1, { st with xc := x })
    | (.ready places xls, x, s1) =>
      let want := bytePlaces places size
      let fw := forwarded st na j want
      let c := s1.coreAt g.die g.core
      let far := fun (x : Nat × Xl) => match x.2 with | .remote _ _ => true | _ => false
      let ls := (linesOf places xls).filter (fun x => want.any (fun b => b / 64 == x.1 && (look fw b).isNone))
      let hit := fun (x : Nat × Xl) => if cau && !far x then none else l1Line c x.1
      let miss := ls.filter (fun x => (hit x).isNone)
      if miss.any (fun x => writePending g x.1 (touched places size x.1) (fun _ => true)) then (s1, { st with xc := x })
      else
        let hits := ls.filterMap (fun x => (hit x).map (fun y => (⟨x.1, lineBytes y.data, if y.poison then some 0 else none, none⟩ : LineGot)))
        let op0 := { newOp i p lanes as places c.l1Epoch with got := hits }
        let r := miss.foldl (fun (acc : State × MemOp) x =>
          let t := targetOf acc.1 g.die true (linePlace x.1) x.2
          if t.remote then (acc.1, { acc.2 with got := acc.2.got ++ [remoteLine acc.1 x.1] })
          else match t.dst with
            | none => (acc.1, { acc.2 with got := acc.2.got ++ [⟨x.1, [], some 5, none⟩] })
            | some dst => (acc.1, { acc.2 with unsent := acc.2.unsent ++ [(x.1, loadPacket acc.1 g cau t dst)] })) (s1, op0)
        addLoad r.1 k g st j na r.2 fw want
    | (_, _, s1) => (s1, holdFault { st with xc := Xc.empty })
  else if (boundTrap g0 p sp size as).isSome then (s, holdFault st)
  else if extentHolds s st.gang g sp size as then (s, st)
  else if (localPoison s g0 p sp size as).isSome then (s, holdFault st)
  else
    let places := as.map (fun a => let w := localWhere g0 sp a.2.toNat; (a.1, localPlace w.1 w.2))
    let want := bytePlaces places size
    let keys := (places.map (fun a => a.2 / 64)).eraseDups
    let got := keys.map (fun q =>
      let x := 64 * q - 2 ^ 200
      (⟨q, localBytes (s.coreAt g.die (x / 2 ^ 18)).mem (x % 2 ^ 18) 64, none, none⟩ : LineGot))
    addLoad s k g st j na { newOp i p lanes as places 0 with got := got } (forwarded st na j want) want

/-- Replay (R184): everything from the boundary B on is discarded, and the streams are primed again from the release copy. -/
def replay (st : Stream) : Stream :=
  primeLines { st with
    work := { st.rel with fpstat := 0 }
    live := st.relLive
    iter := st.boundary
    fired := []
    part := []
    jumps := []
    ends := []
    held := st.held.filter (fun h => decide (h.iter < st.boundary))
    loads := []
    faultAt := none
    xc := Xc.empty } (st.lines.map (·.1))

/-- Held stores stand in tag order (R183, R186). -/
def insertHeld (h : HeldStore) : List HeldStore → List HeldStore
  | [] => [h]
  | x :: r => if h.iter < x.iter ∨ (h.iter = x.iter ∧ h.idx < x.idx) then h :: x :: r else x :: insertHeld h r

/-- A memory cell takes a store (R184, R186): it is held; a load of a later tag that has been performed over its bytes makes the
stream replay. A load that has been issued counts as performed, whether or not it has returned (DEDUCED, log entry 106). -/
def holdStore (s : State) (st : Stream) (j : Nat) (na : Bool) (as : List (Nat × DWord)) (places : List (Nat × Nat)) (size : Nat) (im : Image)
    (ls : List (Nat × Xl)) : State × Stream :=
  let late := !na && st.loads.any (fun x => !x.na && decide (j < x.idx) && x.bytes.any (fun b => (look im b).isSome))
  if late then (onCapstat s st.gang bumpReplay, replay st)
  else (s, markFired { st with held := insertHeld ⟨st.iter, j, st.head + BitVec.ofNat 64 (((st.body[j]?).map (·.1)).getD 0), na, as, places, size, im, ls⟩ st.held, xc := Xc.empty } j)

/-- A memory cell issues a store. -/
def fireStore (s : State) (g : Gang) (st : Stream) (off j : Nat) (i : Instr) (gd : Guard) (ty : Ty) (sp : Space) (na : Bool)
    (d : Field10) (m : MemAddr) : State × Stream :=
  let act := activeAt st off
  let g0 := cellGang g st off act
  let p := cellPath st off act
  let lanes := guardLanes g0 p gd
  let size := accessSize ty
  let as := laneAddrs g0 sp m size lanes
  let rd := indexRegs m ++ vregs ty d
  if !i.wf || !rd.all (fun r => decide (r < g.kd.regs)) then (s, holdFault st)
  else if lanes = 0 then (s, markFired st j)
  else if (poisonedRead g0 lanes rd).isSome || (alignTrap p size as).isSome then (s, holdFault st)
  else if sp = .g then
    match translateLanes s g0 false true as with
    | (.wait, x, s1) => (s1, { st with xc := x })
    | (.ready places xls, _, s1) =>
      holdStore s1 st j na as places size (imageBytesOf places (storeBytes g0 ty d)) (linesOf places xls)
    | (_, _, s1) => (s1, holdFault { st with xc := Xc.empty })
  else if (boundTrap g0 p sp size as).isSome then (s, holdFault st)
  else if extentHolds s st.gang g sp size as then (s, st)
  else
    let places := as.map (fun a => let w := localWhere g0 sp a.2.toNat; (a.1, localPlace w.1 w.2))
    holdStore s st j na as places size (imageBytesOf places (storeBytes g0 ty d)) []

/-- Fire the cell of body instruction j. -/
def fireCell (s : State) (k : Nat) (g : Gang) (st : Stream) (j : Nat) : State × Stream :=
  match st.body[j]? with
  | none => (s, st)
  | some (off, i) =>
    match i with
    | .ld gd ty sp cau na d m => fireLoad s k g st off j i gd ty sp cau na d m
    | .st gd ty sp _ na d m => fireStore s g st off j i gd ty sp na d m
    | _ => if kindOf i = 5 then (s, fireControl g st off j i) else fireElement s g st off j i

/-- Pick one of several by a free value; the spec leaves the order of streams open. -/
def pickFree {α : Type} (s : State) (xs : List α) : Option α := xs[Config.freeNat s.freeCtr % xs.length]?

/-- Body index that a cell of the active plane executes. -/
def cellIndex (c : Core) (cell : Nat) : Option Nat :=
  match c.plane with
  | none => none
  | some sl => match sl.cells[cell]? with
    | some w => if cellKind w = 0 ∨ cellKind w = 6 then none else some (cellInstr w)
    | none => none

/-- CELL_FIRE (R177): the cell fires once, for one of the paths in the array whose tokens it has: an element-wise cell for one token, a memory or control cell
for the path. -/
def execCellFire (core cell : Nat) (s : State) : Out :=
  let c := s.coreAt (keyDie core) (keyCore core)
  match cellIndex c cell with
  | none => .next s
  | some j =>
    match pickFree s (c.streams.filter (fun st => keyed st.head st.asid c.plane && canFire st j)) with
    | none => .next s
    | some st =>
      match s.gang st.gang with
      | none => .next s
      | some g =>
        let (s1, st1) := fireCell { s with freeCtr := s.freeCtr + 1 } core g st j
        .next (putStream s1 core (endIteration st1))

-- Returns

/-- Value of a byte that a load reads. -/
def loadByte (x : CellLoad) (b : Nat) : Byte :=
  match look x.forwarded b with
  | some y => y
  | none => match x.op.got.find? (fun l => l.key == b / 64) with
    | some l => (l.data[b % 64]?).getD 0
    | none => 0

/-- A line of a load that it needs is poisoned or was released by a loss. -/
def loadBad (x : CellLoad) : Bool :=
  x.op.got.any (fun l => (l.poison.isSome || l.cst.isSome) && x.bytes.any (fun b => b / 64 == l.key && (look x.forwarded b).isNone))

/-- The values of a load reach its registers (R248). -/
def finishLoad (g : Gang) (st : Stream) (x : CellLoad) : Stream :=
  match st.body[x.idx]? with
  | some (off, .ld _ ty _ _ _ d _) =>
    let g0 := cellGang g st off (activeAt st off)
    let g1 := x.op.places.foldl (fun acc a =>
      writeV acc ty d a.1 (extendLoad ty (natLE ((List.range (accessSize ty)).map (fun i => loadByte x (a.2 + i)))))) g0
    { st with
      work := { st.work with v := g1.v, vpoison := g1.vpoison }
      loads := st.loads.map (fun y => if y.id = x.id then { y with done := true } else y) }
  | _ => st

/-- A load of a cell that MEMCELL_ACCESS_RETURN can move on. -/
def returnable (j : Nat) (x : CellLoad) : Bool := x.idx == j && !x.done && (x.op.waits.isEmpty || !x.op.unsent.isEmpty)

/-- MEMCELL_ACCESS_RETURN (R184, R189): the values of a load reach the registers, or its fault is held. -/
def execMemcellAccessReturn (core cell : Nat) (s : State) : Out :=
  let c := s.coreAt (keyDie core) (keyCore core)
  match cellIndex c cell with
  | none => .next s
  | some j =>
    match c.streams.find? (fun st => !st.draining && st.loads.any (returnable j)) with
    | none => .next s
    | some st =>
      match s.gang st.gang, st.loads.find? (returnable j) with
      | some g, some x =>
        if !x.op.unsent.isEmpty then
          let (s1, op1) := sendCell s core x.id g x.op
          .next (putStream s1 core { st with loads := st.loads.map (fun y => if y.id = x.id then { y with op := op1 } else y) })
        else if loadBad x then
          .next (putStream s core (holdFault { st with loads := st.loads.map (fun y => if y.id = x.id then { y with done := true } else y) }))
        else .next (putStream s core (endIteration (finishLoad g st x)))
      | _, _ => .next s

-- Release

/-- Bytes of a held store in one line: the enables and the data. -/
def heldLine (h : HeldStore) (key : Nat) : LaneMask × List Byte :=
  (h.bytes.foldl (fun acc x => if x.1 / 64 = key then acc ||| laneBit (x.1 % 64) else acc) 0,
   (List.range 64).map (fun i => (look h.bytes (64 * key + i)).getD 0))

/-- Commit a held store (R186, R252 to R254): what it still has to send, if anything. -/
def commitStore (s : State) (gi : Nat) (g : Gang) (h : HeldStore) : State × Gang × Option HeldStore :=
  if h.lines.isEmpty && !gateOpen s g then (s, g, some h)
  else if h.lines.isEmpty then
    let cores := (h.bytes.map (fun x => (x.1 - 2 ^ 200) / 2 ^ 18)).eraseDups
    (cores.foldl (fun acc c =>
      acc.putCore g.die c (storeLocal (acc.coreAt g.die c)
        ((h.bytes.filter (fun x => (x.1 - 2 ^ 200) / 2 ^ 18 == c)).map (fun x => ((x.1 - 2 ^ 200) % 2 ^ 18, x.2))))) s, g, none)
  else if !gateOpen s g || h.lines.any (fun x => writePending g x.1 (heldLine h x.1).1 (fun o => o.bulk)) then (s, g, some h)
  else
    let r := h.lines.foldl (fun (acc : State × Gang × List (Nat × Packet)) x =>
      let (ben, data) := heldLine h x.1
      match x.2 with
      | .remote _ _ => let f := storeFar acc.1 acc.2.1 (lineVa h.places h.addrs) [(x.1, ben, data)]; (f.1, f.2, acc.2.2)
      | _ =>
        let t := targetOf acc.1 g.die false (linePlace x.1) x.2
        match t.dst with
        | some d => (acc.1, acc.2.1, acc.2.2 ++ [(x.1, { blankPacket acc.1 .orderedWrite g.die d with
            asid := g.kd.asid, addr := t.addr, dup := t.dup, ben := ben, data := data })])
        | none =>
          let lanes := h.places.foldl (fun m y => if y.2 / 64 = x.1 then m ||| laneBit y.1 else m) 0
          let a := ((h.addrs.find? (fun y => lanes.getLsbD y.1)).map (·.2)).getD 0
          (acc.1, escalate acc.2.1 ⟨cPOISON, h.pc, a, lanes, poisonInfo 5⟩, acc.2.2)) (s, g, [])
    let (s2, g2, op) := sendAll r.1 gi r.2.1 { newOp (.nop ⟨0, false⟩) ⟨0, h.pc, 0, .ready, 0, 0⟩ 0 h.addrs h.places 0 with unsent := r.2.2, refusals := refusalsOf h.lines }
    (s2, g2, if op.unsent.isEmpty then none else some { h with lines := h.lines.filter (fun x => op.unsent.any (fun y => y.1 == x.1)) })

/-- Commit the stores of released iterations in tag order, as far as there is room. -/
def commitAll (s : State) (gi : Nat) (g : Gang) (boundary : Nat) : List HeldStore → State × Gang × List HeldStore
  | [] => (s, g, [])
  | h :: r =>
    if boundary ≤ h.iter then (s, g, h :: r)
    else match commitStore s gi g h with
      | (s1, g1, none) => commitAll s1 gi g1 boundary r
      | (s1, g1, some h1) => (s1, g1, h1 :: r)

/-- A store of an iteration names a line without a home (R370): the iteration is left to the front end. -/
def homeless (s : State) (g : Gang) (st : Stream) (iter : Nat) : Bool :=
  st.held.any (fun h => h.iter == iter && h.lines.any (fun x =>
    let t := targetOf s g.die false (linePlace x.1) x.2
    t.dst.isNone && !t.remote))

/-- Registers of the body and the counter as a set of registers `r` gives them; the others stay (R181, R187, R188). -/
def writeBack (g : Gang) (st : Stream) (r : Regs) : Gang :=
  let ws := bodyWrites st.body
  let cnt := st.body.filterMap (fun x => match x.2 with | .lpb _ a _ => some a.toNat | _ => none)
  let keep := fun (k : Nat) => !ws.contains (k / 64)
  let g1 : Gang := (r.v.filter (fun e => !keep e.1)).foldl (fun acc e => { acc with v := spSet 0 acc.v e.1 e.2 })
    { g with v := g.v.filter (fun e => keep e.1), vpoison := g.vpoison.filter keep ++ r.vpoison.filter (fun e => !keep e) }
  let keepP := fun (k : Nat) => !ws.contains (1024 + k)
  let g2 : Gang := (r.p.filter (fun e => !keepP e.1)).foldl (fun acc e => { acc with p := spSet 0 acc.p e.1 e.2 })
    { g1 with p := g1.p.filter (fun e => keepP e.1) }
  cnt.foldl (fun acc a => setS acc a (spGet 0 r.s a)) g2

/-- The streams of a gang have left: its registers are the release copy and its path resumes at F (R181). -/
def leaveArray (s : State) (k gi : Nat) (g : Gang) (st : Stream) : State :=
  let g1 := writeBack { g with capstat := capClear g.capstat 4 } st st.rel
  let ps := mapPath g1.paths st.path (fun p => { p with pc := st.fall, mask := st.entered, st := .ready, since := s.seq, onSl := slicesOf st.entered })
  (dropStream s k gi).putGang gi (settle { g1 with paths := ps } s.seq)

/-- ITERATION_RELEASE (R186, R187): committed stores that wait for room are sent; else the iteration at the boundary is released; a
gang whose lanes have all left takes its registers and goes on at F. -/
def execIterationRelease (core gang : Nat) (s : State) : Out :=
  let c := s.coreAt (keyDie core) (keyCore core)
  match c.streams.find? (fun st => st.gang == gang), s.gang gang with
  | some st, some g =>
    if st.held.any (fun h => decide (h.iter < st.boundary)) then
      let (s1, g1, hs) := commitAll s gang g st.boundary st.held
      .next (putStream (s1.putGang gang g1) core { st with held := hs })
    else if st.draining then .next s
    else match st.ends with
      | e :: r =>
        if homeless s g st e.iter then .next (putStream s core { st with faultAt := some e.iter })
        else
          let st1 := { st with ends := r, boundary := e.iter + 1, rel := { e.regs with fpstat := 0 }, relLive := e.live }
          let (s1, g1, hs) := commitAll s gang { g with fpstat := g.fpstat ||| e.regs.fpstat } st1.boundary st1.held
          .next (putStream (s1.putGang gang g1) core { st1 with held := hs })
      | [] => if st.live = 0 then .next (leaveArray s core gang g st) else .next s
  | _, _ => .next s

-- Drains

/-- Code of a cause in CAPSTAT.LAST (R204). -/
def lastOf : DrainCause → Nat
  | .unmapped => 1
  | .fault => 2
  | .preempt => 3
  | .capdrop => 4
  | .integrity => 5

/-- What a stream is to drain for now (R188, R189). -/
def drainDue (st : Stream) : Option DrainCause :=
  match st.trigger with
  | some t => some t
  | none => if st.faultAt = some st.boundary then some .fault else none

/-- DRAIN (R188 steps 1 to 3): once committed stores have left, iterations from B on are discarded. -/
def execDrain (core gang : Nat) (cause : DrainCause) (s : State) : Out :=
  let c := s.coreAt (keyDie core) (keyCore core)
  match c.streams.find? (fun st => st.gang == gang) with
  | none => .next s
  | some st =>
    if st.draining || drainDue st ≠ some cause || st.held.any (fun h => decide (h.iter < st.boundary)) then .next s
    else
      .next (putStream s core { replay st with
        loads := (st.loads.filter (fun x => !x.done)).map (fun x => { x with op := { x.op with unsent := [] } })
        trigger := some cause
        draining := true })

/-- One integrity event more for Gander's records (R193). -/
def countIntegrity (s : State) : State := { s with gander := { s.gander with integrity := s.gander.integrity + 1 } }

/-- An integrity event discards the placement (R193). The other gangs that stream through it drain for the same
cause (DESIGN CHOICE, log entry 105: the spec is silent on them). -/
def discardPlacement (s : State) (k : Nat) (head : DWord) (asid : Nat) : State :=
  let c := dropPlacement (s.coreAt (keyDie k) (keyCore k)) head asid
  let streams := c.streams.map (fun x => if x.head = head ∧ x.asid = asid ∧ x.trigger.isNone then { x with trigger := some .integrity } else x)
  s.putCore (keyDie k) (keyCore k) { c with streams := streams }

/-- DRAIN_COMPLETE (R188 steps 4 to 8): the loads in flight have returned and are discarded; registers come from the release copy;
one entry is pushed, the lanes that left wait at F, the live ones form a path at H. It is pushed on a full stack of 32 too (R118;
DESIGN CHOICE, log entry 161). -/
def execDrainComplete (core gang : Nat) (s : State) : Out :=
  let c := s.coreAt (keyDie core) (keyCore core)
  match c.streams.find? (fun st => st.gang == gang), s.gang gang with
  | some st, some g =>
    if !st.draining || st.loads.any (fun x => !x.op.waits.isEmpty) then .next s
    else
      let cause := st.trigger.getD .preempt
      let stat := setLast (bump8 (capClear g.capstat 4) 24) (lastOf cause)
      let s1 := if cause = .integrity then discardPlacement s core st.head st.asid else s
      let g0 := { g with capstat := if cause = .integrity then capSet stat 7 else stat }
      if st.relLive = 0 then .next (leaveArray s1 core gang g0 st)
      else
        let g1 := writeBack { g0 with frontAt := some st.head } st st.rel
        let left := st.entered &&& ~~~st.relLive
        let live := mapPath g1.paths st.path (fun p =>
          { p with pc := st.head, mask := st.relLive, st := .ready, since := s.seq, onSl := slicesOf st.relLive })
        let fp : Path := ⟨g1.nextPath, st.fall, left, .ready, s.seq, 0⟩
        let g2 := { g1 with
          paths := if left = 0 then live else live ++ [fp]
          stack := ⟨st.fall, st.entered⟩ :: g1.stack
          nextPath := g1.nextPath + 1 }
        .next ((dropStream s1 core gang).putGang gang (settle g2 s.seq))
  | _, _ => .next s

/-- Cell x is a memory cell that has an access to issue (R217). -/
def memCellReady (c : Core) (x : Nat) : Bool :=
  match cellIndex c x with
  | none => false
  | some j => c.streams.any (fun st => keyed st.head st.asid c.plane && mayFire st j &&
      (match st.body[j]? with | some (_, i) => kindOf i == 3 | none => false))

/-- The memory cell of a core that has an access to issue, if any: of several, the lowest (DESIGN CHOICE, log entry 163). -/
def memCellWaits (c : Core) : Option Nat := (List.range 64).find? (memCellReady c)

-- Capture control

/-- Target of a capture-control instruction (R199). -/
def capTarget (p : Path) (imm : Imm20) : DWord := p.pc + (imm.signExtend 64 <<< 3)

/-- `lmark` (R200). -/
def execLmark (gd : Guard) (imm : Imm20) (s : State) : Out :=
  issueChecked (.lmark gd imm) [] (fun _ => true) s fun gi g p =>
    if guardLanes g p gd = 0 then finish s gi g p 8 (.ok g)
    else
      let g1 := { g with head := capTarget p imm, count := capThresh g.capctl }
      let c := s.coreAt g.die g.core
      let s1 := s.putCore g.die g.core (requestPlacer c gi g1 g1.head none)
      finish s1 gi g1 p 8 (.ok g1)

/-- `capctl` (R200). -/
def execCapctl (gd : Guard) (imm : Imm20) (s : State) : Out :=
  scalarInstr (.capctl gd imm) gd s fun g => { g with capctl := BitVec.ofNat 32 (imm.toNat % 2 ^ 16) }

/-- A range in 8-byte pieces, numbered as lanes. -/
def pieces (a : DWord) (n : Nat) : List (Nat × DWord) := (List.range ((n + 7) / 8)).map (fun i => (i, a + BitVec.ofNat 64 (8 * i)))

/-- Translate a range for the gang as a whole: a trap or a park names every active lane of the path (R359). -/
def withRange (s : State) (gi : Nat) (g : Gang) (p : Path) (rd wr : Bool) (as : List (Nat × DWord))
    (k : State → Gang → List (Nat × Nat) → List (Nat × Xl) → Out) : Out :=
  match translateLanes s g rd wr as with
  | (.trap c a _ info, _, s1) => memTrap s1 gi g p (trapAt p c a p.mask info)
  | (.wait, x, s1) => .next (s1.putGang gi { g with xc := x })
  | (.park ps, _, s1) => .next (parkGang s1 gi g p.id (ps.map (fun x => { x with lanes := p.mask })))
  | (.ready places xls, x, s1) => k s1 { g with xc := x } places xls

/-- Read a range as plain `.g` loads (R201); the path issues the instruction again when the answers are there. -/
def readRange (i : Instr) (phase : Nat) (gi : Nat) (g : Gang) (p : Path) (as : List (Nat × DWord)) (s : State) : Out :=
  withRange s gi g p true false as fun s1 g1 places xls =>
    let c := s1.coreAt g.die g.core
    let ls := linesOf places xls
    let miss := ls.filter (fun x => (l1Line c x.1).isNone)
    if miss.any (fun x => writePending g1 x.1 (touched places 8 x.1) (fun _ => true)) then .next (s1.putGang gi g1)
    else
      let hits := ls.filterMap (fun x => (l1Line c x.1).map (fun y => (⟨x.1, lineBytes y.data, if y.poison then some 0 else none, none⟩ : LineGot)))
      let op0 := { newOp i p p.mask as places c.l1Epoch with got := hits, phase := phase }
      let r := miss.foldl (fun (acc : State × MemOp) x =>
        let t := targetOf acc.1 g.die true (linePlace x.1) x.2
        if t.remote then (acc.1, { acc.2 with got := acc.2.got ++ [remoteLine acc.1 x.1] })
        else match t.dst with
          | none => (acc.1, { acc.2 with got := acc.2.got ++ [⟨x.1, [], some 5, none⟩] })
          | some d => (acc.1, { acc.2 with unsent := acc.2.unsent ++ [(x.1, loadPacket acc.1 g false t d)] })) (s1, op0)
      .next (driveOp r.1 gi g1 r.2)

/-- The bytes of a range that was read. -/
def rangeBytes (op : MemOp) : List Byte := op.addrs.flatMap (fun a => gotBytes op a.1 8)

/-- The image failed revalidation (R198). -/
def dropImage (g : Gang) : Gang := { g with capstat := setLast (capSet g.capstat 6) 7 }

/-- Place an image that was read (R194, R198, R201). -/
def placeImage (s : State) (gi : Nat) (g : Gang) (p : Path) (head : DWord) (b : List Byte) : Out :=
  let g0 := { dropOp g p.id with xc := Xc.empty }
  match revalidate s g.die g.core g.kd.asid g.kd head b with
  | none => finish s gi (dropImage g0) p 8 (.ok (dropImage g0))
  | some sl =>
    match placeSlot (s.coreAt g.die g.core) sl with
    | some c => finish (s.putCore g.die g.core c) gi g0 p 8 (.ok g0)
    | none => finish s gi g0 p 8 (.ok { g0 with capstat := setLast g0.capstat 6 })

/-- `capload` (R201). A pre-emption that arrives before it completes leaves the slots and PC as they are. -/
def execCapload (gd : Guard) (a : Field10) (imm : Imm20) (s : State) : Out :=
  issueChecked (.capload gd a imm) [] (fun _ => true) s fun gi g p =>
    if g.stopped then .next (s.putGang gi { dropOp g p.id with engaged := none, xc := Xc.empty })
    else match opOf g p.id with
    | some op =>
      let b := rangeBytes op
      if !answered op then .next (driveOp s gi g op)
      else if op.phase = 1 ∨ imageField b 6 2 ≤ 32 then placeImage s gi g p (capTarget p imm) b
      else readRange (.capload gd a imm) 1 gi (dropOp g p.id) p (pieces (getSS g a.toNat) (imageField b 6 2)) s
    | none =>
      if guardLanes g p gd = 0 then finish s gi g p 8 (.ok g)
      else if otherOp g p.id (fun o => !o.unsent.isEmpty) then .next s
      else if getSS g a.toNat &&& 7 != 0 then .next (s.trap gi g p (trapAll p cALIGN (getSS g a.toNat) 0))
      else readRange (.capload gd a imm) 0 gi g p (pieces (getSS g a.toNat) 32) s

/-- `capsave` (R202). -/
def execCapsave (gd : Guard) (d a : Field10) (imm : Imm20) (s : State) : Out :=
  issueChecked (.capsave gd d a imm) [] (fun _ => true) s fun gi g p =>
    match opOf g p.id with
    | some op => .next (driveOp s gi g op)
    | none =>
      let va := getSS g a.toNat
      if guardLanes g p gd = 0 then finish s gi g p 8 (.ok g)
      else if otherOp g p.id (fun o => !o.unsent.isEmpty) then .next s
      else if va &&& 7 != 0 then .next (s.trap gi g p (trapAll p cALIGN va 0))
      else match findSlot (s.coreAt g.die g.core) (capTarget p imm) g.kd.asid with
        | none => finish s gi g p 8 (.ok (setS g d.toNat 0))
        | some sl =>
          let img := imageBytes sl
          withRange s gi g p false true (pieces va img.length) fun s1 g1 places xls =>
            let bytes := fun (l : Nat) => (img.drop (8 * l)).take 8
            let im := imageBytesOf places bytes
            let ls := linesOf places xls
            let ben := fun (key : Nat) => im.foldl (fun acc x => if x.1 / 64 = key then acc ||| laneBit (x.1 % 64) else acc) 0
            let data := fun (key : Nat) => (List.range 64).map (fun i => (look im (64 * key + i)).getD 0)
            let isRemote := fun (x : Nat × Xl) => match x.2 with | .remote _ _ => true | _ => false
            let near := ls.filter (fun x => !isRemote x)
            if !gateOpen s1 g1 || causalBusy g1 p || near.any (fun x => writePending g1 x.1 (ben x.1) (fun o => o.bulk)) then .next (s1.putGang gi g1)
            else if near.any (fun x => (targetOf s1 g.die false (linePlace x.1) x.2).dst.isNone) then
              .next (s1.putGang gi (escalate { g1 with xc := Xc.empty } (trapAll p cPOISON va (poisonInfo 5))))
            else
              let (s2, g2) := storeFar s1 g1 (lineVa places (pieces va img.length)) ((ls.filter isRemote).map (fun x => (x.1, ben x.1, data x.1)))
              let pks := near.filterMap (fun x =>
                let t := targetOf s1 g.die false (linePlace x.1) x.2
                t.dst.map (fun h => (x.1, { blankPacket s1 .orderedWrite g.die h with
                  asid := g.kd.asid, addr := t.addr, dup := t.dup, ben := ben x.1, data := data x.1 })))
              .next (driveOp s2 gi (setS g2 d.toNat (BitVec.ofNat 32 img.length))
                { newOp (.capsave gd d a imm) p p.mask [] [] 0 with unsent := pks, refusals := refusalsOf ls })

/-- `capdrop` (R203): the streams of the placement are made to drain, and the path waits for that; then the slot is free. The placement also
leaves the planes (DESIGN CHOICE, log entry 59: the rule names the slot only). -/
def execCapdrop (gd : Guard) (imm : Imm20) (s : State) : Out :=
  issueChecked (.capdrop gd imm) [] (fun _ => true) s fun gi g p =>
    if guardLanes g p gd = 0 then finish s gi g p 8 (.ok g)
    else
      let h := capTarget p imm
      let key := coreKey g.die g.core
      let s0 := if keyed h g.kd.asid ((s.coreAt g.die g.core).shadow.map (·.1)) then discardShadow s key else s
      let c := dropPlacement (s0.coreAt g.die g.core) h g.kd.asid
      let g1 := { (s0.gang gi).getD g with head := 0, count := 0 }
      if c.streams.any (fun st => st.head == h && st.asid == g.kd.asid) then
        .next ((s0.putCore g.die g.core { c with streams := c.streams.map (fun st =>
          if st.head = h ∧ st.asid = g.kd.asid ∧ st.trigger = none then { st with trigger := some .capdrop } else st) }).putGang gi g1)
      else finish (s0.putCore g.die g.core c) gi g1 p 8 (.ok g1)

end Sys2Proof.Machine
end

