-- ==== Sys2Proof/Machine/CrossLane.lean ====
section
/-! DEFINITION. The cross-lane instructions (R138 to R148). The present lanes of an instruction are those of its path whose
guard is true. -/

namespace Sys2Proof.Machine

/-- The lanes a member mask names: A = 0x3FF names every lane of the gang (R138, R142). -/
def namedLanes (g : Gang) (a : Field10) : LaneMask :=
  (if a = 0x3FF#10 then BitVec.allOnes 64 else getSS g a.toNat) &&& gangLanes g

/-- The frame of the masked members: `f` gets the present lanes and the members, and the absent named lanes set MISS or
raise XLMISS (R138, R139). -/
def crossLane (i : Instr) (gd : Guard) (a : Field10) (rd wr : List Nat) (minor : Word) (s : State)
    (f : Gang → Path → LaneMask → LaneMask → Gang) : Out :=
  vectorInstr i gd rd wr s fun g p m =>
    if m = 0 then .ok g
    else
      let named := namedLanes g a
      withMiss g p (named &&& ~~~m) false minor (f g p m (named &&& m))

/-- `vote` (R143). -/
def execVote (gd : Guard) (d a : Field10) (pd ps : BitVec 4) (s : State) : Out :=
  crossLane (.vote gd d a pd ps) gd a [] [] 0 s fun g _ m mem =>
    let ballot := mem &&& getPred g ps
    setPred (setSS g d.toNat ballot) pd m (if ballot = 0 then 0 else m)

/-- `shfl` (R144). -/
def execShfl (gd : Guard) (ty : Ty) (d a : Field10) (b : Src) (s : State) : Out :=
  vectorInstr (.shfl gd ty d a b) gd (vregs ty a ++ vregsB .i32 b) (vregs ty d) s fun g p m =>
    let sel := fun l => (readB32 g b l).toNat
    let ok := fun l => decide (sel l < 64) && m.getLsbD (sel l)
    let absent := (lanesOf m).foldl (fun acc l => if sel l < 64 then acc ||| laneBit (sel l) else acc) 0 &&& ~~~m
    let high := (lanesOf m).any (fun l => decide (64 ≤ sel l))
    withMiss g p absent high (if high then 0x201 else 1)
      (writeLanes g ty d m fun l => readV g ty a (if ok l then sel l else l))

/-- One value of a tree, with the flags its nodes raised. -/
abbrev TreeVal := Option (Nat × FFlags)

/-- A node (R145): both children full, one, or none. -/
def treeNode (op : Nat → Nat → Nat × FFlags) : TreeVal → TreeVal → TreeVal
  | none, y => y
  | x, none => x
  | some (a, f), some (b, h) => let r := op a b; some (r.1, f ||| h ||| r.2)

/-- One level of the tree. -/
def treeLevel (op : Nat → Nat → Nat × FFlags) : List TreeVal → List TreeVal
  | x :: y :: r => treeNode op x y :: treeLevel op r
  | r => r

/-- The root of the fixed pairwise tree over positions 0 to 63 (R145). -/
def treeRoot (op : Nat → Nat → Nat × FFlags) (xs : List TreeVal) : TreeVal :=
  let t := treeLevel op
  (t (t (t (t (t (t xs)))))).headD none

/-- The node operation of a reduction (R145). -/
def xopNode (g : Gang) (op : XOp) (ty : Ty) (rm : RSel) (a b : Nat) : Nat × FFlags :=
  let x : DWord := BitVec.ofNat 64 a
  let y : DWord := BitVec.ofNat 64 b
  let cut := fun (v : DWord) => if isWide ty then v.toNat else (v.setWidth 32).toNat
  match op with
  | .add => if ty = .f32 then addF32 (selMode g rm) (ftzOn g) a b else (cut (x + y), 0)
  | .min => if ty = .f32 then minMaxF fmtF32 false (ftzOn g) a b else (cut (minBy ty x y), 0)
  | .max => if ty = .f32 then minMaxF fmtF32 true (ftzOn g) a b else (cut (maxBy ty x y), 0)
  | .and => (cut (x &&& y), 0)
  | .or => (cut (x ||| y), 0)
  | .xor => (cut (x ^^^ y), 0)

/-- The identity of a reduction (R145). -/
def xopIdentity (op : XOp) (ty : Ty) : Nat :=
  match op with
  | .add | .or | .xor => 0
  | .and => if isWide ty then 2 ^ 64 - 1 else 2 ^ 32 - 1
  | .min => if ty = .f32 then 0x7F800000 else if ty = .s32 then 0x7FFFFFFF else 0xFFFFFFFF
  | .max => if ty = .f32 then 0xFF800000 else if ty = .s32 then 0x80000000 else 0

/-- A leaf of the tree: an F32 source is read through FTZ, a NaN as the canonical one, NV for a signalling NaN (R44, R48,
R145). -/
def xopLeaf (g : Gang) (ty : Ty) (x : DWord) : Nat × FFlags :=
  if ty = .f32 then
    let (v, fl) := decodeF fmtF32 (ftzOn g) x.toNat
    ((roundF fmtF32 .rne false v).1, fl)
  else (x.toNat, 0)

/-- The tree over the lanes of `mem`: the value, or the identity, and its flags. -/
def xopTree (g : Gang) (op : XOp) (ty : Ty) (rm : RSel) (b : Src) (mem : LaneMask) : Nat × FFlags :=
  let leaves : List TreeVal := (List.range 64).map fun l =>
    if mem.getLsbD l then some (xopLeaf g ty (readB g ty b l)) else none
  (treeRoot (xopNode g op ty rm) leaves).getD (xopIdentity op ty, 0)

/-- `xred` (R145). -/
def execXred (gd : Guard) (ty : Ty) (rm : RSel) (op : XOp) (ud : Bool) (d a : Field10) (b : Src) (s : State) : Out :=
  crossLane (.xred gd ty rm op ud d a b) gd a (vregsB ty b) (if ud then [] else vregs ty d) 2 s fun g _ m mem =>
    let r := xopTree g op ty rm b mem
    let x : DWord := BitVec.ofNat 64 r.1
    raiseFlags (if ud then writeS g ty d x else writeLanes g ty d m fun _ => x) r.2

/-- The lanes at positions at most l, or below l (R146). -/
def scanLanes (inc : Bool) (l : Nat) : LaneMask := lowLanes (if inc then l + 1 else l)

/-- `xscan` (R146): each lane's own tree. -/
def execXscan (gd : Guard) (ty : Ty) (rm : RSel) (op : XOp) (inc : Bool) (d a : Field10) (b : Src) (s : State) : Out :=
  crossLane (.xscan gd ty rm op inc d a b) gd a (vregsB ty b) (vregs ty d) 3 s fun g _ m mem =>
    let r := fun l => xopTree g op ty rm b (mem &&& scanLanes inc l)
    raiseFlags (writeLanes g ty d m fun l => BitVec.ofNat 64 (r l).1) (flagsOver m fun l => (r l).2)

/-- `match` (R147). -/
def execXmatch (gd : Guard) (ty : Ty) (d a : Field10) (b : Src) (s : State) : Out :=
  crossLane (.xmatch gd ty d a b) gd a (vregsB ty b) (vregs .b64 d) 4 s fun g _ m mem =>
    writeLanes g .b64 d m fun l => maskWhere fun k => mem.getLsbD k && readB g ty b k == readB g ty b l

/-- Move source[from_k] into v(D)[to_k] for each k, and set p(PD) in exactly those of the present lanes (R148). -/
def moveLanes (g : Gang) (ty : Ty) (d : Field10) (b : Src) (pd : BitVec 4) (m : LaneMask) (dst src : List Nat) : Gang :=
  let pairs := dst.zip src
  let g1 := pairs.foldl (fun acc x => writeV acc ty d x.1 (readB g ty b x.2)) g
  setPred g1 pd m (pairs.foldl (fun acc x => acc ||| laneBit x.1) 0)

/-- `xcomp` (R148). -/
def execXcomp (gd : Guard) (ty : Ty) (d a : Field10) (b : Src) (pd ps : BitVec 4) (s : State) : Out :=
  crossLane (.xcomp gd ty d a b pd ps) gd a (vregsB ty b) (vregs ty d) 5 s fun g _ m mem =>
    moveLanes g ty d b pd m (lanesOf mem) (lanesOf (mem &&& getPred g ps))

/-- `xexp` (R148). -/
def execXexp (gd : Guard) (ty : Ty) (d a : Field10) (b : Src) (pd ps : BitVec 4) (s : State) : Out :=
  crossLane (.xexp gd ty d a b pd ps) gd a (vregsB ty b) (vregs ty d) 6 s fun g _ m mem =>
    moveLanes g ty d b pd m (lanesOf (mem &&& getPred g ps)) (lanesOf mem)

end Sys2Proof.Machine
end

