-- ==== Sys2Proof/Machine/Responses.lean ====
section
/-! DEFINITION. Responses (R416, R422, R423), what die 16 does with PCIe completions (R260, R263, R282), the loss, removal and
resynchronisation of members (R428 to R430), links (R402, R431), and translation invalidation (R245). -/

namespace Sys2Proof.Machine

-- L1 fills

/-- Lines that the L1 of a core holds: `.l1` of its cohorts (R130), 64 bytes each; none without a cohort. -/
def l1Lines (s : State) (k : Nat) : Nat :=
  match s.cohorts.find? (fun e => e.2.die == keyDie k && decide (e.2.core ≤ keyCore k) && decide (keyCore k < e.2.core + (if e.2.quartet then 4 else 1))) with
  | some e => 16 * e.2.kd.l1
  | none => 0

/-- Keep a line (R223, R224): 8 ways; a free value chooses the way that is replaced. The set is the line number modulo the number of sets
(DESIGN CHOICE, log entry 62: R223 names no index bits). -/
def fillL1 (s : State) (k key : Nat) (x : L1Line) : State :=
  let c := s.coreAt (keyDie k) (keyCore k)
  let sets := l1Lines s k / 8
  if sets = 0 then s
  else
    let mine := (forget c.l1 key).filter (fun e => e.1 % sets == key % sets)
    let kept :=
      if mine.length < 8 then forget c.l1 key
      else match mine[Config.freeNat s.freeCtr % 8]? with
        | some v => forget (forget c.l1 key) v.1
        | none => forget c.l1 key
    { s with freeCtr := s.freeCtr + 1 }.putCore (keyDie k) (keyCore k) { c with l1 := (key, x) :: kept }

/-- A fill that was asked for in the present epoch of the L1 (R226). -/
def fillIf (s : State) (k key epoch : Nat) (keep : Bool) (p : Packet) : State :=
  if keep && (s.coreAt (keyDie k) (keyCore k)).l1Epoch == epoch && p.data.length == 64 && p.cst.isNone then
    fillL1 s k key (madeLine p.data p.poison.isSome)
  else s

-- Read and atomic responses

/-- The core merges the stamp of a response (R423). -/
def mergeCore (s : State) (k : Nat) (st : CVec) : State :=
  let c := s.coreAt (keyDie k) (keyCore k)
  s.putCore (keyDie k) (keyCore k) { c with cv := mergeCV c.cv st }

/-- An operation of a gang goes on when its last answer is in. -/
def settleOp (s : State) (gi : Nat) (g : Gang) (op : MemOp) : State :=
  if answered op then finishOp s gi g op else s.putGang gi (putOp g op)

/-- A line returns to a load of a gang. -/
def loadReturns (s : State) (gi pi tag line : Nat) (fill : Bool) (epoch : Nat) (stamped : Bool) (p : Packet) : State :=
  match s.gang gi with
  | none => s
  | some g0 =>
    let k := coreKey g0.die g0.core
    let s1 := fillIf (if stamped then mergeCore s k p.stamp else s) k line epoch fill p
    match s1.gang gi with
    | none => s1
    | some g =>
      match opOf g pi with
      | none => s1
      | some op =>
        if op.waits.contains tag then settleOp s1 gi g { op with waits := setDel op.waits tag, got := op.got ++ [⟨line, p.data, p.poison, p.cst⟩] } else s1

/-- A line returns to a load of a Clover memory cell. -/
def cellReturns (s : State) (k access tag line : Nat) (fill stamped : Bool) (p : Packet) : State :=
  let s0 := if stamped then mergeCore s k p.stamp else s
  let c := s0.coreAt (keyDie k) (keyCore k)
  match c.streams.find? (fun st => st.loads.any (fun x => x.id == access)) with
  | none => s0
  | some st =>
    let epoch := ((st.loads.find? (fun x => x.id == access)).map (·.op.epoch)).getD 0
    let s1 := fillIf s0 k line epoch fill p
    putStream s1 k { st with loads := st.loads.map (fun x =>
      if x.id = access then
        { x with op := { x.op with waits := setDel x.op.waits tag, got := x.op.got ++ [⟨line, p.data, p.poison, p.cst⟩] } }
      else x) }

/-- The bytes of an element reach a command's staging (R336, R337). -/
def engineReturns (s : State) (k cmd tag off : Nat) (p : Packet) : State :=
  let co := s.coreAt (keyDie k) (keyCore k)
  match findCmd co cmd with
  | none => s
  | some c =>
    match c.reads.find? (fun x => x.1 == tag) with
    | none => s
    | some (_, n, a) =>
      let idx := localNat co.mem (c.base + c.idxOff + 4 * n) 4
      let x : Staged := match p.poison with
        | some src => .fault (if src = 5 then ceLOST else cePOISON) a
        | none => .bytes ((p.data.drop off).take (elemSizes c).1) idx
      s.putCmd k { c with reads := c.reads.filter (fun y => y.1 ≠ tag), stage := c.stage ++ [(n, x)] }

/-- READ_RESPONSE by the one who asked. -/
def readReturns (s : State) (r : Req) (p : Packet) : State :=
  match r.who with
  | .load gi pi line fill epoch => loadReturns s gi pi r.tag line fill epoch r.stamp.isSome p
  | .prefetch d c line epoch => if epoch = 0 ∨ p.poison.isSome then s else fillIf s (coreKey d c) line (epoch - 1) true p
  | .cell d c access line fill => cellReturns s (coreKey d c) access r.tag line fill r.stamp.isSome p
  | .engineRead d c cmd off => engineReturns s (coreKey d c) cmd r.tag off p
  | _ => s

/-- Take a response of an operation off its channel, with the request it answers. A response without a request is dropped: it
was ended by a loss. -/
def withResponse (op : POp) (src dst : Nat) (s : State) (k : State → Req → Packet → State) : Out :=
  match takeArrival s op src dst with
  | none => .next s
  | some (p, s1) =>
    if defective (s1.member dst) p then .next (s1.check dst ckPacket)
    else match takeReq s1 p.tag with
      | none => .next s1
      | some (r, s2) => .next (k (takeLoan s2 p) r p)

/-- The line of a request is read once more from its home, under the same tag (R231). -/
def readAgain (s : State) (r : Req) (p : Packet) : State :=
  let op : POp := match r.who with
    | .engineRead .. => .engineRead
    | _ => if r.stamp.isSome then .causalLoad else .plainLoad
  let again := r.again.getD (blankPacket s op r.die r.home)
  resend s r { blankPacket s op r.die r.home with asid := p.asid, addr := p.addr, dup := again.dup, partner := again.partner, resent := true }

/-- A response whose line fails its check on arrival (R231): the first time the line is read again; the second time it is handled as one that fails
at its home. A line of host memory has no home that could be poisoned: its reader alone sees the poison (log entry 141). -/
def badFill (s : State) (r : Req) (p : Packet) : State :=
  if !p.resent then readAgain s r p
  else if p.src = 16 then readReturns s r { p with poison := some 0 }
  else
    let s1 := strikeLine s (lineOf p)
    readReturns s1 r { p with data := placeBytes s1 (64 * lineOf p) 64, poison := if s1.poison.contains (lineOf p) then some 0 else p.poison }

/-- READ_RESPONSE (R224, R231, R252, R423). -/
def execReadResponse (src dst : Nat) (s : State) : Out :=
  withResponse .readResponse src dst s fun s1 r p => if p.check = packetCheck p then readReturns s1 r p else badFill s1 r p

/-- The lanes of an atomic in one line. -/
def lanesIn (op : MemOp) (line : Nat) : LaneMask := op.places.foldl (fun m x => if x.2 / 64 = line then m ||| laneBit x.1 else m) 0

/-- The answer to one line of an atomic (R259, R261, R367). -/
def atomicLine (op : MemOp) (tag line : Nat) (p : Packet) : MemOp :=
  let lanes := lanesIn op line
  let o := { op with waits := setDel op.waits tag }
  match p.poison with
  | some src => { o with poisoned := o.poisoned ||| lanes, source := src }
  | none =>
    if p.refused then { o with refused := o.refused ||| lanes }
    else
      { o with
        olds := o.olds ++ p.olds
        done := o.done ||| lanes
        flags := o.flags ||| p.flags
        released := if p.cst.isSome then o.released ||| lanes else o.released
        member := p.cst.getD o.member }

/-- The write of a gang is delivered (G, R262). -/
def ackGang (s : State) (gi tag : Nat) : State :=
  match s.gang gi with
  | none => s
  | some g => s.putGang gi { g with outst := g.outst.filter (fun o => o.tag ≠ tag) }

/-- The answer to one line of an atomic reaches its gang. -/
def atomicReturns (s : State) (gi pi line : Nat) (r : Req) (p : Packet) : State :=
  match (ackGang s gi r.tag).gang gi with
  | none => s
  | some g =>
    let s1 := mergeCore (ackGang s gi r.tag) (coreKey g.die g.core) p.stamp
    match opOf g pi with
    | none => s1
    | some op => settleOp s1 gi g (atomicLine op r.tag line p)

/-- ATOMIC_RESPONSE (R259 to R261, R423). -/
def execAtomicResponse (src dst : Nat) (s : State) : Out :=
  withResponse .atomicResponse src dst s fun s1 r p =>
    match r.who with
    | .atomic gi pi line => atomicReturns s1 gi pi line r p
    | _ => s1

-- Acknowledgements

/-- A write of a gang that no instruction can report any more is taken at rank 2, with its address and lanes (R359, R370). -/
def reportStore (s : State) (gi tag : Nat) (cause info : Word) : State :=
  match s.gang gi with
  | none => s
  | some g =>
    match g.outst.find? (fun o => o.tag == tag) with
    | none => s
    | some o => dropLoading (s.putGang gi (escalate g ⟨cause, o.pc, o.va, o.lanes, info⟩)) gi

/-- A command's write has no effect: the command faults at its element (R337). -/
def failWrite (s : State) (k cmd tag code : Nat) : State :=
  match findCmd (s.coreAt (keyDie k) (keyCore k)) cmd with
  | none => s
  | some c => match c.writes.find? (fun w => w.1 == tag) with
    | some (_, n, va) => s.putCmd k (failCmd c code va n)
    | none => s

/-- The partner has the forwarded write (R229, R422): the hold on the line ends, the reply goes out, and the loads that waited are
read. -/
def forwardAcked (s : State) (j tag : Nat) (reply : Option Packet) : State :=
  let m := s.member j
  let waiting := (m.lineHolds.filter (fun h => h.tag == tag)).flatMap (·.waiting)
  let s1 := s.putMember j { m with lineHolds := m.lineHolds.filter (fun h => h.tag ≠ tag) }
  let s2 := match reply with
    | some q => respond s1 q (match s1.reqs.find? (fun r => r.tag == q.tag) with | some r => r.stamp.isSome | none => false)
    | none => s1
  waiting.foldl (fun acc p => readOrHold acc j p) s2

/-- Put a grid back. -/
def State.grid (s : State) (id : Nat) : Option Grid := look s.grids id
def State.putGrid (s : State) (id : Nat) (x : Grid) : State := { s with grids := store s.grids id x }

/-- A write is delivered: whoever made it learns so (R422). -/
def writeAcked (s : State) (r : Req) : State :=
  match r.who with
  | .store gi => ackGang s gi r.tag
  | .forward _ reply => forwardAcked s r.die r.tag reply
  | .engineWrite d c cmd =>
    let k := coreKey d c
    match findCmd (s.coreAt d c) cmd with
    | none => s
    | some x => s.putCmd k { x with writes := x.writes.filter (fun w => w.1 ≠ r.tag) }
  | _ => s

/-- A home refused a write (R27, R236): the gang's is taken at rank 2, for its instruction has ended; a command's faults with PROT. -/
def writeRefused (s : State) (r : Req) : State :=
  match r.who with
  | .store gi => reportStore s gi r.tag cPROT (BitVec.ofNat 32 ((((s.gang gi).bind (fun g => g.outst.find? (fun o => o.tag == r.tag))).map (·.refusal)).getD (16 * 6 + 7)))
  | .engineWrite d c cmd => failWrite s (coreKey d c) cmd r.tag cePROT
  | .queueCopy _ => { s with refusedHost := s.refusedHost ++ [r.tag] }
  | _ => s

/-- WRITE_ACKNOWLEDGEMENT (R422). -/
def execWriteAcknowledgement (src dst : Nat) (s : State) : Out :=
  withResponse .writeAck src dst s fun s1 r p => writeAcked (if p.refused then writeRefused s1 r else s1) r

/-- FLUSH_REPLY (R339, R350): the home's vector is merged into those of the `flsig`. -/
def execFlushReply (src dst : Nat) (s : State) : Out :=
  withResponse .flushReply src dst s fun s1 r p =>
    match r.who with
    | .flush d c cmd =>
      match findCmd (s1.coreAt d c) cmd with
      | none => s1
      | some x => s1.putCmd (coreKey d c) { x with replies := setDel x.replies src, cv := mergeCV x.cv p.stamp }
    | _ => s1

-- PCIe

/-- The operations from the one with a tag on, and those before it that are not posted writes (they keep their place). -/
def issueBefore (tag : Nat) : State → List (Nat × PcieOp) → State × List (Nat × PcieOp)
  | acc, [] => (acc, [])
  | acc, x :: r =>
    if x.1 = tag then (acc, x :: r)
    else match x.2 with
      | .write _ bytes => issueBefore tag (putBytes acc bytes) r
      | _ =>
        let (a, l) := issueBefore tag acc r
        (a, x :: l)

/-- What the host's memory holds for a line: the data a completion brings, if it is a line's worth. -/
def hostReturns (s : State) (a : Nat) (st : PcieStatus) : State :=
  match st with
  | .ok data => if data.length = 64 then putBytes s (imageOf a data) else s
  | _ => s

/-- Perform the completion of an operation at the head of what remains. -/
def completePcie (s : State) (tag : Nat) (op : PcieOp) (st : PcieStatus) : State :=
  let s0 : State := { s with pcie := s.pcie.filter (fun x => x.1 ≠ tag) }
  let stamped := match s.reqs.find? (fun r => r.tag == tag) with | some r => r.stamp.isSome | none => false
  match op with
  | .write _ bytes => match st with
    | .ok _ => putBytes s0 bytes
    | _ => { s0 with refusedHost := s0.refusedHost ++ [tag] }
  | .zeroRead => match st with
    | .ok _ => s0
    | _ => { s0 with refusedHost := s0.refusedHost ++ [tag] }
  | .read a reply =>
    match st with
    | .ok _ =>
      let s1 := hostReturns s0 a st
      respond s1 { reply with data := placeBytes s1 a 64 } stamped
    | _ => respond s0 { reply with poison := some 0 } stamped
  | .atomic a rq reply =>
    match st with
    | .ok _ =>
      let s1 := hostReturns s0 a st
      let b := atomLanes rq.op rq.ty rq.args (placeBytes s1 a 64) [] 0
      respond (putBytes s1 (enabled (a / 64) (atomBen rq) b.1)) { reply with olds := b.2.1, flags := b.2.2 } true
    | _ => respond s0 { reply with refused := true } true

/-- PCIE_COMPLETION (R243, R260, R263, R282): every posted write delivered before the operation has been issued; then the
operation completes. An AtomicOp delivered before it comes first. Nothing completes while the link is down (R450). -/
def execPcieCompletion (tag : Nat) (status : PcieStatus) (s : State) : Out :=
  match look s.pcie tag with
  | none => .next s
  | some op =>
    let ahead := s.pcie.takeWhile (fun x => x.1 ≠ tag)
    if !s.pcieUp || ahead.any (fun x => match x.2 with | .atomic .. => true | _ => false) then .next s
    else
      let (s1, l) := issueBefore tag s s.pcie
      .next (completePcie { s1 with pcie := l } tag op status)

/-- PCIE_LINK_DOWN (R450): grids run on, records wait, and Gander reports on the side band. -/
def execPcieLinkDown (s : State) : Out := .next { s with pcieUp := false, checks := s.checks ++ [(16, 4)] }

-- Loss of a member

/-- Flush-and-signal commands that cover a lost write fault with LOST (R339). -/
def loseCovered (s : State) (covers : CopyCmd → Bool) (va : DWord) : State :=
  { s with cores := spMap Core.reset (fun _ c =>
      { c with copyq := c.copyq.map (fun x => if covers x then failCmd x ceLOST va 0 else x) }) s.cores }

/-- A command that waited for a lost home faults with LOST, and so does a `flsig` that covers its write (R337 to R339). -/
def loseCmd (s : State) (k cmd tag : Nat) : State :=
  match findCmd (s.coreAt (keyDie k) (keyCore k)) cmd with
  | none => s
  | some c =>
    match c.reads.find? (fun x => x.1 == tag), c.writes.find? (fun x => x.1 == tag) with
    | some (_, n, a), _ => s.putCmd k { c with reads := c.reads.filter (fun y => y.1 ≠ tag), stage := c.stage ++ [(n, .fault ceLOST a)] }
    | none, some (_, n, a) =>
      loseCovered (s.putCmd k (failCmd { c with writes := c.writes.filter (fun y => y.1 ≠ tag) } ceLOST a n)) (fun x => x.covers.contains cmd) a
    | none, none => s

/-- What a response does for the one who asked. -/
def answerReq (s : State) (r : Req) (p : Packet) : State :=
  match r.who with
  | .atomic gi pi line => atomicReturns s gi pi line r p
  | .store _ | .engineWrite .. | .forward .. | .queueCopy _ => writeAcked (if p.refused then writeRefused s r else s) r
  | _ => readReturns s r p

/-- The tag stays, and the write of a gang is now on its way to another home. -/
def rehome (s : State) (r : Req) (home : Nat) : State :=
  let move := fun (gi : Nat) => match s.gang gi with
    | some g => s.putGang gi { g with outst := g.outst.map (fun o => if o.tag = r.tag then { o with home := home } else o) }
    | none => s
  match r.who with
  | .store gi | .atomic gi _ _ => move gi
  | _ => s

/-- A request to a lost member ends (R370, R429): a load reports POISON SOURCE 5 at its instruction, a store is taken at rank 2, a
command faults, and a forward is over, since the surviving home has the write (R246). -/
def dropReq (s : State) (d : Nat) (r : Req) : State :=
  let dead := { blankPacket s .readResponse d r.die with tag := r.tag, poison := some 5 }
  match r.who with
  | .load .. | .prefetch .. | .cell .. => readReturns s { r with stamp := none } dead
  | .store gi =>
    let va := (((s.gang gi).bind (fun g => g.outst.find? (fun o => o.tag == r.tag))).map (·.va)).getD 0
    ackGang (reportStore (loseCovered s (fun x => x.bulk.contains r.tag) va) gi r.tag cPOISON (poisonInfo 5)) gi r.tag
  | .atomic gi pi line =>
    match (ackGang s gi r.tag).gang gi with
    | none => s
    | some g =>
      match opOf g pi with
      | none => ackGang s gi r.tag
      | some op => settleOp (ackGang s gi r.tag) gi g (atomicLine op r.tag line { dead with op := .atomicResponse })
  | .forward _ reply => forwardAcked s r.die r.tag reply
  | .engineRead a b cmd _ | .engineWrite a b cmd => loseCmd s (coreKey a b) cmd r.tag
  | .flush a b cmd =>
    match findCmd (s.coreAt a b) cmd with
    | none => s
    | some x => s.putCmd (coreKey a b) { x with replies := setDel x.replies d }
  | .queueCopy _ => { s with refusedHost := s.refusedHost ++ [r.tag] }

/-- A request to a member that is gone: for a line of a duplex page the answer that it has given counts, or the partner serves the request
(R229, R344); any other ends. -/
def loseReq (s : State) (d : Nat) (answers : List Packet) (r : Req) : State :=
  match r.again with
  | none => dropReq s d r
  | some p =>
    let pa := partnerOf p.addr.toNat
    if !homeServes s (homeOf pa) then dropReq s d r
    else match answers.find? (fun q => q.tag == r.tag) with
      | some q => answerReq s r q
      | none => rehome (resend s r { p with dst := homeOf pa, addr := BitVec.ofNat 64 pa, dup := false, partner := false }) r (homeOf pa)

/-- End every request of member j to member d that `pick` picks. -/
def loseAll (s : State) (j d : Nat) (answers : List Packet) (pick : Req → Bool) : State :=
  let mine := s.reqs.filter (fun r => r.die = j ∧ r.home = d ∧ pick r)
  mine.foldl (fun acc r => loseReq { acc with reqs := acc.reqs.filter (fun x => x.tag ≠ r.tag) } d answers r) s

/-- A forward of home d that its partner has not delivered: on its way, or held there. -/
def onTheWay (s : State) (d tag : Nat) : Bool :=
  [8, 9, 10, 11, 12, 13, 14, 15].any (fun j => ((spGet [] s.flights (flightKey d j 0)) ++ (s.member j).holds).any (fun p =>
    p.op == .forwardedWrite && p.src == d && p.tag == tag))

/-- What a lost home has forwarded and its partner has not delivered is discarded (R429): whoever asked for the write has no answer, and asks the
partner. -/
def dropSent (s : State) (d j : Nat) : State :=
  let m := s.member j
  { s with flights := spSet [] s.flights (flightKey d j 0) [] }.putMember j { m with holds := m.holds.filter (fun p => p.src != d) }

/-- The forwards of a lost home are over (R246, R429): those that the partner has delivered count, with the answers to whoever waited for them; the
others are discarded. -/
def settleForwards (s : State) (d : Nat) : State :=
  let s1 := (s.reqs.filter (fun r => r.die == d && !onTheWay s d r.tag)).foldl (fun acc r => match r.who with
    | .forward _ reply => forwardAcked { acc with reqs := acc.reqs.filter (fun x => x.tag ≠ r.tag) } d r.tag reply
    | _ => acc) s
  let s2 := [8, 9, 10, 11, 12, 13, 14, 15].foldl (fun acc j => dropSent acc d j) s1
  s2.putMember d { s2.member d with fwds := [] }

/-- What a held packet that depends on the lost member does (R429): a write is delivered; an atomic is performed and answers with
CST; a causal load answers with CST and no data. An earlier packet of its source goes first (R421). -/
def releaseHeld (s : State) (j : Nat) (p : Packet) : State :=
  let m := s.member j
  let s1 := s.putMember j { m with holds := m.holds.filter (fun q => q.tag ≠ p.tag) }
  match m.holds.find? (fun q => q.src == p.src) with
  | some q => if q.tag = p.tag ∧ holdFree s1 j p then deliverStamped s1 j p else s
  | none => s

/-- A held packet whose stamp names a write of d that the member has not seen. -/
def dependsOn (m : Member) (d : Nat) (p : Packet) : Bool := windowLess16 (low16 (nth32 m.view d)) (nth16 p.stamp d)

/-- Forwards of a home to a partner that is gone, not sent yet, are over: the home serves the pages alone (R229). -/
def dropForwards (s : State) (j d : Nat) : State :=
  let m := s.member j
  (m.fwds.filter (fun f => f.packet.dst == d)).foldl (fun acc f => forwardAcked acc j f.tag (some f.reply))
    (s.putMember j { m with fwds := m.fwds.filter (fun f => f.packet.dst != d) })

/-- What the notice of a loss makes a member do (R429). -/
def actOnLoss (s : State) (dst lost : Nat) : State :=
  let m := s.member dst
  let held := (m.holds.filter (fun p => p.src ≠ lost)).map (fun p => if dependsOn m lost p then { p with cst := some lost } else p)
  let m1 := { m with removed := setAdd m.removed lost, holds := held, writeq := m.writeq.filter (fun p => p.src ≠ lost) }
  let fl := (List.range 4).foldl (fun acc vc => spSet [] acc (flightKey lost dst vc) []) s.flights
  let s1 := { s with notices := s.notices.filter (fun x => x ≠ (dst, lost)), flights := fl }.putMember dst m1
  let s2 := (held.filter (·.cst.isSome)).foldl (fun acc p => releaseHeld acc dst p) s1
  let s3 := dropForwards (loseAll s2 dst lost (spGet [] s.flights (flightKey lost dst 1)) (fun _ => true)) dst lost
  if dst = 16 then refloor s3 else s3

/-- LOSS_NOTICE (R416, R429): the controller's notice of the loss of `lost` arrives at member `dst`, which acts on it; die 16 needs no packet. -/
def execLossNotice (dst lost : Nat) (s : State) : Out :=
  if !s.notices.contains (dst, lost) then .next s
  else if dst = 16 then .next (actOnLoss s 16 lost)
  else match takeArrival s .lossNotice 16 dst with
    | none => .next s
    | some (p, s1) =>
      if defective (s1.member dst) p then .next (s1.check dst ckPacket)
      else if p.addr.toNat = lost then .next (actOnLoss s1 dst lost)
      else .next s

/-- RET of a die in the remap table (R403). -/
def setRet (s : State) (d : Nat) : State :=
  { s with remap := listSet s.remap d (listGet (0 : BitVec 8) s.remap d ||| 0x80) }

/-- Functions whose ASIDs a loss names, with a CAUSAL record for each ASID (R429, R443). -/
def causalRecords (s : State) (d : Nat) : State :=
  let asids := (((List.range 17).flatMap (fun j => (s.member j).traffic.filterMap (fun x => if x / 4096 = d then some (x % 4096) else none)))
    ++ (s.member d).traffic.map (· % 4096)).eraseDups
  asids.foldl (fun acc a => (addRecord acc (asidFn acc a) ⟨3, a, 0, 0, 0, 0, 0, 0, nat64 d, noTrap, none⟩).2) s

/-- The controller's notice to a member (R416, R429). -/
def sendNotice (s : State) (d j : Nat) : State :=
  if j = 16 then s else (markD s 16 j).post { blankPacket s .lossNotice 16 j with addr := BitVec.ofNat 64 d }

/-- Gander has retired the die, and it is out of the domain (R406). -/
def retiredDie (s : State) (d : Nat) : Bool := isRemoved (s.member 16) d && (listGet (0 : BitVec 8) s.remap d).getLsbD 7

/-- The controller declares a member lost (R429): notices to every other member, RET, and the records. One whose orderly removal is on its way is
lost too, for the members that its farewell has not reached. -/
def declareLost (s : State) (d : Nat) : State :=
  if retiredDie s d || s.notices.contains (16, d) then s
  else
    let others := (List.range 17).filter (fun j => j ≠ d ∧ !isRemoved (s.member 16) j)
    let s1 := setRet (causalRecords (if 8 ≤ d then settleForwards s d else s) d) d
    let s2 : State := { s1 with
      reqs := s1.reqs.filter (fun r => r.die ≠ d)
      notices := s1.notices.filter (fun x => x.1 ≠ d) ++ others.map (fun j => (j, d))
      unanswered := s1.unanswered.filter (fun x => x.1 % 32 ≠ d ∧ x.1 / 32 ≠ d)
      refusedHost := s1.refusedHost ++ (s1.reqs.filter (fun r => r.die == d && (match r.who with | .queueCopy _ => true | _ => false))).map (·.tag)
      homeModes := if 8 ≤ d ∧ d < 16 then listSet s1.homeModes (d - 8) .lost else s1.homeModes }
    others.foldl (fun acc j => sendNotice acc d j) s2

/-- A member that no route reaches, or that has left a frontier request of a live member open for 2^20 fabric cycles, that is 1887437 core
cycles (R429). -/
def lossDue (s : State) (d : Nat) : Bool :=
  !placeReached s (placeOfDie s d) ||
  s.unanswered.any (fun x => x.1 % 32 == d && !isRemoved (s.member 16) (x.1 / 32) && decide (1887437 ≤ (s.clock - x.2).toNat))

/-- A request to a home that is gone has no answer on its way. -/
def unansweredReq (s : State) (r : Req) : Bool := !(spGet [] s.flights (flightKey r.home r.die 1)).any (fun q => q.tag == r.tag)

/-- A home serves no more (R344, R406): requests on their way to it end, or go to the partner, and no forward goes to it. -/
def retireHome (s : State) (d : Nat) : State :=
  let s1 : State := { s with homeModes := listSet s.homeModes (d - 8) .retired }
  (List.range 17).foldl (fun acc j => dropForwards (loseAll acc j d [] (unansweredReq acc)) j d) s1

/-- A request that was sent to a home when it was gone (R406): its member has marked the home removed, and nothing answers. -/
def strayReq (s : State) (r : Req) : Bool := memberGone s r.home && isRemoved (s.member r.die) r.home && unansweredReq s r

/-- Such a request ends as one does that was outstanding at the loss (R370, R429), or the partner serves it (R229). -/
def endStray (tag : Nat) (s : State) : Out :=
  match s.reqs.find? (fun r => r.tag == tag) with
  | none => .next s
  | some r => if strayReq s r then .next (loseReq { s with reqs := s.reqs.filter (fun x => x.tag ≠ tag) } r.home [] r) else .next s

/-- A cohort is being placed, behind a compaction, on a core of a die that `pick` picks (R133, R379, R409). -/
def placingOn (s : State) (d : Nat) (pick : Nat → Bool) : Bool :=
  s.cores.any (fun e => keyDie e.1 == d && pick (keyCore e.1) && e.2.compact.isSome)

/-- ORDERLY_REMOVAL (R406, R428): once no cohort is left on a die that Gander retires, the member stops sending stamped packets; once nothing of it is outstanding it sends its last frontiers;
once every other member has marked it removed, the controller sets RET. -/
def execOrderlyRemoval (member : Nat) (s : State) : Out :=
  let m := s.member member
  let others := (List.range 17).filter (fun j => j ≠ member ∧ !isRemoved (s.member 16) j)
  if 16 ≤ member ∨ !s.leavingDies.contains (member, .orderly) ∨ s.cohorts.any (fun e => e.2.die == member) ∨ placingOn s member (fun _ => true) then .next s
  else if !m.quiet then .next (s.putMember member { m with quiet := true })
  else if s.reqs.any (fun r => r.die = member) ∨ !m.fwds.isEmpty then .next s
  else if !m.removed.contains member then
    let s1 := s.putMember member { m with removed := setAdd m.removed member }
    .next (others.foldl (fun acc j => sendFrontier acc member j true) s1)
  else if others.all (fun j => isRemoved (s.member j) member) then
    .next (refloor (if 8 ≤ member then retireHome (setRet s member) member else setRet s member))
  else .next s

/-- A member with nothing held, queued or still to forward. -/
def memberSettled (m : Member) : Bool := m.quiet && m.holds.isEmpty && m.writeq.isEmpty && m.fwds.isEmpty && m.lineHolds.isEmpty

/-- Every live member is quiet and has nothing outstanding, nothing is in flight between live members, nor a farewell to one, and no loss is still to be
acted on (R428, R430 step 2, R433). A request that waits to be sent again is not out. -/
def quietDown (s : State) : Bool :=
  let gone := fun (i : Nat) => isRemoved (s.member 16) i
  s.notices.isEmpty &&
  (List.range 17).all (fun i => gone i || memberSettled (s.member i)) &&
  s.reqs.all (fun r => gone r.die || s.resends.any (fun x => x.1 == r.tag)) &&
  s.flights.all (fun f => f.2.all (fun p => (gone p.src && !p.fare) || gone p.dst))

/-- The causal state of a member after step 3 of R430. -/
def zeroCausal (gen : Bool) (m : Member) : Member :=
  { Member.reset with
    gen := gen
    epoch := m.epoch + 1
    lentTo := m.lentTo
    borrowed := m.borrowed
    lineHolds := m.lineHolds
    removed := m.removed
    lastD := m.lastD }

/-- The remap table after the writes of a resynchronisation (R403): compute entries take new slots when the slots stay a permutation
and no compute die concerned holds a cohort. RET lasts until the next reset (R406). Entries for memory ports, which change only at
bring-up, are ignored and the compute ones applied (DESIGN CHOICE, log entry 159). -/
def newRemap (s : State) (w : List (Nat × Nat)) : List (BitVec 8) :=
  let t := w.foldl (fun acc x => if x.1 < 8 then listSet acc x.1 ((listGet (0 : BitVec 8) acc x.1 &&& 0x80) ||| BitVec.ofNat 8 (x.2 % 8)) else acc) s.remap
  let slots := (t.take 8).map (fun b => b.toNat % 8)
  let quiet := w.all (fun x => !s.cohorts.any (fun e => e.2.die == x.1))
  if (List.range 8).all (fun k => slots.contains k) && quiet then t else s.remap

/-- A core after step 3 of R430: its causal vector is zero, and so are those that its `flsig` commands and tokens hold. -/
def zeroCore (c : Core) : Core := { c with cv := copies 17 0, copyq := c.copyq.map (fun x => if x.cv.isEmpty then x else { x with cv := copies 17 0 }) }
def zeroTokens (g : Gang) : Gang := { g with tokens := g.tokens.map (fun t => if t.cv.isEmpty then t else { t with cv := copies 17 0 }) }

/-- Members of the causal domain that the controller has not removed. -/
def liveMembers (s : State) : List Nat := (List.range 17).filter (fun i => !isRemoved (s.member 16) i)

/-- QUIESCE (R416, R430 step 1): the controller stops die 16, tells every other live member, and rebuilds the routes, so that step 2 can end
(R413, R431). -/
def beginResync (s : State) (remap : List (Nat × Nat)) (readmit : List Nat) : State :=
  let s1 : State := rebuildRoutes { s.putMember 16 { s.member 16 with quiet := true } with resync := some (remap, readmit) }
  ((liveMembers s).filter (fun i => i != 16)).foldl (fun acc i => (markD acc 16 i).post (blankPacket acc .resyncControl 16 i)) s1

/-- QUIESCE arrives at a member, which stops sending stamped packets. -/
def takeQuiesce (s : State) (i : Nat) : Option State :=
  match takeArrival s .resyncControl 16 i with
  | none => none
  | some (p, s1) => some (if defective (s1.member i) p then s1.check i ckPacket else s1.putMember i { s1.member i with quiet := true })

/-- Steps 3 and 4 of R430: the causal state is zeroed, the remap and the readmissions are applied, the routes are rebuilt, and the members go on. A
readmitted die is of the domain again; its retirement lasts until a reset (R406), and a home that serves no more stays out (log entry 140). Spare tables and dead quartets
stay with the virtual die (DESIGN CHOICE, log entry 168). -/
def zeroDomain (s : State) (remap : List (Nat × Nat)) (readmit : List Nat) : State :=
  let gen := !(s.member 16).gen
  let back := fun (i : Nat) => readmit.contains i && !memberGone s i
  rebuildRoutes { s with
    members := s.members.zipIdx.map (fun x =>
      if (liveMembers s).contains x.2 ∨ back x.2 then
        { zeroCausal gen x.1 with removed := (zeroCausal gen x.1).removed.filter (fun r => !back r) }
      else x.1)
    resync := none
    cores := spMap Core.reset (fun _ c => zeroCore c) s.cores
    gangs := s.gangs.map (fun e => (e.1, zeroTokens e.2))
    grids := s.grids.map (fun e => (e.1, { e.2 with cv := copies 17 0 }))
    seenView := copies 17 (copies 17 0)
    seenLow := copies 17 (copies 17 0)
    unanswered := []
    flights := spMap [] (fun _ f => f.filter (fun p => p.op != .resyncControl)) s.flights
    resends := s.resends.map (fun x => (x.1, copies 17 0, x.2.2))
    remap := newRemap s remap }

/-- RESYNCHRONISATION (R430): the first event begins one; each later one lets a QUIESCE arrive, or, once nothing is outstanding, ends it. -/
def execResynchronisation (remap : List (Nat × Nat)) (readmit : List Nat) (s : State) : Out :=
  match s.resync with
  | none => .next (beginResync s remap readmit)
  | some (w, b) =>
    match (liveMembers s).findSome? (takeQuiesce s) with
    | some s1 => .next s1
    | none => if quietDown s then .next (zeroDomain s w b) else .next (rebuildRoutes s)

-- Links

/-- LANE_REPAIR (R402): the lane is mapped onto a redundant one, and the link retrains for at most 2 µs, that is 7200 core cycles; a
link with fewer than 8 modules of at most 4 failed lanes a direction has failed. -/
def execLaneRepair (link module lane : Nat) (s : State) : Out :=
  if 24 ≤ link ∨ 32 ≤ module ∨ 68 ≤ lane then .next s
  else
    let k := linkAt s link
    let lanes := listSet k.lanes module (listGet 0 k.lanes module + 1)
    let working := ((List.range 16).filter (fun m => decide (listGet 0 lanes (2 * m) ≤ 4) && decide (listGet 0 lanes (2 * m + 1) ≤ 4))).length
    .next { s with
      freeCtr := s.freeCtr + 1
      links := listSet s.links link
        { k with lanes := lanes, busy := some (s.clock + BitVec.ofNat 64 (Config.freeNat s.freeCtr % 7201)), failed := k.failed || decide (working < 8) } }

/-- LINK_FAIL (R431): the link carries nothing; its packets wait for the rebuild that a resynchronisation makes. -/
def execLinkFail (link : Nat) (s : State) : Out :=
  if 24 ≤ link then .next s
  else .next { s with links := listSet s.links link { linkAt s link with failed := true } }

-- Invalidations

/-- Begin an invalidation (R245): the translations are dropped and the L1s flash-invalidated. -/
def beginInval (s : State) (asid lo size : Nat) (fn : Option (Nat × Reply)) : State :=
  let s1 := dropRange s asid lo size
  { s1 with fresh := s1.fresh + 1, invals := s1.invals ++ [⟨s1.fresh, asid, s1.reqs.map (·.tag), fn⟩] }

/-- A requester of the ASID still holds an access that it has translated and not sent. -/
def holdsTranslated (s : State) (asid : Nat) : Bool :=
  s.gangs.any (fun e => e.2.kd.asid == asid && e.2.ops.any (fun op => !op.unsent.isEmpty)) ||
  s.cores.any (fun e => e.2.streams.any (fun st => st.asid == asid && (!st.held.isEmpty || st.loads.any (fun x => !x.op.unsent.isEmpty))))

/-- INVALIDATION_COMPLETE (R79, R245): everything translated before is delivered; the driver gets its status, or the host its
Invalidate Completion. -/
def execInvalidationComplete (id : Nat) (s : State) : Out :=
  match s.invals.find? (fun x => x.id == id) with
  | none => .next s
  | some x =>
    if x.waits.any (fun t => s.reqs.any (fun r => r.tag == t)) || holdsTranslated s x.asid then .next s
    else
      let s1 : State := { s with invals := s.invals.filter (fun y => y.id ≠ id) }
      match x.fn with
      | some (f, r) => .next (s1.putFn f { s1.fn f with replies := (s1.fn f).replies ++ [r] })
      | none => .next s1

/-- ATS_INVALIDATE (R245): the ATC entries of the range translate no more, and an invalidation starts in every ASID with the PASID. -/
def execAtsInvalidate (pasid : Nat) (va : DWord) (size : Nat) (s : State) : Out :=
  let lo := va.toNat % 2 ^ 57
  let s1 : State := { s with atc := s.atc.map (fun e =>
    if e.pasid = pasid ∧ e.base < lo + size ∧ lo < e.base + 2 ^ e.log2 then { e with live := false } else e) }
  .next ((s.asids.filter (fun e => asidValid s e.1 && asidPasid s e.1 == pasid)).foldl (fun acc e => beginInval acc e.1 lo size none) s1)

end Sys2Proof.Machine
end

