-- ==== Sys2Proof/Machine/Place.lean ====
section
/-! DEFINITION. The resources of a core and the dispatcher: what a cohort takes (R127 to R132), where it is placed (R207, R210,
R212), reservations (R211), compaction (R133, R213, R214), and the ends of gangs and cohorts (R122, R123). -/

namespace Sys2Proof.Machine

-- Resources

/-- The least k ≤ 10 with n ≤ 2^k. -/
def ceilLog2 (n : Nat) : Nat := ((List.range 20).find? (fun k => decide (n ≤ 2 ^ k))).getD 20

/-- Granules of a gang's register block (R127). -/
def gangGranules (kd : Kernel) : Nat := 2 ^ ceilLog2 (kd.gangw / 16 * (kd.regs / 16) + (kd.nmeta + 7) / 8)

/-- Threads and gangs of a cohort (R114). -/
def cohortThreads (kd : Kernel) : Nat := kd.cx * kd.cy * kd.cz
def cohortGangs (kd : Kernel) : Nat := cohortThreads kd / kd.gangw

/-- A cohort of more than 3072 threads takes a quartet (R124). -/
def needsQuartet (kd : Kernel) : Bool := decide (3072 < cohortThreads kd)

/-- Size of the scratch arena and its initial blocks, as (offset, log2 of size) (R130). -/
def arenaSize (l1 : Nat) : Nat := 262144 - 1024 * l1 - 8192
def arenaBlocks (l1 : Nat) : List (Nat × Nat) :=
  if l1 = 64 then [(0, 17), (0x20000, 15), (0x28000, 14), (0x2C000, 13)]
  else if l1 = 128 then [(0, 16), (0x10000, 15), (0x18000, 14), (0x1C000, 13)]
  else [(0, 17), (0x20000, 16), (0x30000, 14), (0x34000, 13)]

/-- Free blocks of a buddy system within an aligned block of 2^k units, given the taken ranges (R129). -/
def buddyFree (taken : List (Nat × Nat)) : Nat → Nat → List (Nat × Nat)
  | 0, base => if taken.any (fun t => decide (t.1 < base + 1) && decide (base < t.1 + t.2)) then [] else [(base, 0)]
  | k + 1, base =>
    if taken.any (fun t => decide (t.1 < base + 2 ^ (k + 1)) && decide (base < t.1 + t.2)) then
      buddyFree taken k base ++ buddyFree taken k (base + 2 ^ k)
    else [(base, k + 1)]

/-- The smallest free block of at least 2^k units, the lowest of one size (R129). -/
def buddyPick (free : List (Nat × Nat)) (k : Nat) : Option Nat :=
  ((free.filter (fun b => decide (k ≤ b.2))).foldl (fun (acc : Option (Nat × Nat)) b =>
    match acc with
    | none => some b
    | some a => if b.2 < a.2 ∨ (b.2 = a.2 ∧ b.1 < a.1) then some b else some a) none).map (·.1)

/-- Gangs and cohorts on a core. -/
def gangsOn (s : State) (k : Nat) : List (Nat × Gang) := s.gangs.filter (fun e => coreKey e.2.die e.2.core == k)
def cohortOn (c : Cohort) (k : Nat) : Bool :=
  c.die == keyDie k && decide (c.core ≤ keyCore k) && decide (keyCore k < c.core + (if c.quartet then 4 else 1))
def cohortsOn (s : State) (k : Nat) : List (Nat × Cohort) := s.cohorts.filter (fun e => cohortOn e.2 k)

/-- The compaction that runs on a core: its own, or that of its quartet (R133). -/
def compactOf (s : State) (k : Nat) : Option Compact :=
  match (s.coreAt (keyDie k) (keyCore k)).compact with
  | some x => some x
  | none => match (s.coreAt (keyDie k) (keyCore k / 4 * 4)).compact with
    | some x => if x.cores = 4 then some x else none
    | none => none

/-- Register blocks taken on a core, with the gang that holds each; a move in progress holds both of its blocks (R133). -/
def blocksOn (s : State) (k : Nat) : List (Nat × Nat × Nat) :=
  let mine := gangsOn s k
  let moving := match compactOf s k with
    | some x => (x.moves.take 1).filterMap (fun m => (mine.find? (fun e => e.1 == m.1)).map (fun e => (m.2, e.2.granules, m.1)))
    | none => []
  mine.filterMap (fun e => if e.2.granules = 0 then none else some (e.2.block, e.2.granules, e.1)) ++ moving

def regTaken (s : State) (k : Nat) : List (Nat × Nat) := (blocksOn s k).map (fun b => (b.1, b.2.1))

/-- Scratch ranges taken on a core. -/
def scratchTaken (s : State) (k : Nat) : List (Nat × Nat) :=
  (cohortsOn s k).filterMap (fun e =>
    let c := keyCore k - e.2.core
    let n := e.2.scratchBytes
    if n = 0 then none else some (listGet 0 e.2.scratchBase c, n))

/-- Tiles, threads and core gang indices in use (R127, R216). A gang that has ended takes no threads and no index. -/
def tilesTaken (s : State) (k : Nat) : List Nat := (gangsOn s k).flatMap (fun e => e.2.phys)
def threadsOn (s : State) (k : Nat) : Nat := ((gangsOn s k).map (fun e => if gangEnded e.2 then 0 else e.2.kd.gangw)).foldl (· + ·) 0
def indicesOn (s : State) (k : Nat) : List Nat := (gangsOn s k).filterMap (fun e => if gangEnded e.2 then none else some e.2.index)

/-- The first n naturals that are not in a list. -/
def lowestFree (used : List Nat) (n : Nat) : List Nat := ((List.range (used.length + n)).filter (fun i => !used.contains i)).take n

-- What a cohort takes

/-- A cohort to be placed: new, or resumed with the gangs that had not ended. -/
structure Demand where
  grid : Nat
  kd : Kernel
  gangs : List Nat
  tbl : Bool
  deriving DecidableEq, Repr

/-- Gangs of a demand on core position c (R124). -/
def gangsAt (dm : Demand) (c : Nat) : List Nat := if needsQuartet dm.kd then dm.gangs.filter (fun g => g % 4 == c) else dm.gangs

/-- Register blocks for n gangs one after another. -/
def takeBlocks (k : Nat) : Nat → List (Nat × Nat) → Option (List Nat)
  | 0, _ => some []
  | n + 1, taken =>
    match buddyPick (buddyFree taken 9 0) k with
    | none => none
    | some b => (takeBlocks k n ((b, 2 ^ k) :: taken)).map (b :: ·)

/-- A scratch area, as (base, bytes) (R131). -/
def takeScratch (kd : Kernel) (taken : List (Nat × Nat)) : Option (Nat × Nat) :=
  if kd.scratch = 0 then some (0, 0)
  else
    let k := ceilLog2 kd.scratch
    let bs := arenaBlocks kd.l1
    if bs.all (fun b => decide (b.2 < k)) then (if taken.isEmpty then some (0, arenaSize kd.l1) else none)
    else (buddyPick (bs.flatMap (fun b => buddyFree taken b.2 b.1)) k).map (fun b => (b, 2 ^ k))

/-- What a demand is given on one core: register blocks, scratch, tiles and indices. -/
structure CorePlan where
  gangs : List Nat
  blocks : List Nat
  scratch : Nat × Nat
  tiles : List Nat
  indices : List Nat
  deriving DecidableEq, Repr

/-- The logical quartet is in service (R404, R405), and nothing keeps placements away from the core (R211, R394, R406). -/
def coreOpen (s : State) (dm : Demand) (k : Nat) : Bool :=
  let d := keyDie k
  let q := keyCore k / 4
  decide (d < 8) && decide (keyCore k < 256) && !(listGet (0 : BitVec 8) s.remap d).getLsbD 7 &&
  (match look s.spares (64 * d + q) with | some e => e.getLsbD 7 | none => true) &&
  !s.failing.contains (64 * d + q) && !s.leavingDies.any (fun x => x.1 == d) &&
  (needsQuartet dm.kd || !s.reserveQ.any (fun r => r.1 == d && r.2.1 == q && r.2.2 != dm.grid)) &&
  !s.reserveL1.any (fun r => r.1 == d && r.2.1 == keyCore k && r.2.2 != dm.grid &&
    (match look s.grids r.2.2 with | some g => g.kd.l1 != dm.kd.l1 | none => false)) &&
  (compactOf s k).isNone

/-- All but the register blocks fit on a core (R127, R130 to R132, R212). -/
def restFits (s : State) (dm : Demand) (k : Nat) : Bool :=
  let c := keyCore k % 4
  let n := (gangsAt dm c).length
  let core := s.coreAt (keyDie k) (keyCore k)
  (cohortsOn s k).all (fun e => e.2.kd.l1 == dm.kd.l1) && decide ((cohortsOn s k).length < 32) &&
  decide (threadsOn s k + n * dm.kd.gangw ≤ 3072) && decide ((tilesTaken s k).length + n * dm.kd.acc ≤ 32) &&
  (takeScratch dm.kd (scratchTaken s k)).isSome && (!dm.tbl || core.tableOwner.isNone)

/-- The core is held for the cohort by a compaction that has made its moves (R213). -/
def ownPlace (s : State) (dm : Demand) (k : Nat) : Bool :=
  match compactOf s k with
  | some x => x.grid == dm.grid && x.moves.isEmpty
  | none => false

/-- The whole of what a demand takes on a core, when it fits as the core stands. -/
def planCore (s : State) (dm : Demand) (k : Nat) : Option CorePlan :=
  let gs := gangsAt dm (keyCore k % 4)
  if (ownPlace s dm k || coreOpen s dm k) && restFits s dm k then
    match takeBlocks (ceilLog2 (gangGranules dm.kd)) gs.length (regTaken s k), takeScratch dm.kd (scratchTaken s k) with
    | some bs, some sc =>
      some ⟨gs, bs, sc, lowestFree (tilesTaken s k) (gs.length * dm.kd.acc), lowestFree (indicesOn s k) gs.length⟩
    | _, _ => none
  else none

/-- The cores that a demand takes from its first core on. -/
def coresOf (dm : Demand) (k : Nat) : List Nat := if needsQuartet dm.kd then [k, k + 1, k + 2, k + 3] else [k]

/-- A quartet cohort takes one of 8 quartet slots (R127). -/
def quartetSlot (s : State) (dm : Demand) (k : Nat) : Bool :=
  !needsQuartet dm.kd || decide ((s.cohorts.filter (fun e => e.2.quartet && e.2.die == keyDie k && e.2.core == keyCore k)).length < 8)

/-- The plans on every core, or none (R132). -/
def planAll (s : State) (dm : Demand) (k : Nat) : Option (List CorePlan) :=
  if !quartetSlot s dm k then none
  else (coresOf dm k).foldl (fun acc x => match acc, planCore s dm x with
    | some l, some p => some (l ++ [p])
    | _, _ => none) (some [])

-- Compaction

/-- A gang whose block may move: it is not parked, and no load or atomic of it waits (R213). -/
def movable (g : Gang) : Bool := g.parks.isEmpty && !g.paths.any (fun p => p.st == .parked)

/-- Apply moves to the taken blocks. -/
def applyMoves (taken : List (Nat × Nat × Nat)) (mv : List (Nat × Nat)) : List (Nat × Nat × Nat) :=
  taken.map (fun t => match look mv t.2.2 with | some b => (b, t.2.1, t.2.2) | none => t)

/-- Moves so far, and the blocks as they stand after them. -/
abbrev Moved := List (Nat × Nat) × List (Nat × Nat × Nat)

/-- Try every way to free a block of 2^k granules outside the ranges `keep`, and go on from each with `next` until one succeeds: a block that
is free, else an aligned region each of whose blocks, all smaller, finds a place in the same manner (R133, R213). The number bounds the
depth, since the blocks of a region are smaller than it. -/
def freeBlock (can : Nat → Bool) : Nat → Nat → List (Nat × Nat) → (Nat → Moved → Option Moved) → Moved → Option Moved
  | 0, _, _, _, _ => none
  | depth + 1, k, keep, next, m =>
    match buddyPick (buddyFree (keep ++ m.2.map (fun t => (t.1, t.2.1))) 9 0) k with
    | some b => next b m
    | none =>
      (List.range (2 ^ (9 - k))).findSome? fun i =>
        let r := i * 2 ^ k
        let inside := m.2.filter (fun t => decide (t.1 < r + 2 ^ k) && decide (r < t.1 + t.2.1))
        if keep.any (fun t => decide (t.1 < r + 2 ^ k) && decide (r < t.1 + t.2)) || inside.any (fun t => !can t.2.2 || decide (2 ^ k ≤ t.2.1)) then none
        else inside.foldr (fun t rest => freeBlock can depth (ceilLog2 t.2.1) ((r, 2 ^ k) :: keep) (fun b x =>
          rest (x.1 ++ [(t.2.2, b)], applyMoves x.2 [(t.2.2, b)]))) (next r) m

/-- Moves after which n blocks of 2^k granules can be taken, if there are any (R133, R213). Number 0 stands for a block of the new cohort. -/
def takeMoved (can : Nat → Bool) (k : Nat) : Nat → Moved → Option Moved
  | 0, m => some m
  | n + 1, m => freeBlock can 10 k [] (fun b x => takeMoved can k n (x.1, (b, 2 ^ k, 0) :: x.2)) m

def searchMoves (can : Nat → Bool) (k n : Nat) (taken : List (Nat × Nat × Nat)) : Option (List (Nat × Nat)) := (takeMoved can k n ([], taken)).map (·.1)

/-- A gang may be moved on the core; number 0 stands for a block of the new cohort, which does not move. -/
def canMove (s : State) (gi : Nat) : Bool := match s.gang gi with | some g => movable g | none => false

/-- Moves that make room for a demand on a core or quartet, if there are any (R133, R213). -/
def makeRoom (s : State) (dm : Demand) (k : Nat) : Option (List (Nat × Nat)) :=
  (coresOf dm k).foldl (fun acc x => match acc, searchMoves (canMove s) (ceilLog2 (gangGranules dm.kd)) (gangsAt dm (keyCore x % 4)).length (blocksOn s x) with
    | some l, some mv => some (l ++ mv)
    | _, _ => none) (some [])

/-- Compaction could make a core or a quartet fit (R133, R210, R213). -/
def compactable (s : State) (dm : Demand) (k : Nat) : Bool :=
  quartetSlot s dm k && (coresOf dm k).all (fun x => coreOpen s dm x && restFits s dm x) && (makeRoom s dm k).isSome

/-- The moves on one core are allowed, each onto a free aligned block of the right size, and afterwards the cohort's blocks fit. -/
def coreMovesOk (s : State) (dm : Demand) (k : Nat) (mv : List (Nat × Nat)) : Bool :=
  let n := (gangsAt dm (keyCore k % 4)).length
  let r := mv.foldl (fun (acc : Option (List (Nat × Nat × Nat))) m =>
    match acc with
    | none => none
    | some taken =>
      match taken.find? (fun t => t.2.2 == m.1) with
      | none => none
      | some t =>
        let free := m.2 % t.2.1 == 0 && decide (m.2 + t.2.1 ≤ 512) && !taken.any (fun u => decide (u.1 < m.2 + t.2.1) && decide (m.2 < u.1 + u.2.1))
        if canMove s m.1 && free && decide (t.2.1 ≤ 256) then some (applyMoves taken [m]) else none) (some (blocksOn s k))
  match r with
  | none => false
  | some taken => (takeBlocks (ceilLog2 (gangGranules dm.kd)) n (taken.map (fun t => (t.1, t.2.1)))).isSome

/-- The moves of a compaction are allowed on every core it concerns, and each is of a gang of such a core. -/
def movesOk (s : State) (dm : Demand) (k : Nat) (mv : List (Nat × Nat)) : Bool :=
  let on := fun (x : Nat) (m : Nat × Nat) => (gangsOn s x).any (fun e => e.1 == m.1)
  mv.all (fun m => (coresOf dm k).any (fun x => on x m)) && (coresOf dm k).all (fun x => coreMovesOk s dm x (mv.filter (on x)))

-- The dispatcher's choice

/-- Of several cores, the one with the fewest resident threads, then the lowest (R210). -/
def leastLoaded (s : State) (dm : Demand) (ks : List Nat) : Option Nat :=
  let load := fun (k : Nat) => ((coresOf dm k).map (threadsOn s)).foldl (· + ·) 0
  ks.foldl (fun acc k => match acc with
    | none => some k
    | some b => if load k < load b then some k else some b) none

/-- First cores on a die that a demand could take. -/
def firstCores (dm : Demand) (d : Nat) : List Nat :=
  if needsQuartet dm.kd then (List.range 64).map (fun q => coreKey d (4 * q)) else (List.range 256).map (fun c => coreKey d c)

/-- Where a cohort goes on a die: a core as it stands, or one that compaction makes fit. -/
inductive Spot where
  | now (k : Nat)
  | compact (k : Nat)
  deriving DecidableEq, Repr

def spotOnDie (s : State) (dm : Demand) (d : Nat) : Option Spot :=
  match leastLoaded s dm ((firstCores dm d).filter (fun k => (planAll s dm k).isSome)) with
  | some k => some (.now k)
  | none => (leastLoaded s dm ((firstCores dm d).filter (compactable s dm))).map .compact

/-- The live compute dies. -/
def liveDies (s : State) : List Nat := (List.range 8).filter (fun d => !(listGet (0 : BitVec 8) s.remap d).getLsbD 7)

/-- A die can still fit a cohort: it is not being retired, and a logical quartet of it is valid (R405, R406). -/
def dieFits (s : State) (d : Nat) : Bool :=
  !s.leavingDies.any (fun x => x.1 == d) && (List.range 64).any (fun q => match look s.spares (64 * d + q) with | some e => e.getLsbD 7 | none => true)

/-- The dies that the next cohort of a launch tries, in order (R210); a mask with no die left that can fit it gives every live die (R405). -/
def dieOrder (s : State) (g : Grid) : List Nat :=
  let mine := g.dies.filter (fun d => (liveDies s).contains d && dieFits s d)
  let ds := if mine.isEmpty then liveDies s else mine
  match g.lastDie with
  | none => ds
  | some l => ds.filter (fun d => decide (l < d)) ++ ds.filter (fun d => decide (d ≤ l))

/-- The spot that a demand of a grid takes, if any (R210). -/
def findSpot (s : State) (g : Grid) (dm : Demand) : Option Spot := ((dieOrder s g).filterMap (spotOnDie s dm)).head?

/-- Cohorts of a grid. -/
def gridCohorts (g : Grid) : Nat := g.nx * g.ny * g.nz

/-- Saved cohorts of a grid, oldest first (R390). -/
def savedOf (s : State) (gi : Nat) : List (Nat × Saved) := s.saved.filter (fun e => e.2.grid == gi)

/-- What a saved cohort of a grid takes, or its next new one (R390). -/
def demandOf (s : State) (gi : Nat) (g : Grid) (id : Option Nat) : Option Demand :=
  if g.failed || g.abandoned then none
  else match id with
    | some n => (look s.saved n).map (fun sv => ⟨gi, g.kd, sv.live, sv.tbl⟩)
    | none => if g.nextCohort < gridCohorts g then some ⟨gi, g.kd, List.range (cohortGangs g.kd), g.tbl⟩ else none

/-- What the grid has to dispatch next: a saved cohort, before the unplaced ones (R390). -/
def nextDemand (s : State) (gi : Nat) (g : Grid) : Option (Option Nat × Demand) :=
  let id := (savedOf s gi).head?.map (·.1)
  (demandOf s gi g id).map (fun dm => (id, dm))

/-- An earlier launch of the queue still has cohorts to dispatch (R205, R210). -/
def behindOther (s : State) (gi : Nat) (g : Grid) : Bool :=
  s.grids.any (fun e => e.1 != gi && e.2.queue == g.queue && e.2.fn == g.fn && decide (e.2.launch < g.launch) && (nextDemand s e.1 e.2).isSome)

/-- A cohort that an earlier launch of its queue kept back until now begins to wait for room (R209, R211). -/
def restartWaits (old s : State) : State :=
  { s with grids := s.grids.map (fun e => match old.grid e.1 with
      | some g => if behindOther old e.1 g && !behindOther s e.1 e.2 then (e.1, { e.2 with waitFrom := some s.clock }) else e
      | none => e) }

def queuePrio (s : State) (q : Nat) : Nat := match look s.queues q with | some x => x.prio | none => 0

/-- Key of a grid's queue. -/
def gridQueue (g : Grid) : Nat := 65536 * g.fn + g.queue

/-- A compaction runs for the grid's next cohort, which goes nowhere else meanwhile (R213). -/
def compacting (s : State) (gi : Nat) : Bool := s.cores.any (fun e => match e.2.compact with | some x => x.grid == gi | none => false)

/-- The grid's next cohort is held by nothing but want of room (R209, R210). -/
def waitsForRoom (s : State) (gi : Nat) (g : Grid) : Bool := !behindOther s gi g && !compacting s gi

/-- Where a grid's next cohort can go now. -/
def placeable (s : State) (gi : Nat) (g : Grid) : Option Spot :=
  match nextDemand s gi g with
  | none => none
  | some (_, dm) => if waitsForRoom s gi g then findSpot s g dm else none

/-- It is this grid's turn (R207): no queue of a higher priority has a placeable cohort, and within its priority the rotation has
come to its queue. The rotation goes by rising function and queue number (DESIGN CHOICE, log entry 109). -/
def itsTurn (s : State) (gi : Nat) (g : Grid) : Bool :=
  let p := queuePrio s (gridQueue g)
  let rivals := s.grids.filter (fun e => e.1 != gi && (placeable s e.1 e.2).isSome)
  let last := (look s.served p).getD 0
  let dist := fun (q : Nat) => if last < q then q - last else q + 65536 * 64 - last
  rivals.all (fun e =>
    let pe := queuePrio s (gridQueue e.2)
    decide (pe < p) || (pe == p && decide (dist (gridQueue g) ≤ dist (gridQueue e.2))))

-- Starting a cohort

/-- A gang at its start (R17, R21, R115, R170, R297, R329). -/
def newGang (s : State) (gridId : Nat) (gr : Grid) (cohort number gangid k : Nat) (block index : Nat) (phys : List Nat) (areas : List Nat)
    (spos : Nat) : Gang where
  gangid := gangid
  cohort := cohort
  grid := gridId
  die := keyDie k
  core := keyCore k
  index := index
  kd := gr.kd
  params := gr.params
  cidx := BitVec.ofNat 32 (number % gr.nx)
  cidy := BitVec.ofNat 32 (number / gr.nx % gr.ny)
  cidz := BitVec.ofNat 32 (number / (gr.nx * gr.ny))
  ncidx := BitVec.ofNat 32 (gr.nx - 1)
  ncidy := BitVec.ofNat 32 (gr.ny - 1)
  ncidz := BitVec.ofNat 32 (gr.nz - 1)
  v := []
  vpoison := []
  s := []
  p := []
  paths := [⟨0, segAddr gr.kd gr.kd.entry, lowLanes gr.kd.gangw, .ready, s.seq, slicesOf (lowLanes gr.kd.gangw)⟩]
  stack := []
  exited := 0
  round := gr.kd.round
  fpstat := 0
  xlctl := 0
  capctl := gr.kd.capctl
  capstat := 0
  tcause := 0
  tpc := 0
  taddr := 0
  tlanes := 0
  tinfo := 0
  handler := none
  head := 0
  count := 0
  frontAt := none
  tokens := copies 16 Token.reset
  mregs := copies 16 Meta.reset
  tiles := copies gr.kd.acc Tile.reset
  phys := phys
  areas := areas
  spos := spos
  outst := []
  xc := Xc.empty
  parks := []
  ops := []
  storeGate := []
  hostWrites := []
  sysGate := []
  sysRead := none
  engineHost := []
  pending := []
  stopped := false
  paused := false
  nextPath := 1
  readySince := some s.clock
  urgent := false
  block := block
  granules := gangGranules gr.kd
  rot := []
  held := []
  engaged := none
  fetching := none

/-- The lines that an L1 of so many sets keeps: at most 8 of each set (R130, R223). -/
def fitL1 (sets : Nat) (l : List (Nat × L1Line)) : List (Nat × L1Line) :=
  l.foldl (fun acc x => if (acc.filter (fun y => y.1 % sets == x.1 % sets)).length < 8 then acc ++ [x] else acc) []

/-- Zero a scratch area, and the table banks when the cohort owns them (R125, R167, R212); the L1 takes the size that the cohort's `.l1` gives it, and
lines that find no way in it go (R130, R223). -/
def prepareCore (s : State) (k cohort : Nat) (kd : Kernel) (tbl : Bool) (base : Nat) : State :=
  let c := s.coreAt (keyDie k) (keyCore k)
  let gone := fun (a : Nat) => (decide (base ≤ a) && decide (a < base + kd.scratch)) || (tbl && decide (0x3E000 ≤ a) && decide (a < 0x40000))
  let c1 := { c with l1 := fitL1 (2 * kd.l1) c.l1, mem := c.mem.filter (fun x => !gone x.1), mpoison := c.mpoison.filter (fun w => !gone (8 * w)) }
  s.putCore (keyDie k) (keyCore k) (if tbl then { c1 with bank := 0, tableOwner := some cohort } else c1)

/-- Offer the images of the queue's CAPLOAD packets before the launch to the slots of a core (R439). -/
def offerImages (s : State) (k : Nat) (gr : Grid) : State :=
  match look s.queues (gridQueue gr) with
  | none => s
  | some q => (q.images.filter (fun im => decide (im.after ≤ gr.launch))).foldl (fun acc im =>
      match revalidate acc (keyDie k) (keyCore k) q.asid im.kd im.head im.image with
      | none => acc
      | some sl => match placeSlot (acc.coreAt (keyDie k) (keyCore k)) sl with
        | some c => acc.putCore (keyDie k) (keyCore k) c
        | none => acc) s

/-- Each gang of the cores' plans: GANGID, core, block, index, tiles. -/
def planGangs (dm : Demand) (k : Nat) (plans : List CorePlan) : List (Nat × Nat × Nat × Nat × List Nat) :=
  plans.zipIdx.flatMap (fun x => x.1.gangs.zipIdx.map (fun y =>
    (y.1, k + x.2, listGet 0 x.1.blocks y.2, listGet 0 x.1.indices y.2, (x.1.tiles.drop (y.2 * dm.kd.acc)).take dm.kd.acc)))

/-- The cohort record of a placement. -/
def newCohort (s : State) (gridId number k : Nat) (dm : Demand) (plans : List CorePlan) (gangs : List Nat) : Cohort where
  grid := gridId
  number := number
  die := keyDie k
  core := keyCore k
  quartet := needsQuartet dm.kd
  kd := dm.kd
  gangs := gangs
  scratchBase := plans.map (fun p => p.scratch.1)
  scratchBytes := (plans.head?.map (fun p => p.scratch.2)).getD 0
  ownsTable := dm.tbl
  arrivals := []
  asked := false
  stopping := false
  askedBy := none
  room := none
  placed := s.seq

/-- Place the next cohort of a grid on cores from k on (R123 to R132, R423): everything is reserved and every gang starts. -/
def startCohort (s : State) (gridId : Nat) (gr : Grid) (dm : Demand) (k : Nat) (plans : List CorePlan) : State :=
  let number := gr.nextCohort
  let cid := s.fresh
  let gs := planGangs dm k plans
  let areas := plans.map (fun p => p.scratch.1)
  let ids := gs.zipIdx.map (fun x => cid + 1 + x.2)
  let s1 : State := { s with fresh := cid + 1 + gs.length }
  let s2 := s1.putCohort cid (newCohort s gridId number k dm plans ids)
  let s3 := (coresOf dm k).zipIdx.foldl (fun acc x => prepareCore acc x.1 cid dm.kd dm.tbl (listGet 0 areas x.2)) s2
  let s4 := gs.zipIdx.foldl (fun acc x =>
    acc.putGang (cid + 1 + x.2) (newGang s gridId gr cid number x.1.1 x.1.2.1 x.1.2.2.1 x.1.2.2.2.1 x.1.2.2.2.2 areas (x.1.2.1 - k))) s3
  let s5 := (coresOf dm k).foldl (fun acc x => offerImages (mergeCore acc x gr.cv) x gr) s4
  let s6 : State := { s5 with
    served := store s5.served (queuePrio s (gridQueue gr)) (gridQueue gr)
    reserveQ := s5.reserveQ.filter (fun r => r.2.2 ≠ gridId)
    reserveL1 := s5.reserveL1.filter (fun r => r.2.2 ≠ gridId) }
  restartWaits s (s6.putGrid gridId { gr with nextCohort := number + 1, lastDie := some (keyDie k), waitFrom := some s.clock })

/-- COHORT_PLACE (R207, R210): the grid's next cohort is placed when it is its turn and a core or quartet fits. -/
def execCohortPlace (grid : Nat) (s : State) : Out :=
  match s.grid grid with
  | none => .next s
  | some g =>
    match nextDemand s grid g with
    | some (none, dm) =>
      if !waitsForRoom s grid g || !itsTurn s grid g then .next s
      else match findSpot s g dm with
        | some (.now k) =>
          match planAll s dm k with
          | some plans => .next (startCohort s grid g dm k plans)
          | none => .next s
        | _ => .next s
    | _ => .next s

/-- CLOCK since which a grid's next cohort has waited. -/
def waited (s : State) (g : Grid) : Nat := match g.waitFrom with | some t => (s.clock - t).toNat | none => 0

/-- QUARTET_RESERVE (R211): a quartet cohort that has waited 4096 cycles reserves the quartet with the fewest resident threads. -/
def execQuartetReserve (die grid : Nat) (s : State) : Out :=
  match s.grid grid with
  | none => .next s
  | some g =>
    match nextDemand s grid g with
    | some (_, dm) =>
      if needsQuartet dm.kd && decide (4096 ≤ waited s g) && (dieOrder s g).contains die && !s.reserveQ.any (fun r => r.1 == die || r.2.2 == grid) &&
          waitsForRoom s grid g && (placeable s grid g).isNone then
        match leastLoaded s dm ((firstCores dm die).filter (fun k => (coresOf dm k).all (coreOpen s dm))) with
        | some k => .next { s with reserveQ := s.reserveQ ++ [(die, keyCore k / 4, grid)] }
        | none => .next s
      else .next s
    | none => .next s

/-- L1_SIZE_RESERVE (R211): a cohort that only another `.l1` value keeps out reserves a core. -/
def execL1SizeReserve (die grid : Nat) (s : State) : Out :=
  match s.grid grid with
  | none => .next s
  | some g =>
    match nextDemand s grid g with
    | some (_, dm) =>
      let other := (firstCores dm die).filter (fun k => coreOpen s dm k && (cohortsOn s k).any (fun e => e.2.kd.l1 != dm.kd.l1))
      if !needsQuartet dm.kd && decide (4096 ≤ waited s g) && (dieOrder s g).contains die && !s.reserveL1.any (fun r => r.1 == die || r.2.2 == grid) &&
          waitsForRoom s grid g && !(firstCores dm die).any (fun k => (planAll s dm k).isSome) then
        match leastLoaded s dm other with
        | some k => .next { s with reserveL1 := s.reserveL1 ++ [(die, keyCore k, grid)] }
        | none => .next s
      else .next s
    | none => .next s

/-- Nothing is returning to the gang's block: no load or atomic, no stream, no drain into registers, no metadata (R133). -/
def blockQuiet (s : State) (gi : Nat) (g : Gang) : Bool :=
  let c := s.coreAt g.die g.core
  g.ops.isEmpty && !c.streams.any (fun st => st.gang == gi) &&
  !c.oxq.any (fun e => e.gang == gi && (!(drainRegs e).isEmpty || (match e.instr with | .ldmeta _ _ _ _ => true | _ => false)))

/-- Pause the gang of the first move once nothing is returning to it (R133, R214); a block of a gang that is parked meanwhile stays for now
(R246). -/
def beginMove (s : State) (k : Nat) : State :=
  let c := s.coreAt (keyDie k) (keyCore k)
  match c.compact with
  | some x =>
    match x.moves, x.since with
    | (gi, _) :: _, none =>
      match s.gang gi with
      | some g =>
        if movable g && blockQuiet s gi g then
          (s.putGang gi { g with paused := true }).putCore (keyDie k) (keyCore k) { c with compact := some { x with since := some s.clock } }
        else s
      | none => s.putCore (keyDie k) (keyCore k) { c with compact := some { x with moves := x.moves.drop 1 } }
    | _, _ => s
  | none => s

/-- COMPACTION_START (R133, R213): only when no core of the die fits without one; `moves` are the compactor's choice. -/
def execCompactionStart (core grid : Nat) (moves : List (Nat × Nat)) (s : State) : Out :=
  match s.grid grid with
  | none => .next s
  | some g =>
    match nextDemand s grid g with
    | some (id, dm) =>
      if !waitsForRoom s grid g || !itsTurn s grid g || findSpot s g dm ≠ some (.compact core) || !movesOk s dm core moves then .next s
      else
        let c := s.coreAt (keyDie core) (keyCore core)
        .next (beginMove (s.putCore (keyDie core) (keyCore core) { c with compact := some ⟨grid, id, (coresOf dm core).length, false, none, moves, none⟩ }) core)
    | none => .next s

/-- Name the cohorts whose placement is in progress for pre-emption once they are placed, with a place kept for the context (R379, R442). -/
def askPlacing (s : State) (pick : Nat → Compact → Bool) (room : Option (Nat × Nat)) : State :=
  { s with cores := spMap Core.reset (fun k c => match c.compact with
      | some x => if pick k x then { c with compact := some { x with asked := true, room := if x.room.isSome then x.room else room } } else c
      | none => c) s.cores }

/-- A compaction has made its moves: its cohort is placed there (R213), unless the grid has ended. A saved cohort is left to RESUME, which
reads its block. -/
def endCompaction (s : State) (k : Nat) (x : Compact) : State :=
  let c := s.coreAt (keyDie k) (keyCore k)
  let drop := fun (t : State) => t.putCore (keyDie k) (keyCore k) { t.coreAt (keyDie k) (keyCore k) with compact := none }
  match s.grid x.grid with
  | none => drop s
  | some g =>
    match x.saved, demandOf s x.grid g x.saved with
    | none, some dm =>
      match planAll (s.putCore (keyDie k) (keyCore k) { c with compact := some { x with moves := [] } }) dm k with
      | some plans =>
        let t := drop (startCohort s x.grid g dm k plans)
        match t.cohort s.fresh with
        | some h => if x.asked then t.putCohort s.fresh { h with asked := true, room := x.room } else t
        | none => t
      | none => drop s
    | some _, some _ => s.putCore (keyDie k) (keyCore k) { c with compact := some { x with moves := [] } }
    | _, none => drop s

/-- COMPACTION_MOVE_END (R133, R214): two cycles a granule after the pause began the block stands at its new place, and the gang issues
again; after the last move the cohort is placed. -/
def execCompactionMoveEnd (core : Nat) (s : State) : Out :=
  let c := s.coreAt (keyDie core) (keyCore core)
  match c.compact with
  | none => .next s
  | some x =>
    match x.moves, x.since with
    | [], _ => .next (endCompaction s core x)
    | _ :: _, none => .next (beginMove s core)
    | (gi, b) :: r, some t =>
      match s.gang gi with
      | none => .next (beginMove (s.putCore (keyDie core) (keyCore core) { c with compact := some { x with moves := r, since := none } }) core)
      | some g =>
        if (s.clock - t).toNat < 2 * g.granules then .next s
        else
          let s1 := (s.putGang gi { g with block := b, paused := false, granules := if gangEnded g then 0 else g.granules }).putCore
            (keyDie core) (keyCore core) { c with compact := some { x with moves := r, since := none } }
          .next (if r.isEmpty then endCompaction s1 core { x with moves := [] } else beginMove s1 core)

-- Ends

/-- Nothing that a gang issued is still on its way (R122, R123, R262). -/
def gangQuiet (s : State) (gi : Nat) (g : Gang) : Bool :=
  let c := s.coreAt g.die g.core
  g.ops.isEmpty && g.outst.isEmpty && !c.oxq.any (fun e => e.gang == gi) && !c.copyq.any (fun x => x.gang == gi) &&
  !c.streams.any (fun st => st.gang == gi)

/-- GANG_BLOCK_RELEASE (R123): the block of an ended gang returns once nothing is coming back to it. -/
def execGangBlockRelease (gang : Nat) (s : State) : Out :=
  match s.gang gang with
  | none => .next s
  | some g =>
    let c := s.coreAt g.die g.core
    if gangEnded g && g.ops.isEmpty && !c.oxq.any (fun e => e.gang == gang) && !g.paused then .next (s.putGang gang { g with granules := 0 })
    else .next s

/-- Take a cohort and its gangs away: every resource returns (R123); the refusal list of a core goes with its last cohort (R171). -/
def removeCohort (s : State) (cid : Nat) (c : Cohort) : State :=
  let s1 : State := { s with
    gangs := s.gangs.filter (fun e => e.2.cohort ≠ cid)
    cohorts := forget s.cohorts cid
    cur := none }
  let ks := if c.quartet then [0, 1, 2, 3] else [0]
  ks.foldl (fun acc i =>
    let k := coreKey c.die (c.core + i)
    let x := acc.coreAt c.die (c.core + i)
    acc.putCore c.die (c.core + i) { x with
      tableOwner := if x.tableOwner = some cid then none else x.tableOwner
      oxq := x.oxq.filter (fun e => !c.gangs.contains e.gang)
      copyq := x.copyq.filter (fun e => !c.gangs.contains e.gang)
      refused := if (cohortsOn acc k).isEmpty then [] else x.refused }) s1

/-- A queue that UNQUEUE has halted unregisters when its last cohort is gone and the COPYs that it was moving have ended (R441). -/
def settleQueues (s : State) : State :=
  { s with queues := s.queues.map (fun e =>
      if e.2.leaving ∧ e.2.pend.isEmpty ∧ !s.cohorts.any (fun c => match look s.grids c.2.grid with | some g => gridQueue g == e.1 | none => false) then
        (e.1, { e.2 with reg := false, res := false, leaving := false })
      else e) }

/-- COHORT_END (R123, R366): all gangs have ended, or the grid was ended and they have stopped, and nothing they issued is outstanding. -/
def execCohortEnd (cohort : Nat) (s : State) : Out :=
  match s.cohort cohort with
  | none => .next s
  | some c =>
    let gs := s.gangs.filter (fun e => e.2.cohort == cohort)
    let failed := match s.grid c.grid with | some g => g.failed | none => true
    if gs.all (fun e => (gangEnded e.2 || (failed && c.stopping)) && gangQuiet s e.1 e.2 && e.2.pending.isEmpty && !e.2.paused) then
      let s1 := removeCohort s cohort c
      .next (settleQueues (match s1.grid c.grid with
        | some g => s1.putGrid c.grid { g with finished := g.finished + 1 }
        | none => s1))
    else .next s

/-- GANG_URGENT (R216): the wait counter of a ready gang has reached 56. -/
def execGangUrgent (gang : Nat) (s : State) : Out :=
  match s.gang gang with
  | none => .next s
  | some g => match g.readySince with
    | some t => if 56 ≤ (s.clock - t).toNat then .next (s.putGang gang { g with urgent := true }) else .next s
    | none => .next s

end Sys2Proof.Machine
end

