-- ==== Sys2Proof/Machine/Queues.lean ====
section
/-! DEFINITION. User queues (R205 to R208, R435 to R440): die 16's own accesses, packets from start to completion, grids from launch to
completion, and the stop of a cohort or grid (R366, R380). -/

namespace Sys2Proof.Machine

-- Accesses of die 16

/-- What a translation for die 16 gives (R435). -/
inductive QXl where
  | ok (place : Nat) (xl : Xl)
  | wait (s : State)
  | bad

/-- Ask the host for a page that die 16 itself reaches (R243). A completion that grants neither permission leaves the address untranslatable (R437): no
gang parks on it, so that no PRI request goes out (DEDUCED, log entry 157). -/
def askHostPage (s : State) (asid page : Nat) : QXl :=
  match s.atsBy16.find? (fun x => x.1 == (asid, page)) with
  | some (_, true) => .bad
  | some (_, false) => .wait s
  | none => .wait { s with
      atsBy16 := s.atsBy16 ++ [((asid, page), false)]
      atsReqs := if s.atsReqs.contains (asid, page) then s.atsReqs else s.atsReqs ++ [(asid, page)] }

/-- What has ended for want of a translation asks anew the next time: the refusals of its ASID lapse. -/
def lapse (s : State) (asid : Nat) : State := { s with atsBy16 := s.atsBy16.filter (fun x => !(x.1.1 == asid && x.2)) }

/-- Translate an address for die 16 by a walk; a host page waits for its ATS translation, and a window's pages are another package's (R444). -/
def qXl (s : State) (asid : Nat) (va : DWord) (rd wr : Bool) : QXl :=
  let page := pageOf va
  if !canonical va then .bad
  else match windowOf s asid page with
  | some w =>
    let x : Xl := .remote w.package w.remote
    if (judge s rd wr x).isSome then .bad else .ok (placeOf s va x) x
  | none => match (walkPage s 16 asid page).1 with
    | .leaf e level =>
      match xlOfLeaf s asid page e level with
      | none => if leafLacks rd wr e then .bad else askHostPage s asid page
      | some x => match judge s rd wr x with
        | none => .ok (placeOf s va x) x
        | some _ => .bad
    | _ => .bad

/-- Member i may send j a counted packet that is delivered in this same step: nothing of i is on its way to j or held there, every
view at j reaches the stamp (R274), and the window has room (R419 to R425). -/
def inlineOk (s : State) (i j : Nat) (cv : CVec) (counted : Bool) : Bool :=
  let m := s.member i
  (i == j || (!m.quiet && (spGet [] s.flights (flightKey i j 0)).isEmpty && !(s.member j).holds.any (fun p => p.src == i) && pairOpen s i j)) &&
  (!counted || decide ((m.counter + 1 - nth32 m.floor i).toNat ≤ 2 ^ 15 - 1)) && viewsReach (s.member j) i j (stampOf m i cv)

/-- A forward of the line awaits the partner (R271). -/
def lineBusy (s : State) (h line : Nat) : Bool := (s.member h).lineHolds.any (fun x => x.line == line)

/-- A write through an ordinary mapping of a line that is also mapped duplex crosses no forward of it on its way (R229, R271). -/
def crossFree (s : State) (line : Nat) (dup : Bool) : Bool :=
  let p := partnerOf (64 * line)
  dup || !isDuplex s line || (!lineBusy s (homeOf (64 * line)) line && !lineBusy s (homeOf p) (p / 64))

/-- Write a line at its home for member `src` in the step that makes the write; a duplex page's home forwards it to the partner, behind what it has
delivered before and as its own window lets it (R229, R271, R433). Nobody waits for the acknowledgement. -/
def mergeMapped (s : State) (src asid line : Nat) (dup : Bool) (ben : LaneMask) (data : List Byte) (bad : Bool) : State :=
  if dup then
    let h := homeOf (64 * line)
    let s1 := mergeLine s line ben data bad
    if homeServes s (homeOf (partnerOf (64 * line))) then
      let p := { blankPacket s1 .orderedWrite src h with asid := asid, addr := BitVec.ofNat 64 (64 * line), poison := if bad then some 0 else none }
      forwardLine s1 h p ben data (ackOf s1 h p)
    else s1
  else mergeBoth s line ben data bad

/-- The causal state after a counted packet from i to j that is sent and delivered in one step (R419, R422). -/
def inlineCount (s : State) (i j : Nat) (cv : CVec) : State :=
  let m := s.member i
  let m1 := { m with counter := m.counter + 1, view := listSet m.view i (m.counter + 1) }
  let st := stampOf m1 i cv
  let s1 := s.putMember i { m1 with sentLast := listSet m1.sentLast j m1.counter, sentStamp := listSet m1.sentStamp j (some st) }
  let d := s1.member j
  nearWindow (s1.putMember j (countDelivered { d with pstamp := listSet d.pstamp i st } { blankPacket s1 .orderedWrite i j with stamp := st })) i

/-- Home of a place for a write. -/
def homeAt (s : State) (place : Nat) (xl : Xl) : Target := targetOf s 16 false place xl

/-- No posted write or AtomicOp waits for PCIe (R282). -/
def pcieQuiet (s : State) : Bool := s.pcie.all (fun x => match x.2 with | .write _ _ | .atomic .. => false | _ => true)

/-- A causal load of die 16 (R423, R435): the bytes, or why there are none. -/
inductive QRead where
  | bytes (b : List Byte) (s : State)
  | wait
  | unreadable

/-- Bytes of a place as its home serves them now (R271, R421). -/
def plainRead16 (s : State) (place n : Nat) (xl : Xl) : QRead :=
  let t := targetOf s 16 true place xl
  match t.dst with
  | none => if t.remote then .bytes (placeBytes s place n) s else .unreadable
  | some h =>
    if h = 16 then (if pcieQuiet s && s.pcieUp then .bytes (placeBytes s place n) s else .wait)
    else
      let line := t.addr.toNat / 64
      if lineBusy s h line then .wait
      else if s.poison.contains line then .unreadable
      else .bytes (placeBytes s (64 * line + place % 64) n) s

/-- A causal load of die 16 (R273, R421, R423): at a partner home it waits as every causal load does there (log entry 139), and the home's stamp is
merged into die 16's vector. -/
def read16 (s : State) (place n : Nat) (xl : Xl) : QRead :=
  let t := targetOf s 16 true place xl
  match t.dst with
  | none => plainRead16 s place n xl
  | some h =>
    let cv := (s.member 16).cv
    let p := { blankPacket s .causalLoad 16 h with addr := t.addr, partner := t.partner, stamp := stampOf (s.member 16) 16 cv }
    if !inlineOk s 16 h cv false || !partnerSeen s p then .wait
    else match plainRead16 s place n xl with
      | .bytes b s1 =>
        let m := s1.member 16
        .bytes b (s1.putMember 16 { m with cv := mergeCV m.cv (homeStamp (s1.member h) h) })
      | x => x

/-- An ordered write or atomic of member 16, made and delivered at its home in one step (R437, R439). -/
def write16 (s : State) (asid place : Nat) (xl : Xl) (b : List Byte) : Option State :=
  let t := homeAt s place xl
  match t.dst with
  | none => if t.remote && !remoteBars s (place / 64) then some (putBytes s (imageOf place b)) else none
  | some h =>
    let cv := (s.member 16).cv
    if h = 16 then
      if pcieQuiet s && s.pcieUp && inlineOk s 16 16 cv true then some (putBytes (inlineCount s 16 16 cv) (imageOf place b)) else none
    else
      let a := t.addr.toNat / 64 * 64 + place % 64
      let ben : LaneMask := BitVec.ofNat 64 ((2 ^ b.length - 1) * 2 ^ (a % 64))
      let line := copies (a % 64) 0 ++ b ++ copies (64 - a % 64 - b.length) 0
      if !crossFree s (a / 64) t.dup || !inlineOk s 16 h cv true then none
      else some (mergeMapped (markTraffic (inlineCount s 16 h cv) 16 h asid) 16 asid (a / 64) t.dup ben line false)

/-- A home takes a bulk write in the step that makes it: its write queue has a free entry (R453), and the write crosses no forward. -/
def bulkFree (s : State) (h line : Nat) (dup : Bool) : Bool := decide ((s.member h).writeq.length ≤ Config.writeQueue) && crossFree s line dup

/-- A bulk write that die 16 makes, delivered in one step, or put among the PCIe operations under the tag answered (R439, R445); one whose check
fails is written poisoned (R231). None while the home cannot take it. -/
def bulk16 (s : State) (asid place : Nat) (xl : Xl) (b : List Byte) (bad : Bool) : Option (State × Option Nat) :=
  let t := homeAt s place xl
  match t.dst with
  | none => if t.remote && !remoteBars s (place / 64) then some (putBytes s (imageOf place b), none) else none
  | some h =>
    if h = 16 then some ({ s with fresh := s.fresh + 1, pcie := s.pcie ++ [(s.fresh, .write place (imageOf place b))] }, some s.fresh)
    else
      let a := t.addr.toNat / 64 * 64 + place % 64
      let ben : LaneMask := BitVec.ofNat 64 ((2 ^ b.length - 1) * 2 ^ (a % 64))
      if !bulkFree s h (a / 64) t.dup then none
      else some (mergeMapped s 16 asid (a / 64) t.dup ben (copies (a % 64) 0 ++ b ++ copies (64 - a % 64 - b.length) 0) bad, none)

/-- No home serves the place for a write (R370), or the other package refuses it (R236). -/
def wordLost (s : State) (place : Nat) (xl : Xl) : Bool :=
  let t := homeAt s place xl
  if t.remote then remoteBars s (place / 64) else t.dst.isNone

-- Packets

def State.queue (s : State) (k : Nat) : Option Queue := look s.queues k
def State.putQueue (s : State) (k : Nat) (q : Queue) : State := { s with queues := store s.queues k q }

def pktWord (p : QPkt) (n : Nat) : DWord := listGet 0 p.words n
def pktType (p : QPkt) : Nat := (pktWord p 0).toNat % 256
def pktSig (p : QPkt) : Bool := (pktWord p 0).getLsbD 8
def pktTbl (p : QPkt) : Bool := (pktWord p 0).getLsbD 9

/-- Bits of each word that a packet type uses (R437, R439). -/
def pktMask (ty : Nat) : List DWord :=
  let all : DWord := BitVec.allOnes 64
  match ty with
  | 1 => [0xFFFFFFFF00FF03FF, all, 0xFFFFFFFF, all, 0, 0, 0, all]
  | 2 => [0x1FF, all, all, all, 0, 0, 0, all]
  | 3 => [0x1FF, all, all, 0, 0, 0, 0, all]
  | 4 => [0x101FF, all, all, 0, 0, 0, 0, all]
  | 6 => [0xFFFFFFFF000001FF, all, all, 0, 0, 0, 0, all]
  | 7 => [0x1FF, all, 0, 0, 0, 0, 0, all]
  | _ => [0x1FF, 0, 0, 0, 0, 0, 0, all]

/-- ERR 1 (R437): an unknown TYPE, a reserved bit, or a signal word without SIG. -/
def pktReserved (p : QPkt) : Bool :=
  decide (7 < pktType p) || p.words.zipIdx.any (fun x => x.1 &&& ~~~(listGet 0 (pktMask (pktType p)) x.2) != 0) ||
  (!pktSig p && pktWord p 7 != 0)

/-- Halt a queue (R437, R438). -/
def haltQueue (q : Queue) (idx : Word) (err : BitVec 8) : Queue := { q with failidx := idx, err := err, halt := true }

/-- A packet ends: its SIG add remains to be made (R438). -/
def endPkt (q : Queue) (p : QPkt) : Queue := { q with pend := q.pend.map (fun x => if x.idx = p.idx then { x with done := true } else x) }

/-- A packet fails: the queue halts first; the add follows, but for a signal word that is itself bad (R438). -/
def failPkt (q : Queue) (p : QPkt) (err : BitVec 8) (add : Bool) : Queue :=
  let q1 := haltQueue q (p.idx.setWidth 32) err
  if add && pktSig p then endPkt q1 p else { q1 with pend := q1.pend.filter (fun x => x.idx ≠ p.idx) }

/-- Writes of a COPY are on their way to their homes. -/
def copyOpen (s : State) (p : QPkt) : Bool := p.bulk.any (fun t => s.reqs.any (fun r => r.tag == t))

/-- Make the SIG add of an ended packet (R437, R440), behind the writes of a COPY that faulted (R438). A word that is poisoned,
or that no home serves, can receive none, and the queue halts with ERR 4 (DESIGN CHOICE, log entry 127). -/
def sigAdd (s : State) (k : Nat) (q : Queue) (p : QPkt) : State :=
  let gone := { q with pend := q.pend.filter (fun x => x.idx ≠ p.idx) }
  let lost := s.putQueue k (haltQueue gone (p.idx.setWidth 32) 4)
  if !pktSig p then s.putQueue k gone
  else if p.waits.any (fun t => (look s.pcie t).isSome) || copyOpen s p then s
  else match qXl s q.asid (pktWord p 7) true true with
    | .bad => lost
    | .wait s1 => s1
    | .ok place xl =>
      match read16 s place 8 xl with
      | .bytes b s1 =>
        match write16 s1 q.asid place xl (bytesLE 8 ((natLE b + 1) % 2 ^ 64)) with
        | some s2 => s2.putQueue k gone
        | none => if wordLost s place xl then lost else s
      | .unreadable => lost
      | .wait => s

/-- A packet that may start now: the queue runs, a packet is waiting, and no WAIT or BARRIER holds it (R205). -/
def mayStartPkt (s : State) (q : Queue) : Bool :=
  s.up && q.reg && q.res && !q.halt && q.ridx != q.widx && !q.pend.any (fun p => pktType p == 3 || pktType p == 5)

/-- Why a packet cannot be read (R437, R438), or its words. -/
inductive Fetched where
  | words (ws : List DWord) (s : State)
  | wait (s : State)
  | fail (err : BitVec 8)

/-- Read the packet at RIDX (R435). -/
def fetchPkt (s : State) (q : Queue) : Fetched :=
  let va := q.ring + BitVec.ofNat 64 (64 * (q.ridx.toNat % q.size))
  match qXl s q.asid va true false with
  | .bad => .fail 4
  | .wait s1 => .wait s1
  | .ok place xl =>
    match read16 s place 64 xl with
    | .unreadable => .fail 8
    | .wait => .wait s
    | .bytes b s1 => .words ((List.range 8).map (fun i => BitVec.ofNat 64 (natLE ((b.drop (8 * i)).take 8)))) s1

/-- The signal word is 8-aligned and translates; or the translation of its host page is asked for, which the state answered waits for. -/
def sigOk (s : State) (q : Queue) (p : QPkt) : Except State Bool :=
  if !pktSig p then .ok true
  else if (pktWord p 7).toNat % 8 ≠ 0 then .ok false
  else match qXl s q.asid (pktWord p 7) true true with
    | .ok _ _ => .ok true
    | .bad => .ok false
    | .wait s1 => .error s1

/-- How the start of a packet ends: it runs on (with what has changed), ends at once, fails, or waits for a translation. -/
inductive Started where
  | runs (s : State) (p : QPkt)
  | ends (s : State)
  | fails (err : BitVec 8)
  | waits (s : State)

/-- Start the packet at RIDX when it is of type `kind`; a packet of no type, or with a reserved bit, halts the queue. -/
def startPkt (s : State) (k : Nat) (q : Queue) (kind : Nat) (f : State → Queue → QPkt → Started) : Out :=
  if !mayStartPkt s q then .next s
  else match fetchPkt s q with
    | .wait s1 => .next s1
    | .fail err => .next (s.putQueue k (haltQueue q (q.ridx.setWidth 32) err))
    | .words ws s1 =>
      let p : QPkt := ⟨q.ridx, ws, none, 0, [], [], none, false⟩
      let q1 := { q with ridx := q.ridx + 1, lastStart := s.clock, pend := q.pend ++ [p] }
      if pktType p ≠ kind ∧ pktType p ≤ 7 then .next s
      else match sigOk s q p with
        | .error s2 => .next s2
        | .ok ok =>
          if pktReserved p then .next (s1.putQueue k (failPkt q1 p 1 ok))
          else if !ok then .next (s1.putQueue k (failPkt q1 p 4 false))
          else match f s1 q1 p with
            | .waits s2 => .next s2
            | .fails err => .next (s1.putQueue k (failPkt q1 p err true))
            | .ends s2 => .next (s2.putQueue k (endPkt ((s2.queue k).getD q1 |> fun x => { x with ridx := q1.ridx, lastStart := q1.lastStart, pend := q1.pend }) p))
            | .runs s2 p2 => .next (s2.putQueue k { (s2.queue k).getD q1 with
                ridx := q1.ridx, lastStart := q1.lastStart, pend := q1.pend.map (fun x => if x.idx = p.idx then p2 else x) })

/-- A queue that is leaving unregisters when its last packet has ended (R441); the refusals that have halted a queue lapse. -/
def packetEnded (k : Nat) : Out → Out
  | .next s => .next (settleQueues (match s.queue k with
      | some q => if q.halt then lapse s q.asid else s
      | none => s))
  | o => o

/-- The frame of a packet event: the adds of ended packets come first; then a packet of the type that runs, or the next start. -/
def packetEvent (k kind : Nat) (s : State) (going : State → Queue → QPkt → Option Out) (f : State → Queue → QPkt → Started) : Out :=
  match s.queue k with
  | none => .next s
  | some q =>
    packetEnded k <| match q.pend.find? (·.done) with
    | some p => .next (sigAdd s k q p)
    | none =>
      match (q.pend.filter (fun p => pktType p == kind)).head? with
      | some p => match going s q p with
        | some o => o
        | none => startPkt s k q kind f
      | none => startPkt s k q kind f

/-- Every packet before this one has completed (R205, R439). -/
def isFirst (q : Queue) (p : QPkt) : Bool := match q.pend with | x :: _ => x.idx == p.idx | [] => false

/-- NOP_PACKET (R439). -/
def execNopPacket (queue : Nat) (s : State) : Out := packetEvent queue 0 s (fun _ _ _ => none) (fun s1 _ _ => .ends s1)

/-- BARRIER (R205, R439). -/
def execBarrier (queue : Nat) (s : State) : Out :=
  packetEvent queue 5 s (fun s1 q p => if isFirst q p then some (.next (s1.putQueue queue (endPkt q p))) else some (.next s1))
    (fun s1 _ p => .runs s1 p)

/-- Read a signal word and compare it (R206). What the host has written before is passed on first, so that it is before the packets that the word
starts (R273, R283). -/
def waitRead (s : State) (k : Nat) (q : Queue) (p : QPkt) : State :=
  if !s.hostIn.isEmpty then s
  else match qXl s q.asid (pktWord p 1) true false with
  | .bad => s.putQueue k (failPkt q p 4 true)
  | .wait s1 => s1
  | .ok place xl => match read16 s place 8 xl with
    | .bytes b s1 => if (pktWord p 2).toNat ≤ natLE b then s1.putQueue k (endPkt q p) else s
    | .unreadable => s.putQueue k (failPkt q p 4 true)
    | .wait => s

/-- WAIT (R205, R206): it holds its queue. -/
def execWait (queue : Nat) (s : State) : Out :=
  packetEvent queue 3 s (fun s1 _ _ => some (.next s1)) (fun s1 _ p => if (pktWord p 1).toNat % 8 = 0 then .runs s1 p else .fails 4)

/-- WAIT_REREAD (R206): the signal word of a WAIT is read again. The spec sets only how late a re-read may be, so it may come at any
time. -/
def execWaitReread (queue : Nat) (s : State) : Out :=
  match s.queue queue with
  | none => .next s
  | some q =>
    match q.pend.find? (fun p => pktType p == 3 && !p.done) with
    | some p => packetEnded queue (.next (waitRead s queue q p))
    | none => .next s

/-- SIGNAL (R439): performed after every earlier packet. -/
def execSignal (queue : Nat) (s : State) : Out :=
  packetEvent queue 4 s
    (fun s1 q p =>
      if !isFirst q p then none
      else match qXl s1 q.asid (pktWord p 1) (pktWord p 0 |>.getLsbD 16) true with
        | .bad => some (.next (s1.putQueue queue (failPkt q p 4 true)))
        | .wait s2 => some (.next s2)
        | .ok place xl =>
          let write := fun (s2 : State) (x : Nat) =>
            match write16 s2 q.asid place xl (bytesLE 8 (x % 2 ^ 64)) with
            | some s3 => Host.Outcome.next (s3.putQueue queue (endPkt q p))
            | none => .next (if wordLost s1 place xl then s1.putQueue queue (failPkt q p 4 true) else s1)
          if (pktWord p 0).getLsbD 16 then
            match read16 s1 place 8 xl with
            | .bytes b s2 => some (write s2 (natLE b + (pktWord p 2).toNat))
            | .unreadable => some (.next (s1.putQueue queue (failPkt q p 4 true)))
            | .wait => some (.next s1)
          else some (write s1 (pktWord p 2).toNat))
    (fun s1 _ p => if (pktWord p 1).toNat % 8 = 0 then .runs s1 p else .fails 4)

/-- TIMESTAMP (R439): writes CLOCK after every earlier packet. -/
def execTimestamp (queue : Nat) (s : State) : Out :=
  packetEvent queue 7 s
    (fun s1 q p =>
      if !isFirst q p then none
      else match qXl s1 q.asid (pktWord p 1) false true with
        | .bad => some (.next (s1.putQueue queue (failPkt q p 4 true)))
        | .wait s2 => some (.next s2)
        | .ok place xl =>
          match write16 s1 q.asid place xl (bytesLE 8 s1.clock.toNat) with
          | some s3 => some (.next (s3.putQueue queue (endPkt q p)))
          | none => some (.next (if wordLost s1 place xl then s1.putQueue queue (failPkt q p 4 true) else s1)))
    (fun s1 _ p => if (pktWord p 1).toNat % 8 = 0 then .runs s1 p else .fails 4)

-- COPY

/-- The memory-port die that reads a line of a COPY and sends it on (R439); die 16 does for host memory and other packages. -/
def copySource (s : State) (place : Nat) (xl : Xl) : Nat := (targetOf s 16 true place xl).dst.getD 16

/-- Write a line of a COPY as a bulk write (R439): from its home to the one it goes to, which may be the same, on VC-C (R412); to host memory and other
packages as `bulk16` does. -/
def copyWrite (s : State) (k : Nat) (q : Queue) (p : QPkt) (src place : Nat) (xl : Xl) (data : List Byte) : Option State :=
  let t := homeAt s place xl
  let moved := fun (f : QPkt → QPkt) => { q with pend := q.pend.map (fun x => if x.idx = p.idx then f { x with moved := p.moved + 64 } else x) }
  match t.dst with
  | some h =>
    if h = 16 then (match bulk16 s q.asid place xl data false with
      | none => none
      | some (s2, none) => some (s2.putQueue k (moved id))
      | some (s2, some tag) => some (s2.putQueue k (moved (fun x => { x with waits := x.waits ++ [tag] }))))
    else
      let r := sendPlain s (.queueCopy k)
        { blankPacket s .bulkWrite src h with asid := q.asid, addr := t.addr, dup := t.dup, ben := BitVec.allOnes 64, data := data }
      some (r.2.putQueue k (moved (fun x => { x with bulk := x.bulk ++ [r.1] })))
  | none => (bulk16 s q.asid place xl data false).map (fun x => x.1.putQueue k (moved id))

/-- Move one line of a COPY (R439): read at its home, written as a bulk write; a fault ends it. -/
def copyLine (s : State) (k : Nat) (q : Queue) (p : QPkt) : State :=
  let src := pktWord p 1 + BitVec.ofNat 64 p.moved
  let dst := pktWord p 2 + BitVec.ofNat 64 p.moved
  let fail := fun (s1 : State) => s1.putQueue k (failPkt q p 7 true)
  match qXl s q.asid src true false, qXl s q.asid dst false true with
  | .wait s1, _ => s1
  | _, .wait s1 => s1
  | .ok a xa, .ok b xb =>
    match read16 s a 64 xa with
    | .wait => s
    | .unreadable => fail s
    | .bytes data s1 =>
      if wordLost s b xb then fail s else (copyWrite s1 k q p (copySource s1 a xa) b xb data).getD s
  | _, _ => fail s

/-- A COPY has moved everything: it completes as a `flsig.sys` over its writes (R439): its host writes are closed by a zero-length read,
and the homes' vectors are merged. It faults when one of them was refused or lost (R339). -/
def closeCopy (s : State) (k : Nat) (q : Queue) (p : QPkt) : State :=
  let merged := (liveHomes s).foldl (fun acc h => mergeCV acc (homeStamp (s.member h) h)) (s.member 16).cv
  let s1 := s.putMember 16 { s.member 16 with cv := merged }
  if copyOpen s p then s
  else if p.bulk.any (fun x => s.refusedHost.contains x) then s1.putQueue k (failPkt q p 7 true)
  else if p.waits.isEmpty then s1.putQueue k (endPkt q p)
  else match p.zero with
    | none =>
      let s2 : State := { s with fresh := s.fresh + 1, pcie := s.pcie ++ [(s.fresh, .zeroRead)] }
      s2.putQueue k { q with pend := q.pend.map (fun x => if x.idx = p.idx then { x with zero := some s.fresh } else x) }
    | some t =>
      if (look s.pcie t).isSome then s
      else if (t :: p.waits).any (fun x => s.refusedHost.contains x) then s1.putQueue k (failPkt q p 7 true)
      else s1.putQueue k (endPkt q p)

/-- COPY (R439): one line a step; later packets may start meanwhile. -/
def execCopy (queue : Nat) (s : State) : Out :=
  packetEvent queue 2 s
    (fun s1 q p => some (.next (if p.moved < (pktWord p 3).toNat then copyLine s1 queue q p else closeCopy s1 queue q p)))
    (fun s1 _ p =>
      if (pktWord p 1).toNat % 64 ≠ 0 ∨ (pktWord p 2).toNat % 64 ≠ 0 ∨ (pktWord p 3).toNat % 64 ≠ 0 then .fails 4
      else if 2 ^ 40 < (pktWord p 3).toNat then .fails 1
      else .runs s1 p)

-- LAUNCH and CAPLOAD

/-- Read n bytes from a virtual address by causal loads of die 16, line by line. -/
inductive RangeRead where
  | bytes (b : List Byte) (s : State)
  | wait (s : State)
  | bad

def readRange16 (asid : Nat) : Nat → State → DWord → Nat → List Byte → RangeRead
  | 0, s, _, _, acc => .bytes acc s
  | fuel + 1, s, va, n, acc =>
    if n = 0 then .bytes acc s
    else
      let m := min n (64 - va.toNat % 64)
      match qXl s asid va true false with
      | .bad => .bad
      | .wait s1 => .wait s1
      | .ok place xl => match read16 s place m xl with
        | .bytes b s1 => readRange16 asid fuel s1 (va + BitVec.ofNat 64 m) (n - m) (acc ++ b)
        | .wait => .wait s
        | .unreadable => .bad

/-- The dies that a mask names; none names every live die (R439). -/
def maskDies (s : State) (m : Nat) : List Nat := if m = 0 then liveDies s else (List.range 8).filter (fun d => m.testBit d)

/-- The grid of a LAUNCH (R113, R439). -/
def newGrid (s : State) (q : Queue) (k : Nat) (p : QPkt) (h : Handle) (params : List Byte) : Grid where
  fn := q.fn
  queue := k % 65536
  launch := q.launches
  packet := p.idx
  kd := h.kd
  desc := h.desc
  params := params
  nx := (pktWord p 1).toNat % 2 ^ 32 + 1
  ny := (pktWord p 1).toNat / 2 ^ 32 + 1
  nz := (pktWord p 2).toNat % 2 ^ 32 + 1
  dies := maskDies s ((pktWord p 0).toNat / 2 ^ 16 % 256)
  lastDie := none
  nextCohort := 0
  waitFrom := some s.clock
  tbl := pktTbl p
  finished := 0
  failed := false
  abandoned := false
  zero := none
  cv := (s.member 16).cv

/-- LAUNCH (R113, R205, R423, R439). -/
def execLaunch (queue : Nat) (s : State) : Out :=
  packetEvent queue 1 s (fun _ _ _ => none) fun s1 q p =>
    let handle := (pktWord p 0).toNat / 2 ^ 32
    let va := pktWord p 3
    match look s1.handles handle with
    | none => .fails 2
    | some h =>
      if h.asid ≠ q.asid then .fails 2
      else
        let g0 := newGrid s1 q queue p h []
        if 2 ^ 48 < gridCohorts g0 * cohortThreads h.kd then .fails 3
        else if h.kd.paramSize = 0 ∧ va ≠ 0 then .fails 1
        else if va.toNat % 8 ≠ 0 then .fails 4
        else match readRange16 q.asid 80 s1 va h.kd.paramSize [] with
          | .bad => .fails 4
          | .wait s2 => .waits s2
          | .bytes b s2 =>
            let s3 : State := { s2 with fresh := s2.fresh + 1 }
            .runs ((s3.putGrid s2.fresh { g0 with params := b, cv := (s2.member 16).cv }).putQueue queue { q with launches := q.launches + 1 })
              { p with grid := some s2.fresh }

/-- CAPLOAD_PACKET (R198, R439): an image that die 16 finds sound, its words read through the ASID's tables, is kept for later launches, at most four;
another is ignored. -/
def execCaploadPacket (queue : Nat) (s : State) : Out :=
  packetEvent queue 6 s (fun _ _ _ => none) fun s1 q p =>
    match look s1.handles ((pktWord p 0).toNat / 2 ^ 32) with
    | none => .fails 2
    | some h =>
      if h.asid ≠ q.asid then .fails 2
      else if (pktWord p 1).toNat % 8 ≠ 0 then .fails 4
      else match readRange16 q.asid 3 s1 (pktWord p 1) 32 [] with
        | .bad => .fails 4
        | .wait s2 => .waits s2
        | .bytes hd s2 =>
          match readRange16 q.asid 1026 s2 (pktWord p 1) (imageField hd 6 2) [] with
            | .bad => .fails 4
            | .wait s3 => .waits s3
            | .bytes b s3 =>
              let im : QImage := ⟨h.kd, segAddr h.kd (pktWord p 2).toNat, b, q.launches⟩
              if (revalidate s3 16 0 q.asid im.kd im.head b).isNone then .ends s3
              else .ends (s3.putQueue queue { q with images := (q.images ++ [im]).drop (q.images.length + 1 - 4) })

-- Kicks and residence

/-- Resident queues of an engine (R205). -/
def engineResidents (s : State) (engine : Nat) : List (Nat × Queue) := s.queues.filter (fun e => e.2.engine == engine && e.2.res)

/-- The lowest engine that can hold one more queue resident (R205). -/
def roomyEngine (s : State) : Option Nat := (List.range 16).find? (fun n => decide ((engineResidents s n).length < 64))

/-- What a kick page reads (R435). -/
def kickPage (q : Queue) (off : Nat) : DWord :=
  let bit := fun (b : Bool) (n : Nat) => if b then 2 ^ n else 0
  match off with
  | 0x000 => q.widx
  | 0x008 => q.ridx
  | 0x010 => BitVec.ofNat 64 (q.failidx.toNat * 2 ^ 32 + q.err.toNat * 2 ^ 8 + bit q.res 2 + bit q.halt 1 + bit q.reg 0)
  | _ => 0

/-- A kick takes effect (R436). -/
def applyKick (s : State) (queue : Nat) (value : DWord) : State :=
  match s.queue queue with
  | none => s
  | some q =>
    if !q.reg || q.halt then s
    else if value.toNat < q.widx.toNat ∨ q.ridx.toNat + q.size < value.toNat then s.putQueue queue (haltQueue q (value.setWidth 32) 5)
    else s.putQueue queue { q with widx := value, kicked := if q.res then none else some (q.kicked.getD s.seq) }

/-- KICK (R436): a kick stays behind the host's writes before it (R283). -/
def execKick (queue : Nat) (offset : BitVec 12) (bytes : Nat) (value : DWord) (s : State) : Out :=
  if !s.up || offset != 0 || bytes != 8 then .next s
  else if s.hostIn.isEmpty then .next (applyKick s queue value)
  else .next { s with hostIn := s.hostIn ++ [.kick queue value] }

/-- A queue that loses its place goes on with its packets when it is taken in again (R208): it stands in the order of kicks as if kicked when it was
swapped out (DESIGN CHOICE, log entry 145). -/
def swapOut (s : State) (v : Nat × Queue) : State :=
  s.putQueue v.1 { v.2 with res := false, kicked := if v.2.ridx = v.2.widx then none else some s.seq }

/-- QUEUE_SWAP_IN (R208): the kicked queues of an engine are taken in the order of their kicks, by an engine with room (DESIGN CHOICE, log
entry 107), or else in place of the resident one that has started nothing for longest, at least 64 µs (230400 cycles). A queue counts as
idle from the time at which it became resident (DESIGN CHOICE, log entry 108); of two idle for equally long the first in the list of
queues goes (DESIGN CHOICE, log entry 162). -/
def execQueueSwapIn (queue : Nat) (s : State) : Out :=
  match s.queue queue with
  | none => .next s
  | some q =>
    let first := s.queues.all (fun e => e.2.engine != q.engine || e.1 == queue || (match e.2.kicked, q.kicked with
      | some a, some b => decide (b ≤ a)
      | _, _ => true))
    if !q.reg || q.res || q.kicked.isNone || !first then .next s
    else
      let ok := fun (s1 : State) (n : Nat) => s1.putQueue queue { q with res := true, engine := n, kicked := none, lastStart := s.clock }
      match roomyEngine s with
      | some n => .next (ok s n)
      | none =>
        match (engineResidents s q.engine).foldl (fun (acc : Option (Nat × Queue)) e => match acc with
          | none => some e
          | some a => if e.2.lastStart.toNat < a.2.lastStart.toNat then some e else some a) none with
        | some v => if 230400 ≤ (s.clock - v.2.lastStart).toNat then .next (ok (swapOut s v) q.engine) else .next s
        | none => .next s

-- Stopping cohorts and grids

/-- Stop the gangs of a cohort at their next pre-emption points (R366, R380, R381): nothing of it issues, its streams are to drain, and
a loading that it waits for is discarded. -/
def stopCohort (s : State) (cid : Nat) : State :=
  match s.cohort cid with
  | none => s
  | some c =>
    let ks := (if c.quartet then [0, 1, 2, 3] else [0]).map (fun i => coreKey c.die (c.core + i))
    let s1 := (s.putCohort cid { c with stopping := true })
    let s2 := ks.foldl (fun acc k =>
      let x := acc.coreAt (keyDie k) (keyCore k)
      let acc1 := match x.shadow with
        | some (_, gi, _) => if c.gangs.contains gi then discardShadow acc k else acc
        | none => acc
      let y := acc1.coreAt (keyDie k) (keyCore k)
      acc1.putCore (keyDie k) (keyCore k) { y with streams := y.streams.map (fun st =>
        if c.gangs.contains st.gang ∧ st.trigger = none then { st with trigger := some .preempt } else st) }) s1
    { s2 with gangs := s2.gangs.map (fun e => if e.2.cohort = cid then
        (e.1, { e.2 with
          stopped := true
          paths := e.2.paths.map (fun p => if p.st = .planeWait then { p with st := .ready } else p) }) else e) }

/-- End a grid at rank 2 (R366): no more of it is placed, its resident cohorts stop, its saved contexts go, and its queue halts with
ERR 6. -/
def failGrid (s : State) (gi : Nat) : State :=
  match s.grid gi with
  | none => s
  | some g =>
    if g.failed then s
    else
      let s1 := restartWaits s (s.putGrid gi { g with failed := true })
      let s2 : State := { s1 with
        saved := s1.saved.filter (fun e => e.2.grid ≠ gi)
        reserveQ := s1.reserveQ.filter (fun r => r.2.2 ≠ gi)
        reserveL1 := s1.reserveL1.filter (fun r => r.2.2 ≠ gi) }
      let s3 := (s2.cohorts.filter (fun e => e.2.grid == gi)).foldl (fun acc e => stopCohort acc e.1) s2
      match s3.queue (gridQueue g) with
      | some q => if g.abandoned then s3 else s3.putQueue (gridQueue g) (haltQueue q (g.packet.setWidth 32) 6)
      | none => s3

/-- The grid has nothing left to run. -/
def gridOver (s : State) (gi : Nat) (g : Grid) : Bool :=
  !s.cohorts.any (fun e => e.2.grid == gi) && (g.failed || g.abandoned || (g.nextCohort == gridCohorts g && (savedOf s gi).isEmpty))

/-- GRID_COMPLETE (R123, R283, R366, R438): the grid's writes to host memory are issued and closed by a zero-length read; then its LAUNCH
ends, and its SIG add may follow. An abandoned grid reports nothing (R441). -/
def execGridComplete (grid : Nat) (s : State) : Out :=
  match s.grid grid with
  | none => .next s
  | some g =>
    if !gridOver s grid g then .next s
    else if g.abandoned then .next { s with grids := forget s.grids grid }
    else match g.zero with
      | none =>
        let s1 : State := { s with fresh := s.fresh + 1, pcie := s.pcie ++ [(s.fresh, .zeroRead)] }
        .next (s1.putGrid grid { g with zero := some s.fresh })
      | some t =>
        if (look s.pcie t).isSome then .next s
        else
          let s1 : State := { s with grids := forget s.grids grid }
          match s1.queue (gridQueue g) with
          | none => .next s1
          | some q => match q.pend.find? (fun p => p.grid == some grid) with
            | some p => .next (s1.putQueue (gridQueue g) (endPkt q p))
            | none => .next s1

-- Host writes

/-- Deliver a host write to device memory at its home, which forwards it on a duplex page (R229, R230, R283); one whose check failed is written
poisoned (R231). None while the home cannot take it; a write to a locked page is aborted (R236), and one without a home is lost. -/
def hostStore (s : State) (a : Nat) (data : List Byte) (bad : Bool) : Option State :=
  let dup := isDuplex s (a / 64)
  let b := if homeServes s (homeOf a) || !dup then a else partnerOf a
  let h := homeOf b
  let cv := (s.member 16).cv
  if barredBoth s a dup || !homeServes s h then some s
  else if !inlineOk s 16 h cv true then none
  else
    let line := copies (b % 64) 0 ++ data ++ copies (64 - b % 64 - data.length) 0
    some (mergeMapped (inlineCount s 16 h cv) 16 0 (b / 64) dup (BitVec.ofNat 64 ((2 ^ data.length - 1) * 2 ^ (b % 64))) line bad)

/-- HOST_WRITE (R231, R236, R282, R283): a host write to its own memory, or to a PA of device memory, which die 16 passes on in the order of
arrival. -/
def execHostWrite (toHost : Bool) (addr : DWord) (data : List Byte) (s : State) : Out :=
  let a := addr.toNat
  if toHost then .next (putBytes s (imageOf (hostBase + a) data))
  else if 2 ^ 39 < a + data.length || data.isEmpty || decide (64 < a % 64 + data.length) || barredBoth s a false then .next s
  else match if s.hostIn.isEmpty then hostStore s a data false else none with
    | some t => .next t
    | none => .next { s with hostIn := s.hostIn ++ [.write a data false] }

/-- A host's add to a signal word (R440, R450), of its own memory or of device memory: it is performed whole, in the order of delivery at the word's
home. No row of the opcode table makes one. None while the home cannot take it. -/
def hostAdd (s : State) (toHost : Bool) (addr : Nat) (x : DWord) : Option State :=
  let place := if toHost then hostBase + addr else addr
  let data := bytesLE 8 ((natLE (placeBytes s place 8) + x.toNat) % 2 ^ 64)
  if toHost then some (putBytes s (imageOf place data))
  else if s.hostIn.isEmpty then hostStore s addr data false else none

/-- Die 16 passes on the oldest thing it has received from the host, when it can (R283). -/
def passHost (s : State) : Out :=
  match s.hostIn with
  | [] => .next s
  | .kick queue value :: r => .next (applyKick { s with hostIn := r } queue value)
  | .write a data bad :: r => match hostStore { s with hostIn := r } a data bad with
    | some t => .next t
    | none => .next s

end Sys2Proof.Machine
end

