-- ==== Sys2Proof/Machine/Verify.lean ====
section
/-! DEFINITION. The code verifier (R77 to R81): kernel descriptors (R74), the pass over a segment's words, and its result (R79). -/

namespace Sys2Proof.Machine

/-- A field of a descriptor of 16 words: n bytes at a byte offset (R74). -/
def descField (ws : List DWord) (off n : Nat) : Nat := (listGet 0 ws (off / 8)).toNat / 2 ^ (8 * (off % 8)) % 2 ^ (8 * n)

/-- The kernel of a descriptor (R74). -/
def kernelOf (asid : Nat) (base : DWord) (ws : List DWord) : Kernel where
  asid := asid
  base := base
  entry := descField ws 0x08 8
  codeSize := descField ws 0x10 8
  handler := if descField ws 0x18 8 = 2 ^ 64 - 1 then none else some (descField ws 0x18 8)
  regs := descField ws 0x20 2
  gangw := descField ws 0x22 1
  l1 := 32 * 2 ^ descField ws 0x23 1
  cx := descField ws 0x24 2
  cy := descField ws 0x26 2
  cz := descField ws 0x28 2
  acc := descField ws 0x2A 1
  nmeta := descField ws 0x2B 1
  tokens := descField ws 0x2C 1
  bars := descField ws 0x2D 1
  scratch := descField ws 0x30 4
  round := BitVec.ofNat 32 (descField ws 0x34 4)
  capctl := BitVec.ofNat 32 (descField ws 0x38 4)
  paramSize := descField ws 0x3C 4

/-- One cohort fits an otherwise empty core or quartet (R128). -/
def kernelFits (kd : Kernel) : Bool :=
  let n := if needsQuartet kd then (cohortGangs kd + 3) / 4 else cohortGangs kd
  decide (n * gangGranules kd ≤ 512) && decide (n * kd.acc ≤ 32) && decide (n * kd.gangw ≤ 3072) && decide (kd.scratch ≤ arenaSize kd.l1)

/-- Reserved fields of a descriptor are zero (R74). -/
def descReserved (ws : List DWord) : Bool :=
  descField ws 0x2E 2 == 0 && decide (descField ws 0x4C 4 < 2) && [11, 12, 13, 14, 15].all (fun k => listGet 0 ws k == 0)

/-- DESC (R78): the fields are within R70, R74, R46, R170 and R128, and the code lies in the segment with the entry and the handler in
its range. -/
def descOk (segBytes : Nat) (ws : List DWord) : Bool :=
  let kd := kernelOf 0 0 ws
  decide (ws.length = 16) && descReserved ws &&
  decide (kd.regs % 16 = 0) && decide (16 ≤ kd.regs) && decide (kd.regs ≤ 1024) &&
  (kd.gangw == 16 || kd.gangw == 32 || kd.gangw == 64) && decide (descField ws 0x23 1 ≤ 2) &&
  decide (1 ≤ cohortThreads kd) && decide (cohortThreads kd ≤ 12288) && decide (cohortThreads kd % kd.gangw = 0) &&
  decide (kd.acc ≤ 16) && decide (kd.nmeta ≤ 16) && decide (kd.tokens ≤ 16) && decide (kd.bars ≤ 16) &&
  decide (kd.scratch % 256 = 0) && decide (kd.round.toNat < 16) && decide (kd.round.toNat % 8 ≤ 4) &&
  kd.capctl &&& 0xFFFF00FC == 0 && (!capEn kd.capctl || decide (4 ≤ capThresh kd.capctl)) &&
  decide (kd.paramSize % 8 = 0) && decide (kd.paramSize ≤ 4096) &&
  decide (kd.entry % 8 = 0) && decide (0 < kd.codeSize) && decide (kd.codeSize % 8 = 0) && decide (kd.entry + kd.codeSize ≤ segBytes) &&
  (match kd.handler with | some h => decide (kd.entry ≤ h) && decide (h < kd.entry + kd.codeSize) | none => true) &&
  kernelFits kd

/-- Code ranges that overlap. -/
def rangesMeet (a b : Kernel) : Bool := decide (a.entry < b.entry + b.codeSize) && decide (b.entry < a.entry + a.codeSize)

/-- The first descriptor that DESC rejects: by its own fields, or because its range overlaps that of an earlier one. -/
def descFailure (segBytes : Nat) (descs : List (List DWord)) : Option Nat :=
  (descs.zipIdx.find? (fun x => !descOk segBytes x.1 ||
    (descs.take x.2).any (fun y => rangesMeet (kernelOf 0 0 y) (kernelOf 0 0 x.1)))).map (·.2)

/-- A register field that may say "no register" keeps that, and is otherwise taken as legal. -/
def blindOr (f : Field10) : Field10 := if f = noField then f else 0

/-- An instruction with a legal register in every register field: what remains of its check is ENCODE (R78). The block of `ldb` and `stb`
keeps its alignment, which is a limit of R64 and not of R63. -/
def blind : Instr → Instr
  | .sadd g ty _ _ _ => .sadd g ty 0 0 0
  | .ssub g ty _ _ _ => .ssub g ty 0 0 0
  | .smul g ty _ _ _ => .smul g ty 0 0 0
  | .smulh g ty _ _ _ => .smulh g ty 0 0 0
  | .sand g ty _ _ _ => .sand g ty 0 0 0
  | .sor g ty _ _ _ => .sor g ty 0 0 0
  | .sxor g ty _ _ _ => .sxor g ty 0 0 0
  | .sshl g ty _ _ _ => .sshl g ty 0 0 0
  | .sshr g ty _ _ _ => .sshr g ty 0 0 0
  | .ssra g ty _ _ _ => .ssra g ty 0 0 0
  | .smin g ty _ _ _ => .smin g ty 0 0 0
  | .smax g ty _ _ _ => .smax g ty 0 0 0
  | .smov g ty _ _ => .smov g ty 0 0
  | .scmp g ty c _ _ _ => .scmp g ty c 0 0 0
  | .ssel g ty _ _ _ _ => .ssel g ty 0 0 0 0
  | .saddImm g ty _ _ imm => .saddImm g ty 0 0 imm
  | .ssubImm g ty _ _ imm => .ssubImm g ty 0 0 imm
  | .smulImm g ty _ _ imm => .smulImm g ty 0 0 imm
  | .smulhImm g ty _ _ imm => .smulhImm g ty 0 0 imm
  | .sandImm g ty _ _ imm => .sandImm g ty 0 0 imm
  | .sorImm g ty _ _ imm => .sorImm g ty 0 0 imm
  | .sxorImm g ty _ _ imm => .sxorImm g ty 0 0 imm
  | .sshlImm g ty _ _ imm => .sshlImm g ty 0 0 imm
  | .sshrImm g ty _ _ imm => .sshrImm g ty 0 0 imm
  | .ssraImm g ty _ _ imm => .ssraImm g ty 0 0 imm
  | .sminImm g ty _ _ imm => .sminImm g ty 0 0 imm
  | .smaxImm g ty _ _ imm => .smaxImm g ty 0 0 imm
  | .scmpImm g ty c _ _ imm => .scmpImm g ty c 0 0 imm
  | .sliShort g _ imm => .sliShort g 0 imm
  | .sldArg g ty _ imm => .sldArg g ty 0 imm
  | .sliLong g _ k => .sliLong g 0 k
  | .slih g _ k => .slih g 0 k
  | .iliLong g _ k => .iliLong g 0 k
  | .iliB64 g _ k => .iliB64 g 0 k
  | .iliShort g _ imm => .iliShort g 0 imm
  | .bru g _ disp => .bru g 0 disp
  | .call g _ disp => .call g 0 disp
  | .lpb g _ disp => .lpb g 0 disp
  | .brx g _ => .brx g 0
  | .callReg g _ _ => .callReg g 0 0
  | .ret g _ => .ret g 0
  | .iadd g ty _ _ b => .iadd g ty 0 0 ⟨b.bu, 0⟩
  | .isub g ty _ _ b => .isub g ty 0 0 ⟨b.bu, 0⟩
  | .iadds g ty _ _ b => .iadds g ty 0 0 ⟨b.bu, 0⟩
  | .imul g ty _ _ b => .imul g ty 0 0 ⟨b.bu, 0⟩
  | .imulh g ty _ _ b => .imulh g ty 0 0 ⟨b.bu, 0⟩
  | .imin g ty _ _ b => .imin g ty 0 0 ⟨b.bu, 0⟩
  | .imax g ty _ _ b => .imax g ty 0 0 ⟨b.bu, 0⟩
  | .iand g ty _ _ b => .iand g ty 0 0 ⟨b.bu, 0⟩
  | .ior g ty _ _ b => .ior g ty 0 0 ⟨b.bu, 0⟩
  | .ixor g ty _ _ b => .ixor g ty 0 0 ⟨b.bu, 0⟩
  | .ishl g ty _ _ b => .ishl g ty 0 0 ⟨b.bu, 0⟩
  | .ishr g ty _ _ b => .ishr g ty 0 0 ⟨b.bu, 0⟩
  | .isra g ty _ _ b => .isra g ty 0 0 ⟨b.bu, 0⟩
  | .irot g ty _ _ b => .irot g ty 0 0 ⟨b.bu, 0⟩
  | .icmp g ty c _ b pd ps => .icmp g ty c 0 ⟨b.bu, 0⟩ pd ps
  | .isel g ty _ _ b ps => .isel g ty 0 0 ⟨b.bu, 0⟩ ps
  | .iaddImm g ty _ _ imm => .iaddImm g ty 0 0 imm
  | .isubImm g ty _ _ imm => .isubImm g ty 0 0 imm
  | .iaddsImm g ty _ _ imm => .iaddsImm g ty 0 0 imm
  | .imulImm g ty _ _ imm => .imulImm g ty 0 0 imm
  | .imulhImm g ty _ _ imm => .imulhImm g ty 0 0 imm
  | .iminImm g ty _ _ imm => .iminImm g ty 0 0 imm
  | .imaxImm g ty _ _ imm => .imaxImm g ty 0 0 imm
  | .iandImm g ty _ _ imm => .iandImm g ty 0 0 imm
  | .iorImm g ty _ _ imm => .iorImm g ty 0 0 imm
  | .ixorImm g ty _ _ imm => .ixorImm g ty 0 0 imm
  | .ishlImm g ty _ _ imm => .ishlImm g ty 0 0 imm
  | .ishrImm g ty _ _ imm => .ishrImm g ty 0 0 imm
  | .israImm g ty _ _ imm => .israImm g ty 0 0 imm
  | .irotImm g ty _ _ imm => .irotImm g ty 0 0 imm
  | .iabs g ty _ b => .iabs g ty 0 ⟨b.bu, 0⟩
  | .ineg g ty _ b => .ineg g ty 0 ⟨b.bu, 0⟩
  | .inot g ty _ b => .inot g ty 0 ⟨b.bu, 0⟩
  | .ipopc g ty _ b => .ipopc g ty 0 ⟨b.bu, 0⟩
  | .iclz g ty _ b => .iclz g ty 0 ⟨b.bu, 0⟩
  | .ibrev g ty _ b => .ibrev g ty 0 ⟨b.bu, 0⟩
  | .imov g ty _ b => .imov g ty 0 ⟨b.bu, 0⟩
  | .imad g ty _ _ _ _ => .imad g ty 0 0 0 0
  | .ibfx g ty _ _ _ _ => .ibfx g ty 0 0 0 0
  | .ibfi g ty _ _ _ _ => .ibfi g ty 0 0 0 0
  | .idp4 g ty _ _ _ _ => .idp4 g ty 0 0 0 0
  | .iaddc g ty _ _ b pd ps => .iaddc g ty 0 0 ⟨b.bu, 0⟩ pd ps
  | .isubb g ty _ _ b pd ps => .isubb g ty 0 0 ⟨b.bu, 0⟩ pd ps
  | .iaddw g ty gw _ _ b pd => .iaddw g ty gw 0 0 ⟨b.bu, 0⟩ pd
  | .fadd g ty rm _ _ b => .fadd g ty rm 0 0 ⟨b.bu, 0⟩
  | .fsub g ty rm _ _ b => .fsub g ty rm 0 0 ⟨b.bu, 0⟩
  | .fmul g ty rm _ _ b => .fmul g ty rm 0 0 ⟨b.bu, 0⟩
  | .fmin g ty _ _ b => .fmin g ty 0 0 ⟨b.bu, 0⟩
  | .fmax g ty _ _ b => .fmax g ty 0 0 ⟨b.bu, 0⟩
  | .fcmp g c _ b pd ps => .fcmp g c 0 ⟨b.bu, 0⟩ pd ps
  | .fscale g rm _ _ b => .fscale g rm 0 0 ⟨b.bu, 0⟩
  | .fabs g ty _ b => .fabs g ty 0 ⟨b.bu, 0⟩
  | .fneg g ty _ b => .fneg g ty 0 ⟨b.bu, 0⟩
  | .fclass g _ _ b pd => .fclass g 0 0 ⟨b.bu, 0⟩ pd
  | .frnd g rm _ b => .frnd g rm 0 ⟨b.bu, 0⟩
  | .fgetexp g _ b => .fgetexp g 0 ⟨b.bu, 0⟩
  | .fma g ty rm _ _ _ _ => .fma g ty rm 0 0 0 0
  | .fdot2 g ty rm _ _ _ _ => .fdot2 g ty rm 0 0 0 0
  | .fdot4 g ty rm _ _ _ _ => .fdot4 g ty rm 0 0 0 0
  | .cvt g ty ts rm _ b => .cvt g ty ts rm 0 ⟨b.bu, 0⟩
  | .cvtq g ty ts rm _ _ b => .cvtq g ty ts rm 0 0 ⟨b.bu, 0⟩
  | .cvtdq g ty ts rm _ _ b => .cvtdq g ty ts rm 0 0 ⟨b.bu, 0⟩
  | .pack g ty _ _ => .pack g ty 0 0
  | .unpk g ty _ b => .unpk g ty 0 ⟨b.bu, 0⟩
  | .fexp2 g _ _ => .fexp2 g 0 0
  | .flog2 g _ _ => .flog2 g 0 0
  | .frcp g _ _ => .frcp g 0 0
  | .frsqrt g _ _ => .frsqrt g 0 0
  | .fsqrt g _ _ => .fsqrt g 0 0
  | .fsin g _ _ => .fsin g 0 0
  | .fcos g _ _ => .fcos g 0 0
  | .ftanh g _ _ => .ftanh g 0 0
  | .fsigm g _ _ => .fsigm g 0 0
  | .ferf g _ _ => .ferf g 0 0
  | .rstat g rm _ _ _ n => .rstat g rm 0 0 0 n
  | .vote g _ _ pd ps => .vote g 0 0 pd ps
  | .shfl g ty _ _ b => .shfl g ty 0 0 ⟨b.bu, 0⟩
  | .xred g ty rm op ud _ _ b => .xred g ty rm op ud 0 0 ⟨b.bu, 0⟩
  | .xscan g ty rm op inc _ _ b => .xscan g ty rm op inc 0 0 ⟨b.bu, 0⟩
  | .xmatch g ty _ _ b => .xmatch g ty 0 0 ⟨b.bu, 0⟩
  | .xcomp g ty _ _ b pd ps => .xcomp g ty 0 0 ⟨b.bu, 0⟩ pd ps
  | .xexp g ty _ _ b pd ps => .xexp g ty 0 0 ⟨b.bu, 0⟩ pd ps
  | .ld g ty sp cau na _ m => .ld g ty sp cau na 0 ⟨m.vw, 0, 0, m.off⟩
  | .st g ty sp blk na _ m => .st g ty sp blk na 0 ⟨m.vw, 0, 0, m.off⟩
  | .ldb g sp na bl d m => .ldb g sp na bl (d &&& 0xF) ⟨m.vw, 0, 0, m.off⟩
  | .stb g sp na bl d m => .stb g sp na bl (d &&& 0xF) ⟨m.vw, 0, 0, m.off⟩
  | .atom g op ty sp _ _ _ off => .atom g op ty sp 0 0 0 off
  | .cinvLine g m => .cinvLine g ⟨m.vw, 0, 0, m.off⟩
  | .cwb g m => .cwb g ⟨m.vw, 0, 0, m.off⟩
  | .prf g m => .prf g ⟨m.vw, 0, 0, m.off⟩
  | .prfL2 g m => .prfL2 g ⟨m.vw, 0, 0, m.off⟩
  | .tld g _ _ _ off => .tld g 0 0 0 off
  | .tldi g _ _ _ off => .tldi g 0 0 0 off
  | .oxip g ta tb _ _ acc mreg _ sp => .oxip g ta tb 0 0 acc (if sp = 0 then mreg else 0) 0 sp
  | .oxop g ta tb _ _ acc nk cs => .oxop g ta tb 0 0 acc nk cs
  | .oxrw g ta tb _ _ c acc nk cmp => .oxrw g ta tb 0 0 (if cmp then 0 else c) acc nk cmp
  | .accld g tb _ acc => .accld g tb 0 acc
  | .accst g tb rm d a b c acc sc => .accst g tb rm (blindOr d) (blindOr a) (if sc then 0 else b) (if sc then 0 else c) acc sc
  | .ldmeta g _ mreg sp => .ldmeta g 0 mreg sp
  | .cp g _ tok => .cp g 0 tok
  | .cpx g _ tok => .cpx g 0 tok
  | .cpz g _ tok => .cpz g 0 tok
  | .cpg g _ _ tok => .cpg g 0 0 tok
  | .cps g _ _ tok => .cps g 0 0 tok
  | .tload g loc _ tok => .tload g loc 0 tok
  | .tpoll g _ tok => .tpoll g 0 tok
  | .capload g _ imm => .capload g 0 imm
  | .capsave g _ _ imm => .capsave g 0 0 imm
  | .mfs g vec _ reg => .mfs g vec 0 reg
  | .mts g _ reg => .mts g 0 reg
  | i => i

/-- A run of metadata registers past the sixteenth is an ACCIDX, not a REGIDX (R78). -/
def metaBlind : Instr → Instr
  | .oxip g ta tb a b acc mreg _ sp => .oxip g ta tb a b acc (if sp = 0 then mreg else 0) 0 sp
  | i => i

/-- Vector registers that an address names. -/
def addrRegs (vw : Bool) (vi : Field10) : List Nat :=
  if vw then [vi.toNat, vi.toNat + 1] else if vi = noField then [] else [vi.toNat]

/-- Vector registers that an instruction names (R19, R63). -/
def namedRegs (i : Instr) : List Nat :=
  match usesOf i with
  | some u => u.rv ++ u.wv
  | none =>
    match i with
    | .iaddw _ _ _ d a b _ => [d.toNat, a.toNat] ++ vregsB .i32 b
    | .call _ a _ | .ret _ a => vregs .b64 a
    | .callReg _ d _ => vregs .b64 d
    | .callFar _ _ => [0, 1]
    | .rstat _ _ d a b n => vregs .b64 d ++ vrange a (n.toNat + 1) ++ [b.toNat]
    | .shfl _ ty d a b => vregs ty d ++ vregs ty a ++ vregsB .i32 b
    | .xred _ ty _ _ ud d _ b => (if ud then [] else vregs ty d) ++ vregsB ty b
    | .xscan _ ty _ _ _ d _ b => vregs ty d ++ vregsB ty b
    | .xmatch _ ty d _ b => vregs .b64 d ++ vregsB ty b
    | .xcomp _ ty d _ b _ _ | .xexp _ ty d _ b _ _ => vregs ty d ++ vregsB ty b
    | .ld _ ty _ _ _ d m | .st _ ty _ _ _ d m => vregs ty d ++ addrRegs m.vw m.vi
    | .ldb _ _ _ bl d m | .stb _ _ _ bl d m => vrange d (4 * 2 ^ bl.toNat) ++ addrRegs m.vw m.vi
    | .atom _ op ty _ d _ vi _ =>
      (if op = .cas then vrange d (if isWide ty then 4 else 2) else vregs ty d) ++ addrRegs false vi
    | .cinvLine _ m | .cwb _ m | .prf _ m | .prfL2 _ m => addrRegs m.vw m.vi
    | .tld _ d _ vi _ | .tldi _ d _ vi _ => d.toNat :: addrRegs false vi
    | .accst _ _ _ d _ _ _ _ _ => if d = noField then [] else vrange d 16
    | .mfs _ vec d reg => if vec then (if sysRegWidth reg = some true then [d.toNat, d.toNat + 1] else [d.toNat]) else []
    | _ => []

/-- Barrier ids, tokens, accumulators and metadata registers that an instruction names. -/
def namedBars : Instr → List Nat
  | .bar _ b | .bara _ b | .barw _ b => [b.toNat]
  | _ => []
def namedToks : Instr → List Nat
  | .cp _ _ t | .cpx _ _ t | .cpz _ _ t | .cpg _ _ _ t | .cps _ _ _ t | .tload _ _ _ t | .twait _ t | .tpoll _ _ t => [t.toNat]
  | .flsig _ _ named t t2 => if named then [t.toNat, t2.toNat] else [t.toNat]
  | _ => []
def namedAccs : Instr → List Nat
  | .oxip _ _ _ _ _ acc _ _ _ | .oxop _ _ _ _ _ acc _ _ | .accz _ _ acc | .accld _ _ _ acc | .accst _ _ _ _ _ _ _ acc _ => [acc.toNat]
  | .oxrw _ _ _ _ _ _ acc _ cmp => if cmp then [] else [acc.toNat]
  | .accmv _ a b => [a.toNat, b.toNat]
  | _ => []
def namedMetas : Instr → List Nat
  | .oxip _ ta _ _ _ _ mreg nk sp => if sp = 0 then [] else (List.range (oxMetaCount ta nk)).map (fun i => mreg.toNat + i)
  | .ldmeta _ _ mreg _ => [mreg.toNat]
  | _ => []

/-- Byte distances from an instruction to the targets that its fields give (R106, R199). -/
def targetsOf : Instr → List Int
  | .jmp _ d | .bru _ _ d | .call _ _ d | .lpb _ _ d => [8 * d.toInt]
  | .brd _ d r => [8 * d.toInt, 8 * r.toInt]
  | .callFar _ fd => [fd.toInt]
  | .lmark _ i | .capload _ _ i | .capsave _ _ _ i | .capdrop _ i => [8 * i.toInt]
  | _ => []

/-- The checks from ENCODE to PARAM on one instruction against a kernel, in the order of R78: 0 when it passes. -/
def wordStatus (kd : Kernel) (w0 w1 : DWord) : Nat :=
  match decodeMap (Fields.unpack w0) w1 with
  | none => 4
  | some i =>
    if !(blind i).wf then 4
    else if !(metaBlind i).wf || (namedRegs i).any (fun r => decide (kd.regs ≤ r)) then 5
    else if (namedBars i).any (fun b => decide (kd.bars ≤ b)) then 6
    else if (namedToks i).any (fun t => decide (kd.tokens ≤ t)) then 7
    else if (namedAccs i).any (fun a => decide (kd.acc ≤ a)) || (namedMetas i).any (fun m => decide (kd.nmeta ≤ m)) then 8
    else match i with
      | .sldArg _ _ _ imm => if kd.paramSize ≤ imm.toNat then 9 else 0
      | _ => 0

/-- The targets of the instruction in a word. -/
def wordTargets (w0 w1 : DWord) : List Int := match decodeWords w0 w1 with | some i => targetsOf i | none => []

/-- The result of the verifier (R79): status, kernel index (0xFFFF for none), byte offset, and the instruction starts in words. -/
structure Verdict where
  status : Nat
  kernel : Nat
  offset : Nat
  starts : List Nat
  deriving DecidableEq, Repr

/-- The largest resource counts of any kernel of the segment (R77); a request that carries no kernel descriptor gives none, and then each is taken as zero
(DESIGN CHOICE, log entry 150). -/
def largest (ks : List Kernel) : Kernel :=
  ks.foldl (fun a k => { a with
    regs := max a.regs k.regs
    acc := max a.acc k.acc
    nmeta := max a.nmeta k.nmeta
    tokens := max a.tokens k.tokens
    bars := max a.bars k.bars
    paramSize := max a.paramSize k.paramSize })
    { kernelOf 0 0 [] with regs := 0, acc := 0, nmeta := 0, tokens := 0, bars := 0, paramSize := 0 }

/-- The kernel whose code range contains a byte offset, with its index. -/
def kernelAt (ks : List Kernel) (off : Nat) : Option (Kernel × Nat) :=
  ks.zipIdx.find? (fun x => decide (x.1.entry ≤ off) && decide (off < x.1.entry + x.1.codeSize))

/-- One instruction of the pass: its status, and the offsets it targets. A target outside the code range of the instruction's own
kernel fails at once (R77, R78). -/
def judgeWord (ks : List Kernel) (off : Nat) (w0 : DWord) (rest : List DWord) : Nat × List Int :=
  let own := kernelAt ks off
  let kd := match own with | some x => x.1 | none => largest ks
  if wordsLen w0 = 16 ∧ rest.isEmpty then (3, [])
  else
    let st := wordStatus kd w0 (rest.headD 0)
    if st ≠ 0 then (st, [])
    else
      let ts := (wordTargets w0 (rest.headD 0)).map (fun d => (off : Int) + d)
      let inside := fun (t : Int) => match own with
        | some x => decide ((x.1.entry : Int) ≤ t) && decide (t < ((x.1.entry + x.1.codeSize : Nat) : Int))
        | none => false
      if ts.all inside then (0, ts) else (10, [])

/-- The pass over the words in increasing address order: it stops at the first failure; else it answers the starts (in words) and the
targets with the kernel index and offset that name them. Word 1 of the result is 0 on PASS (DESIGN CHOICE, log entry 103: R79 states it only
for a failing offset and for DESC). -/
def passWords (ks : List Kernel) : Nat → Nat → List DWord → List Nat → List (Int × Nat × Nat) → Verdict × List (Int × Nat × Nat)
  | 0, _, _, starts, ts => (⟨0, 0xFFFF, 0, starts.reverse⟩, ts)
  | _, _, [], starts, ts => (⟨0, 0xFFFF, 0, starts.reverse⟩, ts)
  | fuel + 1, off, w0 :: r, starts, ts =>
    let ki := match kernelAt ks off with | some x => x.2 | none => 0xFFFF
    let (st, mine) := judgeWord ks off w0 r
    if st ≠ 0 then (⟨st, ki, off, []⟩, [])
    else
      let ts1 := ts ++ mine.map (fun t => (t, ki, off))
      if wordsLen w0 = 16 then passWords ks fuel (off + 16) (r.drop 1) (off / 8 :: starts) ts1
      else passWords ks fuel (off + 8) r (off / 8 :: starts) ts1

/-- An offset is an instruction start. -/
def isStartOffset (starts : List Nat) (t : Int) : Bool := decide (0 ≤ t) && decide (t % 8 = 0) && starts.contains (t.toNat / 8)

/-- The first entry or handler that is no instruction start: kernel index and offset. -/
def badEntryOffset (ks : List Kernel) (starts : List Nat) : Option (Nat × Nat) :=
  ((ks.zipIdx.flatMap (fun x => (x.2, x.1.entry) :: (x.1.handler.toList.map (fun h => (x.2, h))))).find?
    (fun y => !isStartOffset starts (y.2 : Int)))

/-- The verifier (R77, R78). -/
def verifySegment (words : List DWord) (descs : List (List DWord)) : Verdict :=
  match descFailure (8 * words.length) descs with
  | some k => ⟨1, k, 2 ^ 64 - 1, []⟩
  | none =>
    let ks := descs.map (kernelOf 0 0)
    let (v, ts) := passWords ks words.length 0 words [] []
    if v.status ≠ 0 then v
    else match badEntryOffset ks v.starts with
      | some (k, off) => ⟨2, k, off, []⟩
      | none => match ts.find? (fun t => !isStartOffset v.starts t.1) with
        | some (_, k, off) => ⟨10, k, off, []⟩
        | none => v

/-- An unverified request: only DESC is made, and every start-map bit is set (R81). -/
def verifyLoosely (words : List DWord) (descs : List (List DWord)) : Verdict :=
  match descFailure (8 * words.length) descs with
  | some k => ⟨1, k, 2 ^ 64 - 1, []⟩
  | none => ⟨0, 0xFFFF, 0, []⟩

/-- The two words of a result (R79). -/
def Verdict.words (v : Verdict) : DWord × DWord :=
  (BitVec.ofNat 64 (v.status + 2 ^ 16 * v.kernel), BitVec.ofNat 64 v.offset)

end Sys2Proof.Machine
end

