-- ==== Sys2Proof/Machine/Driver.lean ====
section
/-! DEFINITION. The driver's commands (R441), the protected tables that a verification writes (R79, R236), and the fault ring
(R443). The pre-emption command stands with the save it asks for. -/

namespace Sys2Proof.Machine

/-- Status codes of R441. -/
def stOk : DWord := 0
def stField : DWord := 1
def stOwner : DWord := 2
def stPrivilege : DWord := 3
def stRoom : DWord := 4

/-- A command returns: its code, its status, and what it reports beside. -/
def State.reply (s : State) (fn code : Nat) (status w0 : DWord) : State :=
  s.putFn fn { s.fn fn with replies := (s.fn fn).replies ++ [⟨code, status, w0, 0⟩] }

/-- A command of a function that exists, once bring-up has opened BAR0 (R434, R449). -/
def command (fn code : Nat) (s : State) (f : DWord × DWord × State) : Out :=
  if !s.up || decide (32 ≤ fn) then .next s else .next (f.2.2.reply fn code f.1 f.2.1)

/-- The function owns a valid ASID (R232, R434). -/
def ownsAsid (s : State) (fn asid : Nat) : Bool := decide (asid < 4096) && asidValid s asid && asidFn s asid == fn

/-- Something runs in an ASID, or may run again: a registered queue, a resident or a saved cohort (R232). -/
def asidInUse (s : State) (asid : Nat) : Bool :=
  s.queues.any (fun e => e.2.reg && e.2.asid == asid) || s.cohorts.any (fun e => e.2.kd.asid == asid) ||
  s.saved.any (fun e => match s.grid e.2.grid with | some g => g.kd.asid == asid | none => false)

/-- Word 0 of an ASID entry with the issuing function in FUNC (R232, R441). -/
def ownedWord (fn : Nat) (w0 : DWord) : DWord := (w0 &&& 0x0000000FFFFF0003) ||| BitVec.ofNat 64 (256 * fn)

/-- BIND_ASID (R232, R441). -/
def execBindAsid (fn asid : Nat) (w0 w1 : DWord) (s : State) : Out :=
  command fn 1 s
    (if 4096 ≤ asid ∨ w0 &&& 0xFFFFFFF0000000FC ≠ 0 ∨ w1 &&& 0xFFFFFF8000000FFF ≠ 0 then (stField, 0, s)
     else if asidValid s asid && asidFn s asid != fn then (stOwner, 0, s)
     else if !w0.getLsbD 0 && asidInUse s asid then (stField, 0, s)
     else (stOk, 0, { s with asids := spSet (0, 0) s.asids asid (ownedWord fn w0, w1) }))

-- Verification

/-- The table of a level on the way to a page, down from the root (R233). -/
def tableAt (s : State) (asid page stop : Nat) : Nat → Nat → Option Nat
  | level, table =>
    if level = stop then some table
    else
      let e := hbmWord s (table + 8 * (page / 2 ^ (9 * level) % 512))
      if !pteV e || pteLeaf e || malformed s e level table then none
      else match level with
        | 0 => none
        | n + 1 => tableAt s asid page stop n (pteAddr e)

/-- A word of a segment, read through the ASID's tables, which map it readable in device memory (R73, R77). -/
def segWord (s : State) (asid : Nat) (va : DWord) : Option DWord :=
  match (walkPage s 16 asid (pageOf va)).1 with
  | .leaf e level =>
    let a := pteAddr e + va.toNat % 2 ^ leafLog2 e level
    if pteHost e || !pteR e then none
    else match readCode s a with
      | .word w => some w
      | _ => none
  | _ => none

/-- The words of a segment, if every one can be read. -/
def segWords (s : State) (asid : Nat) (va : DWord) : Nat → Option (List DWord)
  | 0 => some []
  | n + 1 => match segWord s asid va with
    | none => none
    | some w => (segWords s asid (va + 8) n).map (w :: ·)

/-- VA pages of a range. -/
def pagesOf (va : DWord) (size : Nat) : List Nat :=
  (List.range ((va.toNat % 4096 + size + 4095) / 4096)).map (fun i => pageOf va + i)

/-- A 4 KiB entry for page j of a level-0 table, from an entry that may map 64 KiB. -/
def smallEntry (j : Nat) (e : DWord) : DWord :=
  if pteV e && pteLeaf e && pteBig e then (e &&& ~~~(0x80 : DWord)) + BitVec.ofNat 64 (4096 * (j % 16)) else e

/-- What a new protected table starts with: the translations that the level-1 entry gave its 512 pages, without execute permission. -/
def copiedEntry (s : State) (e1 : DWord) (j : Nat) : DWord :=
  if pteLeaf e1 then (if pteHost e1 then e1 else e1 + BitVec.ofNat 64 (4096 * j)) &&& ~~~(0x10 : DWord)
  else
    let e := hbmWord s (pteAddr e1 + 8 * j)
    if pteV e && malformed s e 0 (pteAddr e1) then 0 else smallEntry j e &&& ~~~(0x10 : DWord)

/-- The leaf of a page of a verified segment: executable, not writable (R79, R236). -/
def execLeaf (e : DWord) : DWord := (e ||| 0x10) &&& ~~~(0x08 : DWord)

/-- A page that may become executable: a readable leaf of device memory, not duplex (R234). -/
def mayExec (e : DWord) : Bool := pteV e && pteLeaf e && pteR e && !pteHost e && !pteDup e

/-- Write one word of a table at its home. -/
def putTableWord (s : State) (a : Nat) (w : DWord) : State :=
  mergeLine s (a / 64) (BitVec.ofNat 64 (0xFF * 2 ^ (a % 64))) (copies (a % 64) 0 ++ wordToBytes w ++ copies (56 - a % 64) 0) false

/-- THE DRIVER'S LINK (R236): the driver points an entry of its own tree at a protected table.
The model makes the link in the step of PASS, before the invalidation of R79 step 3, which then covers it (DESIGN CHOICE, log entry 78). -/
def driverLinks (s : State) (entryAt table : Nat) : State :=
  putTableWord s entryAt (BitVec.ofNat 64 (table + 1))

/-- How granting permission over a range ends: done, a field that cannot be granted, or no room in the protected region. -/
inductive Granted where
  | ok (s : State)
  | field
  | room

/-- A 1 GiB leaf above a block is split first (R79, R234): the driver links a level-1 table of 2 MiB leaves in the protected region in its place (log entry 78).
Nothing changes where there is no such leaf. -/
def splitLeaf (s : State) (asid block : Nat) : Granted :=
  match tableAt s asid (512 * block) 2 4 (asidRoot s asid) with
  | none => .ok s
  | some t2 =>
    let a2 := t2 + 8 * (block / 512 % 512)
    let e2 := hbmWord s a2
    if !pteV e2 || !pteLeaf e2 then .ok s
    else if malformed s e2 2 t2 then .field
    else if s.protPages ≤ s.protUsed then .room
    else
      let new := s.protBase + 4096 * s.protUsed
      let s1 := (List.range 512).foldl (fun acc j =>
        putTableWord acc (new + 8 * j) (if pteHost e2 then e2 else e2 + BitVec.ofNat 64 (2 ^ 21 * j))) s
      .ok { driverLinks s1 a2 new with protUsed := s.protUsed + 1 }

/-- Give the pages `mine` of one 2 MiB block execute permission (R79, R236): its level-0 table is in the protected region, or a new one
is made there and the driver links it; the homes lock the pages. -/
def grantBlock (s : State) (asid block : Nat) (mine : List Nat) : Granted :=
  match tableAt s asid (512 * block) 1 4 (asidRoot s asid) with
  | none => .field
  | some t1 =>
    let a1 := t1 + 8 * (block % 512)
    let e1 := hbmWord s a1
    let inPlace := pteV e1 && !pteLeaf e1 && isProtected s (pteAddr e1)
    let new := s.protBase + 4096 * s.protUsed
    let entries := (List.range 512).map (fun j =>
      if inPlace then smallEntry j (hbmWord s (pteAddr e1 + 8 * j)) else copiedEntry s e1 j)
    let js := mine.map (fun p => p % 512)
    if !pteV e1 || malformed s e1 1 t1 || !js.all (fun j => mayExec (listGet 0 entries j)) then .field
    else if !inPlace && decide (s.protPages ≤ s.protUsed) then .room
    else
      let t0 := if inPlace then pteAddr e1 else new
      let s1 := entries.zipIdx.foldl (fun acc x => putTableWord acc (t0 + 8 * x.2) (if js.contains x.2 then execLeaf x.1 else x.1)) s
      let s2 := if inPlace then s1 else { driverLinks s1 a1 new with protUsed := s.protUsed + 1 }
      .ok { s2 with locked := js.foldl (fun acc j => setAdd acc (pteAddr (listGet 0 entries j) / 4096)) s2.locked }

/-- Grant every block of a range. -/
def grantBlocks (s : State) (asid : Nat) (pages : List Nat) : List Nat → Granted
  | [] => .ok s
  | b :: r => match splitLeaf s asid b with
    | .ok s0 => match grantBlock s0 asid b (pages.filter (fun p => p / 512 == b)) with
      | .ok s1 => grantBlocks s1 asid pages r
      | x => x
    | x => x

/-- A new segment record. A segment of the ASID whose range meets its own loses its start map and its descriptors, outside the overlap too (DESIGN
CHOICE, log entry 143: R79 does not speak of a second verification). -/
def addSegment (s : State) (sg : Segment) : State :=
  let lo := sg.base.toNat
  let meets := fun (x : Segment) => x.asid == sg.asid && decide (x.base.toNat < lo + 8 * sg.words) && decide (lo < x.base.toNat + 8 * x.words)
  { s with segments := s.segments.map (fun x => if meets x then { x with words := 0, starts := [], descs := [] } else x) ++ [sg] }

/-- PASS (R79): the start map and the permission, then an invalidation whose completion reports the result. -/
def passSegment (s : State) (fn asid : Nat) (va : DWord) (size : Nat) (descs : List (List DWord)) (unverified : Bool) (v : Verdict) :
    DWord × Option State :=
  let pages := pagesOf va size
  match grantBlocks s asid pages (pages.map (· / 512)).eraseDups with
  | .field => (stField, none)
  | .room => (stRoom, none)
  | .ok s1 =>
    let s2 := addSegment s1 ⟨asid, va, size / 8, unverified, v.starts, fn, descs⟩
    (stOk, some (beginInval s2 asid (va.toNat % 2 ^ 57) size (some (fn, ⟨2, stOk, v.words.1, v.words.2⟩))))

/-- VERIFY (R77 to R81, R441): flag [0], an unverified segment, is for the physical function alone. -/
def execVerify (fn asid : Nat) (va : DWord) (size : Nat) (descs : List (List DWord)) (unverified : Bool) (s : State) : Out :=
  if !s.up || decide (32 ≤ fn) then .next s
  else if unverified && fn != 0 then .next (s.reply fn 2 stPrivilege 0)
  else if !ownsAsid s fn asid then .next (s.reply fn 2 stOwner 0)
  else if !canonical va || va.toNat % 8 != 0 || size % 8 != 0 || size == 0 || decide (2 ^ 34 < size) || !canonical (va + BitVec.ofNat 64 (size - 1)) then
    .next (s.reply fn 2 stField 0)
  else match segWords s asid va (size / 8) with
    | none => .next (s.reply fn 2 stField 0)
    | some ws =>
      let v := if unverified then verifyLoosely ws descs else verifySegment ws descs
      if v.status ≠ 0 then
        .next (s.putFn fn { s.fn fn with replies := (s.fn fn).replies ++ [⟨2, stOk, v.words.1, v.words.2⟩] })
      else match passSegment s fn asid va size descs unverified v with
        | (st, none) => .next (s.reply fn 2 st 0)
        | (_, some s1) => .next s1

/-- KERNEL (R441): a kernel of a verified segment gets a handle, bound to the ASID of the segment. -/
def execKernel (fn segment index : Nat) (s : State) : Out :=
  command fn 3 s
    (match s.segments[segment]? with
     | none => (stField, 0, s)
     | some sg =>
       if sg.fn ≠ fn then (stOwner, 0, s)
       else match sg.descs[index]? with
         | none => (stField, 0, s)
         | some d =>
           let h := s.handles.length + 1
           if 2 ^ 32 ≤ h then (stRoom, 0, s)
           else (stOk, BitVec.ofNat 64 h, { s with handles := s.handles ++ [(h, ⟨fn, sg.asid, kernelOf sg.asid sg.base d, d⟩)] }))

-- Queues

/-- Key of a queue of a function. -/
def queueKey (fn q : Nat) : Nat := 65536 * fn + q

/-- Queue `q` of a function, which has 65,536 (R434): no number reaches another function's. -/
def ownQueue (s : State) (fn q : Nat) : Option Queue := if 65536 ≤ q then none else s.queue (queueKey fn q)

/-- A power of two from 2^a to 2^b. -/
def isPow2In (n a b : Nat) : Bool := (List.range (b + 1)).any (fun i => decide (a ≤ i) && n == 2 ^ i)

/-- A queue that has just been registered; it is resident when its engine has room (R205, R435). -/
def newQueue (fn asid : Nat) (ring : DWord) (size prio : Nat) (save : DWord) (saveSize engine : Nat) (res : Bool) (now : DWord) : Queue where
  fn := fn
  asid := asid
  ring := ring
  size := size
  prio := prio
  save := save
  saveSize := saveSize
  widx := 0
  ridx := 0
  failidx := 0
  err := 0
  halt := false
  reg := true
  res := res
  engine := engine
  leaving := false
  lastStart := now
  kicked := none
  pend := []
  launches := 0
  images := []

/-- The engine of a queue that registers: the lowest of those with the fewest registered queues, so that 1024 queues are all resident (R205,
R208; DESIGN CHOICE, log entry 107). -/
def newEngine (s : State) : Nat :=
  let load := fun (n : Nat) => (s.queues.filter (fun e => e.2.reg && e.2.engine == n)).length
  (List.range 16).foldl (fun b n => if load n < load b then n else b) 0

/-- QUEUE (R207, R232, R435, R441). -/
def execQueue (fn q asid : Nat) (ring : DWord) (size prio : Nat) (save : DWord) (saveSize : Nat) (s : State) : Out :=
  let k := queueKey fn q
  command fn 4 s
    (if 65536 ≤ q ∨ 4096 ≤ asid ∨ !asidValid s asid ∨ !isPow2In size 6 20 ∨ ring.toNat % 64 ≠ 0 ∨ 8 ≤ prio ∨ save.toNat % 64 ≠ 0 then (stField, 0, s)
     else if asidFn s asid ≠ fn then (stOwner, 0, s)
     else if (match s.queue k with | some x => x.reg | none => false) then (stField, 0, s)
     else
       let n := newEngine s
       (stOk, 0, s.putQueue k (newQueue fn asid ring size prio save saveSize n (decide ((engineResidents s n).length < 64)) s.clock)))

/-- Abandon every grid of a queue (R441): its saved contexts go; a grid with nothing resident is over. -/
def abandonGrids (s : State) (k : Nat) : State := restartWaits s <|
  let mine := fun (gi : Nat) => match s.grid gi with | some g => gridQueue g == k | none => false
  { s with
    grids := s.grids.map (fun e => if gridQueue e.2 = k then (e.1, { e.2 with abandoned := true }) else e)
    saved := s.saved.filter (fun e => !mine e.2.grid)
    reserveQ := s.reserveQ.filter (fun r => !mine r.2.2)
    reserveL1 := s.reserveL1.filter (fun r => !mine r.2.2) }

/-- UNQUEUE (R438, R441, R450): what it abandons ends without a SIG add; a COPY that moves bytes goes on, and an ended packet makes its add. -/
def execUnqueue (fn q : Nat) (s : State) : Out :=
  let k := queueKey fn q
  command fn 5 s
    (match ownQueue s fn q with
     | none => (stField, 0, s)
     | some x =>
       if !x.reg then (stField, 0, s)
       else
         let x1 := { x with halt := true, leaving := true, kicked := none, pend := x.pend.filter (fun p => p.done || pktType p == 2) }
         (stOk, 0, settleQueues ((abandonGrids s k).putQueue k x1)))

/-- RESTART (R436, R438, R441): clears HALT and ERR; the queue goes on at RIDX. -/
def execRestart (fn q : Nat) (s : State) : Out :=
  let k := queueKey fn q
  command fn 6 s
    (match ownQueue s fn q with
     | none => (stField, 0, s)
     | some x => if !x.reg || x.leaving then (stField, 0, s) else (stOk, 0, (lapse s x.asid).putQueue k { x with halt := false, err := 0 }))

/-- INVAL (R245, R441): its status is returned when the invalidation completes. -/
def execInval (fn asid : Nat) (va : DWord) (size : Nat) (s : State) : Out :=
  if !s.up || decide (32 ≤ fn) then .next s
  else if !ownsAsid s fn asid then .next (s.reply fn 7 stOwner 0)
  else .next (beginInval s asid (va.toNat % 2 ^ 57) size (some (fn, ⟨7, stOk, 0, 0⟩)))

/-- SETDELAY (R209, R441). -/
def execSetdelay (fn : Nat) (value : Word) (s : State) : Out :=
  command fn 11 s (stOk, 0, s.putFn fn { s.fn fn with delay := value })

/-- An entry for a page that is executable, or that maps a page of a verified segment: one with BIG set maps the 16 pages of its 64 KiB (R234 to R236). -/
def mapsSegment (s : State) (asid page : Nat) (e : DWord) : Bool :=
  let first := if pteV e && pteBig e then page / 16 * 16 else page
  let n := if pteV e && pteBig e then 16 else 1
  (pteV e && pteLeaf e && pteX e) ||
  s.segments.any (fun sg => sg.asid == asid && decide (0 < sg.words) && decide (sg.base.toNat % 2 ^ 57 / 4096 < first + n) &&
    decide (first * 4096 < sg.base.toNat % 2 ^ 57 + 8 * sg.words))

/-- PTWRITE (R236, R441). -/
def execPtwrite (fn asid : Nat) (va : DWord) (entry : DWord) (s : State) : Out :=
  let page := pageOf va
  command fn 12 s
    (if !ownsAsid s fn asid then (stOwner, 0, s)
     else if !canonical va then (stField, 0, s)
     else match tableAt s asid page 0 4 (asidRoot s asid) with
       | none => (stField, 0, s)
       | some t =>
         let a := t + 8 * (page % 512)
         if !isProtected s t || mapsSegment s asid page (hbmWord s a) || mapsSegment s asid page entry || pteX entry || (pteV entry && badEntry entry 0) then (stField, 0, s)
         else (stOk, 0, putTableWord s a entry))

-- Windows

/-- The window table without an entry. -/
def dropWindow (s : State) (fn slot : Nat) : State := { s with windows := s.windows.filter (fun x => !(x.fn == fn && x.slot == slot)) }

/-- The driver of a function writes one of its 256 window entries, in place of what stood there (R444). No command of R441 does this. An entry that
names no function, place, ASID or package, or a range beyond 57 bits of VA, is not written. -/
def writeWindow (s : State) (w : Window) : State :=
  if 32 ≤ w.fn ∨ 256 ≤ w.slot ∨ 4096 ≤ w.asid ∨ 1024 ≤ w.package ∨ 4096 ≤ w.remote ∨ 2 ^ 27 < w.base + w.gib then s
  else { dropWindow s w.fn w.slot with windows := (dropWindow s w.fn w.slot).windows ++ [w] }

/-- The driver imports a pair of one of the 1,024 packages and an ASID, or ends the import (R444). -/
def importPair (s : State) (package asid : Nat) (on : Bool) : State :=
  if 1024 ≤ package ∨ 4096 ≤ asid then s
  else if on then { s with imports := if s.imports.contains (package, asid) then s.imports else s.imports ++ [(package, asid)] }
  else { s with imports := s.imports.filter (fun x => x ≠ (package, asid)) }

/-- What the driver or the host does (R440, R444, R450), once bring-up has opened PCIe (R449). An add that its home cannot take yet comes later. -/
def hostAct (a : HostAct) (s : State) : State :=
  if !s.up then s
  else match a with
    | .putWindow w => writeWindow s w
    | .clearWindow fn slot => dropWindow s fn slot
    | .addImport package asid => importPair s package asid true
    | .dropImport package asid => importPair s package asid false
    | .addWord toHost addr x => match hostAdd s toHost addr x with
      | some t => t
      | none => { s with agenda := .host (.addWord toHost addr x) :: s.agenda }

-- Fault ring

/-- What the function registers of BAR0 read at an offset (R443): FQW, which is read only, and FQR. -/
def fnRegister (f : Fn) (off : Nat) : DWord :=
  match off with
  | 0x00000 => f.fqw
  | 0x00008 => f.fqr
  | _ => 0

/-- FAULTQ (R441, R443): both indices become zero. -/
def execFaultq (fn : Nat) (va : DWord) (size : Nat) (s : State) : Out :=
  command fn 9 s
    (if !isPow2In size 0 32 then (stField, 0, s)
     else (stOk, 0, s.putFn fn { s.fn fn with ring := va, size := size, fqw := 0, fqr := 0 }))

/-- FQR_WRITE (R443): a value below the previous one or above FQW is ignored. -/
def execFqrWrite (fn : Nat) (value : DWord) (s : State) : Out :=
  let f := s.fn fn
  if !s.up || decide (32 ≤ fn) || decide (value.toNat < f.fqr.toNat) || decide (f.fqw.toNat < value.toNat) then .next s
  else .next (s.putFn fn { f with fqr := value })

/-- RESPOND (R242, R441): RETRY or FAIL for a page record of the function that has had no answer. -/
def execRespond (fn record : Nat) (retry : Bool) (s : State) : Out :=
  command fn 10 s
    (if !(s.fn fn).pageIds.contains record then (stField, 0, s)
     else (stOk, 0, answerAll (s.putFn fn { s.fn fn with pageIds := (s.fn fn).pageIds.filter (fun i => i ≠ record) }) false
       (fun a => asidFn s a == fn) (fun p => p.record == some record) retry))

/-- One set of a record (R443). -/
def setBytes (t : TrapInfo) : List Byte :=
  bytesLE 4 t.cause.toNat ++ bytesLE 4 t.info.toNat ++ bytesLE 8 t.pc.toNat ++ bytesLE 8 t.addr.toNat ++ bytesLE 8 t.lanes.toNat

/-- The 128 bytes of a fault record (R443). -/
def recordBytes (r : FaultRec) : List Byte :=
  bytesLE 1 r.kind ++ bytesLE 1 (if r.set2.isSome then 1 else 0) ++ bytesLE 2 r.asid ++ bytesLE 4 r.id ++ bytesLE 4 r.queue ++
  bytesLE 4 r.launch ++ bytesLE 1 r.die ++ bytesLE 1 0 ++ bytesLE 2 r.core ++ bytesLE 4 r.gangid ++ bytesLE 8 r.va.toNat ++
  setBytes r.set1 ++ setBytes (r.set2.getD noTrap) ++ copies 32 0

/-- FAULT_RECORD_WRITE (R443): the oldest record goes to the ring, and MSI-X vector 1 is raised; it waits while the ring is full, while
there is none, while the PCIe link is down (R450), and behind the writes to host memory delivered before it (R282). -/
def execFaultRecordWrite (fn : Nat) (s : State) : Out :=
  let f := s.fn fn
  match f.records with
  | [] => .next s
  | r :: rest =>
    if f.size = 0 ∨ f.size ≤ (f.fqw - f.fqr).toNat ∨ !s.pcieUp ∨ !pcieQuiet s then .next s
    else
      let a := f.ring.toNat + 128 * (f.fqw.toNat % f.size)
      .next ((putBytes s (imageOf (hostBase + a) (recordBytes r))).putFn fn { f with records := rest, fqw := f.fqw + 1, msix := f.msix + 1 })

end Sys2Proof.Machine
end

