-- ==== Sys2Proof/Machine/Context.lean ====
section
/-! DEFINITION. The context of a saved cohort as bytes (R383 to R389): how it is written, and how its parts are read back. -/

namespace Sys2Proof.Machine

/-- Bytes cut or filled with zeros to n. -/
def fit (n : Nat) (b : List Byte) : List Byte := (b ++ copies n 0).take n

/-- n rounded up to a multiple of 64. -/
def up64 (n : Nat) : Nat := (n + 63) / 64 * 64

/-- n bits as bytes, bit i in bit i mod 8 of byte i / 8. -/
def bitBytes (n : Nat) (f : Nat → Bool) : List Byte :=
  (List.range ((n + 7) / 8)).map (fun i => BitVec.ofNat 8 ((List.range 8).foldl (fun acc j =>
    if decide (8 * i + j < n) && f (8 * i + j) then acc + 2 ^ j else acc) 0))

def bitAt (b : List Byte) (off i : Nat) : Bool := (listGet (0 : Byte) b (off + i / 8)).getLsbD (i % 8)

-- Sizes (R384 to R388)

def ctxV (kd : Kernel) : Nat := up64 (0x920 + 2 * kd.gangw)
def ctxA (kd : Kernel) : Nat := up64 (ctxV kd + 4 * kd.gangw * kd.regs)
def ctxT (kd : Kernel) : Nat := up64 (ctxA kd + 1024 * kd.acc)
def ctxM (kd : Kernel) : Nat := up64 (ctxT kd + 64 * kd.acc)
def ctxX (kd : Kernel) : Nat := up64 (ctxM kd + 192 * kd.nmeta)

/-- Size of a gang record (R386). -/
def recordSize (kd : Kernel) : Nat := up64 (ctxX kd + (kd.gangw * kd.regs + 7) / 8)

/-- Cores of a cohort, as keys. -/
def cohortKeys (c : Cohort) : List Nat := (cohortCores c).map (coreKey c.die)

/-- Copy commands of a cohort, in queue order (R387). -/
def cohortCmds (s : State) (c : Cohort) : List CopyCmd :=
  (cohortKeys c).flatMap (fun k => (s.coreAt (keyDie k) (keyCore k)).copyq.filter (fun x => c.gangs.contains x.gang))

def slotEntry (sl : Slot) : List Byte :=
  let b := imageBytes sl
  bytesLE 8 sl.head.toNat ++ bytesLE 4 b.length ++ copies 4 0 ++ b ++ copies ((8 - b.length % 8) % 8) 0

/-- Offsets of the sections after the gang records (R384, R387); the block ends with its last section. -/
structure Layout where
  scratch : Nat
  table : Nat
  barrier : Nat
  copy : Nat
  place : Nat
  size : Nat
  deriving DecidableEq, Repr

def layoutOf (kd : Kernel) (quartet tbl : Bool) (cmds placeBytes : Nat) : Layout :=
  let cores := if quartet then 4 else 1
  let a := 0x100 + cohortGangs kd * recordSize kd
  let t := a + up64 (cores * kd.scratch + (cores * kd.scratch / 8 + 7) / 8)
  let b := t + (if tbl then up64 (cores * 8192 + cores) else 0)
  let cp := b + up64 (64 + 4 * cohortThreads kd)
  let pl := cp + 384 * cmds
  let last := if cmds = 0 ∧ placeBytes = 0 then b + 64 + 4 * cohortThreads kd else pl + placeBytes
  ⟨a, if tbl then t else 0, b, if cmds = 0 then 0 else cp, if placeBytes = 0 then 0 else pl, last⟩

/-- Slot images that go with a cohort: those of its ASID with a head in its code range, at most four (R389), and no more than the place that its
request has kept for the context holds (DESIGN CHOICE, log entry 158). -/
def cohortSlots (s : State) (c : Cohort) : List Slot :=
  let all := (((cohortKeys c).flatMap (fun k => (s.coreAt (keyDie k) (keyCore k)).slots.filterMap id)).filter
    (fun sl => sl.asid == c.kd.asid && inCodeRange c.kd sl.head)).take 4
  match c.room with
  | none => all
  | some (_, n) =>
    let size := fun (m : Nat) => (layoutOf c.kd c.quartet c.ownsTable (cohortCmds s c).length ((all.take m).flatMap slotEntry).length).size
    all.take (([4, 3, 2, 1].find? (fun m => decide (size m ≤ n))).getD 0)

/-- The layout of a cohort's context as it stands. -/
def cohortLayout (s : State) (c : Cohort) : Layout :=
  layoutOf c.kd c.quartet c.ownsTable (cohortCmds s c).length ((cohortSlots s c).flatMap slotEntry).length

-- Gang records (R385, R386)

/-- State code, and barrier id or token, of a path; a sleep counts as ended (R380). -/
def pathCode (p : Path) : Nat × Nat :=
  match p.st with
  | .atRejoin => (2, 0)
  | .bar b => (3, b)
  | .barw b => (4, b)
  | .twait k => (5, k)
  | .parked => (6, 0)
  | .ready => (if fullyCurrent p then 0 else 1, 0)
  | _ => (1, 0)

/-- A path sleeps; the save ends its wait, so that it is younger than every path that waits already (R151, R153, R380). -/
def sleeping (p : Path) : Bool := match p.st with | .sleep .. => true | _ => false

/-- Age rank of a waiting path, 0 the oldest. -/
def ageRank (ps : List Path) (p : Path) : Nat :=
  (ps.filter (fun q => (pathCode q).1 == 1 && q.id != p.id && (if sleeping q = sleeping p then olderPath q p else sleeping p))).length

def pathEntry (ps : List Path) (p : Path) : List Byte :=
  let (c, x) := pathCode p
  fit 32 (bytesLE 8 p.pc.toNat ++ bytesLE 8 p.mask.toNat ++ bytesLE 1 c ++ bytesLE 1 (if c = 1 then ageRank ps p else 0) ++ bytesLE 1 x)

/-- The stack with the innermost entry at index depth − 1. -/
def stackBytes (es : List StackEntry) : List Byte := es.reverse.flatMap (fun e => bytesLE 8 e.rejoin.toNat ++ bytesLE 8 e.members.toNat)

def tokenBits (ts : List Token) : Nat := (ts.zipIdx.map (fun x => (tokCode x.1.st).toNat * 4 ^ x.2)).foldl (· + ·) 0

/-- The fixed part of a gang's record (R385). -/
def gangFixed (g : Gang) : List Byte :=
  let ended := gangEnded g
  let depth := match g.handler with | some h => h.depth | none => 0
  let head := bytesLE 4 g.gangid ++
    bytesLE 1 ((if ended then 1 else 0) + (if g.handler.isSome then 2 else 0) + (if g.paths.any (fun p => p.st == .parked) then 4 else 0)) ++
    bytesLE 1 g.paths.length ++ bytesLE 1 g.stack.length ++ bytesLE 1 depth ++
    bytesLE 8 (match g.handler with | some h => h.path.toNat | none => 0) ++ bytesLE 8 g.exited.toNat ++
    bytesLE 4 g.round.toNat ++ bytesLE 4 g.fpstat.toNat ++ bytesLE 4 g.xlctl.toNat ++ bytesLE 4 g.capctl.toNat ++ bytesLE 4 g.capstat.toNat ++
    bytesLE 4 g.tcause.toNat ++ bytesLE 8 g.tpc.toNat ++ bytesLE 8 g.taddr.toNat ++ bytesLE 8 g.tlanes.toNat ++ bytesLE 4 g.tinfo.toNat ++
    bytesLE 4 (tokenBits g.tokens) ++ bytesLE 8 g.head.toNat ++ bytesLE 1 g.count
  fit 0x100 head ++ fit 0x420 (g.paths.flatMap (pathEntry g.paths)) ++ fit 512 (stackBytes g.stack) ++
    (List.range 128).flatMap (fun r => bytesLE 4 (getS g r).toNat)

/-- One metadata register: data, VALID, MODE and the word-poison map (R386). -/
def metaBytes (m : Meta) : List Byte :=
  fit 192 (bytesLE 128 m.data.toNat ++ bytesLE 32 m.valid.toNat ++ bytesLE 1 m.mode.toNat ++ copies 3 0 ++ bytesLE 4 m.poison.toNat)

/-- The variable part, from 0x920 on (R386). -/
def gangVariable (g : Gang) : List Byte :=
  let kd := g.kd
  let w := kd.gangw
  let preds := (List.range w).flatMap (fun l => bytesLE 2 ((List.range 16).foldl (fun acc p =>
    if (getPred g (BitVec.ofNat 4 p)).getLsbD l then acc + 2 ^ p else acc) 0))
  let vecs := (List.range kd.regs).flatMap (fun r => (List.range w).flatMap (fun l => bytesLE 4 (getV g r l).toNat))
  let tiles := g.tiles.flatMap (fun t => (List.range 256).flatMap (fun e => bytesLE 4 (spGet 0 t.words e).toNat))
  let sides := g.tiles.flatMap (fun t => fit 64 (bytesLE 1 (if t.kind then 1 else 0) ++ bytesLE 32 t.poison.toNat))
  let metas := (List.range kd.nmeta).flatMap (fun i => metaBytes (listGet Meta.reset g.mregs i))
  let bad := bitBytes (w * kd.regs) (fun i => g.vpoison.contains (64 * (i / w) + i % w))
  fit (ctxV kd - 0x920) preds ++ fit (ctxA kd - ctxV kd) vecs ++ fit (ctxT kd - ctxA kd) tiles ++ fit (ctxM kd - ctxT kd) sides ++
    fit (ctxX kd - ctxM kd) metas ++ fit (recordSize kd - ctxX kd) bad

/-- A gang's record; the variable part of an ended gang is zero. -/
def gangRecord (g : Gang) : List Byte :=
  if gangEnded g then fit (recordSize g.kd) (gangFixed g) else gangFixed g ++ gangVariable g

/-- A gang of a cohort by its GANGID. -/
def gangOf (s : State) (c : Cohort) (id : Nat) : Option (Nat × Gang) := (s.gangs.find? (fun e => c.gangs.contains e.1 && e.2.gangid == id))

/-- The record of a gang of which nothing is left. -/
def endedRecord (kd : Kernel) (id : Nat) : List Byte :=
  fit (recordSize kd) (bytesLE 4 id ++ bytesLE 1 1 ++ copies 11 0 ++ bytesLE 8 (2 ^ kd.gangw - 1))

-- Copy records (R388)

/-- CTL as captured; for `tload` the space (R388). -/
def savedCtl (c : CopyCmd) : Word :=
  match c.instr with
  | .tload _ loc _ _ => if loc then 1 else 0
  | _ => c.desc.ctl

def cmdMinor (i : Instr) : Nat :=
  match i with
  | .cp _ _ _ => 0
  | .cpz _ _ _ => 1
  | .cpx _ _ _ => 2
  | .cpg _ _ _ _ => 3
  | .cps _ _ _ _ => 4
  | .flsig _ _ _ _ _ => 5
  | _ => 6

/-- Bytes of the staged elements from n on, up to the first that is missing or has faulted: how many there are, and their bytes.
Of a 4-bit element of a `cpz` the whole byte that holds it stands there (R388 does not say; DESIGN CHOICE, log entry 167). -/
def stagedRun (c : CopyCmd) : Nat → Nat → Nat × List Byte
  | 0, _ => (0, [])
  | fuel + 1, n =>
    match look c.stage n with
    | some (.bytes b _) => let r := stagedRun c fuel (n + 1); (r.1 + 1, b ++ r.2)
    | _ => (0, [])

def scopeCode (sc : Scope) : Nat := sc.code.toNat

def flsigByte (i : Instr) : Nat :=
  match i with
  | .flsig _ sc named _ tok2 => scopeCode sc + (if named then 8 else 0) + 16 * tok2.toNat
  | _ => 0

def cmdRecord (gangid : Nat) (c : CopyCmd) : List Byte :=
  let (cnt, data) := stagedRun c 256 c.n
  let (i0, i1, i2) := elemIjk c (c.n + cnt)
  let d := c.desc
  let src := if isTload c.instr then c.off else d.src
  let st := if isFlsig c.instr && c.asked then 3 else if c.park.isSome then 2 else if c.started then 1 else 0
  fit 384 (bytesLE 8 src.toNat ++ bytesLE 8 d.dst.toNat ++ bytesLE 4 (savedCtl c).toNat ++ bytesLE 4 d.n0 ++ bytesLE 4 d.n1 ++ bytesLE 4 d.n2 ++
    bytesLE 8 d.ss1.toNat ++ bytesLE 8 d.ss2.toNat ++ bytesLE 8 d.ds1.toNat ++ bytesLE 8 d.ds2.toNat ++
    bytesLE 1 (cmdMinor c.instr) ++ bytesLE 1 c.tok ++ bytesLE 2 gangid ++ bytesLE 1 st ++ bytesLE 1 (flsigByte c.instr) ++ copies 2 0 ++
    bytesLE 4 i0 ++ bytesLE 4 i1 ++ bytesLE 4 i2 ++ bytesLE 4 c.idxOff ++ bytesLE 8 c.n ++ bytesLE 4 (4 * c.zw) ++ bytesLE 4 data.length ++
    copies 24 0 ++ data)

-- The block

/-- Scratch of a cohort's cores, then the poison bitmap (R387). -/
def scratchSection (s : State) (c : Cohort) : List Byte :=
  let n := c.kd.scratch
  let area := fun (i : Nat) => listGet 0 c.scratchBase i
  let at_ := fun (i : Nat) => s.coreAt c.die (c.core + i)
  let cores := List.range (if c.quartet then 4 else 1)
  cores.flatMap (fun i => localBytes (at_ i).mem (area i) n) ++
  bitBytes (cores.length * (n / 8)) (fun b => (at_ (b / (n / 8))).mpoison.contains ((area (b / (n / 8))) / 8 + b % (n / 8)))

def tableSection (s : State) (c : Cohort) : List Byte :=
  let cores := (cohortCores c).map (fun i => s.coreAt c.die i)
  cores.flatMap (fun x => localBytes x.mem 0x3E000 8192) ++ cores.flatMap (fun x => bytesLE 1 x.bank)

def barrierSection (c : Cohort) : List Byte :=
  let n := cohortThreads c.kd
  (List.range 16).flatMap (fun b => bytesLE 4 (c.arrivals.filter (fun e => e.1 % 16 == b && e.2 == 1)).length) ++
  (List.range n).flatMap (fun t => bytesLE 4 ((List.range 16).foldl (fun acc b => acc + spGet 0 c.arrivals (16 * t + b) * 4 ^ b) 0))

/-- The causal vector that is saved: the merge of the cores' vectors (R384). -/
def savedVector (s : State) (c : Cohort) : CVec :=
  (cohortCores c).foldl (fun acc i => mergeCV acc (s.coreAt c.die i).cv) (s.coreAt c.die c.core).cv

/-- The block of a cohort (R383 to R389). -/
def contextBlock (s : State) (c : Cohort) (gr : Grid) : List Byte :=
  let kd := c.kd
  let l := cohortLayout s c
  let cmds := cohortCmds s c
  let slots := cohortSlots s c
  let m := s.member 16
  let gid := fun (gi : Nat) => match s.gang gi with | some g => g.gangid | none => 0
  let head := [0x43#8, 0x54#8, 0x58#8, 0x31#8] ++ bytesLE 2 1 ++ bytesLE 2 ((if c.quartet then 1 else 0) + (if c.ownsTable then 2 else 0)) ++
    bytesLE 8 l.size ++ bytesLE 8 (segAddr kd kd.entry).toNat ++ bytesLE 2 kd.asid ++ bytesLE 2 (cohortGangs kd) ++ bytesLE 4 gr.launch ++
    bytesLE 4 (c.number % gr.nx) ++ bytesLE 4 (c.number / gr.nx % gr.ny) ++ bytesLE 4 (c.number / (gr.nx * gr.ny)) ++
    bytesLE 4 (gr.nx - 1) ++ bytesLE 4 (gr.ny - 1) ++ bytesLE 4 (gr.nz - 1) ++ bytesLE 4 m.epoch ++ bytesLE 1 (if m.gen then 1 else 0) ++
    bytesLE 1 slots.length ++ bytesLE 1 cmds.length ++ [0] ++ cvBytes (savedVector s c) ++ copies 2 0 ++
    bytesLE 4 0x100 ++ bytesLE 4 (recordSize kd) ++ bytesLE 4 l.scratch ++ bytesLE 4 l.table ++ bytesLE 4 l.barrier ++ bytesLE 4 l.copy ++ bytesLE 4 l.place
  fit 0x80 head ++ fit 0x80 (gr.desc.flatMap (fun w => bytesLE 8 w.toNat)) ++
  (List.range (cohortGangs kd)).flatMap (fun i => match gangOf s c i with
    | some x => gangRecord x.2
    | none => endedRecord kd i) ++
  fit ((if l.table = 0 then l.barrier else l.table) - l.scratch) (scratchSection s c) ++
  (if c.ownsTable then fit (l.barrier - l.table) (tableSection s c) else []) ++
  (if cmds.isEmpty && slots.isEmpty then barrierSection c else fit (up64 (64 + 4 * cohortThreads kd)) (barrierSection c)) ++
  cmds.flatMap (fun x => cmdRecord (gid x.gang) x) ++ slots.flatMap slotEntry

-- Reading a block back

/-- Bytes of a range are zero. -/
def zeroIn (b : List Byte) (off n : Nat) : Bool := ((b.drop off).take n).all (· == 0)

/-- The header is what a resume of this cohort accepts (R383, R384), with the reserved fields of its copy of the kernel descriptor, of ROUND and of
CAPCTL zero (R46, R74, R199). -/
def headerFits (b : List Byte) (kd : Kernel) (sv : Saved) : Bool :=
  let f := imageField b
  let quartet := needsQuartet kd
  let nplace := f 0x3D 1
  let ncopy := f 0x3E 1
  let l := layoutOf kd quartet sv.tbl ncopy (if nplace = 0 then 0 else 1)
  f 0 4 == 0x31585443 && f 4 2 == 1 && f 6 2 == (if quartet then 1 else 0) + (if sv.tbl then 2 else 0) && f 8 8 == sv.bytes &&
  decide (f 0x18 2 < 4096) && f 0x1A 2 == cohortGangs kd && decide (f 0x3C 1 < 2) && decide (nplace ≤ 4) && decide (ncopy ≤ 64) && zeroIn b 0x3F 1 &&
  zeroIn b 0x62 2 && f 0x64 4 == 0x100 && f 0x68 4 == recordSize kd && f 0x6C 4 == l.scratch && f 0x70 4 == l.table && f 0x74 4 == l.barrier &&
  f 0x78 4 == l.copy && f 0x7C 4 == l.place && decide (l.size ≤ sv.bytes) &&
  zeroIn b 0xAE 2 && decide (f 0xCC 4 < 2) && zeroIn b 0xD8 40 &&
  BitVec.ofNat 32 (f 0xB4 4) &&& 0xFFFFFFF0 == 0#32 && BitVec.ofNat 32 (f 0xB8 4) &&& 0xFFFF00FC == 0#32

/-- Reserved bits of the registers at 0x018 to 0x02F of a gang's record, in their order (R45, R47, R140, R170, R204, R362). -/
def reservedBits : List Word := [0xFFFFFFF0, 0xFFFFFF80, 0xFFFFFFFC, 0xFFFF00FC, 0x0000000F, 0xFFFFFF00]

/-- Reserved fields of a gang's record at an offset are zero, and its counts are within their limits (R6, R385, R386). -/
def recordFits (b : List Byte) (kd : Kernel) (o : Nat) : Bool :=
  let f := imageField b
  let flags := f (o + 4) 1
  decide (flags < 8) && decide (f (o + 5) 1 ≤ 33) && decide (f (o + 6) 1 ≤ 32) && (flags.testBit 1 || zeroIn b (o + 7) 1) && zeroIn b (o + 0x59) 167 &&
  reservedBits.zipIdx.all (fun x => BitVec.ofNat 32 (f (o + 0x18 + 4 * x.2) 4) &&& x.1 == 0) &&
  (List.range 33).all (fun i => zeroIn b (o + 0x100 + 32 * i + 19) 13) &&
  (List.range kd.nmeta).all (fun i => zeroIn b (o + ctxM kd + 192 * i + 161) 3)

/-- Reserved bits of the barrier words are zero, and no thread has the reserved state (R387). -/
def barriersFit (b : List Byte) (kd : Kernel) : Bool :=
  let o := imageField b 0x74 4
  (List.range 16).all (fun i => decide (imageField b (o + 4 * i) 4 < 2 ^ 15)) &&
  (List.range (cohortThreads kd)).all (fun t => (List.range 16).all (fun i => imageField b (o + 64 + 4 * t) 4 / 4 ^ i % 4 != 3))

/-- Every image of the placement section lies in the block, its reserved bytes zero (R387). -/
def imagesFit (b : List Byte) (bytes : Nat) : Nat → Nat → Bool
  | 0, _ => true
  | n + 1, o =>
    let size := imageField b (o + 8) 4
    decide (o + 16 + size ≤ bytes) && zeroIn b (o + 12) 4 && imagesFit b bytes n (o + 16 + (size + 7) / 8 * 8)

/-- A path from its entry; `now` is the step of the resume. A waiting path keeps its place in the order of ages (R391). -/
def readPath (b : List Byte) (o id now : Nat) : Path :=
  let mask : LaneMask := BitVec.ofNat 64 (imageField b (o + 8) 8)
  let code := imageField b (o + 16) 1
  let x := imageField b (o + 18) 1
  let st : PathSt := match code with
    | 2 => .atRejoin
    | 3 => .bar x
    | 4 => .barw x
    | 5 => .twait x
    | _ => .ready
  { id := id
    pc := BitVec.ofNat 64 (imageField b o 8)
    mask := mask
    st := st
    since := if code = 1 then now - 40 + imageField b (o + 17) 1 else if code = 6 then now - 41 else now
    onSl := if code = 0 then slicesOf mask else 0 }

def tokOfCode (n : Nat) : TokSt := match n with | 1 => .busy | 2 => .done | 3 => .fault | _ => .free

/-- A token from its code. The record keeps no report of a fault, so that of a FAULT that is not the one kept beside it is open: its address, its
index, which of the nine CODEs it names and the address of its command are free values (R338; log entry 49). -/
def readToken (b : List Byte) (o k ctr : Nat) : Token :=
  let st := tokOfCode (imageField b (o + 0x4C) 4 / 4 ^ k % 4)
  if st = .fault then
    { Token.reset with
      st := st
      addr := nat64 (Config.freeNat (ctr + 4 * k))
      lanes := nat64 (Config.freeNat (ctr + 4 * k + 1))
      info := BitVec.ofNat 32 (16 * (1 + Config.freeNat (ctr + 4 * k + 2) % 9) + k)
      pc := nat64 (Config.freeNat (ctr + 4 * k + 3)) }
  else { Token.reset with st := st }

def wordAt (b : List Byte) (o : Nat) : Word := BitVec.ofNat 32 (imageField b o 4)
def dwordAt (b : List Byte) (o : Nat) : DWord := BitVec.ofNat 64 (imageField b o 8)

/-- The fixed part of a record into a gang (R385, R391). -/
def readFixed (b : List Byte) (o now ctr : Nat) (g : Gang) : Gang :=
  let n := imageField b (o + 5) 1
  let depth := imageField b (o + 6) 1
  let hm := (imageField b (o + 4) 1).testBit 1
  { g with
    paths := (List.range n).map (fun i => readPath b (o + 0x100 + 32 * i) i now)
    nextPath := n
    stack := ((List.range depth).map (fun i => (⟨dwordAt b (o + 0x520 + 16 * i), dwordAt b (o + 0x520 + 16 * i + 8)⟩ : StackEntry))).reverse
    handler := if hm then some ⟨dwordAt b (o + 8), imageField b (o + 7) 1⟩ else none
    exited := dwordAt b (o + 0x10)
    round := wordAt b (o + 0x18)
    fpstat := wordAt b (o + 0x1C)
    xlctl := wordAt b (o + 0x20)
    capctl := wordAt b (o + 0x24)
    capstat := wordAt b (o + 0x28)
    tcause := wordAt b (o + 0x2C)
    tpc := dwordAt b (o + 0x30)
    taddr := dwordAt b (o + 0x38)
    tlanes := dwordAt b (o + 0x40)
    tinfo := wordAt b (o + 0x48)
    tokens := (List.range 16).map (fun k => readToken b o k ctr)
    head := dwordAt b (o + 0x50)
    count := imageField b (o + 0x58) 1
    s := (List.range 128).foldl (fun acc r => spSet 0 acc r (wordAt b (o + 0x720 + 4 * r))) [] }

def readTile (b : List Byte) (a t : Nat) : Tile :=
  ⟨(List.range 256).foldl (fun acc e => spSet 0 acc e (wordAt b (a + 4 * e))) [], (imageField b t 1).testBit 0, BitVec.ofNat 256 (imageField b (t + 1) 32)⟩

def readMeta (b : List Byte) (a : Nat) : Meta :=
  ⟨BitVec.ofNat 1024 (imageField b a 128), BitVec.ofNat 2 (imageField b (a + 160) 1), BitVec.ofNat 256 (imageField b (a + 128) 32), BitVec.ofNat 32 (imageField b (a + 164) 4)⟩

/-- The variable part of a record into a gang (R386, R391). -/
def readVariable (b : List Byte) (o : Nat) (g : Gang) : Gang :=
  let kd := g.kd
  let w := kd.gangw
  let predLanes := fun (p : Nat) => (maskWhere (fun l => decide (l < w) && (imageField b (o + 0x920 + 2 * l) 2).testBit p) : LaneMask)
  { g with
    p := (List.range 15).foldl (fun acc i => spSet 0 acc (i + 1) (predLanes (i + 1))) []
    v := (List.range kd.regs).foldl (fun acc r => (List.range w).foldl (fun a l => spSet 0 a (64 * r + l) (wordAt b (o + ctxV kd + 4 * (w * r + l)))) acc) []
    vpoison := (List.range (w * kd.regs)).foldl (fun acc i => if bitAt b (o + ctxX kd) i then setAdd acc (64 * (i / w) + i % w) else acc) []
    tiles := (List.range kd.acc).map (fun i => readTile b (o + ctxA kd + 1024 * i) (o + ctxT kd + 64 * i))
    mregs := (List.range 16).map (fun i => if i < kd.nmeta then readMeta b (o + ctxM kd + 192 * i) else Meta.reset) }

/-- The instruction of a saved command; the register fields were consumed at issue. -/
def readCmdInstr (minor tok fl ctl : Nat) : Instr :=
  let g : Guard := ⟨0, false⟩
  let t : BitVec 4 := BitVec.ofNat 4 tok
  match minor with
  | 0 => .cp g 0 t
  | 1 => .cpz g 0 t
  | 2 => .cpx g 0 t
  | 3 => .cpg g 0 0 t
  | 4 => .cps g 0 0 t
  | 5 => .flsig g ((Scope.ofCode (BitVec.ofNat 3 fl)).getD .gang) (fl.testBit 3) t (BitVec.ofNat 4 (fl / 16))
  | _ => .tload g (ctl % 4 == 1) 0 t

/-- A command from its record (R388): it goes on from its counters, with what the machine kept beside the block, and stands in the queue until it is one
of the four in flight (R336). -/
def readCmd (b : List Byte) (o id gi asid base limit : Nat) (kept : SavedCmd) (mem : List Host.Cell) : CopyCmd :=
  let minor := imageField b (o + 0x40) 1
  let tok := imageField b (o + 0x41) 1
  let st := imageField b (o + 0x44) 1
  let n := imageField b (o + 0x58) 8
  let d : CopyDesc := ⟨dwordAt b o, dwordAt b (o + 8), wordAt b (o + 0x10), imageField b (o + 0x14) 4, imageField b (o + 0x18) 4, imageField b (o + 0x1C) 4,
    dwordAt b (o + 0x20), dwordAt b (o + 0x28), dwordAt b (o + 0x30), dwordAt b (o + 0x38)⟩
  let idxOff := imageField b (o + 0x54) 4
  let c : CopyCmd :=
    { id := id
      gang := gi
      asid := asid
      instr := readCmdInstr minor tok (imageField b (o + 0x45) 1) d.ctl.toNat
      tok := tok
      pc := kept.pc
      off := if minor = 6 then d.src else kept.off
      idxOff := idxOff
      round := kept.round
      desc := d
      base := base
      limit := limit
      active := false
      started := st == 1 || st == 2
      before := []
      oxBefore := []
      n := n
      rn := if minor = 1 ∧ ctlOri d.ctl then imageField b (o + 0x4C) 4 + d.n1 * imageField b (o + 0x48) 4
        else imageField b (o + 0x48) 4 + d.n0 * (imageField b (o + 0x4C) 4 + d.n1 * imageField b (o + 0x50) 4)
      stage := []
      reads := []
      writes := []
      hostWrites := kept.hostWrites
      zero := none
      zw := imageField b (o + 0x60) 4 / 4
      xc := Xc.empty
      park := none
      fault := none
      covers := []
      bulk := []
      asked := false
      replies := []
      cv := [] }
  let es := max 1 (elemSizes c).1
  let cnt := imageField b (o + 0x64) 4 / es
  { c with
    rn := if isTload c.instr then n + cnt else c.rn
    stage := (List.range cnt).map (fun i => (n + i, Staged.bytes ((b.drop (o + 0x80 + es * i)).take es) (localNat mem (base + idxOff + 4 * (n + i)) 4))) }

/-- The descriptor of a copy record: of a command that runs it was not refused, so that its reserved bits and the fields that its command does not use are
zero (R332, R333); a `tload` has the space alone in CTL, and a `flsig` has none (R388). -/
def descFits (b : List Byte) (o : Nat) : Bool :=
  let minor := imageField b (o + 0x40) 1
  if minor = 5 then zeroIn b o 64
  else if minor = 6 then decide (imageField b (o + 0x10) 4 ≤ 1) && zeroIn b (o + 8) 8 && zeroIn b (o + 0x14) 44
  else imageField b (o + 0x44) 1 == 0 || !descRefused (readCmd b o 0 0 0 0 0 ⟨0, 0, 0, []⟩ [])

/-- Reserved fields of a copy record are zero, and its codes and counts are within their limits (R6, R388). -/
def cmdFits (b : List Byte) (o : Nat) : Bool :=
  let f := imageField b
  decide (f (o + 0x40) 1 ≤ 6) && decide (f (o + 0x41) 1 < 16) && decide (f (o + 0x44) 1 ≤ 3) && zeroIn b (o + 0x46) 2 &&
  decide (f (o + 0x64) 4 ≤ 256) && zeroIn b (o + 0x68) 24 && descFits b o

/-- Everything a resume checks before it takes a block (R383). -/
def blockFits (b : List Byte) (kd : Kernel) (sv : Saved) : Bool :=
  headerFits b kd sv && (List.range (cohortGangs kd)).all (fun i => recordFits b kd (0x100 + i * recordSize kd)) && barriersFit b kd &&
  (List.range (imageField b 0x3E 1)).all (fun i => cmdFits b (imageField b 0x78 4 + 384 * i)) &&
  imagesFit b sv.bytes (imageField b 0x3D 1) (imageField b 0x7C 4)

/-- What the machine keeps of a gang beside the block (R263, R339). -/
def besideGang (g : Gang) : SavedGang := ⟨g.gangid, g.hostWrites, g.engineHost, g.sysGate, g.tokens⟩

/-- What it keeps of a copy command (R332, R338, R339). -/
def besideCmd (c : CopyCmd) : SavedCmd := ⟨c.round, c.off, c.pc, c.hostWrites⟩

/-- A token of a resumed gang: as it was kept, where the record still gives it that state, with its vector only when `same` (R338, R341, R393). -/
def resumeToken (read kept : Token) (same : Bool) : Token :=
  if read.st = kept.st then { kept with cv := if same then kept.cv else [] } else { read with host := kept.host }

/-- Give a resumed gang what was kept beside its record; `same` tells that no resynchronisation has made the tokens' vectors void (R393). -/
def takeBeside (g : Gang) (x : SavedGang) (same : Bool) : Gang :=
  { g with
    hostWrites := x.hostWrites
    engineHost := x.engineHost
    sysGate := x.sysGate
    tokens := g.tokens.zipIdx.map (fun t => resumeToken t.1 (listGet Token.reset x.tokens t.2) same) }

end Sys2Proof.Machine
end

