-- ==== Sys2Proof/Machine/Save.lean ====
section
/-! DEFINITION. Pre-emption (R209, R379 to R382, R442), the save of a cohort and its resume (R390 to R393), and the report of a fault to
the supervisor with the end of its grid (R366). -/

namespace Sys2Proof.Machine

-- Reports to rank 2

/-- A record of a kind about a grid, then the end of the grid (R366 steps 2 to 4, R443). -/
def reportGrid (s : State) (gi kind die core : Nat) (t : TrapInfo) : State :=
  match s.grid gi with
  | none => s
  | some g =>
    let asid := g.kd.asid
    failGrid (addRecord s (asidFn s asid) ⟨kind, asid, 0, g.queue, g.launch, die, core, 0, 0, t, none⟩).2 gi

/-- POISON with a SOURCE and nothing else to name (R360). -/
def poisonReport (source : Nat) : TrapInfo := ⟨cPOISON, 0, 0, 0, poisonInfo source⟩

-- Room in a save area

/-- Bytes that a context takes in a save area (R442). -/
def roomFor (n : Nat) : Nat := (n + 4095) / 4096 * 4096

/-- Context size of a cohort as it stands (R442). -/
def contextSize (s : State) (c : Cohort) : Nat := (cohortLayout s c).size

/-- Ranges of a queue's save area that saved contexts take, as (offset, bytes). -/
def roomTaken (s : State) (k : Nat) (q : Queue) : List (Nat × Nat) :=
  (s.saved.filter (fun e => match s.grid e.2.grid with | some g => gridQueue g == k | none => false)).map
    (fun e => ((e.2.va - q.save).toNat, roomFor e.2.bytes))

/-- The lowest free place of n bytes in an area. -/
def firstRoom (size : Nat) (taken : List (Nat × Nat)) (n : Nat) : Option Nat :=
  (0 :: taken.map (fun t => t.1 + t.2)).foldl (fun acc o =>
    if o + n ≤ size ∧ taken.all (fun t => decide (o + n ≤ t.1) || decide (t.1 + t.2 ≤ o)) then
      (match acc with | some a => some (min a o) | none => some o)
    else acc) none

/-- Cohorts of a queue. -/
def queueCohorts (s : State) (k : Nat) : List (Nat × Cohort) :=
  s.cohorts.filter (fun e => match s.grid e.2.grid with | some g => gridQueue g == k | none => false)

/-- The cohorts of a queue that a compaction is placing, with its first core. -/
def queuePlacing (s : State) (k : Nat) : List (Nat × Compact) :=
  s.cores.filterMap (fun e => match e.2.compact with
    | some x => (match s.grid x.grid with | some g => if gridQueue g = k then some (e.1, x) else none | none => none)
    | none => none)

/-- Context size of a cohort that is being placed; a saved one goes back into its own block, which is in the area already. -/
def placingSize (s : State) (x : Compact) : Nat :=
  match x.saved, s.grid x.grid with
  | none, some g => (layoutOf g.kd (needsQuartet g.kd) g.tbl 0 0).size
  | _, _ => 0

/-- Places that requests have kept for the contexts of cohorts of the queue, but for the cohort `but` (R442). -/
def roomPromised (s : State) (k : Nat) (but : Option Nat) : List (Nat × Nat) :=
  ((queueCohorts s k).filter (fun e => some e.1 != but)).filterMap (·.2.room) ++ (queuePlacing s k).filterMap (·.2.room)

/-- The save area as far as it is in use or kept. -/
def roomReserved (s : State) (k : Nat) (q : Queue) : List (Nat × Nat) := roomTaken s k q ++ roomPromised s k none

/-- A place for n bytes in a queue's save area beside what is there (R442). -/
def roomAt (s : State) (k : Nat) (q : Queue) (n : Nat) : Option (Nat × Nat) :=
  (firstRoom q.saveSize (roomReserved s k q) (roomFor n)).map (fun o => (o, roomFor n))

/-- The place for a cohort's context in its queue's save area, if it fits (R442). -/
def roomLeft (s : State) (c : Cohort) : Option (Nat × Nat) :=
  match s.grid c.grid with
  | none => none
  | some g => match s.queue (gridQueue g) with
    | none => none
    | some q => roomAt s (gridQueue g) q (contextSize s c)

-- Requests

/-- Name a cohort for pre-emption, with the place kept for its context when it fits (R379, R442): a second request changes nothing. -/
def askCohort (s : State) (cid : Nat) : State :=
  match s.cohort cid with
  | some c => s.putCohort cid { c with asked := true, room := if c.room.isSome then c.room else roomLeft s c }
  | none => s

/-- Name the cohorts of a queue that are being placed, as far as their contexts will fit (R379, R442): whether all did. -/
def askPlacingRoom (s : State) (k : Nat) (q : Queue) : State × Bool :=
  ((queuePlacing s k).filter (fun e => e.2.room.isNone)).foldl (fun acc e => match roomAt acc.1 k q (placingSize acc.1 e.2) with
    | some r => (askPlacing acc.1 (fun n _ => n == e.1) (some r), acc.2)
    | none => (acc.1, false)) (s, true)

/-- PREEMPT (R441, R442): every cohort of the queue that fits is asked, and its place is kept; status 4 when one does not. -/
def execPreempt (fn q : Nat) (s : State) : Out :=
  let k := queueKey fn q
  command fn 8 s
    (match ownQueue s fn q with
     | none => (stField, 0, s)
     | some x =>
       if !x.reg then (stField, 0, s)
       else
         let r := ((queueCohorts s k).filter (fun e => e.2.room.isNone)).foldl (fun (acc : State × Bool) e =>
           if (roomLeft acc.1 e.2).isSome then (askCohort acc.1 e.1, acc.2) else (acc.1, false))
           (askPlacingRoom s k x)
         (if r.2 then stOk else stRoom, 0, r.1))

/-- Victims of a grid that waits, by R209: resident cohorts of lower priority that fit their save areas. -/
def victims (s : State) (g : Grid) : List (Nat × Cohort) :=
  s.cohorts.filter (fun e => !e.2.asked && (match s.grid e.2.grid with
    | some v => decide (queuePrio s (gridQueue v) < queuePrio s (gridQueue g)) && (roomLeft s e.2).isSome
    | none => false))

/-- The one of lowest priority, and among those the most recently placed. -/
def firstVictim (s : State) : List (Nat × Cohort) → Option (Nat × Cohort)
  | [] => none
  | e :: r =>
    let prio := fun (x : Cohort) => match s.grid x.grid with | some g => queuePrio s (gridQueue g) | none => 0
    match firstVictim s r with
    | none => some e
    | some b => if prio e.2 < prio b.2 ∨ (prio e.2 = prio b.2 ∧ b.2.placed ≤ e.2.placed) then some e else some b

/-- PREEMPT_DELAY_EXPIRE (R209): a cohort has waited more than its function's delay, in µs of 3600 cycles; one victim is asked at a
time. -/
def execPreemptDelayExpire (grid : Nat) (s : State) : Out :=
  match s.grid grid with
  | none => .next s
  | some g =>
    let delay := (s.fn g.fn).delay
    if delay = 0xFFFFFFFF ∨ (nextDemand s grid g).isNone ∨ waited s g ≤ 3600 * delay.toNat ∨ !waitsForRoom s grid g ∨ (placeable s grid g).isSome ∨
        s.cohorts.any (fun e => e.2.asked && e.2.askedBy == some grid) then .next s
    else match firstVictim s (victims s g) with
      | some v => .next (s.putCohort v.1 { v.2 with asked := true, askedBy := some grid, room := roomLeft s v.2 })
      | none => .next s

/-- PREEMPT_REQUEST (R379 to R381): the cohort stops at its points. -/
def execPreemptRequest (cohort : Nat) (s : State) : Out :=
  match s.cohort cohort with
  | none => .next s
  | some c => if c.asked && !c.stopping then .next (stopCohort s cohort) else .next s

-- Save

/-- A gang has reached its point and nothing it issued is on its way (R380, R381 steps 2 and 3). -/
def gangAtPoint (s : State) (gi : Nat) (g : Gang) : Bool :=
  let c := s.coreAt g.die g.core
  g.ops.isEmpty && g.engaged.isNone && g.sysGate.all (fun t => !s.reqs.any (fun r => r.tag == t) && (look s.pcie t).isNone) &&
  g.outst.isEmpty && !g.paused && g.pending.isEmpty && !c.oxq.any (fun e => e.gang == gi) && !c.streams.any (fun st => st.gang == gi) &&
  (match c.shadow with | some (_, w, _) => w != gi | none => true)

/-- A command stands at an element boundary with its reads staged and its writes delivered (R380, R343). -/
def cmdAtPoint (c : CopyCmd) : Bool := c.reads.isEmpty && c.writes.isEmpty && c.fault.isNone

def cohortAtPoint (s : State) (cid : Nat) (c : Cohort) : Bool :=
  (s.gangs.filter (fun e => e.2.cohort == cid)).all (fun e => gangAtPoint s e.1 e.2) && (cohortCmds s c).all cmdAtPoint

/-- How writing a block ends. -/
inductive BlockWrite where
  | done (s : State)
  | wait
  | failed

/-- Write a block line by line as bulk writes (R381); it fails when a line has no writable device memory or no home, or is poisoned (R382). -/
def writeBlock (die asid : Nat) : Nat → State → DWord → List Byte → BlockWrite
  | 0, s, _, _ => .done s
  | fuel + 1, s, va, b =>
    if b.isEmpty then .done s
    else match qXl s asid va false true with
      | .ok place xl =>
        let t := homeAt s place xl
        let l := t.addr.toNat / 64
        match t.dst with
        | none => .failed
        | some h =>
          if h = 16 ∨ s.poison.contains l then .failed
          else if !bulkFree s h l t.dup then .wait
          else writeBlock die asid fuel (mergeMapped s die asid l t.dup (maskWhere (fun i => decide (i < b.length))) (fit 64 b) false) (va + 64) (b.drop 64)
      | _ => .failed

/-- A cohort that cannot be saved for want of room goes on (R442). -/
def letGo (s : State) (cid : Nat) (c : Cohort) : State :=
  let s1 := s.putCohort cid { c with asked := false, stopping := false, askedBy := none, room := none }
  { s1 with gangs := s1.gangs.map (fun e => if e.2.cohort = cid then (e.1, { e.2 with stopped := !e.2.pending.isEmpty }) else e) }

/-- A pre-emption that a grid asked for has freed another quartet than the one it reserves: the reservation ends (R211). -/
def dropReserve (s : State) (by_ : Option Nat) : State :=
  match by_ with
  | none => s
  | some gi => match s.grid gi with
    | none => s
    | some g => match placeable s gi g with
      | some (.now k) => { s with reserveQ := s.reserveQ.filter (fun r => !(r.2.2 == gi && (r.1 != keyDie k || r.2.1 != keyCore k / 4))) }
      | _ => s

/-- The cohort leaves with its context written (R381 steps 5 and 6), and waits for a place from now on (R209, R211). -/
def leaveSaved (s : State) (cid : Nat) (c : Cohort) (sv : Saved) : State :=
  let s1 := removeCohort s cid c
  let s2 : State := { s1 with fresh := s1.fresh + 1, saved := s1.saved ++ [(s1.fresh, sv)] }
  let s3 := match s2.grid sv.grid with
    | some g => if (savedOf s sv.grid).isEmpty then s2.putGrid sv.grid { g with waitFrom := some s2.clock } else s2
    | none => s2
  dropReserve (settleQueues s3) c.askedBy

/-- CONTEXT_SAVE (R379 to R389, R442). An abandoned grid keeps no context (R441); a failure to write ends the grid (R382). -/
def execContextSave (cohort : Nat) (s : State) : Out :=
  match s.cohort cohort with
  | none => .next s
  | some c =>
    match s.grid c.grid with
    | none => .next s
    | some g =>
      if !c.asked || !c.stopping || g.failed || !cohortAtPoint s cohort c then .next s
      else if g.abandoned then .next (settleQueues (removeCohort s cohort c))
      else match s.queue (gridQueue g) with
        | none => .next s
        | some q =>
          let b := contextBlock s c g
          match firstRoom q.saveSize (roomTaken s (gridQueue g) q ++ roomPromised s (gridQueue g) (some cohort)) (roomFor b.length) with
          | none => .next (letGo s cohort c)
          | some o =>
            let va := q.save + BitVec.ofNat 64 o
            match writeBlock c.die c.kd.asid (b.length / 64 + 1) s va b with
            | .failed => .next (reportGrid s c.grid 2 c.die c.core (poisonReport 5))
            | .wait => .next s
            | .done s1 =>
              let live := (s.gangs.filter (fun e => e.2.cohort == cohort && !gangEnded e.2)).map (fun e => e.2.gangid)
              .next (leaveSaved s1 cohort c ⟨c.grid, c.number, va, b.length, (List.range (cohortGangs c.kd)).filter live.contains, c.ownsTable,
                (s.gangs.filter (fun e => e.2.cohort == cohort)).map (fun e => besideGang e.2), (cohortCmds s c).map besideCmd⟩)

-- Resume

/-- A gang of a resumed cohort from its record (R391); an ended gang takes nothing and only its commands' reports can reach it. -/
def resumeGang (s : State) (b : List Byte) (o : Nat) (g : Gang) : Gang :=
  if (imageField b (o + 4) 1).testBit 0 then
    { readFixed b o s.seq s.freeCtr g with paths := [], phys := [], granules := 0 }
  else settle (readVariable b o (readFixed b o s.seq s.freeCtr g)) s.seq

/-- The local store of one core of a resumed cohort (R391 step 2). -/
def resumeCore (b : List Byte) (kd : Kernel) (tbl : Bool) (cores i cid base : Nat) (c : Core) : Core :=
  let n := kd.scratch
  let sc := imageField b 0x6C 4
  let c1 := storeLocal c (imageOf base ((b.drop (sc + n * i)).take n))
  let c2 := poisonWords c1 (((List.range (n / 8)).filter (fun w => bitAt b (sc + cores * n) (n / 8 * i + w))).map (fun w => base / 8 + w))
  if tbl then
    let t := imageField b 0x70 4
    let c3 := storeLocal c2 (imageOf 0x3E000 ((b.drop (t + 8192 * i)).take 8192))
    { c3 with tableOwner := some cid, bank := imageField b (t + 8192 * cores + i) 1 % 2 }
  else c2

/-- Barrier states (R387, R391 step 3). -/
def resumeArrivals (b : List Byte) (kd : Kernel) : List (Nat × Nat) :=
  let o := imageField b 0x74 4 + 64
  (List.range (cohortThreads kd)).foldl (fun acc t =>
    let w := imageField b (o + 4 * t) 4
    (List.range 16).foldl (fun a i => spSet 0 a (16 * t + i) (w / 4 ^ i % 4)) acc) []

/-- The saved vector goes into a core's unless a resynchronisation has come between (R393). -/
def resumeVector (s : State) (b : List Byte) (k : Nat) : State :=
  if imageField b 0x38 4 = (s.member 16).epoch % 2 ^ 32 then mergeCore s k (bytesCv ((b.drop 0x40).take 34)) else s

/-- The images of a block, as (head, bytes). -/
def savedImages (b : List Byte) : Nat → Nat → List (DWord × List Byte)
  | 0, _ => []
  | n + 1, o =>
    let size := imageField b (o + 8) 4
    (dwordAt b o, (b.drop (o + 16)).take size) :: savedImages b n (o + 16 + (size + 7) / 8 * 8)

/-- Every gang of a cohort. -/
def mapCohort (s : State) (cid : Nat) (f : Gang → Gang) : State :=
  { s with gangs := s.gangs.map (fun e => if e.2.cohort = cid then (e.1, f e.2) else e) }

/-- Offer an image to a core (R391 step 5): one that fails revalidation sets DROP and LAST 7 in every gang of the cohort, and one that
finds no slot LAST 6 (R194). It is entered only with CAPCTL.PRE set, wherever the placement once came from (R398). -/
def offerSaved (s : State) (cid k : Nat) (kd : Kernel) (im : DWord × List Byte) : State :=
  match revalidate s (keyDie k) (keyCore k) kd.asid kd im.1 im.2 with
  | none => mapCohort s cid dropImage
  | some sl => match placeSlot (s.coreAt (keyDie k) (keyCore k)) sl with
    | some c => s.putCore (keyDie k) (keyCore k) c
    | none => mapCohort s cid (fun g => { g with capstat := setLast g.capstat 6 })

/-- Put the i-th saved command into the copy queue of its gang's core; its token names it again (R391 step 6). A `flsig` covers the
commands of its gang before it, or the one it names. -/
def resumeCmd (s : State) (b : List Byte) (cid i : Nat) (kept : SavedCmd) : State :=
  let o := imageField b 0x78 4 + 384 * i
  match s.gangs.find? (fun e => e.2.cohort == cid && e.2.gangid == imageField b (o + 0x42) 2) with
  | none => s
  | some (gi, g) =>
    let co := s.coreAt g.die g.core
    let c0 := readCmd b o s.fresh gi g.kd.asid (areaBase g) g.kd.scratch kept co.mem
    let mine := co.copyq.filter (fun x => x.gang == gi)
    let cov := match c0.instr with
      | .flsig _ _ true _ tok2 => (mine.filter (fun x => x.tok == tok2.toNat)).map (·.id)
      | .flsig _ _ false _ _ => mine.map (·.id)
      | _ => []
    let s1 : State := { s with fresh := s.fresh + 1, freeCtr := s.freeCtr + 1 }
    (s1.putCore g.die g.core { co with copyq := co.copyq ++ [{ c0 with covers := cov }] }).putGang gi
      (putToken g c0.tok { tokenOf g c0.tok with id := c0.id, cmd := cmdMinor c0.instr })

/-- Place a saved cohort and restore it (R391). Lines that the new cores' L1s hold may be older than what its gangs have written or acquired, and go (R276,
R277; log entry 146). -/
def resumeCohort (s : State) (gridId : Nat) (gr : Grid) (id : Nat) (sv : Saved) (dm : Demand) (k : Nat) (plans : List CorePlan) (b : List Byte) : State :=
  let cid := s.fresh
  let kd := gr.kd
  let n := cohortGangs kd
  let live := planGangs dm k plans
  let areas := plans.map (fun p => p.scratch.1)
  let keys := coresOf dm k
  let same := imageField b 0x38 4 = (s.member 16).epoch % 2 ^ 32
  let s1 : State := { s with fresh := cid + 1 + n, freeCtr := s.freeCtr + 64 * n, saved := forget s.saved id }
  let s2 := s1.putCohort cid { newCohort s gridId sv.number k dm plans ((List.range n).map (cid + 1 + ·)) with arrivals := resumeArrivals b kd }
  let s3 := keys.zipIdx.foldl (fun acc x =>
    acc.putCore (keyDie x.1) (keyCore x.1) (resumeCore b kd dm.tbl keys.length x.2 cid (listGet 0 areas x.2) (acc.coreAt (keyDie x.1) (keyCore x.1)))) s2
  let s4 := (List.range n).foldl (fun acc i =>
    let o := 0x100 + i * recordSize kd
    let g := match live.find? (fun x => x.1 == i) with
      | some x => newGang s gridId gr cid sv.number i x.2.1 x.2.2.1 x.2.2.2.1 x.2.2.2.2 areas (x.2.1 - k)
      | none =>
        let kc := if needsQuartet kd then k + i % 4 else k
        newGang s gridId gr cid sv.number i kc 0 0 [] areas (kc - k)
    let g1 := resumeGang { s with freeCtr := s.freeCtr + 64 * i } b o g
    acc.putGang (cid + 1 + i) (match sv.gangs.find? (fun x => x.gangid == i) with | some x => takeBeside g1 x same | none => g1)) s3
  let s5 := keys.foldl (fun acc x => flashL1 (resumeVector acc b x) (keyDie x) (keyCore x)) s4
  let s6 := keys.foldl (fun acc x => (savedImages b (imageField b 0x3D 1) (imageField b 0x7C 4)).foldl (fun a im => offerSaved a cid x kd im) acc) s5
  let s7 := (List.range (imageField b 0x3E 1)).foldl (fun acc i => resumeCmd acc b cid i (listGet ⟨0, 0, nat64 (Config.freeNat acc.freeCtr), []⟩ sv.cmds i)) s6
  restartWaits s ({ s7 with
    served := store s7.served (queuePrio s (gridQueue gr)) (gridQueue gr)
    reserveQ := s7.reserveQ.filter (fun r => r.2.2 ≠ gridId)
    reserveL1 := s7.reserveL1.filter (fun r => r.2.2 ≠ gridId) }.putGrid gridId { gr with lastDie := some (keyDie k), waitFrom := some s.clock })

/-- The bytes of a block, read line by line by causal loads of die 16; none when a line cannot be read. -/
def readBlock (s : State) (asid : Nat) (sv : Saved) : RangeRead := readRange16 asid (sv.bytes / 64 + 2) s sv.va sv.bytes []

/-- Where the saved cohort goes: the place that a compaction has made for it (R213), else a place as it stands, when it is its turn. -/
def resumePlace (s : State) (gi : Nat) (g : Grid) (id : Nat) (dm : Demand) : Option Nat :=
  match s.cores.find? (fun e => match e.2.compact with | some x => x.saved == some id && x.moves.isEmpty | none => false) with
  | some e => some e.1
  | none =>
    if !waitsForRoom s gi g || !itsTurn s gi g || (savedOf s gi).head?.map (·.1) != some id then none
    else match findSpot s g dm with
      | some (.now k) => some k
      | _ => none

/-- The place kept for the context of a cohort that has just been placed (R442): the one of the request, or that of the block from which it was
resumed. -/
def placedRoom (s : State) (x : Compact) : Option (Nat × Nat) :=
  match x.saved.bind (look s.saved), s.grid x.grid with
  | some sv, some g => (s.queue (gridQueue g)).map (fun q => ((sv.va - q.save).toNat, roomFor sv.bytes))
  | _, _ => x.room

/-- The compaction that made a place ends with the placement, and a request made meanwhile takes effect (R213, R379). -/
def placedThere (s : State) (k : Nat) (t : State) : State :=
  match (s.coreAt (keyDie k) (keyCore k)).compact with
  | none => t
  | some x =>
    let t1 := t.putCore (keyDie k) (keyCore k) { t.coreAt (keyDie k) (keyCore k) with compact := none }
    match t1.cohort s.fresh with
    | some h => if x.asked && h.grid == x.grid then t1.putCohort s.fresh { h with asked := true, room := placedRoom s x } else t1
    | none => t1

/-- RESUME (R390 to R393): a saved cohort goes before the unplaced ones of its launch, when it is its turn and it fits. A block that is
refused ends the grid with POISON, SOURCE 6 (R383). -/
def execResume (cohort : Nat) (s : State) : Out :=
  match look s.saved cohort with
  | none => .next s
  | some sv =>
    match s.grid sv.grid with
    | none => .next s
    | some g =>
      match demandOf s sv.grid g (some cohort) with
      | none => .next s
      | some dm =>
        match resumePlace s sv.grid g cohort dm with
        | none => .next s
        | some k =>
          match planAll s dm k, readBlock s g.kd.asid sv with
          | some plans, .bytes b s1 =>
            if blockFits b g.kd sv then .next (placedThere s k (resumeCohort s1 sv.grid g cohort sv dm k plans b))
            else .next (placedThere s k (reportGrid { s1 with saved := forget s1.saved cohort } sv.grid 2 (keyDie k) (keyCore k) (poisonReport 6)))
          | some _, .wait s1 => .next s1
          | some _, .bad =>
            .next (placedThere s k (reportGrid { s with saved := forget s.saved cohort } sv.grid 2 (keyDie k) (keyCore k) (poisonReport 6)))
          | none, _ => .next (placedThere s k s)

end Sys2Proof.Machine
end

