-- ==== Sys2Proof/Machine/Faults.lean ====
section
/-! DEFINITION. Rank 2 and rank 3: the supervisor (R366), machine checks (R368), soft errors (R369, R370), and the retirement of cores
and dies (R394, R404 to R406). -/

namespace Sys2Proof.Machine

/-- RANK2_SUPERVISOR (R365, R366, R370): the trap a stopped gang left for rank 2 is recorded and its grid ends. A fault of a command whose
gang has ended is a record of KIND 4 (R122, R443). -/
def execRank2Supervisor (gang : Nat) (s : State) : Out :=
  match s.gang gang with
  | none => .next s
  | some g =>
    match g.pending with
    | [] => .next s
    | (t, old) :: rest =>
      let (queue, launch) := launchOf s g
      let r : FaultRec := ⟨if gangEnded g && t.cause == cENGINE then 4 else 2, g.kd.asid, 0, queue, launch, g.die, g.core, g.gangid, 0, t, old⟩
      let s1 := s.putGang gang { g with pending := rest, stopped := true }
      .next (failGrid (addRecord s1 (asidFn s g.kd.asid) r).2 g.grid)

-- Retirement

/-- End the grids whose state a machine check found lost (R368). -/
def loseGrids (s : State) (die core : Nat) (grids : List Nat) : State :=
  grids.eraseDups.foldl (fun acc gi => reportGrid acc gi 5 die core (poisonReport 6)) s

/-- Whether a cohort stands on a core of a die. -/
def standsOn (c : Cohort) (die core : Nat) : Bool := c.die == die && (c.core == core || c.quartet && c.core / 4 == core / 4)

/-- End the grids that have cohorts on a die whose state is lost (R368), take those cohorts away, and give up what was to be placed there (R406). -/
def loseCohorts (s : State) (die : Nat) : State :=
  let mine := s.cohorts.filter (fun e => e.2.die == die)
  let s1 := loseGrids s die 0 (mine.map (fun e => e.2.grid))
  let s2 := mine.foldl (fun acc e => match acc.cohort e.1 with
    | some c => removeCohort acc e.1 c
    | none => acc) s1
  settleQueues { s2 with cores := spMap Core.reset (fun k c => if keyDie k = die then { c with compact := none } else c) s2.cores }

/-- The latest value of a line stands at no other home: the partner of a duplex line has it, or gets it with the forward on its way (R229). -/
def onlyHere (s : State) (line : Nat) : Bool :=
  let p := partnerOf (64 * line) / 64
  !(isDuplex s line && homeServes s (homeOf (64 * p)) && (lineBusy s (homeOf (64 * line)) line || !s.poison.contains p))

/-- A degraded home (R406): a line whose latest value stood only in its L2 is poisoned. -/
def degradeHome (s : State) (d : Nat) : State :=
  let here := fun (x : Nat × Bool) => homeOf (64 * x.1) == d
  { setRet s d with
    homeModes := listSet s.homeModes (d - 8) .degraded
    poison := (s.l2.filter (fun x => here x && x.2 && onlyHere s x.1)).foldl (fun acc x => setAdd acc x.1) s.poison
    l2 := s.l2.filter (fun x => !here x) }

/-- Begin to retire a die (R406). Die 16 cannot be retired. -/
def retireDie (s : State) (d : Nat) (way : RetireWay) : State :=
  if 16 ≤ d then s
  else match way with
    | .degradedHome => if 8 ≤ d ∧ homeMode s d = .live then degradeHome s d else s
    | .orderly =>
      if s.leavingDies.contains (d, way) then s
      else
        let s1 := askPlacing ((s.cohorts.filter (fun e => e.2.die == d)).foldl (fun acc e => askCohort acc e.1) s) (fun k _ => keyDie k == d) none
        { s1 with leavingDies := s1.leavingDies ++ [(d, way)] }
    | .lost => declareLost (loseCohorts s d) d

/-- MEMBER_LOSS_TIMEOUT (R406, R429): a compute die that is lost takes the grids with cohorts on it along. -/
def execMemberLossTimeout (member : Nat) (s : State) : Out :=
  if member < 16 ∧ lossDue s member ∧ !retiredDie s member then .next (retireDie s member .lost) else .next s

/-- DIE_RETIRE (R406). -/
def execDieRetire (die : Nat) (way : RetireWay) (s : State) : Out := .next (retireDie s die way)

/-- Physical quartet of a logical one, and whether the logical quartet is valid (R404). -/
def spareEntry (s : State) (d q : Nat) : BitVec 8 := (look s.spares (64 * d + q)).getD (BitVec.ofNat 8 (128 + q))
def quartetPhys (s : State) (d q : Nat) : Nat := (spareEntry s d q).toNat % 128
def quartetValid (s : State) (d q : Nat) : Bool := (spareEntry s d q).getLsbD 7

/-- A spare physical quartet of a die that no entry uses and that has not failed (R404). -/
def freeSpare (s : State) (d : Nat) : Option Nat :=
  [64, 65, 66, 67].find? (fun p => !s.deadQuartets.contains (128 * d + p) &&
    !(List.range 64).any (fun q => quartetValid s d q && quartetPhys s d q == p))

/-- The highest logical quartet that is still valid, the failed one itself or one that has not failed (R405). -/
def topQuartet (s : State) (d q : Nat) : Nat :=
  (((List.range 64).filter (fun x => quartetValid s d x && (x == q || !s.deadQuartets.contains (128 * d + quartetPhys s d x)))).getLast?).getD q

/-- Logical quartets that a failure empties (R394, R405). -/
def emptied (s : State) (d q : Nat) : List Nat := if (freeSpare s d).isSome then [q] else [q, topQuartet s d q].eraseDups

/-- Cohorts on a logical quartet. -/
def onQuartetOf (s : State) (d q : Nat) : List (Nat × Cohort) := s.cohorts.filter (fun e => e.2.die == d && e.2.core / 4 == q)

/-- Judge a core failing (R394 steps 1 and 2): its quartet, and with no spare left the highest one too, take no placement, and their
cohorts are asked to leave. -/
def failCore (s : State) (d core : Nat) : State :=
  let q := core / 4
  let qs := emptied s d q
  let s1 := askPlacing ((qs.flatMap (onQuartetOf s d)).foldl (fun acc e => askCohort acc e.1) s) (fun k _ => keyDie k == d && qs.contains (keyCore k / 4)) none
  { s1 with
    failing := qs.foldl (fun acc x => setAdd acc (64 * d + x)) s1.failing
    deadQuartets := setAdd s1.deadQuartets (128 * d + quartetPhys s d q) }

/-- Rewrite the spare table once the quartets are empty (R394 step 3, R404, R405). -/
def remapQuartet (s : State) (d q : Nat) : State :=
  let done := fun (x : State) (qs : List Nat) => { x with failing := x.failing.filter (fun y => !(qs.map (64 * d + ·)).contains y) }
  let put := fun (x : State) (l : Nat) (p : Nat) => { x with spares := store x.spares (64 * d + l) (BitVec.ofNat 8 (128 + p)) }
  let clear := fun (x : State) (l : Nat) => { x with spares := store x.spares (64 * d + l) (BitVec.ofNat 8 (quartetPhys s d l)) }
  match freeSpare s d with
  | some p => done (put s q p) [q]
  | none =>
    let h := topQuartet s d q
    if h = q then done (clear s q) [q] else done (clear (put s q (quartetPhys s d h)) h) [q, h]

/-- CORE_RETIRE (R394, R404, R405): first the core is judged failing; once every cohort concerned has been saved its logical quartet is
mapped onto a spare. -/
def execCoreRetire (die core : Nat) (s : State) : Out :=
  let q := core / 4
  if 8 ≤ die ∨ 256 ≤ core ∨ !quartetValid s die q then .next s
  else if !s.failing.contains (64 * die + q) || !s.deadQuartets.contains (128 * die + quartetPhys s die q) then .next (failCore s die core)
  else
    let qs := emptied s die q
    if !qs.all (fun x => s.failing.contains (64 * die + x)) then .next (failCore s die core)
    else if qs.all (fun x => (onQuartetOf s die x).isEmpty && !placingOn s die (fun c => c / 4 == x)) then .next (remapQuartet s die q)
    else .next s

-- Machine checks

/-- Machine-check codes beside those of a packet and of an ATC index, one for each structure of R369: the home directory, the PCIe link
(R450), a temperature (R408), the hold buffers, the walkers, a queue engine of die 16, the barrier unit of a core, the cohort barrier unit of the
quartet of a core (R126). -/
def ckHome : Nat := 3
def ckPcie : Nat := 4
def ckHeat : Nat := 5
def ckHold : Nat := 6
def ckWalk : Nat := 7
def ckEngine (e : Nat) : Nat := 32 + e
def ckBarrier (core : Nat) : Nat := 256 + core
def ckCohortBarrier (core : Nat) : Nat := 512 + core

/-- What Gander does for a check of a die (R368, R406, R408): a memory-port die whose home directory is lost becomes a degraded home, a die
whose other structures are lost is lost, a core whose barrier unit is lost, or whose quartet's, is judged failing with the grids of the cohorts
that the unit serves ended (R126), and a queue engine ends
the grids of its queues; die 16 is never retired. -/
def answerCheck (s : State) (die unit : Nat) : State :=
  if 256 ≤ unit then
    let core := unit % 256
    let s1 := loseGrids s die core ((s.cohorts.filter (fun e => standsOn e.2 die core && e.2.quartet == decide (512 ≤ unit))).map (fun e => e.2.grid))
    if quartetValid s die (core / 4) then failCore s1 die core else s1
  else if 32 ≤ unit then
    loseGrids s 16 0 ((s.grids.filter (fun e => match s.queue (gridQueue e.2) with
      | some q => !e.2.failed && q.engine == unit - 32
      | none => false)).map (·.1))
  else if unit = ckHome ∧ 8 ≤ die then retireDie s die .degradedHome
  else if unit = ckHome ∨ unit = ckHold ∨ unit = ckWalk ∨ unit = ckHeat then retireDie s die .lost
  else s

/-- MACHINE_CHECK (R368, R369, R406, R408): Gander logs the check with its die and structure, and retires what it names. -/
def execMachineCheck (die unit : Nat) (s : State) : Out :=
  if !s.checks.contains (die, unit) then .next s
  else
    .next (answerCheck { s with
      checks := s.checks.erase (die, unit)
      gander := { s.gander with log := s.gander.log ++ [(die, unit)], message := bytesLE 1 die ++ bytesLE 2 unit } } die unit)

-- Soft errors

/-- A report of an error in a gang's control state, taken at rank 2 (R370). An ended gang has token states while its commands run (R122). -/
def strikeGang (s : State) (gi source : Nat) : State :=
  match s.gang gi with
  | none => s
  | some g =>
    if gangEnded g && !(s.coreAt g.die g.core).copyq.any (fun x => x.gang == gi) then s
    else
      let pc := (g.paths.head?.map (·.pc)).getD 0
      let lanes := g.paths.foldl (fun acc p => acc ||| p.mask) 0
      dropLoading (s.putGang gi (escalate g ⟨cPOISON, pc, 0, lanes, poisonInfo source⟩)) gi

/-- The first write on its way from a core to a home whose check still holds, ordered before bulk, with its channel. -/
def firstWrite (s : State) (src dst : Nat) : Option (Nat × Packet) :=
  [0, 2].findSome? fun vc =>
    ((spGet [] s.flights (flightKey src dst vc)).find? (fun p => (p.op == .orderedWrite || p.op == .bulkWrite) && p.check == packetCheck p)).map
      (fun p => (flightKey src dst vc, p))

/-- The first host write on its way to a home has a bad check and will be written poisoned (R231). -/
def strikeHost (ops : List HostOp) (dst : Nat) : List HostOp :=
  match ops with
  | [] => []
  | .write a data bad :: r => if homeOf a = dst ∧ !bad then .write a data true :: r else .write a data bad :: strikeHost r dst
  | x :: r => x :: strikeHost r dst

/-- Change the packets of a channel with a tag. -/
def onFlight (s : State) (k tag : Nat) (f : Packet → Packet) : State :=
  { s with flights := spSet [] s.flights k ((spGet [] s.flights k).map (fun q => if q.tag = tag then f q else q)) }

/-- A write on its way from a core to a home fails its line check (R231). The first time the home refuses it and the core sends it again, which
keeps its place in the order of its channel (log entry 141); the second time it changes nothing there, and whoever made it learns so (R337, R370). -/
def strikeStore (s : State) (src dst : Nat) : State :=
  if src = 16 then { s with hostIn := strikeHost s.hostIn dst }
  else match firstWrite s src dst with
  | none => s
  | some (k, p) => if !p.resent then onFlight s k p.tag (fun q => { q with resent := true }) else
    let s1 := onFlight s k p.tag (fun q => { q with check := ~~~(packetCheck q) })
    match s1.reqs.find? (fun r => r.tag == p.tag) with
    | none => s1
    | some r => match r.who with
      | .store gi => reportStore s1 gi p.tag cPOISON (poisonInfo 4)
      | .engineWrite d c cmd => failWrite s1 (coreKey d c) cmd p.tag cePOISON
      | .queueCopy _ => { s1 with refusedHost := s1.refusedHost ++ [p.tag] }
      | _ => s1

/-- A line on its way to a core, engine or walker fails its check there (R231): `badFill` says what the requester does. -/
def strikeFill (s : State) (src dst : Nat) : State :=
  let k := flightKey src dst 1
  match (spGet [] s.flights k).find? (fun p => p.op == .readResponse && !p.data.isEmpty && p.check == packetCheck p) with
  | none => s
  | some p => onFlight s k p.tag (fun q => { q with check := ~~~(packetCheck q) })

/-- An error in the active configuration plane of a core (R193, R369): the placement is discarded, and the gangs that stream through it drain. -/
def strikePlane (s : State) (k : Nat) : State :=
  match (s.coreAt (keyDie k) (keyCore k)).plane with
  | none => s
  | some sl => countIntegrity (discardPlacement s k sl.head sl.asid)

/-- An error in the shadow plane while it is loaded (R175, R193): the loading and its placement are discarded, and the gang that loads it goes
on at the front end with INTEG and LAST 5 set. -/
def strikeShadow (s : State) (k : Nat) : State :=
  match (s.coreAt (keyDie k) (keyCore k)).shadow with
  | none => s
  | some (sl, gi, _) =>
    countIntegrity (discardPlacement (onCapstat (discardShadow s k) gi (fun w => capSet (setLast w 5) 7)) k sl.head sl.asid)

/-- An error in the token queues that a gang streams through (R193, R369). -/
def strikeQueue (s : State) (k gi : Nat) : State :=
  let c := s.coreAt (keyDie k) (keyCore k)
  if c.streams.any (fun st => st.gang == gi && st.trigger.isNone) then
    countIntegrity (s.putCore (keyDie k) (keyCore k) { c with streams := c.streams.map (fun st =>
      if st.gang = gi ∧ st.trigger = none then { st with trigger := some .integrity } else st) })
  else s

/-- Change a core by its key. -/
def onCore (s : State) (k : Nat) (f : Core → Core) : State := s.putCore (keyDie k) (keyCore k) (f (s.coreAt (keyDie k) (keyCore k)))

/-- An uncorrectable error (R369, R370, R371, R193). -/
def strike (s : State) (t : SoftTarget) : State :=
  match t with
  | .vreg gi l r => match s.gang gi with
    | some g => if l < g.kd.gangw ∧ r < g.kd.regs then s.putGang gi { g with vpoison := setAdd g.vpoison (64 * r + l) } else s
    | none => s
  | .mreg gi r w => match s.gang gi with
    | some g =>
      if r < g.kd.nmeta ∧ w < 32 then
        let m := listGet Meta.reset g.mregs r
        s.putGang gi { g with mregs := listSet g.mregs r { m with poison := m.poison ||| BitVec.ofNat 32 (2 ^ w) } }
      else s
    | none => s
  | .gangControl gi => strikeGang s gi 6
  | .localWord k w => if 8 * w < 0x3E000 then onCore s k (fun c => poisonWords c [w]) else s
  | .tableWord k w => if w < 1024 then onCore s k (fun c => poisonWords c [0x3E000 / 8 + w]) else s
  | .l1Line k line => onCore s k (fun c => match look c.l1 line with
    | some x => { c with l1 := store c.l1 line { x with check := ~~~(lineCheck (lineBytes x.data)) } }
    | none => c)
  | .accElement gi t e => match s.gang gi with
    | some g =>
      if t < g.kd.acc ∧ e < 256 then
        let x := listGet Tile.reset g.tiles t
        s.putGang gi { g with tiles := listSet g.tiles t { x with poison := x.poison ||| BitVec.ofNat 256 (2 ^ e) } }
      else s
    | none => s
  | .cloverQueue k gi => strikeQueue s k gi
  | .placementSlot k i => onCore s k (fun c => { c with slots := listSet c.slots i none })
  | .icache _ => s
  | .tlbEntry d i => s.putXl d { s.xlOf d with tlb := (s.xlOf d).tlb.eraseIdx i }
  | .coreTlb k i => onCore s k (fun c => { c with l1tlb := c.l1tlb.eraseIdx i })
  | .walkCache d i => s.putXl d { s.xlOf d with wcache := (s.xlOf d).wcache.eraseIdx i }
  | .atc i => { s with atc := s.atc.map (fun e => if e.idx = i then { e with live := false } else e) }
  | .configPlane k => strikePlane s k
  | .shadowPlane k => strikeShadow s k
  | .hbmLine line => if line < 2 ^ 33 then strikeLine s line else s
  | .storeCheck src dst => strikeStore s src dst
  | .fillCheck src dst => strikeFill s src dst
  | .remoteWrite => { s with remoteBad := true }
  | .homeStructure d => s.check d ckHome
  | .holdBuffers d => s.check d ckHold
  | .walkers d => s.check d ckWalk
  | .queueEngine e => s.check 16 (ckEngine (e % 16))
  | .barrierUnit k => s.check (keyDie k) (ckBarrier (keyCore k))
  | .cohortBarrierUnit k => s.check (keyDie k) (ckCohortBarrier (keyCore k))

/-- SOFT_ERROR (R369): a corrected error only counts. -/
def execSoftError (target : SoftTarget) (corrected : Bool) (s : State) : Out :=
  if corrected then .next { s with corrected := s.corrected + 1 } else .next (strike s target)

end Sys2Proof.Machine
end

