-- ==== Sys2Proof/Machine/Gander.lean ====
section
/-! DEFINITION. Gander's side band (R407, R408, R446 to R448), reset (R449), and other packages (R444, R445). -/

namespace Sys2Proof.Machine

-- Power

/-- Budget of a compute die in watts (R407). -/
def budget (cap : Nat) : Nat := (cap - 500) / 8

/-- The least level that a temperature holds (R408). -/
def heatLevel (celsius : Nat) : Nat := if 105 ≤ celsius then 7 else if 95 ≤ celsius then 4 else 0

/-- POWER_ESTIMATE (R407): the level moves by one step; a temperature holds it up (R408). -/
def execPowerEstimate (die watts : Nat) (s : State) : Out :=
  if 8 ≤ die then .next s
  else
    let g := s.gander
    let l := listGet 0 g.levels die
    let b := g.cap - 500
    let l1 := if b < 8 * watts then min 7 (l + 1) else if 80 * watts < 9 * b then l - 1 else l
    .next { s with gander := { g with
      watts := listSet g.watts die watts
      levels := listSet g.levels die (max l1 (heatLevel (listGet 0 g.celsius die))) } }

/-- TEMPERATURE_THRESHOLD (R408): 95 °C holds level 4, 105 °C level 7; at 115 °C Gander raises a machine check, which loses the die. -/
def execTemperatureThreshold (die celsius : Nat) (s : State) : Out :=
  if 17 ≤ die then .next s
  else
    let g := s.gander
    let s1 : State := { s with gander := { g with
      celsius := listSet g.celsius die celsius
      levels := listSet g.levels die (max (listGet 0 g.levels die) (heatLevel celsius)) } }
    .next (if 115 ≤ celsius then s1.check die ckHeat else s1)

/-- SET_POWER_CAP (R407): from 1200 to 2400 W. -/
def execSetPowerCap (watts : Nat) (s : State) : Out :=
  if 1200 ≤ watts ∧ watts ≤ 2400 then .next { s with gander := { s.gander with cap := watts } } else .next s

/-- READ_TELEMETRY (R446): the level, estimate and temperature of a die. -/
def execReadTelemetry (die : Nat) (s : State) : Out :=
  if 17 ≤ die then .next s
  else
    let g := s.gander
    .next { s with gander := { g with
      message := bytesLE 1 (listGet 0 g.levels die) ++ bytesLE 2 (listGet 0 g.watts die) ++ bytesLE 2 (listGet 0 g.celsius die) } }

/-- RETIRE_REQUEST (R394, R402, R406, R446). -/
def execRetireRequest (target : RetireTarget) (s : State) : Out :=
  match target with
  | .core d c => if 8 ≤ d ∨ 256 ≤ c ∨ !quartetValid s d (c / 4) then .next s else .next (failCore s d c)
  | .link l => if 24 ≤ l then .next s else .next { s with links := listSet s.links l { linkAt s l with failed := true } }
  | .die d way => .next (retireDie s d way)

-- Firmware

/-- What the boot ROM checks of an image (R447): a digest of 32 bytes and a signature of 2,420, a key that is fused and not revoked, the signature over the digest, the version. -/
def firmwareOk (g : Gander) (i : FirmwareImage) : Bool :=
  i.digest.length == 32 && i.signature.length == 2420 &&
  (g.keys.zipIdx.any (fun k => k.1 == i.keyDigest && !listGet false g.revoked k.2)) &&
  Config.signatureValid i.digest i.signature i.keyDigest && decide (g.minVersion.toNat ≤ i.version.toNat)

/-- STAGE_FIRMWARE (R447): an image that passes goes into the slot that does not run; one that fails leaves everything in place. -/
def execStageFirmware (image : FirmwareImage) (s : State) : Out :=
  let g := s.gander
  if firmwareOk g image then .next { s with gander := { g with slots := listSet g.slots (1 - g.running) image, staged := true } } else .next s

/-- The fuse state (R447): the minimum version, the key digests and the revocations. -/
def fuseBytes (g : Gander) : List Byte := bytesLE 4 g.minVersion.toNat ++ g.keys.flatten ++ g.revoked.map (fun b => if b then 1 else 0)

/-- The measurement log (R448); an index outside it measures nothing. -/
def measurement (s : State) (index : Nat) : Option (List Byte) :=
  let g := s.gander
  match index with
  | 1 => some g.rom
  | 2 => some (listGet FirmwareImage.blank g.slots g.running).digest
  | 3 => some g.dieConfig
  | 4 => some (sha3 (fuseBytes g))
  | 5 => some (sha3 (s.remap ++ ((List.range 8).flatMap (fun d => (List.range 64).map (spareEntry s d)))))
  | _ => none

/-- ATTESTATION (R448): the measurement, signed over the digest of a transcript that includes the nonce of 32 bytes. -/
def execAttestation (index : Nat) (nonce : List Byte) (s : State) : Out :=
  match measurement s index with
  | none => .next s
  | some m =>
    if nonce.length ≠ 32 then .next s
    else .next { s with gander := { s.gander with message := m ++ Config.sign (sha3 (bytesLE 1 index ++ nonce ++ m)) } }

-- Reset

/-- A remap table that Gander may write at bring-up (R403): its slots are a permutation for each kind of die, no die is
retired yet, and nothing reserved is set: a table with a reserved bit set is refused whole (DESIGN CHOICE, log entry 159). -/
def remapOk (t : List Byte) : Bool :=
  t.length == 16 && t.all (fun b => b &&& 0xF8 == 0) &&
  [t.take 8, t.drop 8].all (fun h => (List.range 8).all (fun k => h.any (fun b => b.toNat % 8 == k)))

/-- The state after bring-up with its remap table (R449 step 2, where the table is not refused), with what is outside the reset: host memory, Gander's slots and fuses, and the model's own counters. -/
def afterReset (s : State) (g : Gander) (b : BringUp) : State :=
  { State.reset with
    remap := if remapOk b.remap then b.remap else State.reset.remap
    seq := s.seq
    fresh := s.fresh
    freeCtr := s.freeCtr
    agenda := s.agenda
    hostMem := s.hostMem
    gander := g
    links := State.reset.links.zipIdx.map (fun x => if b.deadLinks.contains x.2 then { x.1 with failed := true } else x.1)
    protBase := b.base
    protPages := b.pages }

/-- The spare tables of bring-up (R404, R405, R449 step 2): no entry names a physical quartet that failed the test of cores. -/
def bringQuartets (s : State) (failed : List (Nat × Nat)) : State :=
  let bad := (failed.filter (fun x => decide (x.1 < 8 ∧ x.2 < 68))).eraseDups
  (bad.filter (fun x => decide (x.2 < 64))).foldl (fun a x => remapQuartet a x.1 x.2)
    { s with deadQuartets := bad.foldl (fun acc x => setAdd acc (128 * x.1 + x.2)) s.deadQuartets }

/-- Steps 2 and 3 of bring-up succeed (R449): every die is reached over links that trained, the protected region lies in memory, and the HBM could be
initialised. -/
def bringUpOk (s : State) (b : BringUp) : Bool :=
  decide (b.base % 4096 = 0) && decide (b.base + 4096 * b.pages ≤ 2 ^ 39) && b.hbmOk && (List.range 17).all (placeReached s)

/-- RESET (R449): the boot ROM verifies the firmware, a staged image running in place of the other; a slot that has never been loaded holds `image`. Gander
trains the links and writes the protected region, the remap table and the spare tables; a failure leaves BAR0 and BAR2 shut and is reported on the
side band. -/
def execReset (image : FirmwareImage) (tables : BringUp) (failed : List (Nat × Nat)) (s : State) : Out :=
  let g := s.gander
  let g1 := if g.staged then { g with running := 1 - g.running, staged := false } 
    else if listGet FirmwareImage.blank g.slots g.running = FirmwareImage.blank then { g with slots := listSet g.slots g.running image } else g
  let g2 := { Gander.reset with
    slots := g1.slots, running := g1.running, minVersion := g1.minVersion, keys := g1.keys, revoked := g1.revoked,
    rom := g1.rom, dieConfig := g1.dieConfig, log := g1.log }
  if firmwareOk g (listGet FirmwareImage.blank g1.slots g1.running) && bringUpOk (afterReset s g2 tables) tables then
    .next (bringQuartets (rebuildRoutes (afterReset s g2 tables)) failed)
  else .next { afterReset s { g with message := [1] } ⟨0, 0, [], [], true⟩ with up := false, pcieUp := false }

-- Other packages

/-- An access from another package is refused: it sees that it was (R444). -/
def refuseRemote (s : State) : State := { s with remoteReply := none }

/-- What an access of another package answers: bytes, and whether they leave as poisoned data (R231). -/
def State.answerRemote (s : State) (b : List Byte) (bad : Bool) : State := { s with remoteReply := some (b, bad) }

/-- Serve an access whose page is in hand (R444, R445): a read is a plain load, a write a bulk write, and an atomic is done at its home. A write
whose check fails is written poisoned, and a poisoned line leaves as poisoned data (R231). -/
def serveRemote (s : State) (asid place : Nat) (xl : Xl) (op : RemoteOp) : State :=
  match op with
  | .read n =>
    match plainRead16 s place n xl with
    | .bytes b s1 => s1.answerRemote b false
    | .wait => s
    | .unreadable => s.answerRemote (placeBytes s place n) true
  | .write data =>
    match bulk16 s asid place xl data s.remoteBad with
    | some (s1, _) => { s1 with remoteBad := false }.answerRemote [] false
    | none => s
  | .atomic o ty x cmp =>
    let line := place / 64 * 64
    match read16 s line 64 xl with
    | .bytes b s1 =>
      let rq : AtomReq := ⟨o, ty, [⟨0, place % 64, x, cmp⟩]⟩
      let r := atomLanes o ty rq.args b [] 0
      let n := if isWide ty then 8 else 4
      match write16 s1 asid place xl ((r.1.drop (place % 64)).take n) with
      | some s2 => s2.answerRemote (r.2.1.flatMap (fun y => bytesLE n y.2.toNat)) false
      | none => s
    | .wait => s
    | .unreadable => s.answerRemote [] true

/-- Whether a remote access reads and writes, and its bytes. -/
def remoteUse : RemoteOp → Bool × Bool × Nat
  | .read n => (true, false, n)
  | .write d => (false, true, d.length)
  | .atomic _ ty _ _ => (true, true, if isWide ty then 8 else 4)

/-- VETCH_X_REMOTE_ACCESS (R232, R236, R444, R445): served when this package's driver has imported the pair and the ASID is valid; a
refusal, a locked page or a missing permission changes nothing. An access lies within one line. -/
def execVetchXRemoteAccess (package asid : Nat) (va : DWord) (op : RemoteOp) (s : State) : Out :=
  let (rd, wr, n) := remoteUse op
  let whole := match op with | .atomic .. => va.toNat % n == 0 | _ => decide (1 ≤ n) && decide (va.toNat % 64 + n ≤ 64)
  if !s.imports.contains (package, asid) || !asidValid s asid || !whole then .next (refuseRemote s)
  else match qXl s asid va rd wr with
    | .bad => .next (refuseRemote (lapse s asid))
    | .wait s1 => .next s1
    | .ok place xl => .next (serveRemote s asid place xl op)

/-- UNREACHABLE_PACKAGE (R444). Every write of this model to another package has been acknowledged when it is made, so none is left to
fault. -/
def execUnreachablePackage (package : Nat) (s : State) : Out := .next { s with unreachable := setAdd s.unreachable package }

end Sys2Proof.Machine
end

