-- ==== Sys2Proof/Machine/System.lean ====
section
/-! DEFINITION. The system instructions and the system-register map (R115, R372 to R377). -/

namespace Sys2Proof.Machine

/-- x, y or z of the thread in lane l (R114). -/
def threadX (g : Gang) (l : Nat) : Nat := threadOf g l % g.kd.cx
def threadY (g : Gang) (l : Nat) : Nat := threadOf g l / g.kd.cx % g.kd.cy
def threadZ (g : Gang) (l : Nat) : Nat := threadOf g l / (g.kd.cx * g.kd.cy)

/-- The value of system register `r` for lane l (R115, R377), zero-extended to 64 bits. -/
def sysRead (s : State) (g : Gang) (r : Field10) (l : Nat) : DWord :=
  let w := fun (x : Word) => x.setWidth 64
  match r.toNat with
  | 0x000 => BitVec.ofNat 64 l
  | 0x001 => BitVec.ofNat 64 g.gangid
  | 0x002 => BitVec.ofNat 64 (threadX g l)
  | 0x003 => BitVec.ofNat 64 (threadY g l)
  | 0x004 => BitVec.ofNat 64 (threadZ g l)
  | 0x005 => w g.cidx
  | 0x006 => w g.cidy
  | 0x007 => w g.cidz
  | 0x008 => w g.ncidx
  | 0x009 => w g.ncidy
  | 0x00A => w g.ncidz
  | 0x00B => BitVec.ofNat 64 g.core
  | 0x00C => BitVec.ofNat 64 g.die
  | 0x00D => s.clock
  | 0x010 => w g.round
  | 0x011 => w g.fpstat
  | 0x012 => w g.xlctl
  | 0x013 => w g.capctl
  | 0x014 => w g.capstat
  | 0x020 => w g.tcause
  | 0x021 => g.tpc
  | 0x022 => g.taddr
  | 0x023 => g.tlanes
  | 0x024 => w g.tinfo
  | _ => 0

/-- `mts` of value `x` to register `r` (R376): reserved bits are ignored. -/
def sysWrite (g : Gang) (r : Field10) (x : DWord) : Gang :=
  let lo : Word := x.setWidth 32
  match r.toNat with
  | 0x010 => { g with round := writeRound g.round lo }
  | 0x011 => { g with fpstat := lo &&& 0x7F }
  | 0x012 => { g with xlctl := lo &&& 3 }
  | 0x013 => { g with capctl := writeCapctl lo }
  | 0x014 => { g with capstat := writeCapstat g.capstat lo }
  | 0x020 => { g with tcause := lo &&& 0xFF }
  | 0x021 => { g with tpc := x }
  | 0x022 => { g with taddr := x }
  | 0x023 => { g with tlanes := x }
  | 0x024 => { g with tinfo := lo }
  | _ => g

/-- The register is 64 bits wide (R377). -/
def sysWide (r : Field10) : Bool := sysRegWidth r == some true

/-- Read-only registers and trap-state registers (R376, R377). -/
def sysReadOnly (r : Field10) : Bool := decide (r.toNat < 0x010)
def sysTrapState (r : Field10) : Bool := decide (0x020 ≤ r.toNat)

/-- A drain of the gang has not completed (R301, R376). -/
def drainPending (s : State) (gi : Nat) (g : Gang) : Bool :=
  (s.coreAt g.die g.core).oxq.any fun e => e.gang == gi && (match e.instr with | .accst .. => true | _ => false)

/-- An access to FPSTAT waits for the gang's earlier drains (R375, R376), and for atomics of its other paths, whose flags come with their
answers (R117). -/
def fpstatHolds (s : State) (gi : Nat) (g : Gang) (r : Field10) : Bool :=
  decide (r.toNat = 0x011) && (drainPending s gi g || g.ops.any (fun o => match o.instr with | .atom .. => true | _ => false))

/-- `trap` and `brk` (R373): the cause, with the code in TINFO and the lanes whose guard is true. -/
def softTrap (i : Instr) (gd : Guard) (cause : Word) (code : BitVec 16) (s : State) : Out :=
  issueChecked i [] (fun _ => true) s fun gi g p =>
    let m := guardLanes g p gd
    if m = 0 then finish s gi g p 8 (.ok g)
    else .next (s.trap gi g p (trapAt p cause 0 m (code.setWidth 32)))

/-- `trap` (R373). -/
def execTrap (gd : Guard) (code : BitVec 16) (s : State) : Out := softTrap (.trap gd code) gd cSWTRAP code s

/-- `brk` (R373). -/
def execBrk (gd : Guard) (code : BitVec 16) (s : State) : Out := softTrap (.brk gd code) gd cBRK code s

/-- `eret` (R374): PRIV outside handler mode, raised before the guard (R66) and taken at rank 2. -/
def execEret (gd : Guard) (s : State) : Out :=
  issueChecked (.eret gd) [] (fun _ => true) s fun gi g p =>
    match g.handler with
    | none => .next (s.putGang gi (escalate g (trapAll p cPRIV 0 3)))
    | some hm =>
      if guardLanes g p gd = 0 then finish s gi g p 8 (.ok g)
      else if p.mask != hm.path || g.stack.length != hm.depth then .next (s.trap gi g p (trapAll p cILLOP 0 2))
      else
        match targetTrap s g p g.tpc with
        | some t => .next (s.trap gi g p t)
        | none => .next (s.putGang gi (leaveTrap g p.id s.seq))

/-- `mfs` (R375). -/
def execMfs (gd : Guard) (vec : Bool) (d reg : Field10) (s : State) : Out :=
  let ty : Ty := if sysWide reg then .b64 else .b32
  issueChecked (.mfs gd vec d reg) (if vec then vregs ty d else []) (fun _ => true) s fun gi g p =>
    if fpstatHolds s gi g reg then .next s
    else
      let m := guardLanes g p gd
      finish s gi g p 8 (.ok
        (if vec then writeLanes g ty d m fun l => sysRead s g reg l
         else if m = 0 then g else writeS g ty d (sysRead s g reg (lowestLane m))))

/-- `mts` (R376): PRIV before the guard (R66). -/
def execMts (gd : Guard) (a reg : Field10) (s : State) : Out :=
  issueChecked (.mts gd a reg) [] (fun _ => true) s fun gi g p =>
    if sysReadOnly reg then .next (s.trap gi g p (trapAll p cPRIV 0 1))
    else if sysTrapState reg && g.handler.isNone then .next (s.trap gi g p (trapAll p cPRIV 0 2))
    else if guardLanes g p gd = 0 then finish s gi g p 8 (.ok g)
    else if fpstatHolds s gi g reg then .next s
    else finish s gi g p 8 (.ok (sysWrite g reg (if sysWide reg then getSS g a.toNat else (getS g a.toNat).setWidth 64)))

end Sys2Proof.Machine
end

