-- ==== Sys2Proof/Machine/Dispatch.lean ====
section
/-! DEFINITION. The one dispatch from instructions to their meanings. -/

namespace Sys2Proof.Machine

def exec (i : Instr) (s : State) : Host.Outcome State Fault Refusal :=
  match i with
  | .sadd g ty d a b => Sys2Proof.Machine.execSadd g ty d a b s
  | .ssub g ty d a b => Sys2Proof.Machine.execSsub g ty d a b s
  | .smul g ty d a b => Sys2Proof.Machine.execSmul g ty d a b s
  | .smulh g ty d a b => Sys2Proof.Machine.execSmulh g ty d a b s
  | .sand g ty d a b => Sys2Proof.Machine.execSand g ty d a b s
  | .sor g ty d a b => Sys2Proof.Machine.execSor g ty d a b s
  | .sxor g ty d a b => Sys2Proof.Machine.execSxor g ty d a b s
  | .sshl g ty d a b => Sys2Proof.Machine.execSshl g ty d a b s
  | .sshr g ty d a b => Sys2Proof.Machine.execSshr g ty d a b s
  | .ssra g ty d a b => Sys2Proof.Machine.execSsra g ty d a b s
  | .smin g ty d a b => Sys2Proof.Machine.execSmin g ty d a b s
  | .smax g ty d a b => Sys2Proof.Machine.execSmax g ty d a b s
  | .smov g ty d a => Sys2Proof.Machine.execSmov g ty d a s
  | .scmp g ty c d a b => Sys2Proof.Machine.execScmp g ty c d a b s
  | .ssel g ty d a b c => Sys2Proof.Machine.execSsel g ty d a b c s
  | .saddImm g ty d a imm => Sys2Proof.Machine.execSaddImm g ty d a imm s
  | .ssubImm g ty d a imm => Sys2Proof.Machine.execSsubImm g ty d a imm s
  | .smulImm g ty d a imm => Sys2Proof.Machine.execSmulImm g ty d a imm s
  | .smulhImm g ty d a imm => Sys2Proof.Machine.execSmulhImm g ty d a imm s
  | .sandImm g ty d a imm => Sys2Proof.Machine.execSandImm g ty d a imm s
  | .sorImm g ty d a imm => Sys2Proof.Machine.execSorImm g ty d a imm s
  | .sxorImm g ty d a imm => Sys2Proof.Machine.execSxorImm g ty d a imm s
  | .sshlImm g ty d a imm => Sys2Proof.Machine.execSshlImm g ty d a imm s
  | .sshrImm g ty d a imm => Sys2Proof.Machine.execSshrImm g ty d a imm s
  | .ssraImm g ty d a imm => Sys2Proof.Machine.execSsraImm g ty d a imm s
  | .sminImm g ty d a imm => Sys2Proof.Machine.execSminImm g ty d a imm s
  | .smaxImm g ty d a imm => Sys2Proof.Machine.execSmaxImm g ty d a imm s
  | .scmpImm g ty c d a imm => Sys2Proof.Machine.execScmpImm g ty c d a imm s
  | .sliShort g d imm => Sys2Proof.Machine.execSliShort g d imm s
  | .sldArg g ty d imm => Sys2Proof.Machine.execSldArg g ty d imm s
  | .sliLong g d k => Sys2Proof.Machine.execSliLong g d k s
  | .slih g d k => Sys2Proof.Machine.execSlih g d k s
  | .iliLong g d k => Sys2Proof.Machine.execIliLong g d k s
  | .iliB64 g d k => Sys2Proof.Machine.execIliB64 g d k s
  | .iliShort g d imm => Sys2Proof.Machine.execIliShort g d imm s
  | .jmp g disp => Sys2Proof.Machine.execJmp g disp s
  | .bru g a disp => Sys2Proof.Machine.execBru g a disp s
  | .call g a disp => Sys2Proof.Machine.execCall g a disp s
  | .lpb g a disp => Sys2Proof.Machine.execLpb g a disp s
  | .brx g a => Sys2Proof.Machine.execBrx g a s
  | .callReg g d a => Sys2Proof.Machine.execCallReg g d a s
  | .ret g a => Sys2Proof.Machine.execRet g a s
  | .exit g => Sys2Proof.Machine.execExit g s
  | .yield g => Sys2Proof.Machine.execYield g s
  | .nop g => Sys2Proof.Machine.execNop g s
  | .brd g disp rej => Sys2Proof.Machine.execBrd g disp rej s
  | .callFar g fd => Sys2Proof.Machine.execCallFar g fd s
  | .iadd g ty d a b => Sys2Proof.Machine.execIadd g ty d a b s
  | .isub g ty d a b => Sys2Proof.Machine.execIsub g ty d a b s
  | .iadds g ty d a b => Sys2Proof.Machine.execIadds g ty d a b s
  | .imul g ty d a b => Sys2Proof.Machine.execImul g ty d a b s
  | .imulh g ty d a b => Sys2Proof.Machine.execImulh g ty d a b s
  | .imin g ty d a b => Sys2Proof.Machine.execImin g ty d a b s
  | .imax g ty d a b => Sys2Proof.Machine.execImax g ty d a b s
  | .iand g ty d a b => Sys2Proof.Machine.execIand g ty d a b s
  | .ior g ty d a b => Sys2Proof.Machine.execIor g ty d a b s
  | .ixor g ty d a b => Sys2Proof.Machine.execIxor g ty d a b s
  | .ishl g ty d a b => Sys2Proof.Machine.execIshl g ty d a b s
  | .ishr g ty d a b => Sys2Proof.Machine.execIshr g ty d a b s
  | .isra g ty d a b => Sys2Proof.Machine.execIsra g ty d a b s
  | .irot g ty d a b => Sys2Proof.Machine.execIrot g ty d a b s
  | .icmp g ty c a b pd ps => Sys2Proof.Machine.execIcmp g ty c a b pd ps s
  | .isel g ty d a b ps => Sys2Proof.Machine.execIsel g ty d a b ps s
  | .iaddImm g ty d a imm => Sys2Proof.Machine.execIaddImm g ty d a imm s
  | .isubImm g ty d a imm => Sys2Proof.Machine.execIsubImm g ty d a imm s
  | .iaddsImm g ty d a imm => Sys2Proof.Machine.execIaddsImm g ty d a imm s
  | .imulImm g ty d a imm => Sys2Proof.Machine.execImulImm g ty d a imm s
  | .imulhImm g ty d a imm => Sys2Proof.Machine.execImulhImm g ty d a imm s
  | .iminImm g ty d a imm => Sys2Proof.Machine.execIminImm g ty d a imm s
  | .imaxImm g ty d a imm => Sys2Proof.Machine.execImaxImm g ty d a imm s
  | .iandImm g ty d a imm => Sys2Proof.Machine.execIandImm g ty d a imm s
  | .iorImm g ty d a imm => Sys2Proof.Machine.execIorImm g ty d a imm s
  | .ixorImm g ty d a imm => Sys2Proof.Machine.execIxorImm g ty d a imm s
  | .ishlImm g ty d a imm => Sys2Proof.Machine.execIshlImm g ty d a imm s
  | .ishrImm g ty d a imm => Sys2Proof.Machine.execIshrImm g ty d a imm s
  | .israImm g ty d a imm => Sys2Proof.Machine.execIsraImm g ty d a imm s
  | .irotImm g ty d a imm => Sys2Proof.Machine.execIrotImm g ty d a imm s
  | .iabs g ty d b => Sys2Proof.Machine.execIabs g ty d b s
  | .ineg g ty d b => Sys2Proof.Machine.execIneg g ty d b s
  | .inot g ty d b => Sys2Proof.Machine.execInot g ty d b s
  | .ipopc g ty d b => Sys2Proof.Machine.execIpopc g ty d b s
  | .iclz g ty d b => Sys2Proof.Machine.execIclz g ty d b s
  | .ibrev g ty d b => Sys2Proof.Machine.execIbrev g ty d b s
  | .imov g ty d b => Sys2Proof.Machine.execImov g ty d b s
  | .imad g ty d a b c => Sys2Proof.Machine.execImad g ty d a b c s
  | .ibfx g ty d a b c => Sys2Proof.Machine.execIbfx g ty d a b c s
  | .ibfi g ty d a b c => Sys2Proof.Machine.execIbfi g ty d a b c s
  | .idp4 g ty d a b c => Sys2Proof.Machine.execIdp4 g ty d a b c s
  | .iaddc g ty d a b pd ps => Sys2Proof.Machine.execIaddc g ty d a b pd ps s
  | .isubb g ty d a b pd ps => Sys2Proof.Machine.execIsubb g ty d a b pd ps s
  | .iaddw g ty gw d a b pd => Sys2Proof.Machine.execIaddw g ty gw d a b pd s
  | .fadd g ty rm d a b => Sys2Proof.Machine.execFadd g ty rm d a b s
  | .fsub g ty rm d a b => Sys2Proof.Machine.execFsub g ty rm d a b s
  | .fmul g ty rm d a b => Sys2Proof.Machine.execFmul g ty rm d a b s
  | .fmin g ty d a b => Sys2Proof.Machine.execFmin g ty d a b s
  | .fmax g ty d a b => Sys2Proof.Machine.execFmax g ty d a b s
  | .fcmp g c a b pd ps => Sys2Proof.Machine.execFcmp g c a b pd ps s
  | .fscale g rm d a b => Sys2Proof.Machine.execFscale g rm d a b s
  | .fabs g ty d b => Sys2Proof.Machine.execFabs g ty d b s
  | .fneg g ty d b => Sys2Proof.Machine.execFneg g ty d b s
  | .fclass g d a b pd => Sys2Proof.Machine.execFclass g d a b pd s
  | .frnd g rm d b => Sys2Proof.Machine.execFrnd g rm d b s
  | .fgetexp g d b => Sys2Proof.Machine.execFgetexp g d b s
  | .fma g ty rm d a b c => Sys2Proof.Machine.execFma g ty rm d a b c s
  | .fdot2 g ty rm d a b c => Sys2Proof.Machine.execFdot2 g ty rm d a b c s
  | .fdot4 g ty rm d a b c => Sys2Proof.Machine.execFdot4 g ty rm d a b c s
  | .cvt g ty ts rm d b => Sys2Proof.Machine.execCvt g ty ts rm d b s
  | .cvtq g ty ts rm d a b => Sys2Proof.Machine.execCvtq g ty ts rm d a b s
  | .cvtdq g ty ts rm d a b => Sys2Proof.Machine.execCvtdq g ty ts rm d a b s
  | .pack g ty d a => Sys2Proof.Machine.execPack g ty d a s
  | .unpk g ty d b => Sys2Proof.Machine.execUnpk g ty d b s
  | .fexp2 g d a => Sys2Proof.Machine.execFexp2 g d a s
  | .flog2 g d a => Sys2Proof.Machine.execFlog2 g d a s
  | .frcp g d a => Sys2Proof.Machine.execFrcp g d a s
  | .frsqrt g d a => Sys2Proof.Machine.execFrsqrt g d a s
  | .fsqrt g d a => Sys2Proof.Machine.execFsqrt g d a s
  | .fsin g d a => Sys2Proof.Machine.execFsin g d a s
  | .fcos g d a => Sys2Proof.Machine.execFcos g d a s
  | .ftanh g d a => Sys2Proof.Machine.execFtanh g d a s
  | .fsigm g d a => Sys2Proof.Machine.execFsigm g d a s
  | .ferf g d a => Sys2Proof.Machine.execFerf g d a s
  | .rstat g rm d a b n => Sys2Proof.Machine.execRstat g rm d a b n s
  | .vote g d a pd ps => Sys2Proof.Machine.execVote g d a pd ps s
  | .shfl g ty d a b => Sys2Proof.Machine.execShfl g ty d a b s
  | .xred g ty rm op ud d a b => Sys2Proof.Machine.execXred g ty rm op ud d a b s
  | .xscan g ty rm op inc d a b => Sys2Proof.Machine.execXscan g ty rm op inc d a b s
  | .xmatch g ty d a b => Sys2Proof.Machine.execXmatch g ty d a b s
  | .xcomp g ty d a b pd ps => Sys2Proof.Machine.execXcomp g ty d a b pd ps s
  | .xexp g ty d a b pd ps => Sys2Proof.Machine.execXexp g ty d a b pd ps s
  | .ld g ty sp cau na d m => Sys2Proof.Machine.execLd g ty sp cau na d m s
  | .st g ty sp blk na d m => Sys2Proof.Machine.execSt g ty sp blk na d m s
  | .ldb g sp na bl d m => Sys2Proof.Machine.execLdb g sp na bl d m s
  | .stb g sp na bl d m => Sys2Proof.Machine.execStb g sp na bl d m s
  | .atom g op ty sp d sb vi off => Sys2Proof.Machine.execAtom g op ty sp d sb vi off s
  | .fence g sem sc => Sys2Proof.Machine.execFence g sem sc s
  | .cinvAll g => Sys2Proof.Machine.execCinvAll g s
  | .cinvLine g m => Sys2Proof.Machine.execCinvLine g m s
  | .cwb g m => Sys2Proof.Machine.execCwb g m s
  | .prf g m => Sys2Proof.Machine.execPrf g m s
  | .prfL2 g m => Sys2Proof.Machine.execPrfL2 g m s
  | .tld g d sb vi off => Sys2Proof.Machine.execTld g d sb vi off s
  | .tldi g d sb vi off => Sys2Proof.Machine.execTldi g d sb vi off s
  | .oxip g ta tb a b acc mreg nk sp => Sys2Proof.Machine.execOxip g ta tb a b acc mreg nk sp s
  | .oxop g ta tb a b acc nk cs => Sys2Proof.Machine.execOxop g ta tb a b acc nk cs s
  | .oxrw g ta tb a b c acc nk cmp => Sys2Proof.Machine.execOxrw g ta tb a b c acc nk cmp s
  | .accz g ty acc => Sys2Proof.Machine.execAccz g ty acc s
  | .accld g tb a acc => Sys2Proof.Machine.execAccld g tb a acc s
  | .accst g tb rm d a b c acc sc => Sys2Proof.Machine.execAccst g tb rm d a b c acc sc s
  | .accmv g acc acc2 => Sys2Proof.Machine.execAccmv g acc acc2 s
  | .ldmeta g a mreg sp => Sys2Proof.Machine.execLdmeta g a mreg sp s
  | .cp g a tok => Sys2Proof.Machine.execCp g a tok s
  | .cpx g a tok => Sys2Proof.Machine.execCpx g a tok s
  | .cpz g a tok => Sys2Proof.Machine.execCpz g a tok s
  | .cpg g a b tok => Sys2Proof.Machine.execCpg g a b tok s
  | .cps g a b tok => Sys2Proof.Machine.execCps g a b tok s
  | .flsig g sc named tok tok2 => Sys2Proof.Machine.execFlsig g sc named tok tok2 s
  | .tload g loc a tok => Sys2Proof.Machine.execTload g loc a tok s
  | .twait g tok => Sys2Proof.Machine.execTwait g tok s
  | .tpoll g d tok => Sys2Proof.Machine.execTpoll g d tok s
  | .bar g b => Sys2Proof.Machine.execBar g b s
  | .bara g b => Sys2Proof.Machine.execBara g b s
  | .barw g b => Sys2Proof.Machine.execBarw g b s
  | .sleep g n => Sys2Proof.Machine.execSleep g n s
  | .lmark g imm => Sys2Proof.Machine.execLmark g imm s
  | .capctl g imm => Sys2Proof.Machine.execCapctl g imm s
  | .capload g a imm => Sys2Proof.Machine.execCapload g a imm s
  | .capsave g d a imm => Sys2Proof.Machine.execCapsave g d a imm s
  | .capdrop g imm => Sys2Proof.Machine.execCapdrop g imm s
  | .trap g code => Sys2Proof.Machine.execTrap g code s
  | .brk g code => Sys2Proof.Machine.execBrk g code s
  | .eret g => Sys2Proof.Machine.execEret g s
  | .mfs g vec d reg => Sys2Proof.Machine.execMfs g vec d reg s
  | .mts g a reg => Sys2Proof.Machine.execMts g a reg s
  | .sleepEnd gang path => Sys2Proof.Machine.execSleepEnd gang path s
  | .gangUrgent gang => Sys2Proof.Machine.execGangUrgent gang s
  | .gangBlockRelease gang => Sys2Proof.Machine.execGangBlockRelease gang s
  | .cohortEnd cohort => Sys2Proof.Machine.execCohortEnd cohort s
  | .gridComplete grid => Sys2Proof.Machine.execGridComplete grid s
  | .placerDone core cells => Sys2Proof.Machine.execPlacerDone core cells s
  | .planeSwitch core => Sys2Proof.Machine.execPlaneSwitch core s
  | .cloverEnter core gang => Sys2Proof.Machine.execCloverEnter core gang s
  | .cellFire core cell => Sys2Proof.Machine.execCellFire core cell s
  | .memcellAccessReturn core cell => Sys2Proof.Machine.execMemcellAccessReturn core cell s
  | .iterationRelease core gang => Sys2Proof.Machine.execIterationRelease core gang s
  | .drain core gang cause => Sys2Proof.Machine.execDrain core gang cause s
  | .drainComplete core gang => Sys2Proof.Machine.execDrainComplete core gang s
  | .compactionStart core grid moves => Sys2Proof.Machine.execCompactionStart core grid moves s
  | .compactionMoveEnd core => Sys2Proof.Machine.execCompactionMoveEnd core s
  | .cohortPlace grid => Sys2Proof.Machine.execCohortPlace grid s
  | .quartetReserve die grid => Sys2Proof.Machine.execQuartetReserve die grid s
  | .l1SizeReserve die grid => Sys2Proof.Machine.execL1SizeReserve die grid s
  | .preemptDelayExpire grid => Sys2Proof.Machine.execPreemptDelayExpire grid s
  | .queueSwapIn queue => Sys2Proof.Machine.execQueueSwapIn queue s
  | .kick queue offset bytes value => Sys2Proof.Machine.execKick queue offset bytes value s
  | .fqrWrite fn value => Sys2Proof.Machine.execFqrWrite fn value s
  | .nopPacket queue => Sys2Proof.Machine.execNopPacket queue s
  | .launch queue => Sys2Proof.Machine.execLaunch queue s
  | .copy queue => Sys2Proof.Machine.execCopy queue s
  | .wait queue => Sys2Proof.Machine.execWait queue s
  | .waitReread queue => Sys2Proof.Machine.execWaitReread queue s
  | .signal queue => Sys2Proof.Machine.execSignal queue s
  | .barrier queue => Sys2Proof.Machine.execBarrier queue s
  | .caploadPacket queue => Sys2Proof.Machine.execCaploadPacket queue s
  | .timestamp queue => Sys2Proof.Machine.execTimestamp queue s
  | .bindAsid fn asid w0 w1 => Sys2Proof.Machine.execBindAsid fn asid w0 w1 s
  | .verify fn asid va size descs unverified => Sys2Proof.Machine.execVerify fn asid va size descs unverified s
  | .kernel fn segment index => Sys2Proof.Machine.execKernel fn segment index s
  | .queue fn q asid ring size prio save saveSize => Sys2Proof.Machine.execQueue fn q asid ring size prio save saveSize s
  | .unqueue fn q => Sys2Proof.Machine.execUnqueue fn q s
  | .restart fn q => Sys2Proof.Machine.execRestart fn q s
  | .inval fn asid va size => Sys2Proof.Machine.execInval fn asid va size s
  | .preempt fn q => Sys2Proof.Machine.execPreempt fn q s
  | .faultq fn va size => Sys2Proof.Machine.execFaultq fn va size s
  | .respond fn record retry => Sys2Proof.Machine.execRespond fn record retry s
  | .setdelay fn value => Sys2Proof.Machine.execSetdelay fn value s
  | .ptwrite fn asid va entry => Sys2Proof.Machine.execPtwrite fn asid va entry s
  | .faultRecordWrite fn => Sys2Proof.Machine.execFaultRecordWrite fn s
  | .rank2Supervisor gang => Sys2Proof.Machine.execRank2Supervisor gang s
  | .machineCheck die unit => Sys2Proof.Machine.execMachineCheck die unit s
  | .softError target corrected => Sys2Proof.Machine.execSoftError target corrected s
  | .walkComplete die asid va => Sys2Proof.Machine.execWalkComplete die asid va s
  | .atsCompletion asid va read write addr log2size => Sys2Proof.Machine.execAtsCompletion asid va read write addr log2size s
  | .priResponse fn asid va code => Sys2Proof.Machine.execPriResponse fn asid va code s
  | .atsInvalidate pasid va size => Sys2Proof.Machine.execAtsInvalidate pasid va size s
  | .invalidationComplete id => Sys2Proof.Machine.execInvalidationComplete id s
  | .oxEntryStart core entry => Sys2Proof.Machine.execOxEntryStart core entry s
  | .oxComplete core entry => Sys2Proof.Machine.execOxComplete core entry s
  | .copyCmdStart core cmd => Sys2Proof.Machine.execCopyCmdStart core cmd s
  | .copyElement core cmd => Sys2Proof.Machine.execCopyElement core cmd s
  | .copyCmdDone core cmd => Sys2Proof.Machine.execCopyCmdDone core cmd s
  | .flsigComplete core cmd => Sys2Proof.Machine.execFlsigComplete core cmd s
  | .tloadComplete core cmd => Sys2Proof.Machine.execTloadComplete core cmd s
  | .preemptRequest cohort => Sys2Proof.Machine.execPreemptRequest cohort s
  | .contextSave cohort => Sys2Proof.Machine.execContextSave cohort s
  | .resume cohort => Sys2Proof.Machine.execResume cohort s
  | .coreRetire die core => Sys2Proof.Machine.execCoreRetire die core s
  | .dieRetire die way => Sys2Proof.Machine.execDieRetire die way s
  | .powerEstimate die watts => Sys2Proof.Machine.execPowerEstimate die watts s
  | .temperatureThreshold die celsius => Sys2Proof.Machine.execTemperatureThreshold die celsius s
  | .laneRepair link module lane => Sys2Proof.Machine.execLaneRepair link module lane s
  | .linkFail link => Sys2Proof.Machine.execLinkFail link s
  | .linkReplay src dst => Sys2Proof.Machine.execLinkReplay src dst s
  | .orderedWrite src dst => Sys2Proof.Machine.execOrderedWrite src dst s
  | .atomic src dst => Sys2Proof.Machine.execAtomic src dst s
  | .causalLoad src dst => Sys2Proof.Machine.execCausalLoad src dst s
  | .plainLoad src dst => Sys2Proof.Machine.execPlainLoad src dst s
  | .forwardedWrite src dst => Sys2Proof.Machine.execForwardedWrite src dst s
  | .bulkWrite src dst => Sys2Proof.Machine.execBulkWrite src dst s
  | .engineRead src dst => Sys2Proof.Machine.execEngineRead src dst s
  | .flushMarker src dst => Sys2Proof.Machine.execFlushMarker src dst s
  | .readResponse src dst => Sys2Proof.Machine.execReadResponse src dst s
  | .atomicResponse src dst => Sys2Proof.Machine.execAtomicResponse src dst s
  | .writeAcknowledgement src dst => Sys2Proof.Machine.execWriteAcknowledgement src dst s
  | .flushReply src dst => Sys2Proof.Machine.execFlushReply src dst s
  | .frontier src dst => Sys2Proof.Machine.execFrontier src dst s
  | .frontierRequest src dst => Sys2Proof.Machine.execFrontierRequest src dst s
  | .frontierIdleTimer src dst => Sys2Proof.Machine.execFrontierIdleTimer src dst s
  | .holdRelease dst => Sys2Proof.Machine.execHoldRelease dst s
  | .lossNotice dst lost => Sys2Proof.Machine.execLossNotice dst lost s
  | .memberLossTimeout member => Sys2Proof.Machine.execMemberLossTimeout member s
  | .orderlyRemoval member => Sys2Proof.Machine.execOrderlyRemoval member s
  | .resynchronisation remap readmit => Sys2Proof.Machine.execResynchronisation remap readmit s
  | .management src dst => Sys2Proof.Machine.execManagement src dst s
  | .hostWrite toHost addr data => Sys2Proof.Machine.execHostWrite toHost addr data s
  | .vetchXRemoteAccess package asid va op => Sys2Proof.Machine.execVetchXRemoteAccess package asid va op s
  | .readTelemetry die => Sys2Proof.Machine.execReadTelemetry die s
  | .setPowerCap watts => Sys2Proof.Machine.execSetPowerCap watts s
  | .retireRequest target => Sys2Proof.Machine.execRetireRequest target s
  | .stageFirmware image => Sys2Proof.Machine.execStageFirmware image s
  | .attestation index nonce => Sys2Proof.Machine.execAttestation index nonce s
  | .reset image tables failed => Sys2Proof.Machine.execReset image tables failed s
  | .pcieCompletion tag status => Sys2Proof.Machine.execPcieCompletion tag status s
  | .pcieLinkDown => Sys2Proof.Machine.execPcieLinkDown  s
  | .priReenable fn => Sys2Proof.Machine.execPriReenable fn s
  | .unreachablePackage package => Sys2Proof.Machine.execUnreachablePackage package s
  | .localLoadReturn gang => Sys2Proof.Machine.execLocalLoadReturn gang s

end Sys2Proof.Machine
end

