-- ==== Sys2Proof/Machine/Issue.lean ====
section
/-! DEFINITION. Which path may issue (R66, R119, R134), the fetch of its instruction (R25), what every step does beside the instruction
or event it runs (R115, R216), the turns that the machine may take by itself, and the placing of one instruction for `step`. -/

namespace Sys2Proof.Machine

-- Issue

/-- The path may issue by R119, as far as the other paths of its gang go: it is current on all its slices. -/
def ablePath (g : Gang) (p : Path) : Bool := p.st == .ready && fullyCurrent p && eligible g.handler p

/-- An instruction of another path holds the gang: a translation miss, also of its fetch, stalls it (R239), and a path that waits at a fence, for
the accesses of the others or with a trap lets no other path issue (R264, R361). -/
def engagedElsewhere (g : Gang) (p : Path) : Bool :=
  match (match g.engaged with | some e => some e | none => g.fetching) with
  | none => false
  | some e => e != p.id && g.paths.any (fun q => q.id == e && ablePath g q)

/-- A gang that has been told to stop finishes what it has begun: a load or atomic, and an instruction that has issued and waits, for a
translation, for other accesses, at a fence or at `capdrop` (R203, R269, R380). -/
def mayFinish (g : Gang) (p : Path) : Bool := (opOf g p.id).isSome || g.engaged == some p.id

/-- The gang may take an instruction of the path: nothing stops or pauses the gang (R134, R214, R366, R381), nothing parks it, no other path
holds it and no trap waits to be taken (R242, R361); an operation of the path that is under way goes on. -/
def mayIssue (g : Gang) (p : Path) : Bool :=
  ablePath g p && !g.paused && g.pending.isEmpty &&
  ((g.parks.isEmpty && !engagedElsewhere g p && !g.ops.any (opTraps g)) || (opOf g p.id).isSome) && (!g.stopped || mayFinish g p)

/-- A path that may issue and whose last try nothing held (R134). -/
def readyPath (g : Gang) (p : Path) : Bool := mayIssue g p && !g.held.contains p.id

/-- The gang is ready (R134, R216). -/
def isReady (g : Gang) : Bool := g.paths.any (readyPath g)

/-- The path of a ready gang that issues next, in rotation (R120). -/
def turnPath (g : Gang) : Option Path :=
  match (g.rot.filterMap (findPath g.paths)).find? (readyPath g) with
  | some p => some p
  | none => g.paths.find? (readyPath g)

/-- The rotation after path `id` has had its turn, or after a step (none): paths that may issue keep their places, also while something holds
the whole gang, and a path that has become able to issue joins at the end. -/
def rotated (g : Gang) (last : Option Nat) : List Nat :=
  let may := (g.paths.filter (ablePath g)).map (·.id)
  let kept := g.rot.filter (fun i => may.contains i && last != some i)
  kept ++ may.filter (fun i => !kept.contains i && last != some i) ++ last.toList

/-- Cycles that a gang has been ready (R216). -/
def waitOf (now : DWord) (g : Gang) : Nat :=
  match g.readySince with
  | some t => (now - t).toNat
  | none => 0

/-- An urgent gang: its wait counter is 56 or more (R216). -/
def urgentNow (now : DWord) (g : Gang) : Bool := g.urgent || decide (56 ≤ waitOf now g)

/-- Place of a gang in the rotation of its core, which starts after the gang that last took issue slot 0 (R216). -/
def coreRank (slot0 : Nat) (g : Gang) : Nat := (g.index + 191 - slot0) % 192

/-- Gang a goes before gang b on their core (R216): urgent gangs first, the highest counter first and ties to the lower index, then the others
in rotation. -/
def goesBefore (now : DWord) (slot0 : Nat) (a b : Nat × Gang) : Bool :=
  let key := fun (x : Nat × Gang) =>
    if urgentNow now x.2 then (2 ^ 64 - waitOf now x.2, x.2.index) else (2 ^ 65, coreRank slot0 x.2)
  let ka := key a
  let kb := key b
  decide (ka.1 < kb.1) || (ka.1 == kb.1 && (decide (ka.2 < kb.2) || (ka.2 == kb.2 && decide (a.1 ≤ b.1))))

/-- It is the turn of path `p` of gang `gi`: the gang goes before every other ready gang of its core, and the path is next in it. -/
def hisTurn (s : State) (gi : Nat) (g : Gang) (p : Path) : Bool :=
  readyPath g p && (match turnPath g with | some q => q.id == p.id | none => false) &&
  s.gangs.all (fun x => x.1 == gi || x.2.die != g.die || x.2.core != g.core || !isReady x.2 ||
    goesBefore s.clock (s.coreAt g.die g.core).slot0 (gi, g) x)

/-- How the fetch of an instruction ends. -/
inductive Fetched1 where
  | instr (i : Instr) (s : State)
  | wait (s : State)
  | illegal (s : State)
  | trap (t : TrapInfo) (s : State)
  | park (va : DWord) (pri : Bool) (level : Nat) (s : State)

/-- Keep the translations of a gang's fetch in progress. -/
def keepXc (s : State) (gi : Nat) (g : Gang) (x : Xc) : State := s.putGang gi { g with xc := x }

/-- Forget a page of code that has answered. -/
def Xc.drop (x : Xc) (page : Nat) : Xc := { x with got := forget x.got page }

/-- Fetch the instruction of a path, word by word (R25, R56). -/
def fetchInstr (s : State) (gi : Nat) (g : Gang) (p : Path) : Fetched1 :=
  match fetchWord s g p.pc with
  | (.wait, x, s1) => .wait (keepXc s1 gi g x)
  | (.trap c info, _, s1) => .trap (trapAll p c p.pc info) s1
  | (.park pri level, _, s1) => .park p.pc pri level s1
  | (.word w0, x, s1) =>
    let x1 := x.drop (pageOf p.pc)
    let done := fun (w1 : DWord) (x2 : Xc) (s2 : State) =>
      match decodeWords w0 w1 with
      | some i => Fetched1.instr i (keepXc s2 gi g x2)
      | none => .illegal (keepXc s2 gi g x2)
    if wordsLen w0 = 8 then done 0 x1 s1
    else
      let a := p.pc + 8
      match fetchWord s1 { g with xc := x } a with
      | (.wait, x2, s2) => .wait (keepXc s2 gi g x2)
      | (.trap c info, _, s2) => .trap (trapAll p c a info) s2
      | (.park pri level, _, s2) => .park a pri level s2
      | (.word w1, x2, s2) => done w1 ((x2.drop (pageOf p.pc)).drop (pageOf a)) s2

/-- A path parks at its PC for a page of code (R25, R242). -/
def parkFetch (s : State) (gi : Nat) (g : Gang) (p : Path) (va : DWord) (pri : Bool) (level : Nat) : State :=
  parkGang s gi g p.id [⟨pageOf va, pri, level, p.mask, va, none, none⟩]

/-- The issuing path is named for the meaning. -/
def State.naming (s : State) (gi pi : Nat) : State := { s with cur := some (gi, pi) }

/-- Instructions that go to a target instead of past themselves (R106, R109, R374). -/
def isTransfer : Instr → Bool
  | .jmp _ _ | .bru _ _ _ | .lpb _ _ _ | .call _ _ _ | .callFar _ _ | .brx _ _ | .callReg _ _ _ | .ret _ _ | .brd _ _ _ | .eret _ => true
  | _ => false

/-- Instructions of the load/store unit (R215, R217). -/
def usesLsu : Instr → Bool
  | .ld .. | .st .. | .ldb .. | .stb .. | .atom .. => true
  | _ => false

/-- The instruction of path `p` was held (R134): in `g'`, the gang after it, the path stands where it stood in `g`, and nothing of the
instruction is under way. -/
def wasHeld (g g' : Gang) (p : Path) (i : Instr) : Bool :=
  !isTransfer i && (opOf g' p.id).isNone && g'.parks.isEmpty && g'.pending.isEmpty && g'.handler == g.handler && (findPath g'.paths p.id).any (fun q => q == p)

/-- A held try: the path loses its turn (R120), does not count as ready (R134), and keeps the gang to itself where R239, R264 or R361 says so
(`keeps`). In a gang that is to stop, an instruction that has issued stays the one to finish (R380). -/
def noteHeld (s : State) (gi : Nat) (pi : Nat) (keeps : Bool) : State :=
  match s.gang gi with
  | none => s
  | some g => { s.putGang gi { g with
      held := pi :: g.held
      rot := rotated g (some pi)
      engaged := if keeps || !g.xc.wants.isEmpty || (g.stopped && g.engaged == some pi) then some pi else none
      fetching := none } with idle := true }

/-- A fetch that waits for a translation: its instruction has not issued (R239, R380), but one that has issued and is fetched again has. -/
def noteFetch (s : State) (gi : Nat) (pi : Nat) : State :=
  match s.gang gi with
  | none => s
  | some g => { s.putGang gi { g with
      held := pi :: g.held
      rot := rotated g (some pi)
      engaged := if g.engaged = some pi then some pi else none
      fetching := some pi } with idle := true }

/-- The issue slot that the gang took (R216), and the load/store unit's turn (R217). -/
def noteSlot (s : State) (g : Gang) (lsu : Bool) : State :=
  let c := s.coreAt g.die g.core
  let second := !c.slot1 && Config.secondSlot s.seq
  s.putCore g.die g.core { c with
    slot0 := if second then c.slot0 else g.index
    slot1 := second
    lsuFront := lsu || c.lsuFront }

/-- The gang has issued at a PC: its wait counter starts again (R216), its path goes to the end of the rotation (R120), and once it issues
elsewhere, or comes back to a drained head, the head counts as left (R188). -/
def noteIssue (s : State) (gi : Nat) (p : Path) (lsu : Bool) : State :=
  match s.gang gi with
  | none => s
  | some g => noteSlot (s.putGang gi { g with
      readySince := none
      urgent := false
      held := []
      rot := rotated g (some p.id)
      engaged := if g.engaged = some p.id then none else g.engaged
      fetching := none
      frontAt := if g.handler.isNone then none else g.frontAt }) g lsu

-- What every step does beside

/-- Start or stop a wait counter (R216), and keep the rotation of the paths; once a step has done something, what was held is tried again. -/
def countWait (now : DWord) (idle : Bool) (g0 : Gang) : Gang :=
  let g := if idle then g0 else { g0 with held := [] }
  let g1 := { g with rot := rotated g none }
  if isReady g1 then (if g1.readySince.isNone then { g1 with readySince := some now } else g1)
  else { g1 with readySince := none, urgent := false }

/-- Cycles that a path may still sleep (R153): it becomes ready again within n + 256 cycles. -/
def sleepLeft (now : DWord) (p : Path) : Option Nat :=
  match p.st with
  | .sleep start n => some (n + 256 - (now - start).toNat)
  | _ => none

/-- Cycles that may pass before some ready gang has waited for 255 (R134, R216), or some path has slept for as long as it may (R153). -/
def slack (s : State) : Nat :=
  s.gangs.foldl (fun n e => (e.2.paths.filterMap (sleepLeft s.clock)).foldl min
    (if e.2.readySince.isSome then min n (255 - waitOf s.clock e.2) else n)) (2 ^ 32)

/-- The cycles that this step takes: as many as are free, but no ready gang waits for more than 255, and CLOCK never goes back (R31, R134). -/
def stepTime (s : State) : Nat := min (min (Config.stepCycles s.seq) (slack s)) (2 ^ 64 - 1 - s.clock.toNat)

/-- One step has passed: the step number, CLOCK (R115), and the wait counters. -/
def State.tick (s : State) : State :=
  let now := s.clock + BitVec.ofNat 64 (stepTime s)
  { s with
    seq := s.seq + 1
    clock := now
    cur := none
    idle := false
    gangs := s.gangs.map (fun e => (e.1, countWait now s.idle e.2)) }

/-- A constructor that stands for an event: it has no encoding. -/
def isEvent (i : Instr) : Bool := (encodeFields i).isNone

/-- Instructions whose wait lets no other path of the gang issue: a fence (R264), a barrier, whose release and acquire are those of a fence
(R152), and a `capdrop` that has issued (R203, R380). -/
def holdsGang : Instr → Bool
  | .fence _ _ _ | .bar _ _ | .bara _ _ | .barw _ _ | .capdrop _ _ => true
  | _ => false

/-- A held path keeps the gang to itself: its instruction is one of those, or accesses of other paths are in flight, which may be what it waits
for (DEDUCED, log entry 134): no other path makes more of them meanwhile. -/
def keepsGang (g : Gang) (p : Path) (i : Instr) : Bool := holdsGang i || otherOp g p.id (fun _ => true)

/-- A trap is taken, or handler mode left, only when no operation of another path is in flight (R361). -/
def trapWaits (g g' : Gang) (p : Path) : Bool :=
  otherOp g p.id (fun _ => true) && (g'.handler != g.handler || decide (g.pending.length < g'.pending.length))

/-- A meaning has run, from state `s0`, for path `p` of gang `g`: it was held, or the gang has issued. `lsu`: it took the load/store unit before
Clover. -/
def issued (gi : Nat) (g : Gang) (p : Path) (i : Instr) (lsu : Bool) (s0 : State) : Out → Out
  | .next s => .next (match s.gang gi with
      | some g' =>
        if trapWaits g g' p then noteHeld s0 gi p.id true
        else if wasHeld g g' p i then noteHeld s gi p.id (keepsGang g' p i) else noteIssue s gi p lsu
      | none => s)
  | o => o

/-- The memory cell of Clover that wants the load/store unit together with instruction `i` of a gang that is not urgent (R217). -/
def lsuRival (s : State) (g : Gang) (i : Instr) : Option Nat :=
  if usesLsu i && !urgentNow s.clock g then memCellWaits (s.coreAt g.die g.core) else none

/-- The front end and Clover alternate when both want the load/store unit (R217). -/
def runIssued (s : State) (gi : Nat) (g : Gang) (p : Path) (i : Instr) : Out :=
  let c := s.coreAt g.die g.core
  match lsuRival s g i with
  | some x =>
    if c.lsuFront then execCellFire (coreKey g.die g.core) x (s.putCore g.die g.core { c with lsuFront := false })
    else issued gi g p i true s (exec i (s.naming gi p.id))
  | none => issued gi g p i false s (exec i (s.naming gi p.id))

/-- An arrival at a captured loop (R179): it has an effect on the path, or an Ox drain holds it (R134). -/
def arrivalStep (gi : Nat) (g : Gang) (p : Path) (s : State) : Out :=
  match execCloverEnter (coreKey g.die g.core) gi s with
  | .next t => .next (if (t.gang gi).any (fun g' => findPath g'.paths p.id == some p && g'.frontAt == g.frontAt) then noteHeld s gi p.id false else t)
  | o => o

/-- A trap that the fetch of an instruction calls for. -/
def fetchTraps (s : State) (gi : Nat) (g : Gang) (p : Path) (t : TrapInfo) : State :=
  if otherOp g p.id (fun _ => true) then noteHeld s gi p.id true else noteIssue (s.trap gi g p t) gi p false

/-- Issue one path of a gang whose turn it is: an arrival at a captured loop enters it (R179); else the instruction at its PC is fetched,
decoded and run (R25, R65, R66). -/
def issueStep (gi pi : Nat) (s : State) : Out :=
  match s.gang gi with
  | none => .next s
  | some g =>
    match findPath g.paths pi with
    | none => .next s
    | some p =>
      if !hisTurn s gi g p then .next s
      else if (opOf g pi).isNone && arrival s g p != .front then arrivalStep gi g p s
      else match fetchInstr s gi g p with
        | .wait s1 => .next (noteFetch s1 gi pi)
        | .trap t s1 => .next (fetchTraps s1 gi g p t)
        | .illegal s1 => .next (fetchTraps s1 gi g p (illop p))
        | .park va pri level s1 => .next (noteIssue (parkFetch s1 gi g p va pri level) gi p false)
        | .instr i s1 => runIssued s1 gi g p i

-- Turns that the machine takes by itself

/-- The issue turns of the cores. -/
def issueTurns (s : State) : List (State → Out) :=
  s.gangs.flatMap fun e => (e.2.paths.filter (hisTurn s e.1 e.2)).map (fun p => issueStep e.1 p.id)

/-- The issue turns of gangs that have waited as long as R134 lets them, and the ends of sleeps that have lasted as long as R153 lets them. -/
def dueTurns (s : State) : List (State → Out) :=
  s.gangs.flatMap (fun e => (e.2.paths.filter (fun p => sleepLeft s.clock p == some 0)).map (fun p => execSleepEnd e.1 p.id)) ++
  (s.gangs.filter (fun e => e.2.readySince.isSome && decide (255 ≤ waitOf s.clock e.2))).flatMap fun e =>
    (s.gangs.filter (fun x => x.2.die == e.2.die && x.2.core == e.2.core)).flatMap fun x =>
      (x.2.paths.filter (hisTurn s x.1 x.2)).map (fun p => issueStep x.1 p.id)

/-- A gang whose PAGE trap waited for earlier accesses takes it (R361). -/
def execUnpark (gi : Nat) (s : State) : Out := .next (unpark s gi)

/-- Events of gangs, cohorts and grids. -/
def gangTurns (s : State) : List (State → Out) :=
  s.gangs.flatMap (fun e =>
    (e.2.paths.filterMap (fun p => match p.st with | .sleep _ _ => some (execSleepEnd e.1 p.id) | _ => none)) ++
    (if e.2.readySince.isSome && !e.2.urgent then [execGangUrgent e.1] else []) ++
    (if gangEnded e.2 && decide (0 < e.2.granules) then [execGangBlockRelease e.1] else []) ++
    (if e.2.pending.isEmpty then [] else [execRank2Supervisor e.1]) ++
    (if e.2.ops.any (mayReturn e.2) then [execLocalLoadReturn e.1] else []) ++
    (if e.2.parks.any (fun x => x.answer == some false) then [execUnpark e.1] else []) ++
    ((List.range 16).filter (waitOver s e.2)).map (fun b => execWaitEnd e.1 b)) ++
  s.cohorts.flatMap (fun e =>
    [execCohortEnd e.1] ++ (if e.2.asked then (if e.2.stopping then [execContextSave e.1] else [execPreemptRequest e.1]) else [])) ++
  s.saved.map (fun e => execResume e.1) ++
  s.grids.flatMap (fun e => if gridOver s e.1 e.2 then [execGridComplete e.1] else [])

/-- The front end of a core requests the load/store unit: whether the gang whose turn it is is urgent (R217). -/
def frontLsu (s : State) (k : Nat) : Option Bool :=
  ((s.gangs.filter (fun e => coreKey e.2.die e.2.core == k)).flatMap (fun e => (e.2.paths.filter (hisTurn s e.1 e.2)).filterMap (fun p =>
    match fetchInstr s e.1 e.2 p with
    | .instr i _ => if usesLsu i then some (urgentNow s.clock e.2) else none
    | _ => none))).head?

/-- A Clover cell takes its turn. A memory cell lets an urgent gang's access go first, and takes turns with another's (R217). -/
def cellTurn (k x : Nat) (s : State) : Out :=
  let c := s.coreAt (keyDie k) (keyCore k)
  if memCellReady c x then
    match frontLsu s k with
    | none => execCellFire k x s
    | some true => .next s
    | some false => if c.lsuFront then execCellFire k x (s.putCore (keyDie k) (keyCore k) { c with lsuFront := false }) else .next s
  else execCellFire k x s

/-- Events of a core's units. -/
def coreTurns (s : State) : List (State → Out) :=
  s.cores.flatMap fun e =>
    let k := e.1
    let c := e.2
    (if c.placer.isSome then [fun s => execPlacerDone k (foundPlacement s k) s] else []) ++
    (if c.shadow.isSome then [execPlaneSwitch k] else []) ++
    (if c.streams.isEmpty then [] else
      (List.range 64).flatMap (fun x => if (cellIndex c x).isSome then [cellTurn k x, execMemcellAccessReturn k x] else [])) ++
    c.streams.flatMap (fun st =>
      [execIterationRelease k st.gang] ++ (match drainDue st with | some cause => [execDrain k st.gang cause] | none => []) ++
      (if st.draining then [execDrainComplete k st.gang] else [])) ++
    (if c.compact.isSome then [execCompactionMoveEnd k] else []) ++
    c.oxq.map (fun x => if x.started.isSome then execOxComplete k x.id else execOxEntryStart k x.id) ++
    (c.copyq.filter (cmdMoves s)).flatMap (fun x =>
      [execCopyCmdStart k x.id, execCopyElement k x.id, execCopyCmdDone k x.id] ++ (if isFlsig x.instr then [execFlsigComplete k x.id] else []) ++
      (if isTload x.instr then [execTloadComplete k x.id] else []))

/-- Events of the dispatcher; the compactor's moves are those of its search. -/
def dispatchTurns (s : State) : List (State → Out) :=
  s.grids.flatMap fun e =>
    match nextDemand s e.1 e.2 with
    | none => []
    | some (_, dm) =>
      let late := decide (4096 ≤ waited s e.2)
      [execCohortPlace e.1, execPreemptDelayExpire e.1] ++
      (match placeable s e.1 e.2 with
       | some (.compact k) =>
         [execCompactionStart k e.1 ((makeRoom s dm k).getD [])]
       | _ => []) ++
      (if late then (dieOrder s e.2).flatMap (fun d => [execQuartetReserve d e.1, execL1SizeReserve d e.1]) else [])

/-- Events of the queue engines. -/
def queueTurns (s : State) : List (State → Out) :=
  s.queues.flatMap fun e =>
    let k := e.1
    (if e.2.kicked.isSome then [execQueueSwapIn k] else []) ++
    (if mayStartPkt s e.2 || !e.2.pend.isEmpty then
      [execNopPacket k, execLaunch k, execCopy k, execWait k, execWaitReread k, execSignal k, execBarrier k, execCaploadPacket k, execTimestamp k]
    else [])

/-- The arrival event of a packet. -/
def arrivalOf1 (p : Packet) : State → Out :=
  match p.op with
  | .orderedWrite => execOrderedWrite p.src p.dst
  | .atomic => execAtomic p.src p.dst
  | .causalLoad => execCausalLoad p.src p.dst
  | .plainLoad => execPlainLoad p.src p.dst
  | .forwardedWrite => execForwardedWrite p.src p.dst
  | .bulkWrite => execBulkWrite p.src p.dst
  | .engineRead => execEngineRead p.src p.dst
  | .flushMarker => execFlushMarker p.src p.dst
  | .readResponse => execReadResponse p.src p.dst
  | .atomicResponse => execAtomicResponse p.src p.dst
  | .writeAck => execWriteAcknowledgement p.src p.dst
  | .flushReply => execFlushReply p.src p.dst
  | .frontier => execFrontier p.src p.dst
  | .frontierRequest => execFrontierRequest p.src p.dst
  | .lossNotice => execLossNotice p.dst p.addr.toNat
  | .resyncControl => execResynchronisation [] []
  | .management => execManagement p.src p.dst

/-- Members between which nothing has gone on VC-D for 256 fabric cycles (R424). -/
def idlePairs (s : State) : List (Nat × Nat) :=
  (List.range 17).flatMap (fun i => ((List.range 17).filter (fun j =>
    i != j && decide (461 ≤ (s.clock - listGet 0 (s.member i).lastD j).toNat))).map (fun j => (i, j)))

/-- A route in force between two live members uses a failed link (R413, R431). -/
def routesBroken (s : State) : Bool :=
  s.links.any (·.failed) &&
  (List.range 17).any (fun a => !isRemoved (s.member 16) a && (List.range 17).any (fun b => !isRemoved (s.member 16) b &&
    (routeOf s a b).any (fun l => (linkAt s l).failed)))

/-- The controller begins a resynchronisation when a link has failed, and ends the one that it has begun (R413, R430). -/
def resyncTurns (s : State) : List (State → Out) :=
  match s.resync with
  | some (w, back) => [execResynchronisation w back]
  | none => if routesBroken s then [execResynchronisation [] []] else []

/-- Events of the fabric, of PCIe and of the package's controller. -/
def packageTurns (s : State) : List (State → Out) :=
  s.flights.flatMap (fun f => match f.2 with | p :: _ => [arrivalOf1 p] | [] => []) ++
  (List.range 17).flatMap (fun j =>
    (if (s.member j).holds.isEmpty then [] else [execHoldRelease j]) ++
    (if (s.member j).writeq.isEmpty && (s.member j).fwds.isEmpty && !s.resends.any (fun x => x.2.2.src == j) then [] else [driveHome j]) ++
    (if lossDue s j && !retiredDie s j then [execMemberLossTimeout j] else [])) ++
  (idlePairs s).map (fun x => execFrontierIdleTimer x.1 x.2) ++
  (s.notices.filter (fun x => x.1 == 16)).map (fun x => execLossNotice x.1 x.2) ++ resyncTurns s ++
  (s.reqs.filter (strayReq s)).map (fun r => endStray r.tag) ++
  (s.leavingDies.filter (fun x => x.2 == .orderly && !(listGet (0 : BitVec 8) s.remap x.1).getLsbD 7)).map (fun x => execOrderlyRemoval x.1) ++
  (s.failing.filter (fun x => s.deadQuartets.contains (128 * (x / 64) + quartetPhys s (x / 64) (x % 64)))).map (fun x => execCoreRetire (x / 64) (x % 64 * 4)) ++
  s.checks.map (fun x => execMachineCheck x.1 x.2) ++
  (s.fns.filter (fun e => !e.2.records.isEmpty)).map (fun e => execFaultRecordWrite e.1) ++
  s.dieXl.flatMap (fun e => (walking e.2).map (fun w => execWalkComplete e.1 w.1 (BitVec.ofNat 64 (w.2 * 4096)))) ++
  s.invals.map (fun x => execInvalidationComplete x.id) ++
  (if s.hostIn.isEmpty then [] else [passHost]) ++
  (match s.pcie with | x :: _ => [execPcieCompletion x.1 (.ok [])] | [] => [])

/-- Every turn that the machine may take by itself. Some of them change nothing yet, as a timer that has not run out. -/
def ownTurns (s : State) : List (State → Out) :=
  issueTurns s ++ gangTurns s ++ coreTurns s ++ dispatchTurns s ++ queueTurns s ++ packageTurns s

/-- Run a turn. Only an event of the table may come as one; a cell of Clover fires in its turn at the load/store unit (R217). -/
def runTurn (t : Turn) (s : State) : Out :=
  match t with
  | .issue gi pi => issueStep gi pi s
  | .event (.cellFire k x) => cellTurn k x s
  | .event i => if isEvent i then exec i s else .next s
  | .host a => .next (hostAct a s)

/-- What happens next: the agenda first; else one of the machine's own turns, chosen by a free value, those that R134 makes due before any
other (DESIGN CHOICE, log entry 10). Nothing at all when there is none. -/
def takeTurn (s : State) : Out :=
  match s.agenda with
  | t :: r => runTurn t { s with agenda := r }
  | [] =>
    let turns := if (dueTurns s).isEmpty then ownTurns s else dueTurns s
    match turns[Config.freeNat s.freeCtr % turns.length]? with
    | some f => f { s with freeCtr := s.freeCtr + 1 }
    | none => .next s

-- Placing one instruction

/-- A kernel with every resource at its largest that still fits, for an instruction that is placed from outside. -/
def loadedKernel : Kernel where
  asid := 1
  base := 0x10000
  entry := 0
  codeSize := 0x1000
  handler := none
  regs := 1024
  gangw := 16
  l1 := 32
  cx := 16
  cy := 1
  cz := 1
  acc := 16
  nmeta := 16
  tokens := 16
  bars := 16
  scratch := 65536
  round := 0
  capctl := 0
  paramSize := 4096

/-- Physical address of the page that holds a placed instruction. -/
def loadedPa : Nat := 0x100000

/-- The leaf that maps it: valid, readable, executable (R234). -/
def loadedLeaf : DWord := BitVec.ofNat 64 (loadedPa + 0x17)

/-- The grid of a placed instruction. -/
def loadedGrid : Grid where
  fn := 0
  queue := 0
  launch := 0
  packet := 0
  kd := loadedKernel
  desc := []
  params := []
  nx := 1
  ny := 1
  nz := 1
  dies := [0]
  lastDie := some 0
  nextCohort := 1
  waitFrom := none
  tbl := false
  finished := 0
  failed := false
  abandoned := false
  zero := none
  cv := []

/-- The cohort of a placed instruction: one gang of 16 lanes on core 0 of die 0. -/
def loadedCohort (grid gang : Nat) : Cohort where
  grid := grid
  number := 0
  die := 0
  core := 0
  quartet := false
  kd := loadedKernel
  gangs := [gang]
  scratchBase := [0]
  scratchBytes := 65536
  ownsTable := false
  arrivals := []
  asked := false
  stopping := false
  askedBy := none
  room := none
  placed := 0

/-- An instruction's bytes at `loadedPa`. -/
def loadedBytes (nbits w : Nat) : List Byte := bytesLE 16 (w % 2 ^ nbits)

end Sys2Proof.Machine
end

