-- ==== Sys2Proof/Machine/Step.lean ====
section
/-! DEFINITION. One step of the machine. -/

namespace Sys2Proof.Machine

/-- Time passes with every turn. -/
def ticked : Out → Out
  | .next s => .next s.tick
  | o => o

/-- One step: the next turn, and the passing of its time. -/
def step (s : State) : Out := ticked (takeTurn s)

/-- A core of die 0 on which no gang stands, if there is one. -/
def idleCore (s : State) : Nat := ((List.range 256).find? (fun c => s.gangs.all (fun e => e.2.die != 0 || e.2.core != c))).getD 0

/-- The state with one instruction placed, from outside the machine, so that the next step fetches and runs it: its bytes stand in HBM, a
translation and an unverified segment cover them, and a gang stands at it, alone on its core, whose turn is next. -/
def State.withFetchWord (s : State) (nbits w : Nat) : State :=
  let n := s.fresh
  let k := idleCore s
  let s1 := putBytes { s with fresh := n + 3 } (imageOf loadedPa (loadedBytes nbits w))
  let c := s1.coreAt 0 k
  let s2 := s1.putCore 0 k { c with l1tlb := ⟨1, 0x10000, 12, loadedLeaf, 0⟩ :: c.l1tlb }
  { s2 with
    agenda := .issue (n + 2) 0 :: s2.agenda
    segments := ⟨1, 0x10000, 512, true, [], 0, []⟩ :: s2.segments
    grids := (n, loadedGrid) :: s2.grids
    cohorts := (n + 1, { loadedCohort n (n + 2) with core := k }) :: s2.cohorts
    gangs := (n + 2, newGang s2 n loadedGrid (n + 1) 0 0 k 0 0 (List.range 16) [0] 0) :: s2.gangs }

end Sys2Proof.Machine
end

