-- ==== Sys2Proof/Safety.lean ====
section
/-! DEFINITION. What counts as a sound state and a safe step, and the terms in which the claims say what an instruction changed. -/

namespace Sys2Proof.Machine

/-- A gang's register files are in their canonical form, and p0 is not listed (R18). -/
def Gang.sound (g : Gang) : Bool := spOk 0 g.v && spOk 0 g.s && spOk 0 g.p && g.p.all (fun e => e.1 != 0)

/-- The memories of the package are in their canonical form. -/
def State.memoryOk (s : State) : Bool := spOk 0 s.hbm && spOk 0 s.hostMem

/-- A step is safe when it answers a next state. -/
def Safe (s : State) : Prop := ∃ t, step s = .next t

/-- Gang `gi` issues instruction `i` on its path `p`, the encoding is assigned, and the vector registers `vr` that it names exist and are
not held by a drain (R65, R19, R324). -/
structure Issues (s : State) (i : Instr) (gi : Nat) (g : Gang) (p : Path) (vr : List Nat) : Prop where
  issuing : s.issuing = some (gi, g, p)
  wf : i.wf = true
  exist : ∀ r ∈ vr, r < g.kd.regs
  free : drainHolds s gi g vr = false

/-- No register of `rd` is poisoned in a lane of `m` (R369). -/
def Unpoisoned (g : Gang) (m : LaneMask) (rd : List Nat) : Prop :=
  ∀ r ∈ rd, ∀ l, l < 64 → m.getLsbD l = true → g.vpoison.contains (64 * r + l) = false

/-- The state after an instruction of `n` bytes that left its gang as `g'`: its path goes past the instruction, and nothing else of the
state changes. -/
def pastInstr (s : State) (gi : Nat) (p : Path) (n : DWord) (g' : Gang) : State := s.putGang gi (advance g' p.id n s.seq)

/-- The gang with other vector registers and poison marks; with other uniform registers; with other predicates. -/
def Gang.withV (g : Gang) (v : List (Nat × Word)) (marks : List Nat) : Gang := { g with v := v, vpoison := marks }
def Gang.withS (g : Gang) (x : List (Nat × Word)) : Gang := { g with s := x }
def Gang.withP (g : Gang) (x : List (Nat × LaneMask)) : Gang := { g with p := x }

/-- `x`, or the pair of it, is written into v(d) in the lanes of `m`: every other register of every lane, and everything else of the gang
but the poison marks of the registers written, is as before. -/
structure WroteV (g g' : Gang) (ty : Ty) (d : Field10) (m : LaneMask) (x : Nat → DWord) : Prop where
  rest : g' = g.withV g'.v g'.vpoison
  regs : ∀ r l, l < 64 → getV g' r l =
    if m.getLsbD l = true ∧ r = d.toNat then (x l).extractLsb' 0 32
    else if m.getLsbD l = true ∧ isWide ty = true ∧ r = d.toNat + 1 then (x l).extractLsb' 32 32
    else getV g r l
  marks : ∀ r l, l < 64 → g'.vpoison.contains (64 * r + l) =
    (g.vpoison.contains (64 * r + l) && !(m.getLsbD l && (r == d.toNat || (isWide ty && r == d.toNat + 1))))

/-- `x`, or the pair of it, is written into s(d), and everything else of the gang is as before. -/
structure WroteS (g g' : Gang) (ty : Ty) (d : Field10) (x : DWord) : Prop where
  rest : g' = g.withS g'.s
  regs : ∀ r, getS g' r =
    if r = d.toNat then x.extractLsb' 0 32
    else if isWide ty = true ∧ r = d.toNat + 1 then x.extractLsb' 32 32
    else getS g r

/-- Predicate p(n) is `x l` in each lane `l` of `m`; p0 stays true (R18); every other predicate of every lane, and everything else of the
gang, is as before. -/
structure WroteP (g g' : Gang) (n : BitVec 4) (m : LaneMask) (x : Nat → Bool) : Prop where
  rest : g' = g.withP g'.p
  preds : ∀ k l, l < 64 → (getPred g' k).getLsbD l =
    if m.getLsbD l = true ∧ k = n ∧ n ≠ 0 then x l else (getPred g k).getLsbD l

end Sys2Proof.Machine
end

