-- ==== Sys2Proof/Certificates/Slice0/Obligations.lean ====
section
/-! DEFINITION. The statements. -/

-- The values that the integer instructions compute

namespace Sys2Proof.Claim

open Sys2Proof.Machine

/-- The result of an instruction on one or more exact integers, kept modulo 2^64; a 32-bit destination takes its low half. -/
def wrap (x : Int) : DWord := BitVec.ofInt 64 x

/-- An operand of a type as the exact integer that it stands for (R7, R85, R90). -/
def num (ty : Ty) (x : DWord) : Int := if ty = .s32 then (x.extractLsb' 0 32).toInt else x.toNat

/-- The operand read as a signed number of the type's width. -/
def signedNum (ty : Ty) (x : DWord) : Int := if ty = .b64 then x.toInt else (x.extractLsb' 0 32).toInt

/-- An immediate sign-extended to the width of the type (R85, R90). -/
def immOf (ty : Ty) (imm : Imm20) : DWord := if ty = .b64 then imm.signExtend 64 else (imm.signExtend 32).setWidth 64

/-- The clamped sum of R90, and whether it clamped. -/
def clampedSum (ty : Ty) (a b : DWord) : Int × Bool :=
  let t := num ty a + num ty b
  let lo : Int := if ty = .s32 then -2 ^ 31 else 0
  let hi : Int := if ty = .s32 then 2 ^ 31 - 1 else 2 ^ 32 - 1
  (max lo (min hi t), decide (t < lo ∨ hi < t))

/-- Whether a condition of R86 holds between two operands read by type. -/
def condHolds (c : Cond) (ty : Ty) (a b : DWord) : Bool :=
  match c with
  | .eq => num ty a == num ty b
  | .ne => num ty a != num ty b
  | .lt => decide (num ty a < num ty b)
  | .le => decide (num ty a ≤ num ty b)
  | .gt => decide (num ty b < num ty a)
  | .ge => decide (num ty b ≤ num ty a)
  | .un | .or => false

/-- Operations of two operands (R85, R90). -/
inductive Op2 where
  | add | sub | mul | mulh | and | or | xor | min | max
  deriving DecidableEq, Repr

/-- Exact value of an operation on two operands of a type, wrapped when it is written (R85, R90). -/
def Op2.value (ty : Ty) (a b : DWord) : Op2 → DWord
  | .add => wrap (num ty a + num ty b)
  | .sub => wrap (num ty a - num ty b)
  | .mul => wrap (num ty a * num ty b)
  | .mulh => wrap (num ty a * num ty b / 2 ^ 32)
  | .and => a &&& b
  | .or => a ||| b
  | .xor => a ^^^ b
  | .min => if num ty a ≤ num ty b then a else b
  | .max => if num ty b ≤ num ty a then a else b

/-- Shifts and rotation (R90, R92). -/
inductive Sh where
  | shl | shr | sra | rot
  deriving DecidableEq, Repr

/-- A shift by `n` at the width of a type: floor division and multiplication by a power of two; the rotation is by n mod 32 (R90, R92). -/
def Sh.value (ty : Ty) (a : DWord) (n : Nat) : Sh → DWord
  | .shl => wrap (a.toNat * 2 ^ n)
  | .shr => wrap (a.toNat / 2 ^ n)
  | .sra => wrap (signedNum ty a / 2 ^ n)
  | .rot => ((a.extractLsb' 0 32).rotateLeft (n % 32)).setWidth 64

/-- What a scalar instruction writes (R85, R87, R88): guard, type of the destination, destination, value. -/
def scalarValue (g : Gang) : Instr → Option (Guard × Ty × Field10 × DWord)
  | .sadd gd ty d a b => some (gd, ty, d, Op2.add.value ty (readS g ty a) (readS g ty b))
  | .ssub gd ty d a b => some (gd, ty, d, Op2.sub.value ty (readS g ty a) (readS g ty b))
  | .smul gd ty d a b => some (gd, ty, d, Op2.mul.value ty (readS g ty a) (readS g ty b))
  | .smulh gd ty d a b => some (gd, ty, d, Op2.mulh.value ty (readS g ty a) (readS g ty b))
  | .sand gd ty d a b => some (gd, ty, d, Op2.and.value ty (readS g ty a) (readS g ty b))
  | .sor gd ty d a b => some (gd, ty, d, Op2.or.value ty (readS g ty a) (readS g ty b))
  | .sxor gd ty d a b => some (gd, ty, d, Op2.xor.value ty (readS g ty a) (readS g ty b))
  | .smin gd ty d a b => some (gd, ty, d, Op2.min.value ty (readS g ty a) (readS g ty b))
  | .smax gd ty d a b => some (gd, ty, d, Op2.max.value ty (readS g ty a) (readS g ty b))
  | .sshl gd ty d a b => some (gd, ty, d, Sh.shl.value ty (readS g ty a) ((getS g b.toNat).toNat % 256))
  | .sshr gd ty d a b => some (gd, ty, d, Sh.shr.value ty (readS g ty a) ((getS g b.toNat).toNat % 256))
  | .ssra gd ty d a b => some (gd, ty, d, Sh.sra.value ty (readS g ty a) ((getS g b.toNat).toNat % 256))
  | .smov gd ty d a => some (gd, ty, d, readS g ty a)
  | .scmp gd ty c d a b => some (gd, .i32, d, if condHolds c ty (readS g ty a) (readS g ty b) then 1 else 0)
  | .ssel gd ty d a b c => some (gd, ty, d, if getS g c.toNat = 0 then readS g ty b else readS g ty a)
  | .saddImm gd ty d a imm => some (gd, ty, d, Op2.add.value ty (readS g ty a) (immOf ty imm))
  | .ssubImm gd ty d a imm => some (gd, ty, d, Op2.sub.value ty (readS g ty a) (immOf ty imm))
  | .smulImm gd ty d a imm => some (gd, ty, d, Op2.mul.value ty (readS g ty a) (immOf ty imm))
  | .smulhImm gd ty d a imm => some (gd, ty, d, Op2.mulh.value ty (readS g ty a) (immOf ty imm))
  | .sandImm gd ty d a imm => some (gd, ty, d, Op2.and.value ty (readS g ty a) (immOf ty imm))
  | .sorImm gd ty d a imm => some (gd, ty, d, Op2.or.value ty (readS g ty a) (immOf ty imm))
  | .sxorImm gd ty d a imm => some (gd, ty, d, Op2.xor.value ty (readS g ty a) (immOf ty imm))
  | .sminImm gd ty d a imm => some (gd, ty, d, Op2.min.value ty (readS g ty a) (immOf ty imm))
  | .smaxImm gd ty d a imm => some (gd, ty, d, Op2.max.value ty (readS g ty a) (immOf ty imm))
  | .sshlImm gd ty d a imm => some (gd, ty, d, Sh.shl.value ty (readS g ty a) imm.toNat)
  | .sshrImm gd ty d a imm => some (gd, ty, d, Sh.shr.value ty (readS g ty a) imm.toNat)
  | .ssraImm gd ty d a imm => some (gd, ty, d, Sh.sra.value ty (readS g ty a) imm.toNat)
  | .scmpImm gd ty c d a imm => some (gd, .i32, d, if condHolds c ty (readS g ty a) (immOf ty imm) then 1 else 0)
  | .sliShort gd d imm => some (gd, .i32, d, imm.signExtend 64)
  | .sldArg gd ty d imm => some (gd, ty, d, BitVec.ofNat 64 (natLE ((g.params.drop imm.toNat).take (if ty = .b64 then 8 else 4))))
  | .sliLong gd d k => some (gd, .i32, d, k.setWidth 64)
  | .slih gd d k => some (gd, .b64, d, k)
  | _ => none

/-- What a vector integer instruction of two operands or one writes (R88, R90 to R93): guard, registers read in operand order, type of the
destination, destination, and value in each lane. -/
def laneValue (g : Gang) : Instr → Option (Guard × List Nat × Ty × Field10 × (Nat → DWord))
  | .iadd gd ty d a b => some (gd, vregs ty a ++ vregsB ty b, ty, d, fun l => Op2.add.value ty (readV g ty a l) (readB g ty b l))
  | .isub gd ty d a b => some (gd, vregs ty a ++ vregsB ty b, ty, d, fun l => Op2.sub.value ty (readV g ty a l) (readB g ty b l))
  | .imul gd ty d a b => some (gd, vregs ty a ++ vregsB ty b, ty, d, fun l => Op2.mul.value ty (readV g ty a l) (readB g ty b l))
  | .imulh gd ty d a b => some (gd, vregs ty a ++ vregsB ty b, ty, d, fun l => Op2.mulh.value ty (readV g ty a l) (readB g ty b l))
  | .imin gd ty d a b => some (gd, vregs ty a ++ vregsB ty b, ty, d, fun l => Op2.min.value ty (readV g ty a l) (readB g ty b l))
  | .imax gd ty d a b => some (gd, vregs ty a ++ vregsB ty b, ty, d, fun l => Op2.max.value ty (readV g ty a l) (readB g ty b l))
  | .iand gd ty d a b => some (gd, vregs ty a ++ vregsB ty b, ty, d, fun l => Op2.and.value ty (readV g ty a l) (readB g ty b l))
  | .ior gd ty d a b => some (gd, vregs ty a ++ vregsB ty b, ty, d, fun l => Op2.or.value ty (readV g ty a l) (readB g ty b l))
  | .ixor gd ty d a b => some (gd, vregs ty a ++ vregsB ty b, ty, d, fun l => Op2.xor.value ty (readV g ty a l) (readB g ty b l))
  | .ishl gd ty d a b => some (gd, vregs ty a ++ vregsB .i32 b, ty, d, fun l => Sh.shl.value ty (readV g ty a l) ((readB32 g b l).toNat % 256))
  | .ishr gd ty d a b => some (gd, vregs ty a ++ vregsB .i32 b, ty, d, fun l => Sh.shr.value ty (readV g ty a l) ((readB32 g b l).toNat % 256))
  | .isra gd ty d a b => some (gd, vregs ty a ++ vregsB .i32 b, ty, d, fun l => Sh.sra.value ty (readV g ty a l) ((readB32 g b l).toNat % 256))
  | .irot gd ty d a b => some (gd, vregs ty a ++ vregsB ty b, ty, d, fun l => Sh.rot.value ty (readV g ty a l) (readB32 g b l).toNat)
  | .isel gd ty d a b ps =>
      some (gd, vregs ty a ++ vregsB ty b, ty, d, fun l => if (getPred g ps).getLsbD l then readV g ty a l else readB g ty b l)
  | .iaddImm gd ty d a imm => some (gd, vregs ty a, ty, d, fun l => Op2.add.value ty (readV g ty a l) (immOf ty imm))
  | .isubImm gd ty d a imm => some (gd, vregs ty a, ty, d, fun l => Op2.sub.value ty (readV g ty a l) (immOf ty imm))
  | .imulImm gd ty d a imm => some (gd, vregs ty a, ty, d, fun l => Op2.mul.value ty (readV g ty a l) (immOf ty imm))
  | .imulhImm gd ty d a imm => some (gd, vregs ty a, ty, d, fun l => Op2.mulh.value ty (readV g ty a l) (immOf ty imm))
  | .iminImm gd ty d a imm => some (gd, vregs ty a, ty, d, fun l => Op2.min.value ty (readV g ty a l) (immOf ty imm))
  | .imaxImm gd ty d a imm => some (gd, vregs ty a, ty, d, fun l => Op2.max.value ty (readV g ty a l) (immOf ty imm))
  | .iandImm gd ty d a imm => some (gd, vregs ty a, ty, d, fun l => Op2.and.value ty (readV g ty a l) (immOf ty imm))
  | .iorImm gd ty d a imm => some (gd, vregs ty a, ty, d, fun l => Op2.or.value ty (readV g ty a l) (immOf ty imm))
  | .ixorImm gd ty d a imm => some (gd, vregs ty a, ty, d, fun l => Op2.xor.value ty (readV g ty a l) (immOf ty imm))
  | .ishlImm gd ty d a imm => some (gd, vregs ty a, ty, d, fun l => Sh.shl.value ty (readV g ty a l) imm.toNat)
  | .ishrImm gd ty d a imm => some (gd, vregs ty a, ty, d, fun l => Sh.shr.value ty (readV g ty a l) imm.toNat)
  | .israImm gd ty d a imm => some (gd, vregs ty a, ty, d, fun l => Sh.sra.value ty (readV g ty a l) imm.toNat)
  | .irotImm gd ty d a imm => some (gd, vregs ty a, ty, d, fun l => Sh.rot.value ty (readV g ty a l) imm.toNat)
  | .iabs gd ty d b => some (gd, vregsB ty b, ty, d, fun l => wrap |signedNum .s32 (readB g ty b l)|)
  | .ineg gd ty d b => some (gd, vregsB ty b, ty, d, fun l => wrap (-(num ty (readB g ty b l))))
  | .inot gd ty d b => some (gd, vregsB ty b, ty, d, fun l => ~~~(readB g ty b l))
  | .ipopc gd ty d b =>
      some (gd, vregsB ty b, ty, d, fun l => BitVec.ofNat 64 ((List.range 32).countP (fun i => (readB32 g b l).getLsbD i)))
  | .iclz gd ty d b =>
      some (gd, vregsB ty b, ty, d, fun l =>
        BitVec.ofNat 64 ((List.range 32).takeWhile (fun i => !(readB32 g b l).getLsbD (31 - i))).length)
  | .ibrev gd ty d b => some (gd, vregsB ty b, ty, d, fun l => (readB32 g b l).reverse.setWidth 64)
  | .imov gd ty d b => some (gd, vregsB ty b, ty, d, fun l => readB g ty b l)
  | .iliLong gd d k => some (gd, [], .i32, d, fun _ => k.setWidth 64)
  | .iliB64 gd d k => some (gd, [], .b64, d, fun _ => k)
  | .iliShort gd d imm => some (gd, [], .i32, d, fun _ => imm.signExtend 64)
  | _ => none

/-- Byte `i` of a register as a number of type `.s8` or `.z8` (R40). -/
def byteNum (ty : Ty) (x : Word) (i : Nat) : Int :=
  if ty = .s8 then (x.extractLsb' (8 * i) 8).toInt else (x.extractLsb' (8 * i) 8).toNat

/-- Position or length operand of R95. -/
def upTo32 (x : Word) : Nat := min (x.toNat % 256) 32

/-- The field of `ibfx` (R95): `n` bits at `p`, where the source reads as 0 or as its sign above bit 31, extended by type. -/
def fieldValue (ty : Ty) (a : Word) (p n : Nat) : Int :=
  let f := num ty (a.setWidth 64) / 2 ^ p % 2 ^ n
  if ty = .s32 ∧ 0 < n ∧ 2 ^ (n - 1) ≤ f then f - 2 ^ n else f

/-- Bit `i` of the result of `ibfi` (R95). -/
def insertBit (old a : Word) (p n i : Nat) : Bool := if p ≤ i ∧ i < p + n then a.getLsbD (i - p) else old.getLsbD i

/-- What an instruction of three sources writes (R95): guard, sources, destination, and value in each lane, as the exact number that is
wrapped. -/
def triValue (g : Gang) : Instr → Option (Guard × List Nat × Field10 × (Nat → DWord))
  | .imad gd ty d a b c =>
      some (gd, [a.toNat, b.toNat, c.toNat], d, fun l =>
        wrap (num ty ((getV g a.toNat l).setWidth 64) * num ty ((getV g b.toNat l).setWidth 64) + num ty ((getV g c.toNat l).setWidth 64)))
  | .ibfx gd ty d a b c =>
      some (gd, [a.toNat, b.toNat, c.toNat], d, fun l =>
        wrap (fieldValue ty (getV g a.toNat l) (upTo32 (getV g b.toNat l)) (upTo32 (getV g c.toNat l))))
  | .ibfi gd _ d a b c =>
      some (gd, [d.toNat, a.toNat, b.toNat, c.toNat], d, fun l =>
        maskWhere fun i => decide (i < 32) &&
          insertBit (getV g d.toNat l) (getV g a.toNat l) (upTo32 (getV g b.toNat l)) (upTo32 (getV g c.toNat l)) i)
  | .idp4 gd ty d a b c =>
      some (gd, [a.toNat, b.toNat, c.toNat], d, fun l =>
        wrap ((getV g c.toNat l).toNat +
          ((List.range 4).map fun i => byteNum ty (getV g a.toNat l) i * byteNum ty (getV g b.toNat l) i).sum))
  | _ => none

end Sys2Proof.Claim

open Sys2Proof Sys2Proof.Machine Sys2Proof.Claim

/-- R85, R87, R88: a scalar instruction whose guard holds in an active lane writes its result once, into its uniform destination, and
changes nothing else but the place of its path; one whose guard holds in none only goes past (R22, R24). -/
def Obligations.ScalarResult : Prop :=
  ∀ (i : Instr) (s : State) (gi : Nat) (g : Gang) (p : Path) (gd : Guard) (ty : Ty) (d : Field10) (x : DWord),
    scalarValue g i = some (gd, ty, d, x) → Issues s i gi g p [] → spOk 0 g.s = true →
    ∃ g', exec i s = .next (pastInstr s gi p (instrBytes i) g') ∧ if guardLanes g p gd = 0 then g' = g else WroteS g g' ty d x

/-- R88, R90 to R93, R95: a vector integer instruction writes its result in exactly the lanes whose guard is true, and changes nothing else but
the place of its path (R23, R24). -/
def Obligations.LaneResult : Prop :=
  ∀ (i : Instr) (s : State) (gi : Nat) (g : Gang) (p : Path) (gd : Guard) (rd : List Nat) (ty : Ty) (d : Field10) (x : Nat → DWord),
    laneValue g i = some (gd, rd, ty, d, x) ∨ (ty = .i32 ∧ triValue g i = some (gd, rd, d, x)) → Issues s i gi g p (rd ++ vregs ty d) → spOk 0 g.v = true →
    Unpoisoned g (guardLanes g p gd) rd →
    ∃ g', exec i s = .next (pastInstr s gi p (instrBytes i) g') ∧ WroteV g g' ty d (guardLanes g p gd) x

/-- R90, R47: `iadds` writes the clamped sum and raises SAT exactly when some lane clamped; flags already set stay (R32). -/
def Obligations.SaturatingAdd : Prop :=
  ∀ (gd : Guard) (ty : Ty) (d a : Field10) (b : Src) (imm : Imm20) (s : State) (gi : Nat) (g : Gang) (p : Path), spOk 0 g.v = true →
    let m := guardLanes g p gd
    let done (i : Instr) (y : Nat → DWord) : Prop :=
      ∃ g', exec i s = .next (pastInstr s gi p 8 { g' with
          fpstat := g.fpstat ||| if (lanesOf m).any (fun l => (clampedSum ty (readV g ty a l) (y l)).2) then 0x20 else 0 }) ∧
        WroteV g g' ty d m (fun l => wrap (clampedSum ty (readV g ty a l) (y l)).1)
    (Issues s (.iadds gd ty d a b) gi g p (vregs ty a ++ vregsB ty b ++ vregs ty d) → Unpoisoned g m (vregs ty a ++ vregsB ty b) →
      done (.iadds gd ty d a b) (readB g ty b)) ∧
    (Issues s (.iaddsImm gd ty d a imm) gi g p (vregs ty a ++ vregs ty d) → Unpoisoned g m (vregs ty a) →
      done (.iaddsImm gd ty d a imm) (fun _ => immOf ty imm))

/-- R93, R94: `icmp` sets p(PD) to the condition and p(PS) in the lanes whose guard is true. `iaddc` and `isubb` write the sum or difference
with p(PS) as carry or borrow in, 1 for p0, and the carry or borrow out into p(PD); they are the minor codes 0 and 1 of major 0x23, of type `.i32`, which `.b32` stands for too, or `.z32`. Nothing else changes but the place of the path. -/
def Obligations.PredicateResult : Prop :=
  ∀ (gd : Guard) (ty : Ty) (c : Cond) (d a : Field10) (b : Src) (pd ps : BitVec 4) (s : State) (gi : Nat) (g : Gang) (p : Path),
    spOk 0 g.v = true → spOk 0 g.p = true →
    let m := guardLanes g p gd
    let cin (l : Nat) : Int := if (getPred g ps).getLsbD l then 1 else 0
    let sum (l : Nat) : Int := (getV g a.toNat l).toNat + (readB32 g b l).toNat + cin l
    let dif (l : Nat) : Int := (getV g a.toNat l).toNat - (readB32 g b l).toNat - cin l
    (((Instr.iaddc gd ty d a b pd ps).wf = true ∨ (Instr.isubb gd ty d a b pd ps).wf = true) → ty = .i32 ∨ ty = .b32 ∨ ty = .z32) ∧
    (encodeFields (.iaddc gd ty d a b pd ps)).map (fun f => (f.1.maj, f.1.mn)) = some (0x23, 0) ∧
    (encodeFields (.isubb gd ty d a b pd ps)).map (fun f => (f.1.maj, f.1.mn)) = some (0x23, 1) ∧
    (ps = 0 → ∀ l, l < 64 → cin l = 1) ∧
    (Issues s (.icmp gd ty c a b pd ps) gi g p (vregs ty a ++ vregsB ty b) → Unpoisoned g m (vregs ty a ++ vregsB ty b) →
      ∃ g', exec (.icmp gd ty c a b pd ps) s = .next (pastInstr s gi p 8 g') ∧
        WroteP g g' pd m (fun l => condHolds c ty (readV g ty a l) (readB g ty b l) && (getPred g ps).getLsbD l)) ∧
    (Issues s (.iaddc gd ty d a b pd ps) gi g p (a.toNat :: vregsB .i32 b ++ [d.toNat]) → Unpoisoned g m (a.toNat :: vregsB .i32 b) →
      ∃ g1 g2, exec (.iaddc gd ty d a b pd ps) s = .next (pastInstr s gi p 8 g2) ∧
        WroteV g g1 .i32 d m (fun l => wrap (sum l)) ∧ WroteP g1 g2 pd m (fun l => decide (2 ^ 32 ≤ sum l))) ∧
    (Issues s (.isubb gd ty d a b pd ps) gi g p (a.toNat :: vregsB .i32 b ++ [d.toNat]) → Unpoisoned g m (a.toNat :: vregsB .i32 b) →
      ∃ g1 g2, exec (.isubb gd ty d a b pd ps) s = .next (pastInstr s gi p 8 g2) ∧
        WroteV g g1 .i32 d m (fun l => wrap (dif l)) ∧ WroteP g1 g2 pd m (fun l => decide (dif l < 0)))

/-- Lane `l` of the wide sum of `iaddw` (R96): the sum over its group of 2^gw lanes, an absent lane counting zero. -/
def Sys2Proof.Claim.wideSum (gw : Nat) (present : LaneMask) (x y : Nat → Word) (l : Nat) : Nat :=
  let n := 2 ^ gw
  ((List.range n).map fun i =>
    let k := l / n * n + i
    if present.getLsbD k then ((x k).toNat + (y k).toNat) * 2 ^ (32 * i) else 0).sum

/-- R96, R97: `iaddw` in a gang whose groups are whole, or with XLMISS disabled: the word of the wide sum in each lane, the carry out of
the group into p(PD), and XLCTL.MISS when a named lane is absent; with XLMISS enabled an absent named lane raises it, with those lanes and TINFO 0x102. -/
def Obligations.WideAddResult : Prop :=
  ∀ (gd : Guard) (ty : Ty) (gw : BitVec 4) (d a : Field10) (b : Src) (pd : BitVec 4) (s : State) (gi : Nat) (g : Gang) (p : Path),
    Issues s (.iaddw gd ty gw d a b pd) gi g p (a.toNat :: vregsB .i32 b ++ [d.toNat]) → spOk 0 g.v = true → spOk 0 g.p = true →
    Unpoisoned g (guardLanes g p gd) (a.toNat :: vregsB .i32 b) →
    let m := guardLanes g p gd
    let n := 2 ^ gw.toNat
    let missing := (List.range 64).any fun l =>
      decide (l < g.kd.gangw) && !m.getLsbD l && (lanesOf m).any (fun k => k / n == l / n)
    let sum := wideSum gw.toNat m (fun k => getV g a.toNat k) (fun k => readB32 g b k)
    (missing = true → g.xlctl.getLsbD 1 = true →
      ∃ lanes : LaneMask, exec (.iaddw gd ty gw d a b pd) s = .next (s.trap gi g p ⟨0x07, p.pc, 0, lanes, 0x102⟩) ∧
        ∀ l, l < 64 → lanes.getLsbD l = (decide (l < g.kd.gangw) && !m.getLsbD l && (lanesOf m).any (fun k => k / n == l / n))) ∧
    ((missing = true → g.xlctl.getLsbD 1 = false) →
    ∃ g1 g2, exec (.iaddw gd ty gw d a b pd) s = .next (pastInstr s gi p 8 { g2 with xlctl := g.xlctl ||| if missing then 1 else 0 }) ∧
      WroteV g g1 .i32 d m (fun l => BitVec.ofNat 64 (sum l / 2 ^ (32 * (l % n)))) ∧
      WroteP g1 g2 pd m (fun l => decide (2 ^ (32 * n) ≤ sum l)))

namespace Sys2Proof.Claim

/-- What a floating-point or conversion instruction computes in each lane (R98, R99, R102, R103, R154): guard, registers read, destination,
and result with its FPSTAT flags. -/
def floatValue (g : Gang) : Instr → Option (Guard × List Nat × Field10 × (Nat → Word × FFlags))
  | .fadd gd ty rm d a b =>
      some (gd, a.toNat :: vregsB .i32 b, d, fun l => perElem ty (fpAdd (selMode g rm) (ftzOn g) false) (getV g a.toNat l) (readB32 g b l) 0)
  | .fsub gd ty rm d a b =>
      some (gd, a.toNat :: vregsB .i32 b, d, fun l => perElem ty (fpAdd (selMode g rm) (ftzOn g) true) (getV g a.toNat l) (readB32 g b l) 0)
  | .fmul gd ty rm d a b =>
      some (gd, a.toNat :: vregsB .i32 b, d, fun l => perElem ty (fpMul (selMode g rm) (ftzOn g)) (getV g a.toNat l) (readB32 g b l) 0)
  | .fmin gd ty d a b =>
      some (gd, a.toNat :: vregsB .i32 b, d, fun l =>
        perElem ty (fun F u v _ => minMaxF F false (ftzOn g) u v) (getV g a.toNat l) (readB32 g b l) 0)
  | .fmax gd ty d a b =>
      some (gd, a.toNat :: vregsB .i32 b, d, fun l =>
        perElem ty (fun F u v _ => minMaxF F true (ftzOn g) u v) (getV g a.toNat l) (readB32 g b l) 0)
  | .fscale gd rm d a b => some (gd, a.toNat :: vregsB .i32 b, d, fun l => fpScale (selMode g rm) (ftzOn g) (getV g a.toNat l) (readB32 g b l))
  | .fabs gd ty d b => some (gd, vregsB .i32 b, d, fun l => perElem ty (fpSign (ftzOn g) false) (readB32 g b l) 0 0)
  | .fneg gd ty d b => some (gd, vregsB .i32 b, d, fun l => perElem ty (fpSign (ftzOn g) true) (readB32 g b l) 0 0)
  | .frnd gd rm d b => some (gd, vregsB .i32 b, d, fun l => fpRoundInt (selMode g rm) (ftzOn g) (readB32 g b l))
  | .fgetexp gd d b => some (gd, vregsB .i32 b, d, fun l => fpGetExp (ftzOn g) (readB32 g b l))
  | .fma gd ty rm d a b c =>
      some (gd, [a.toNat, b.toNat, c.toNat], d, fun l =>
        perElem ty (fpFma (selMode g rm) (ftzOn g)) (getV g a.toNat l) (getV g b.toNat l) (getV g c.toNat l))
  | .fdot2 gd ty rm d a b c =>
      some (gd, [a.toNat, b.toNat, c.toNat], d, fun l =>
        fpDot (selMode g rm) (ftzOn g) (fmtOf ty) 2 (getV g a.toNat l) (getV g b.toNat l) (getV g c.toNat l))
  | .fdot4 gd ty rm d a b c =>
      some (gd, [a.toNat, b.toNat, c.toNat], d, fun l =>
        fpDot (selMode g rm) (ftzOn g) (fmtOf ty) 4 (getV g a.toNat l) (getV g b.toNat l) (getV g c.toNat l))
  | .cvt gd ty ts rm d b => some (gd, vregsB .i32 b, d, fun l => cvtVal g ty ts rm (readB32 g b l))
  | .cvtq gd ty _ rm d a b => some (gd, a.toNat :: vregsB .i32 b, d, fun l => cvtqVal g ty rm (getV g a.toNat l) (readB32 g b l))
  | .cvtdq gd _ ts rm d a b => some (gd, a.toNat :: vregsB .i32 b, d, fun l => cvtdqVal g ts rm (getV g a.toNat l) (readB32 g b l))
  | .fexp2 gd d a => some (gd, [a.toNat], d, fun l => specialVal sfExp2 (ftzOn g) (getV g a.toNat l))
  | .flog2 gd d a => some (gd, [a.toNat], d, fun l => specialVal sfLog2 (ftzOn g) (getV g a.toNat l))
  | .frcp gd d a => some (gd, [a.toNat], d, fun l => specialVal sfRcp (ftzOn g) (getV g a.toNat l))
  | .frsqrt gd d a => some (gd, [a.toNat], d, fun l => specialVal sfRsqrt (ftzOn g) (getV g a.toNat l))
  | .fsqrt gd d a => some (gd, [a.toNat], d, fun l => specialVal sfSqrt (ftzOn g) (getV g a.toNat l))
  | .fsin gd d a => some (gd, [a.toNat], d, fun l => specialVal sfSin (ftzOn g) (getV g a.toNat l))
  | .fcos gd d a => some (gd, [a.toNat], d, fun l => specialVal sfCos (ftzOn g) (getV g a.toNat l))
  | .ftanh gd d a => some (gd, [a.toNat], d, fun l => specialVal sfTanh (ftzOn g) (getV g a.toNat l))
  | .fsigm gd d a => some (gd, [a.toNat], d, fun l => specialVal sfSigm (ftzOn g) (getV g a.toNat l))
  | .ferf gd d a => some (gd, [a.toNat], d, fun l => specialVal sfErf (ftzOn g) (getV g a.toNat l))
  | _ => none

/-- `fl` holds exactly the flags that some lane of `m` raised. -/
def FlagsOf (m : LaneMask) (f : Nat → FFlags) (fl : FFlags) : Prop :=
  ∀ k, k < 7 → (fl.getLsbD k = true ↔ ∃ l, l < 64 ∧ m.getLsbD l = true ∧ (f l).getLsbD k = true)

/-- The gang with flags ORed into FPSTAT (R32). -/
def withFlags (g : Gang) (fl : FFlags) : Gang := { g with fpstat := g.fpstat ||| fl.setWidth 32 }


end Sys2Proof.Claim

namespace Sys2Proof.Claim

/-- The rational that a finite value stands for (R9, R42). -/
def ratOf (neg : Bool) (m : Nat) (e : Int) : ℚ := (if neg then -1 else 1) * m * (2 : ℚ) ^ e

/-- Strict order of two values that are not NaN. -/
def ltX : XReal → XReal → Prop
  | .fin s m e, .fin t n f => ratOf s m e < ratOf t n f
  | .inf s, .inf t => s = true ∧ t = false
  | .inf s, .fin .. => s = true
  | .fin .., .inf t => t = false
  | _, _ => False

/-- Equality of two values that are not NaN; the two zeros are equal. -/
def eqX : XReal → XReal → Prop
  | .fin s m e, .fin t n f => ratOf s m e = ratOf t n f
  | .inf s, .inf t => s = t
  | _, _ => False

/-- A float condition (R61, R100): `un` holds when a source is NaN, and of the others only `ne` does then. -/
def condX (c : Cond) (x y : XReal) : Prop :=
  let nan : Prop := x = .nan ∨ y = .nan
  match c with
  | .eq => eqX x y
  | .ne => ¬ eqX x y
  | .lt => ltX x y
  | .le => ltX x y ∨ eqX x y
  | .gt => ltX y x
  | .ge => ltX y x ∨ eqX x y
  | .un => nan
  | .or => ¬ nan

/-- The F32 value of a register, with FTZ applied (R48, R50). -/
def f32 (g : Gang) (x : Word) : XReal := (decodeF fmtF32 (ftzOn g) x.toNat).1

/-- The code of a signalling NaN in F32: exponent all ones, quiet bit clear, fraction not zero (R44). -/
def sNaN (x : Word) : Bool := x.extractLsb' 23 8 == 0xFF#8 && !x.getLsbD 22 && x.extractLsb' 0 23 != 0#23
def isNaN (x : Word) : Bool := x.extractLsb' 23 8 == 0xFF#8 && x.extractLsb' 0 23 != 0#23

/-- The bit of a class in the code of `fclass` (R101). -/
def classBit (ftz : Bool) (a : Word) : Nat :=
  let neg := a.getLsbD 31
  let ex := (a.extractLsb' 23 8).toNat
  let fr := (a.extractLsb' 0 23).toNat
  if ex = 255 then (if fr = 0 then (if neg then 2 else 9) else if a.getLsbD 22 then 1 else 0)
  else if ex = 0 then (if fr = 0 ∨ ftz = true then (if neg then 5 else 6) else if neg then 4 else 7)
  else if neg then 3 else 8

/-- One row of R158: function, source code, result code and flags. -/
def specialPoints : List (Nat × Word × Word × FFlags) :=
  [(0, 0xFF800000, 0x00000000, 0), (0, 0x80000000, 0x3F800000, 0), (0, 0x00000000, 0x3F800000, 0), (0, 0x7F800000, 0x7F800000, 0)] ++
  [(1, 0xFF800000, 0x7FC00000, 1), (1, 0x80000000, 0xFF800000, 2), (1, 0x00000000, 0xFF800000, 2), (1, 0x7F800000, 0x7F800000, 0)] ++
  [(2, 0xFF800000, 0x80000000, 0), (2, 0x80000000, 0xFF800000, 2), (2, 0x00000000, 0x7F800000, 2), (2, 0x7F800000, 0x00000000, 0)] ++
  [(3, 0xFF800000, 0x7FC00000, 1), (3, 0x80000000, 0xFF800000, 2), (3, 0x00000000, 0x7F800000, 2), (3, 0x7F800000, 0x00000000, 0)] ++
  [(4, 0xFF800000, 0x7FC00000, 1), (4, 0x80000000, 0x80000000, 0), (4, 0x00000000, 0x00000000, 0), (4, 0x7F800000, 0x7F800000, 0)] ++
  [(5, 0xFF800000, 0x7FC00000, 1), (5, 0x80000000, 0x80000000, 0), (5, 0x00000000, 0x00000000, 0), (5, 0x7F800000, 0x7FC00000, 1)] ++
  [(6, 0xFF800000, 0x7FC00000, 1), (6, 0x80000000, 0x3F800000, 0), (6, 0x00000000, 0x3F800000, 0), (6, 0x7F800000, 0x7FC00000, 1)] ++
  [(7, 0xFF800000, 0xBF800000, 0), (7, 0x80000000, 0x80000000, 0), (7, 0x00000000, 0x00000000, 0), (7, 0x7F800000, 0x3F800000, 0)] ++
  [(8, 0xFF800000, 0x00000000, 0), (8, 0x80000000, 0x3F000000, 0), (8, 0x00000000, 0x3F000000, 0), (8, 0x7F800000, 0x3F800000, 0)] ++
  [(9, 0xFF800000, 0xBF800000, 0), (9, 0x80000000, 0x80000000, 0), (9, 0x00000000, 0x00000000, 0), (9, 0x7F800000, 0x3F800000, 0)]

end Sys2Proof.Claim

/-- R98, R99, R102, R103, R154: a floating-point or conversion instruction writes its result in exactly the lanes whose guard is true, ORs
into FPSTAT exactly the flags that those lanes raise, and changes nothing else but the place of its path (R23, R32). -/
def Obligations.FloatResult : Prop :=
  ∀ (i : Instr) (s : State) (gi : Nat) (g : Gang) (p : Path) (gd : Guard) (rd : List Nat) (d : Field10) (x : Nat → Word × FFlags),
    floatValue g i = some (gd, rd, d, x) → Issues s i gi g p (rd ++ [d.toNat]) → spOk 0 g.v = true →
    Unpoisoned g (guardLanes g p gd) rd →
    ∃ g' fl, exec i s = .next (pastInstr s gi p 8 (withFlags g' fl)) ∧ FlagsOf (guardLanes g p gd) (fun l => (x l).2) fl ∧
      WroteV g g' .f32 d (guardLanes g p gd) (fun l => ((x l).1).setWidth 64)

/-- R100, R101: `fcmp` sets p(PD) to the condition on the two F32 values and p(PS), and NV in a lane with a signalling NaN, or with any NaN
under an ordered condition. `fclass` writes the one-hot class code, sets p(PD) where it meets the mask, and sets no flag. -/
def Obligations.FloatPredicate : Prop :=
  ∀ (gd : Guard) (c : Cond) (d a : Field10) (b : Src) (pd ps : BitVec 4) (s : State) (gi : Nat) (g : Gang) (p : Path) (r : Nat → Bool),
    let m := guardLanes g p gd
    let invalid (l : Nat) : Bool := sNaN (getV g a.toNat l) || sNaN (readB32 g b l) ||
      ((c == .lt || c == .le || c == .gt || c == .ge) && (isNaN (getV g a.toNat l) || isNaN (readB32 g b l)))
    let k (l : Nat) : Nat := classBit (ftzOn g) (getV g a.toNat l)
    spOk 0 g.v = true → spOk 0 g.p = true → Unpoisoned g m (a.toNat :: vregsB .i32 b) →
    (Issues s (.fcmp gd c a b pd ps) gi g p (a.toNat :: vregsB .i32 b) →
      (∀ l, r l = true ↔ condX c (f32 g (getV g a.toNat l)) (f32 g (readB32 g b l)) ∧ (getPred g ps).getLsbD l = true) →
      ∃ g', exec (.fcmp gd c a b pd ps) s = .next (pastInstr s gi p 8 (withFlags g' (if (lanesOf m).any invalid then 1 else 0))) ∧
        WroteP g g' pd m r) ∧
    (Issues s (.fclass gd d a b pd) gi g p (a.toNat :: vregsB .i32 b ++ [d.toNat]) →
      ∃ g1 g2, exec (.fclass gd d a b pd) s = .next (pastInstr s gi p 8 g2) ∧
        WroteV g g1 .f32 d m (fun l => BitVec.ofNat 64 (2 ^ k l)) ∧ WroteP g1 g2 pd m (fun l => (readB32 g b l).getLsbD (k l)))

namespace Sys2Proof.Claim

/-- A format of R41 and R42 as numbers: fraction bits, exponent of the smallest normal, codes of the largest finite magnitude, of +∞, of the canonical NaN and of the sign bit, the
largest finite value, and the value one step above it. -/
structure Lim where
  F : Fmt
  fb : Nat
  emin : Int
  maxCode : Nat
  infCode : Nat
  nanCode : Nat
  sign : Nat
  max : ℚ
  next : ℚ

/-- The five formats (R41 to R44). The 8-bit formats have no infinity. -/
def limits : List Lim :=
  [⟨fmtF32, 23, -126, 0x7F7FFFFF, 0x7F800000, 0x7FC00000, 0x80000000, (2 - (2 : ℚ) ^ (-23 : ℤ)) * 2 ^ 127, 2 ^ 128⟩,
   ⟨fmtF16, 10, -14, 0x7BFF, 0x7C00, 0x7E00, 0x8000, 65504, 65536⟩, ⟨fmtBF16, 7, -126, 0x7F7F, 0x7F80, 0x7FC0, 0x8000, (2 - (2 : ℚ) ^ (-7 : ℤ)) * 2 ^ 127, 2 ^ 128⟩,
   ⟨fmtF8A, 3, -7, 0x7F, 0, 0x80, 0x80, 240, 256⟩, ⟨fmtF8B, 2, -15, 0x7F, 0, 0x80, 0x80, 57344, 65536⟩]

/-- Code `c` of F is finite and stands for `u`. -/
def Codes (F : Fmt) (c : Nat) (u : ℚ) : Prop := ∃ s m e, (decodeF F false c).1 = .fin s m e ∧ u = ratOf s m e

/-- `w` is what `v` rounds to among the finite codes of F (R49): `c` is its code. No finite value lies beyond `w` on the side of `v`; to nearest, a tie has an even code;
to odd, an inexact result has an odd one. -/
def Rounded (F : Fmt) (mode : RMode) (v w : ℚ) (c : Nat) : Prop :=
  let down : Prop := w ≤ v ∧ ∀ k u, Codes F k u → u ≤ v → u ≤ w
  let up : Prop := v ≤ w ∧ ∀ k u, Codes F k u → v ≤ u → w ≤ u
  match mode with
  | .rd => down
  | .ru => up
  | .rz => if 0 ≤ v then down else up
  | .ro => (down ∨ up) ∧ (w = v ∨ c % 2 = 1)
  | .rne => ∀ k u, Codes F k u → |w - v| ≤ |u - v| ∧ (u ≠ w → |u - v| = |w - v| → c % 2 = 0)

/-- The magnitude `a`, between the neighbours `lo` and `hi`, rounds to `hi`, or lies at or above it; `lo` has an odd code (R49). -/
def roundsUpTo (mode : RMode) (neg : Bool) (lo hi a : ℚ) : Prop :=
  match mode with
  | .rne => (lo + hi) / 2 ≤ a
  | .rz | .ro => hi ≤ a
  | .rd => if neg = true then lo < a else hi ≤ a
  | .ru => if neg = true then hi ≤ a else lo < a

/-- The integer that `v` rounds to (RoundInt of R50). -/
def RoundedInt (mode : RMode) (v : ℚ) (w : Int) : Prop :=
  match mode with
  | .rd => w = ⌊v⌋
  | .ru => w = ⌈v⌉
  | .rz => w = if 0 ≤ v then ⌊v⌋ else ⌈v⌉
  | .ro => (w = ⌊v⌋ ∨ w = ⌈v⌉) ∧ (w = v ∨ w % 2 = 1)
  | .rne => |w - v| ≤ 1 / 2 ∧ (|w - v| = 1 / 2 → w % 2 = 0)

/-- A signalling NaN of an IEEE format: exponent all ones, fraction not zero, its top bit clear (R44). -/
def sNaNOf (F : Fmt) (c : Nat) : Bool :=
  F.ieee && c / 2 ^ F.fb % 2 ^ F.eb == 2 ^ F.eb - 1 && c % 2 ^ F.fb != 0 && !c.testBit (F.fb - 1)

/-- The flags of the sources of an operation: NV where one of them is a signalling NaN. -/
def sigFlag (F : Fmt) (cs : List Nat) : FFlags := if cs.any (sNaNOf F) then 1 else 0

/-- `r` is `Round` of a finite value `v` whose sign, where it is zero, is `neg`, with no further flag. -/
def RoundOf (F : Fmt) (mode : RMode) (ftz : Bool) (v : ℚ) (neg : Bool) (r : Nat × FFlags) : Prop :=
  ∃ s m e, r = roundF F mode ftz (.fin s m e) ∧ ratOf s m e = v ∧ (v = 0 → s = neg)

/-- The sign of a sum that is zero (R55): that of its terms where all are zeros of one sign, else − under RD and + under the others. -/
def zeroSign (mode : RMode) (ts : List (Bool × ℚ)) : Bool :=
  if (∀ t ∈ ts, t.2 = 0) ∧ (∀ t ∈ ts, t.1 = true) then true
  else if (∀ t ∈ ts, t.2 = 0) ∧ (∀ t ∈ ts, t.1 = false) then false
  else mode == .rd

/-- Finite source: sign and value. -/
def FinOf (F : Fmt) (ftz : Bool) (c : Nat) (t : Bool × ℚ) : Prop := ∃ m e, (decodeF F ftz c).1 = .fin t.1 m e ∧ t.2 = ratOf t.1 m e

/-- An integer code of n bits read as signed or unsigned, and the range of its type (R50). -/
def intVal (sg : Bool) (n code : Nat) : Int := if sg then (BitVec.ofNat n code).toInt else (BitVec.ofNat n code).toNat
def loOf (sg : Bool) (n : Nat) : Int := if sg then -2 ^ (n - 1) else 0
def hiOf (sg : Bool) (n : Nat) : Int := if sg then 2 ^ (n - 1) - 1 else 2 ^ n - 1

/-- The code of an integer clamped to a type. -/
def clampCode (sg : Bool) (n : Nat) (v : Int) : Nat := (BitVec.ofInt n (max (loOf sg n) (min (hiOf sg n) v))).toNat

/-- The integer types of R51. -/
def intTypes : List (Bool × Nat) := [(true, 32), (false, 32), (true, 16), (false, 16), (true, 8), (false, 8), (true, 4), (false, 4)]

/-- What every code of a format stands for (R41, R43, R44), FTZ reading a subnormal of an IEEE format as a zero of its sign (R48). -/
def DecodesBy (L : Lim) : Prop := ∀ (ftz : Bool) (c : Nat),
  let ex := c / 2 ^ L.fb % 2 ^ L.F.eb
  let fr := c % 2 ^ L.fb
  let d := decodeF L.F ftz c
  let neg := c.testBit (L.F.eb + L.fb)
  d.2 = (if sNaNOf L.F c = true then 1 else 0) ∧
  (if L.F.ieee = true ∧ ex = 2 ^ L.F.eb - 1 then d.1 = (if fr = 0 then .inf neg else .nan)
   else if L.F.ieee = false ∧ c % 256 = 0x80 then d.1 = .nan
   else ∃ m e, d.1 = .fin neg m e ∧ ratOf neg m e = (if neg then -1 else 1) *
     (if ex ≠ 0 then (2 : ℚ) ^ ((ex : ℤ) - L.F.bias) * (1 + fr / 2 ^ L.fb) else if ftz = true ∧ L.F.ieee = true then 0 else (2 : ℚ) ^ L.emin * ((fr : ℚ) / 2 ^ L.fb)))

/-- `Round` and `Overflow` (R49) of every value, with the flags of R47 and FTZ (R48). -/
def RoundsBy (L : Lim) (mode : RMode) : Prop :=
  (∀ ftz, roundF L.F mode ftz .nan = (L.nanCode, 0)) ∧
  (∀ ftz neg, roundF L.F mode ftz (.inf neg) = ((if neg = true then L.sign else 0) + (if L.F.ieee = true then L.infCode else L.maxCode), if L.F.ieee = true then 0 else 0x30)) ∧
  (∀ ftz neg e, roundF L.F mode ftz (.fin neg 0 e) = (if neg = true ∧ L.F.ieee = true then L.sign else 0, 0)) ∧
  ∀ neg m e, m ≠ 0 →
    let v := ratOf neg m e
    let r := roundF L.F mode false (.fin neg m e)
    let sgn := if neg = true then L.sign else 0
    (roundsUpTo mode neg L.max L.next |v| → r = (sgn +
        (if L.F.ieee = true ∧ (mode = .rne ∨ (mode = .ru ∧ neg = false) ∨ (mode = .rd ∧ neg = true)) then L.infCode else L.maxCode), if L.F.ieee = true then 0x14 else 0x30)) ∧
    (¬ roundsUpTo mode neg L.max L.next |v| → ∃ w, Codes L.F r.1 w ∧ Rounded L.F mode v w r.1 ∧
      (L.sign ≤ r.1 ↔ neg = true ∧ (L.F.ieee = true ∨ w ≠ 0)) ∧
      (r.2.getLsbD 4 = true ↔ w ≠ v) ∧
      (r.2.getLsbD 3 = true ↔ w ≠ v ∧ w ≠ 0 ∧ ¬ roundsUpTo mode neg ((2 : ℚ) ^ L.emin - (2 : ℚ) ^ (L.emin - 1 - L.fb)) ((2 : ℚ) ^ L.emin) |v|) ∧ r.2 &&& 0x67 = 0 ∧
      roundF L.F mode true (.fin neg m e) = if L.F.ieee = true ∧ w ≠ 0 ∧ |w| < (2 : ℚ) ^ L.emin then (sgn, 0x18) else r) ∧
    (roundsUpTo mode neg L.max L.next |v| → roundF L.F mode true (.fin neg m e) = r)

/-- RoundInt and the conversions of a finite value, an infinity and NaN into an integer (R50, R51). -/
def ToInt (mode : RMode) : Prop :=
  (∀ neg m e, let v := ratOf neg m e
    ∃ w b, roundInt mode neg m e = (w, b) ∧ RoundedInt mode v w ∧ (b = true ↔ (w : ℚ) = v) ∧
      ∀ y ∈ intTypes, ∀ ftz, (convReal (.int y.1 y.2) mode ftz (.fin neg m e)) =
        (clampCode y.1 y.2 w, (if (w : ℚ) = v then 0 else 0x10) ||| if loOf y.1 y.2 ≤ w ∧ w ≤ hiOf y.1 y.2 then 0 else 0x21)) ∧
  ∀ y ∈ intTypes, ∀ ftz neg, convReal (.int y.1 y.2) mode ftz .nan = (0, 1) ∧
    convReal (.int y.1 y.2) mode ftz (.inf neg) = ((BitVec.ofInt y.2 (if neg = true then loOf y.1 y.2 else hiOf y.1 y.2)).toNat, 1)

/-- The conversions of R51 between two types. -/
def Converts (mode : RMode) : Prop :=
  (∀ x ∈ intTypes, ∀ y ∈ intTypes, ∀ ftz c, let v := intVal x.1 x.2 c
    convert (.int x.1 x.2) (.int y.1 y.2) mode ftz c = (clampCode y.1 y.2 v, if loOf y.1 y.2 ≤ v ∧ v ≤ hiOf y.1 y.2 then 0 else 0x20)) ∧
  (∀ x ∈ intTypes, ∀ L ∈ limits, ∀ ftz c, let v := intVal x.1 x.2 c
    let r := convert (.int x.1 x.2) (.flt L.F) mode ftz c
    (L.F.ieee = true ∨ |(v : ℚ)| ≤ L.max → RoundOf L.F mode false v false r) ∧
    (L.F.ieee = false → L.max < |(v : ℚ)| → r = ((if v < 0 then L.sign else 0) + L.maxCode, 0x30))) ∧
  (∀ K ∈ limits, ∀ L ∈ limits, ∀ ftz c, c < 2 * K.sign → let r := convert (.flt K.F) (.flt L.F) mode ftz c
    match (decodeF K.F ftz c).1 with
    | .nan => r = (L.nanCode, if L.F.ieee = true then (if sNaNOf K.F c = true then 1 else 0) else if K.F.ieee = true then 0x41 else 0)
    | .inf neg => r = roundF L.F mode ftz (.inf neg)
    | .fin neg m e => r = roundF L.F mode ftz (.fin neg m e)) ∧
  (∀ K ∈ limits, ∀ y ∈ intTypes, ∀ ftz c, c < 2 * K.sign →
    convert (.flt K.F) (.int y.1 y.2) mode ftz c =
      let r := convReal (.int y.1 y.2) mode ftz (decodeF K.F ftz c).1
      (r.1, r.2 ||| sigFlag K.F [c]))

/-- The arithmetic of R98 on the codes of one element, and its special values. -/
def Computes (F : Fmt) (nan inf sign : Nat) (mode : RMode) (ftz : Bool) : Prop := ∀ (sub : Bool) (a b c : Nat),
  let x := (decodeF F ftz a).1
  let y := (decodeF F ftz b).1
  let z := (decodeF F ftz c).1
  let add := fpAdd mode ftz sub F a b 0
  let mul := fpMul mode ftz F a b 0
  let fma := fpFma mode ftz F a b c
  let infOf (s : Bool) : Nat := (if s = true then sign else 0) + inf
  let zero (u : XReal) : Prop := ∃ s e, u = .fin s 0 e
  let badProduct : Prop := (zero x ∧ ∃ s, y = .inf s) ∨ (zero y ∧ ∃ s, x = .inf s)
  (∀ t u, FinOf F ftz a t → FinOf F ftz b u →
    RoundOf F mode ftz (if sub = true then t.2 - u.2 else t.2 + u.2) (zeroSign mode [t, (xor sub u.1, u.2)]) add ∧
    RoundOf F mode ftz (t.2 * u.2) (xor t.1 u.1) mul ∧
    ∀ w, FinOf F ftz c w → RoundOf F mode ftz (t.2 * u.2 + w.2) (zeroSign mode [(xor t.1 u.1, t.2 * u.2), w]) fma) ∧
  (x = .nan ∨ y = .nan → add = (nan, sigFlag F [a, b]) ∧ mul = (nan, sigFlag F [a, b])) ∧
  (∀ s, x = .inf s → y = .inf (xor sub (!s)) → add = (nan, 1)) ∧ (∀ s, x = .inf s → y ≠ .nan → y ≠ .inf (xor sub (!s)) → add = (infOf s, 0)) ∧
  (∀ s m e, x = .fin s m e → ∀ t, y = .inf t → add = (infOf (xor sub t), 0)) ∧
  (badProduct → mul = (nan, 1) ∧ fma = (nan, 1)) ∧
  (¬ badProduct → x ≠ .nan → y ≠ .nan → (∃ s, x = .inf s ∨ y = .inf s) → mul = (infOf (xor x.isNeg y.isNeg), 0) ∧
    (z = .nan → fma = (nan, sigFlag F [c])) ∧ (z = .inf (!(xor x.isNeg y.isNeg)) → fma = (nan, 1)) ∧
    (z ≠ .nan → z ≠ .inf (!(xor x.isNeg y.isNeg)) → fma = (infOf (xor x.isNeg y.isNeg), 0))) ∧
  (¬ badProduct → x = .nan ∨ y = .nan → fma = (nan, sigFlag F [a, b, c])) ∧
  (∀ t u, FinOf F ftz a t → FinOf F ftz b u → (z = .nan → fma = (nan, sigFlag F [c])) ∧ ∀ s, z = .inf s → fma = (infOf s, 0))

/-- The dot products, `fscale` and `frnd` (R98), and the scaled conversions (R103). -/
def ComputesF32 (g : Gang) (rm : RSel) : Prop :=
  let mode := selMode g rm
  let ftz := ftzOn g
  (∀ D ∈ [(fmtF16, 2, 16), (fmtBF16, 2, 16), (fmtF8A, 4, 8), (fmtF8B, 4, 8)], ∀ (a b c : Word) (t u : Nat → Bool × ℚ) (w : Bool × ℚ),
    let el (x : Word) (i : Nat) : Nat := x.toNat / 2 ^ (D.2.2 * i) % 2 ^ D.2.2
    let ps := (List.range D.2.1).map fun i => (xor (t i).1 (u i).1, (t i).2 * (u i).2)
    (∀ i, i < D.2.1 → FinOf D.1 ftz (el a i) (t i) ∧ FinOf D.1 ftz (el b i) (u i)) → FinOf fmtF32 ftz c.toNat w →
    ∃ k, RoundOf fmtF32 mode ftz ((ps.map (·.2)).sum + w.2) (zeroSign mode (ps ++ [w])) k ∧ fpDot mode ftz D.1 D.2.1 a b c = (BitVec.ofNat 32 k.1, k.2)) ∧
  (∀ (a b : Word) t, FinOf fmtF32 ftz a.toNat t → ∃ k, RoundOf fmtF32 mode ftz (t.2 * (2 : ℚ) ^ b.toInt) t.1 k ∧ fpScale mode ftz a b = (BitVec.ofNat 32 k.1, k.2)) ∧
  (∀ (b : Word) t, FinOf fmtF32 ftz b.toNat t → ∃ w : Int, RoundedInt mode t.2 w ∧ Codes fmtF32 (fpRoundInt mode ftz b).1.toNat w ∧
    (fpRoundInt mode ftz b).1.getLsbD 31 = t.1 ∧ (fpRoundInt mode ftz b).2 = if (w : ℚ) = t.2 then 0 else 0x10) ∧
  (∀ (ty ts : Ty) (a b : Word) t u, let fq := ftz && ieeeTy ty
    let fd := ftz && ieeeTy ts
    (FinOf fmtF32 fq a.toNat t → FinOf fmtF32 fq b.toNat u → ∃ s m e, ratOf s m e = t.2 * u.2 ∧ s = xor t.1 u.1 ∧
      cvtqVal g ty rm a b = let r := convReal (cvtTy ty) mode fq (.fin s m e); (extendTo32 (cvtTy ty) r.1, r.2)) ∧
    (∀ L ∈ limits, cvtTy ts = .flt L.F → FinOf L.F fd (a.toNat % (2 * L.sign)) t → FinOf fmtF32 fd b.toNat u →
      ∃ k, RoundOf fmtF32 mode fd (t.2 * u.2) (xor t.1 u.1) k ∧ cvtdqVal g ts rm a b = (BitVec.ofNat 32 k.1, k.2)) ∧
    (∀ x ∈ intTypes, cvtTy ts = .int x.1 x.2 → FinOf fmtF32 fd b.toNat u →
      ∃ k, RoundOf fmtF32 mode fd (intVal x.1 x.2 a.toNat * u.2) (xor (decide (intVal x.1 x.2 a.toNat < 0)) u.1) k ∧ cvtdqVal g ts rm a b = (BitVec.ofNat 32 k.1, k.2))) ∧
  (∀ (ty ts : Ty) (b : Word), let r := convert (cvtTy ts) (cvtTy ty) mode (ftz && ieeeTy ty && ieeeTy ts) b.toNat
    (cvtVal g ty ts rm b).2 = r.2 ∧ ∀ k, k < 32 → (cvtVal g ty ts rm b).1.getLsbD k =
      if k < (cvtTy ty).bits then r.1.testBit k else decide (ty ∈ [Ty.s16, .s8, .s4]) && r.1.testBit ((cvtTy ty).bits - 1))

end Sys2Proof.Claim

/-- R41 to R51, R55, R98, R103, R158: what every code of the five formats stands for; `Round` in every mode, with `Overflow`, the ties of RNE, round to odd, FTZ and the flags PE, UF, OF
and SAT; RoundInt; the conversions between any two types, with their flags and special sources; and the values of `fadd`, `fsub`, `fmul`, `fma`, `fdot2`, `fdot4`, `fscale`, `frnd`,
`cvt`, `cvtq` and `cvtdq` as one rounding of the exact result, with the sign of a zero sum, and their NaNs and infinities. The special functions at the infinities, the zeros and NaN. -/
def Obligations.RoundingAndSpecials : Prop :=
  (∀ L ∈ limits, DecodesBy L) ∧ (∀ mode, (∀ L ∈ limits, RoundsBy L mode) ∧ ToInt mode ∧ Converts mode) ∧
  (∀ L ∈ limits, L.F.ieee = true → ∀ mode ftz, Computes L.F L.nanCode L.infCode L.sign mode ftz) ∧ (∀ g rm, ComputesF32 g rm) ∧
  (∀ e ∈ specialPoints, ∀ ftz, specialVal e.1 ftz e.2.1 = (e.2.2.1, e.2.2.2)) ∧
  (∀ fn ftz (a : Word), isNaN a = true → specialVal fn ftz a = (0x7FC00000, if sNaN a then 1 else 0)) ∧
  (∀ fn ∈ [1, 3, 4], ∀ ftz (a : Word), a.getLsbD 31 = true → a.extractLsb' 0 31 ≠ 0 → (ftz = true → a.extractLsb' 23 8 ≠ 0) → isNaN a = false →
    specialVal fn ftz a = (0x7FC00000, 1))

/-- R104: `pack` and `unpk` move elements of 16, 8 or 4 bits between one register and n registers, n = 2, 4 or 8, and set no flag. -/
def Obligations.PackUnpack : Prop :=
  ∀ (gd : Guard) (ty : Ty) (d a : Field10) (b : Src) (s : State) (gi : Nat) (g : Gang) (p : Path), spOk 0 g.v = true →
    let m := guardLanes g p gd
    let w := (cvtTy ty).bits
    let n := 32 / w
    let elem (x : Word) (i : Nat) : Word := if ty = .s16 ∨ ty = .s8 ∨ ty = .s4 then BitVec.ofInt 32 (intOf true w (x.toNat / 2 ^ (w * i)))
      else BitVec.ofNat 32 (x.toNat / 2 ^ (w * i) % 2 ^ w)
    (Issues s (.pack gd ty d a) gi g p (vrange a n ++ [d.toNat]) → Unpoisoned g m (vrange a n) →
      ∃ g' x, exec (.pack gd ty d a) s = .next (pastInstr s gi p 8 g') ∧ WroteV g g' .i32 d m x ∧
        ∀ l k, k < 32 → (x l).getLsbD k = (getV g (a.toNat + k / w) l).getLsbD (k % w)) ∧
    (Issues s (.unpk gd ty d b) gi g p (vregsB .i32 b ++ vrange d n) → Unpoisoned g m (vregsB .i32 b) →
      ∃ g', exec (.unpk gd ty d b) s = .next (pastInstr s gi p 8 g') ∧ g' = g.withV g'.v g'.vpoison ∧
        ∀ r l, l < 64 → getV g' r l =
          if m.getLsbD l = true ∧ d.toNat ≤ r ∧ r < d.toNat + n then elem (readB32 g b l) (r - d.toNat) else getV g r l)

namespace Sys2Proof.Claim

/-- The value of a finite number. -/
def valueOf : XReal → Rat
  | .fin neg m e => (if neg then -1 else 1) * (m : Rat) * (2 : Rat) ^ e
  | _ => 0

def isFinite : XReal → Bool
  | .fin _ _ _ => true
  | _ => false

/-- A finite number of exactly this value, +0 where it is zero. -/
def exactly (x : XReal) (v : Rat) : Prop := isFinite x = true ∧ valueOf x = v ∧ (v = 0 → ∃ e, x = .fin false 0 e)

end Sys2Proof.Claim

/-- R160 to R162: `rstat` with a lane present completes whatever its row holds: it writes one sum and one sum of squares into the pair
v(D):v(D+1) of the present lanes and ORs flags into FPSTAT; with no lane it writes nothing. Of a row without NaN and infinity the two
are the exact sums of the differences from the pilot and of their squares, each rounded once, and a zero sum is +0; a NaN in the row or the
pilot makes both the canonical NaN; an infinity in the row, with a finite pilot, makes the second +∞. -/
def Obligations.RowStatistics : Prop :=
  ∀ (gd : Guard) (rm : RSel) (d a b : Field10) (n : BitVec 4) (s : State) (gi : Nat) (g : Gang) (p : Path),
    Issues s (.rstat gd rm d a b n) gi g p (vrange a (n.toNat + 1) ++ [b.toNat] ++ vregs .b64 d) → spOk 0 g.v = true →
    Unpoisoned g (guardLanes g p gd) (vrange a (n.toNat + 1) ++ [b.toNat]) →
    let m := guardLanes g p gd
    let r := rowStats g (selMode g rm) a b (n.toNat + 1) m
    (m = 0 → exec (.rstat gd rm d a b n) s = .next (pastInstr s gi p 8 g)) ∧
    (m ≠ 0 → ∃ g', exec (.rstat gd rm d a b n) s = .next (pastInstr s gi p 8 (withFlags g' r.2.2)) ∧
      WroteV g g' .b64 d m (fun _ => r.2.1 ++ r.1)) ∧
    let el (k l : Nat) : XReal := (decodeF fmtF32 (ftzOn g) (getV g k l).toNat).1
    let pilot : XReal := el b.toNat (lowestLane m)
    let row : List XReal := (List.range (n.toNat + 1)).flatMap fun j => (lanesOf m).map fun l => el (a.toNat + j) l
    let rounded (x : XReal) : Word := BitVec.ofNat 32 (roundF fmtF32 (selMode g rm) (ftzOn g) x).1
    (m ≠ 0 → (∀ x ∈ pilot :: row, isFinite x = true) →
      ∃ x y, r.1 = rounded x ∧ r.2.1 = rounded y ∧ exactly x ((row.map (fun e => valueOf e - valueOf pilot)).sum) ∧
        exactly y ((row.map (fun e => (valueOf e - valueOf pilot) ^ 2)).sum)) ∧
    (m ≠ 0 → XReal.nan ∈ pilot :: row → r.1 = 0x7FC00000 ∧ r.2.1 = 0x7FC00000) ∧
    (m ≠ 0 → XReal.nan ∉ row → isFinite pilot = true → (∃ neg, XReal.inf neg ∈ row) → r.2.1 = 0x7F800000)


namespace Sys2Proof.Claim

/-- PC + 8 × DISP (R106). -/
def dispOf (p : Path) (disp : BitVec 30) : DWord := p.pc + BitVec.ofInt 64 (8 * disp.toInt)

/-- The gang is as before but for its paths, its stack and the loop monitor. -/
def OnlyPaths (g g' : Gang) : Prop :=
  g' = { g with paths := g'.paths, stack := g'.stack, head := g'.head, count := g'.count }

/-- Path `p` of gang `g` is the one that issues: it is listed, ready, and current on all its slices, and no two paths share an id or a lane,
and none of its lanes has exited (R118, R119). -/
structure Current (g : Gang) (p : Path) : Prop where
  listed : findPath g.paths p.id = some p
  ready : p.st = .ready
  current : fullyCurrent p = true
  ids : g.paths.Pairwise (fun a b => a.id ≠ b.id)
  lanes : g.paths.Pairwise (fun a b => a.mask &&& b.mask = 0)
  slices : g.paths.Pairwise (fun a b => a.onSl &&& b.onSl = 0)
  live : p.mask &&& g.exited = 0
  some_lane : p.mask ≠ 0
  fresh : ∀ q ∈ g.paths, q.id < g.nextPath

/-- Entries of the reconvergence stack at which a path may stop (R109, R364). -/
def entries (g : Gang) : List StackEntry := openEntries g.handler g.stack

/-- Path `p` apart, no path that may issue stands at the rejoin of its innermost entry (R109). -/
def OthersRest (g : Gang) (p : Path) : Prop :=
  ∀ q ∈ g.paths, q.id ≠ p.id → q.st = .ready → ∀ e, innermost (entries g) q.mask = some e → e.rejoin ≠ q.pc

/-- Some lane of entry `e` is with a path of `ps` that has not stopped at its rejoin (R109). -/
def StillOut (g : Gang) (ps : List Path) (e : StackEntry) : Prop :=
  ∃ q ∈ ps, q.mask &&& e.members &&& ~~~g.exited ≠ 0 ∧ (q.st ≠ .atRejoin ∨ q.pc ≠ e.rejoin)

/-- Path `p` at address `a` may go on: it is not the rejoin of its innermost entry, and no entry is complete (R109). -/
def GoesOn (g : Gang) (p : Path) (a : DWord) : Prop :=
  OthersRest g p ∧ (∀ e, innermost (entries g) p.mask = some e → e.rejoin ≠ a) ∧ ∀ e ∈ entries g, StillOut g g.paths e

/-- Path `p` stops at address `a`, the rejoin of its innermost entry, and no entry is complete with it (R109). -/
def StopsAt (g : Gang) (p : Path) (a : DWord) : Prop :=
  OthersRest g p ∧ (∃ e, innermost (entries g) p.mask = some e ∧ e.rejoin = a) ∧
  ∀ e ∈ entries g, StillOut g (g.paths.filter (fun q => q.id ≠ p.id)) e

/-- Path `p` is within the innermost entry `e`, and every other path within it has stopped at its rejoin; no outer entry, each of which has lanes of `live`,
has that rejoin too (R109). -/
structure LastIn (g : Gang) (p : Path) (e : StackEntry) (rest : List StackEntry) (live : LaneMask) : Prop where
  handler : g.handler = none
  stack : g.stack = e :: rest
  inside : p.mask &&& ~~~e.members = 0
  others : ∀ q ∈ g.paths, q.id ≠ p.id → q.mask &&& e.members ≠ 0 → q.st = .atRejoin ∧ q.pc = e.rejoin ∧ q.mask &&& ~~~e.members = 0
  cover : ∀ l, l < 64 → e.members.getLsbD l = true → g.exited.getLsbD l = true ∨ ∃ q ∈ g.paths, q.mask.getLsbD l = true
  some_left : live ≠ 0
  outer : ∀ x ∈ rest, x.rejoin ≠ e.rejoin ∧ x.members &&& live ≠ 0

/-- Entry `e` is popped: the lanes `live` are one path at its rejoin, ready and current on all its slices, and the rest of the stack stays (R109, R119). -/
def Popped (g' : Gang) (e : StackEntry) (rest : List StackEntry) (live : LaneMask) : Prop :=
  g'.stack = rest ∧ ∃ r ∈ g'.paths, r.pc = e.rejoin ∧ r.mask = live ∧ r.st = .ready ∧ r.onSl = slicesOf live ∧
    ∀ q ∈ g'.paths, q.mask &&& e.members ≠ 0 → q = r

/-- The paths of a gang are as R117 to R119 have them: names and lanes and slices of their own, no lane that has exited, none without a lane. -/
structure PathsOk (g : Gang) : Prop where
  ids : g.paths.Pairwise (fun a b => a.id ≠ b.id)
  lanes : g.paths.Pairwise (fun a b => a.mask &&& b.mask = 0)
  slices : g.paths.Pairwise (fun a b => a.onSl &&& b.onSl = 0)
  live : ∀ q ∈ g.paths, q.mask &&& g.exited = 0 ∧ q.mask ≠ 0 ∧ q.id < g.nextPath

/-- The waits at barrier `b` of gang `g` have ended in `g'` (R151): no path waits there, and nothing but the paths and the stack changed; where no path stands at the rejoin of its
innermost entry and no entry is complete, each that waited is ready, where it stood, and the stack stays. -/
def WaitsEnded (g g' : Gang) (b : Nat) : Prop :=
  g' = { g with paths := g'.paths, stack := g'.stack } ∧ (∀ q ∈ g'.paths, waitsAt q b = false) ∧
  (PathsOk g → (∀ q ∈ g.paths, q.st = .ready ∨ waitsAt q b = true → ∀ e, innermost (entries g) q.mask = some e → e.rejoin ≠ q.pc) →
    (∀ e ∈ entries g, StillOut g g.paths e) →
    g'.stack = g.stack ∧ ∀ q ∈ g.paths, waitsAt q b = true → ∃ r, findPath g'.paths q.id = some r ∧ r.pc = q.pc ∧ r.mask = q.mask ∧ r.st = .ready)

/-- A register target is aligned (R26), in the code range of the kernel and an instruction start (R80). -/
def TargetOk (s : State) (g : Gang) (a : DWord) : Prop :=
  a.toNat % 8 = 0 ∧ inCodeRange g.kd a = true ∧ isStart s g.kd.asid a = true

end Sys2Proof.Claim

/-- R106, R107: a transfer by displacement whose guard holds goes to PC + 8 × DISP (`callFar` to PC + its offset); the links of the calls
are the address of the next instruction in every active lane; `bru` goes there when s(A) ≠ 0 and `lpb` when s(A) − 1 ≠ 0, else both go
on; `lpb` writes s(A) − 1 either way. -/
def Obligations.TransferTaken : Prop :=
  ∀ (gd : Guard) (a : Field10) (disp : BitVec 30) (fd : DWord) (s : State) (gi : Nat) (g : Gang) (p : Path),
    guardLanes g p gd ≠ 0 → spOk 0 g.v = true → spOk 0 g.s = true →
    (Issues s (.jmp gd disp) gi g p [] → exec (.jmp gd disp) s = .next (takeTransfer s gi g p (dispOf p disp))) ∧
    (Issues s (.bru gd a disp) gi g p [] → exec (.bru gd a disp) s =
      .next (if getS g a.toNat = 0 then pastInstr s gi p 8 g else takeTransfer s gi g p (dispOf p disp))) ∧
    (Issues s (.lpb gd a disp) gi g p [] → ∃ g', WroteS g g' .i32 a ((getS g a.toNat - 1).setWidth 64) ∧ exec (.lpb gd a disp) s =
      .next (if getS g a.toNat = 1 then pastInstr s gi p 8 g' else takeTransfer s gi g' p (dispOf p disp))) ∧
    (Issues s (.call gd a disp) gi g p (vregs .b64 a) → ∃ g', WroteV g g' .b64 a p.mask (fun _ => p.pc + 8) ∧
      exec (.call gd a disp) s = .next (takeTransfer s gi g' p (dispOf p disp))) ∧
    (Issues s (.callFar gd fd) gi g p [0, 1] → ∃ g', WroteV g g' .b64 0 p.mask (fun _ => p.pc + 16) ∧
      exec (.callFar gd fd) s = .next (takeTransfer s gi g' p (p.pc + fd)))

/-- R107, R108, R26, R80: a transfer through registers whose guard holds goes to its target when the target is aligned, in the code range
and an instruction start; `ret` takes the pair of the lowest active lane. Else it raises ALIGN, or ILLOP with TINFO 1, with the target in
TADDR, and writes nothing. -/
def Obligations.RegisterTransfer : Prop :=
  ∀ (gd : Guard) (d a : Field10) (s : State) (gi : Nat) (g : Gang) (p : Path),
    guardLanes g p gd ≠ 0 → spOk 0 g.v = true →
    let x := getSS g a.toNat
    let y := getVV g a.toNat (lowestLane p.mask)
    let stops (z : DWord) : TrapInfo := if z.toNat % 8 = 0 then trapAll p 0x01 z 1 else trapAll p 0x03 z 0
    (Issues s (.brx gd a) gi g p [] → (TargetOk s g x → exec (.brx gd a) s = .next (takeTransfer s gi g p x)) ∧
      (¬ TargetOk s g x → exec (.brx gd a) s = .next (s.trap gi g p (stops x)))) ∧
    (Issues s (.callReg gd d a) gi g p (vregs .b64 d) →
      (TargetOk s g x → ∃ g', WroteV g g' .b64 d p.mask (fun _ => p.pc + 8) ∧ exec (.callReg gd d a) s = .next (takeTransfer s gi g' p x)) ∧
      (¬ TargetOk s g x → exec (.callReg gd d a) s = .next (s.trap gi g p (stops x)))) ∧
    (Issues s (.ret gd a) gi g p (vregs .b64 a) → Unpoisoned g (laneBit (lowestLane p.mask)) (vregs .b64 a) →
      (TargetOk s g y → exec (.ret gd a) s = .next (takeTransfer s gi g p y)) ∧
      (¬ TargetOk s g y → exec (.ret gd a) s = .next (s.trap gi g p (stops y))))

/-- R105: a transfer, a call, `yield` or `sleep` whose guard holds in no active lane only goes past its instruction; `nop` always does. -/
def Obligations.TransferGuarded : Prop :=
  ∀ (gd : Guard) (d a : Field10) (disp rej : BitVec 30) (fd : DWord) (n : Imm20) (s : State) (gi : Nat) (g : Gang) (p : Path),
    (Issues s (.nop gd) gi g p [] → exec (.nop gd) s = .next (pastInstr s gi p 8 g)) ∧
    (guardLanes g p gd = 0 →
      (Issues s (.jmp gd disp) gi g p [] → exec (.jmp gd disp) s = .next (pastInstr s gi p 8 g)) ∧
      (Issues s (.bru gd a disp) gi g p [] → exec (.bru gd a disp) s = .next (pastInstr s gi p 8 g)) ∧
      (Issues s (.lpb gd a disp) gi g p [] → exec (.lpb gd a disp) s = .next (pastInstr s gi p 8 g)) ∧
      (Issues s (.call gd a disp) gi g p (vregs .b64 a) → exec (.call gd a disp) s = .next (pastInstr s gi p 8 g)) ∧
      (Issues s (.brx gd a) gi g p [] → exec (.brx gd a) s = .next (pastInstr s gi p 8 g)) ∧
      (Issues s (.callReg gd d a) gi g p (vregs .b64 d) → exec (.callReg gd d a) s = .next (pastInstr s gi p 8 g)) ∧
      (Issues s (.ret gd a) gi g p (vregs .b64 a) → exec (.ret gd a) s = .next (pastInstr s gi p 8 g)) ∧
      (Issues s (.callFar gd fd) gi g p [0, 1] → exec (.callFar gd fd) s = .next (pastInstr s gi p 16 g)) ∧
      (Issues s (.brd gd disp rej) gi g p [] → exec (.brd gd disp rej) s = .next (pastInstr s gi p 16 g)) ∧
      (Issues s (.exit gd) gi g p [] → exec (.exit gd) s = .next (pastInstr s gi p 8 g)) ∧
      (Issues s (.yield gd) gi g p [] → exec (.yield gd) s = .next (pastInstr s gi p 8 g)) ∧
      (Issues s (.sleep gd n) gi g p [] → exec (.sleep gd n) s = .next (pastInstr s gi p 8 g)))

/-- R109, R117, R118: `brd` with lanes on both sides and room on the stack, whatever entries are there, splits the path: T goes to PC + 8 × DISP, F to PC + 16, and an entry with
the rejoin address and both sides is pushed on them. With no lane on the F side it is a transfer. With 32 entries on the stack it is ILLOP with TINFO 0x20. Splitting, moving,
holding, waking, exiting, entering and leaving the handler keep the paths of a gang apart: no two share a name, a lane or a slice, and no lane of one has exited. -/
def Obligations.Diverge : Prop :=
  (∀ (g : Gang) (id now : Nat) (m t f : LaneMask) (n a b c : DWord) (st : PathSt) (w : Path → Bool), PathsOk g →
    PathsOk (settle g now) ∧ PathsOk (advance g id n now) ∧ PathsOk (yieldSlices g id now) ∧ PathsOk (holdPath g id n st now) ∧ PathsOk (wakePaths g w now) ∧
    PathsOk (enterHandlerPath g id a now) ∧ PathsOk (leaveHandler g id a now) ∧
    (∀ p, findPath g.paths id = some p → m &&& ~~~p.mask = 0 → PathsOk (exitLanes g id m a now)) ∧
    (∀ p, findPath g.paths id = some p → t &&& f = 0 → t ||| f = p.mask → t ≠ 0 → f ≠ 0 → PathsOk (splitPath g id t f a b c now))) ∧
  ∀ (gd : Guard) (disp rej : BitVec 30) (s : State) (gi : Nat) (g : Gang) (p : Path),
    Issues s (.brd gd disp rej) gi g p [] → guardLanes g p gd ≠ 0 →
    let t := guardLanes g p gd
    let f := p.mask &&& ~~~t
    (f = 0 → exec (.brd gd disp rej) s = .next (takeTransfer s gi g p (dispOf p disp))) ∧
    (f ≠ 0 → 32 ≤ g.stack.length → exec (.brd gd disp rej) s = .next (s.trap gi g p (trapAll p 0x01 0 0x20))) ∧
    (f ≠ 0 → g.stack.length < 32 → ∃ u g', exec (.brd gd disp rej) s = .next u ∧ u.gang gi = some g' ∧ g'.v = g.v ∧ g'.s = g.s ∧ g'.p = g.p ∧
      g'.fpstat = g.fpstat ∧ g'.exited = g.exited ∧ u.hbm = s.hbm) ∧
    (f ≠ 0 → g.stack.length < 32 → Current g p → OthersRest g p → (∀ e ∈ entries g, StillOut g g.paths e) →
      (∀ hm, g.handler = some hm → hm.depth ≤ g.stack.length) → dispOf p rej ≠ dispOf p disp → dispOf p rej ≠ p.pc + 16 →
      ∃ u g' q r, exec (.brd gd disp rej) s = .next u ∧ u.gang gi = some g' ∧ g'.stack = ⟨dispOf p rej, p.mask⟩ :: g.stack ∧
        findPath g'.paths p.id = some q ∧ q.pc = dispOf p disp ∧ q.mask = t ∧
        findPath g'.paths g.nextPath = some r ∧ r.pc = p.pc + 16 ∧ r.mask = f ∧ r.st = .ready ∧
        g'.v = g.v ∧ g'.s = g.s ∧ g'.p = g.p ∧ g'.fpstat = g.fpstat ∧ g'.exited = g.exited ∧ u.hbm = s.hbm)

/-- R24, R105, R109, R111, R118, R119, R153, R169: going past an instruction moves the issuing path by its bytes and leaves it current, and changes nothing of the gang but its
paths; at the rejoin of its innermost entry the path stops there instead, gives up its slices, and a path that waits becomes current; when every path of the innermost entry has stopped, the
entry is popped and they go on as one path, current on all its slices. A taken transfer moves the path to the target with the same effects there. A target above its own
address changes no more; one that is not is counted by the loop monitor, outside handler mode, at HEAD and COUNT. Registers, predicates and
memory stay. `yield`, and `sleep 0`, goes past the instruction and hands over the slices of the path in which another path waits.
`sleep n` with n > 0 holds the path, past its instruction, on no slice, for the count of cycles from now; SLEEP_END makes it ready once
the count has passed, and not before. Each of the three completes whatever the stack holds. -/
def Obligations.PathScheduling : Prop :=
  (∀ (s : State) (gi : Nat) (g : Gang) (p : Path) (n tgt : DWord), Current g p →
    let g1 := advance g p.id n s.seq
    let a := p.pc + n
    (g1 = { g with paths := g1.paths, stack := g1.stack }) ∧
    (GoesOn g p a → findPath g1.paths p.id = some { p with pc := a } ∧ g1.stack = g.stack) ∧
    (StopsAt g p a → findPath g1.paths p.id = some { p with pc := a, st := .atRejoin, onSl := 0 } ∧ g1.stack = g.stack ∧
      ∀ w, g.paths = [p, w] → w.st = .ready → w.onSl = 0 → g.handler = none → findPath g1.paths w.id = some { w with onSl := slicesOf w.mask }) ∧
    (∀ e rest, let live := e.members &&& ~~~g.exited
      LastIn g p e rest live → e.rejoin = a → Popped g1 e rest live) ∧
    (∃ g', (takeTransfer s gi g p tgt).gang gi = some g' ∧ OnlyPaths g g' ∧
      (GoesOn g p tgt → g'.stack = g.stack ∧ ∃ q, findPath g'.paths p.id = some q ∧ q.pc = tgt ∧ q.mask = p.mask ∧ q.st = .ready) ∧
      (StopsAt g p tgt → g'.stack = g.stack ∧ ∃ q, findPath g'.paths p.id = some q ∧ q.pc = tgt ∧ q.mask = p.mask ∧ q.st = .atRejoin ∧ q.onSl = 0) ∧
      (∀ e rest, let live := e.members &&& ~~~g.exited
        LastIn g p e rest live → e.rejoin = tgt → Popped g' e rest live) ∧
      (g'.head, g'.count) = (if p.pc.toNat < tgt.toNat ∨ g.handler.isSome = true then (g.head, g.count)
        else if g.head = tgt then (tgt, min (g.count + 1) 255) else (tgt, 1)) ∧
      (takeTransfer s gi g p tgt).hbm = s.hbm ∧ (takeTransfer s gi g p tgt).hostMem = s.hostMem)) ∧
  ((∀ (gd : Guard) (n : Imm20) (s : State) (gi : Nat) (g : Gang) (p : Path), guardLanes g p gd ≠ 0 →
    let moved (g' : Gang) : Prop := g' = { g with paths := g'.paths, stack := g'.stack }
    let free : Prop := Current g p ∧ GoesOn g p (p.pc + 8)
    let yields (i : Instr) : Prop :=
      ∃ g', exec i s = .next (s.putGang gi g') ∧ moved g' ∧ (free →
        ∃ q, findPath g'.paths p.id = some q ∧ q.pc = p.pc + 8 ∧ q.mask = p.mask ∧ q.st = .ready ∧ g'.stack = g.stack ∧ (g.paths = [p] → q.onSl = p.onSl) ∧
          ∀ w, g.paths = [p, w] → w.st = .ready → w.onSl = 0 → g.handler = none → p.onSl = slicesOf p.mask →
            q.onSl = slicesOf p.mask &&& ~~~(slicesOf w.mask) ∧ ∃ r, findPath g'.paths w.id = some r ∧ r.onSl = slicesOf w.mask)
    (Issues s (.yield gd) gi g p [] → yields (.yield gd)) ∧ (Issues s (.sleep gd 0) gi g p [] → yields (.sleep gd 0)) ∧
    (Issues s (.sleep gd n) gi g p [] → n ≠ 0 →
      ∃ g', exec (.sleep gd n) s = .next (s.putGang gi g') ∧ moved g' ∧ (free →
        ∃ q, findPath g'.paths p.id = some q ∧ q.pc = p.pc + 8 ∧ q.st = .sleep s.clock n.toNat ∧ q.onSl = 0 ∧ g'.stack = g.stack))) ∧
  (∀ (s : State) (gi : Nat) (g : Gang) (p : Path) (start : DWord) (n : Nat), s.gang gi = some g →
    findPath g.paths p.id = some p → p.st = .sleep start n →
    (n ≤ (s.clock - start).toNat → ∃ g', exec (.sleepEnd gi p.id) s = .next (s.putGang gi g') ∧ g' = { g with paths := g'.paths, stack := g'.stack } ∧
      (GoesOn g p p.pc → (g.stack ≠ [] → g.paths.Pairwise (fun a b => a.id ≠ b.id ∧ a.mask &&& b.mask = 0)) →
        ∃ q, findPath g'.paths p.id = some q ∧ q.pc = p.pc ∧ q.st = .ready ∧ g'.stack = g.stack)) ∧
    ((s.clock - start).toNat < n → exec (.sleepEnd gi p.id) s = .next s)))

/-- R109, R110: `exit` ends the lanes whose guard is true: they are exited, they leave their path, and no register of the gang changes. When the last path of the innermost entry
ends so, the others, which have stopped at its rejoin, go on as one path and the entry is popped; with no lane left the path is gone, and a path that waits becomes current. -/
def Obligations.ExitResult : Prop :=
  ∀ (gd : Guard) (s : State) (gi : Nat) (g : Gang) (p : Path), Issues s (.exit gd) gi g p [] → guardLanes g p gd ≠ 0 →
    g.paths.Pairwise (fun a b => a.mask &&& b.mask = 0) → p ∈ g.paths → g.paths.Pairwise (fun a b => a.id ≠ b.id) →
    (∃ g1, exec (.exit gd) s = .next ((List.range 16).foldl (fun acc b => tryComplete acc g.cohort b) (s.putGang gi (reportLate g1))) ∧
      g1.exited = g.exited ||| guardLanes g p gd ∧
      (∀ e rest, let live := e.members &&& ~~~(g.exited ||| p.mask)
        guardLanes g p gd = p.mask → LastIn g p e rest live → (∀ q ∈ g.paths, q.mask ≠ 0) → Popped g1 e rest live) ∧
      (∀ w, guardLanes g p gd = p.mask → g.paths = [p, w] → w.st = .ready → w.onSl = 0 → w.mask ≠ 0 → g.handler = none → OthersRest g p → (∀ e ∈ g.stack, StillOut g [w] e) →
        g1.paths = [{ w with onSl := slicesOf w.mask }] ∧ g1.stack = g.stack)) ∧
    ∃ t g', exec (.exit gd) s = .next t ∧ t.gang gi = some g' ∧ g'.exited = g.exited ||| guardLanes g p gd ∧
      (∀ q ∈ g'.paths, q.mask &&& guardLanes g p gd = 0) ∧ g'.v = g.v ∧ g'.s = g.s ∧ g'.p = g.p ∧ t.hbm = s.hbm

/-- R126, R149 to R152: an id at or above `.bars` is BARR for every active lane. `bar` and `bara` of the rest wait until what their release waits for is done, then are BARR for the
lanes whose arrival is still open, and else record the arrival of every active lane and complete the barrier if it is complete; `bar` holds its path, `bara` goes on. `barw` is BARR
for the lanes that have never arrived, else waits while some lane's arrival is open, and else goes on with the acquire of R152, once the loads and atomics of the gang's other paths have come
back. A barrier with an arrival open completes only when every thread of the cohort that has not exited has an open arrival; completing closes every open arrival of that barrier and no
other, and ends every wait at it: the path is ready again, or stops at the rejoin that it stands at, with the acquire; in a gang with a load or atomic in flight the wait ends, with the
acquire, once that has come back. -/
def Obligations.Barriers : Prop :=
  (∀ (gd : Guard) (b : BitVec 4) (s : State) (gi : Nat) (g : Gang) (p : Path), guardLanes g p gd ≠ 0 →
    (g.kd.bars ≤ b.toNat → ∀ i ∈ [Instr.bar gd b, .bara gd b, .barw gd b], Issues s i gi g p [] →
      exec i s = .next (s.trap gi g p ⟨0x09, p.pc, 0, p.mask, b.setWidth 32⟩)) ∧
    ∀ c, b.toNat < g.kd.bars → s.cohort g.cohort = some c →
      let arrived (g' : Gang) : State :=
        tryComplete ((s.putGang gi g').putCohort g.cohort (setArrivals c g p.mask b.toNat)) g.cohort b.toNat
      let some_ (x : Nat) : Prop := ∃ l, l < 64 ∧ p.mask.getLsbD l = true ∧ arrivalOf c g l b.toNat = x
      let barr (i : Instr) (x : Nat) : Prop := ∃ m : LaneMask, exec i s = .next (s.trap gi g p ⟨0x09, p.pc, 0, m, b.setWidth 32⟩) ∧
        ∀ l, l < 64 → (m.getLsbD l = true ↔ p.mask.getLsbD l = true ∧ arrivalOf c g l b.toNat = x)
      let others : Prop := ∃ o ∈ g.ops, o.path ≠ p.id
      let held : Prop := undelivered g = true ∨ oxWrites s gi g = true ∨ others
      (∀ i ∈ [Instr.bar gd b, .bara gd b], Issues s i gi g p [] → (held → exec i s = .next s) ∧ (¬ held → some_ 1 → barr i 1)) ∧
      (Issues s (.bar gd b) gi g p [] → ¬ held → ¬ some_ 1 → exec (.bar gd b) s = .next (arrived (holdPath g p.id 8 (.bar b.toNat) s.seq))) ∧
      (Issues s (.bara gd b) gi g p [] → ¬ held → ¬ some_ 1 → exec (.bara gd b) s = .next (arrived (advance g p.id 8 s.seq))) ∧
      (Issues s (.barw gd b) gi g p [] → (some_ 0 → barr (.barw gd b) 0) ∧
        (¬ some_ 0 → some_ 1 → exec (.barw gd b) s = .next (s.putGang gi (holdPath g p.id 8 (.barw b.toNat) s.seq))) ∧
        (¬ some_ 0 → ¬ some_ 1 → ¬ others → exec (.barw gd b) s = .next (flashL1 (s.putGang gi (advance g p.id 8 s.seq)) g.die g.core)) ∧
        (¬ some_ 0 → ¬ some_ 1 → others → exec (.barw gd b) s = .next s))) ∧
  (∀ (s : State) (ci b : Nat) (c : Cohort), s.cohort ci = some c → b < 16 →
    ((∃ gi ∈ c.gangs, ∃ g, s.gang gi = some g ∧ ∃ l, l < g.kd.gangw ∧ l < 64 ∧ g.exited.getLsbD l = false ∧ arrivalOf c g l b ≠ 1) →
      tryComplete s ci b = s) ∧
    (barrierOpen c b = true → barrierComplete s c b = true →
      (∃ c', (tryComplete s ci b).cohort ci = some c' ∧ c'.arrivals.length = c.arrivals.length ∧
        (∀ k v, (k, v) ∈ c'.arrivals ↔ (k, v) ∈ c.arrivals ∧ (k % 16 ≠ b ∨ v ≠ 1) ∨ (v = 2 ∧ k % 16 = b ∧ (k, 1) ∈ c.arrivals))) ∧
      (∀ gi ∈ c.gangs, ∀ g, s.gang gi = some g → g.cohort = ci →
        (g.ops ≠ [] → (tryComplete s ci b).gang gi = some g) ∧
        (g.ops = [] → spOk Core.reset s.cores = true → (∃ q ∈ g.paths, waitsAt q b = true) →
          ((tryComplete s ci b).coreAt g.die g.core).l1 = [] ∧ ∃ g', (tryComplete s ci b).gang gi = some g' ∧ WaitsEnded g g' b)))) ∧
  (∀ (s : State) (gi b : Nat) (g : Gang) (c : Cohort), s.gang gi = some g → s.cohort g.cohort = some c → (∀ k, (k, 1) ∈ c.arrivals → k % 16 ≠ b) →
    (g.ops ≠ [] → execWaitEnd gi b s = .next s) ∧
    (g.ops = [] → (∃ q ∈ g.paths, waitsAt q b = true) → ∃ g', execWaitEnd gi b s = .next (flashL1 (s.putGang gi g') g.die g.core) ∧ WaitsEnded g g' b))

/-- R74, R363 to R366: a trap of a gang whose kernel has a handler and that is not in it writes the five trap-state registers, sends the trapping
path to the handler's address (its offset is a multiple of 8, R74) and enters handler mode with that path; every other path stays where it is, no longer current; what was
translated for an instruction of another path is forgotten; nothing else of the gang changes. A trap of a gang whose kernel has no handler, or that is in its handler, is taken at rank 2: the gang stops with its state
as at the trap, and the record that the supervisor will write holds the trap, with the state that rank 1 was handling.
That rank 2 comes in two steps, of which this is the first (log 32), and what is forgotten of other paths' instructions (logs 99, 134), are the model's choices. -/
def Obligations.TrapEntry : Prop :=
  (∀ (s : State) (gi : Nat) (g : Gang) (p : Path) (t : TrapInfo) (off : Nat), findPath g.paths p.id = some p →
    g.paths.Pairwise (fun a b => a.id ≠ b.id) → g.kd.handler = some off → g.handler = none →
    ∃ g', s.trap gi g p t = s.putGang gi g' ∧
      g' = { g with
        tcause := t.cause
        tpc := t.pc
        taddr := t.addr
        tlanes := t.lanes
        tinfo := t.info
        handler := some ⟨p.mask, g.stack.length⟩
        xc := Xc.empty
        engaged := none
        fetching := none
        paths := g'.paths } ∧
      (∃ q, findPath g'.paths p.id = some q ∧ (off % 8 = 0 → q.pc = g.kd.base + BitVec.ofNat 64 off) ∧ q.mask = p.mask ∧ q.st = .ready ∧ fullyCurrent q = true) ∧
      (∀ a ∈ g.paths, a.id ≠ p.id → ∃ q, findPath g'.paths a.id = some q ∧ q.pc = a.pc ∧ q.mask = a.mask ∧ q.st = a.st ∧ q.onSl = 0)) ∧
  (∀ (s : State) (gi : Nat) (g : Gang) (p : Path) (t : TrapInfo), g.kd.handler = none ∨ g.handler.isSome = true →
    s.trap gi g p t = s.putGang gi { g with
      stopped := true
      pending := g.pending ++ [(t, if g.handler.isSome then some ⟨g.tcause, g.tpc, g.taddr, g.tlanes, g.tinfo⟩ else none)] })

/-- R19, R63, R65, R66: an instruction whose encoding is reserved, or that names a vector register, accumulator, metadata register or token at or above what its kernel
declares, raises ILLOP at issue, whatever its guard holds, and nothing else changes. -/
def Obligations.ReservedEncodingTraps : Prop :=
  ∀ (i : Instr) (s : State) (gi : Nat) (g : Gang) (p : Path), encodeFields i ≠ none → s.issuing = some (gi, g, p) →
    i.wf = false ∨ (∃ r ∈ namedRegs i, g.kd.regs ≤ r) ∨ (∃ a ∈ namedAccs i, g.kd.acc ≤ a) ∨ (∃ m ∈ namedMetas i, g.kd.nmeta ≤ m) ∨
      (∃ t ∈ namedToks i, g.kd.tokens ≤ t) →
    exec i s = .next (s.trap gi g p ⟨0x01, p.pc, 0, p.mask, 0⟩)

/-- R369: an integer or float instruction that reads a poisoned register word in a lane whose guard is true raises POISON, naming such a register and its lanes, and writes nothing.
That it names the FIRST such register in operand order is the model's choice (log 23). -/
def Obligations.PoisonedSourceTraps : Prop :=
  ∀ (i : Instr) (s : State) (gi : Nat) (g : Gang) (p : Path) (gd : Guard) (rd : List Nat) (wr : List Nat) (pre post : List Nat) (r : Nat),
    ((∃ ty d x, laneValue g i = some (gd, rd, ty, d, x) ∧ wr = vregs ty d) ∨ (∃ d x, triValue g i = some (gd, rd, d, x) ∧ wr = [d.toNat]) ∨
      (∃ d x, floatValue g i = some (gd, rd, d, x) ∧ wr = [d.toNat])) →
    Issues s i gi g p (rd ++ wr) → rd = pre ++ r :: post → Unpoisoned g (guardLanes g p gd) pre →
    (∃ l, l < 64 ∧ (guardLanes g p gd).getLsbD l = true ∧ g.vpoison.contains (64 * r + l) = true) →
    ∃ lanes : LaneMask, exec i s = .next (s.trap gi g p ⟨0x06, p.pc, BitVec.ofNat 64 r, lanes, 0x10⟩) ∧
      ∀ l, l < 64 → lanes.getLsbD l = ((guardLanes g p gd).getLsbD l && g.vpoison.contains (64 * r + l))

/-- R373: `trap` and `brk` with a true guard raise SWTRAP or BRK at their own address, with the code in TINFO and the lanes whose guard is
true; else they only go past. -/
def Obligations.SoftwareTrap : Prop :=
  ∀ (gd : Guard) (code : BitVec 16) (s : State) (gi : Nat) (g : Gang) (p : Path),
    let m := guardLanes g p gd
    (Issues s (.trap gd code) gi g p [] → exec (.trap gd code) s =
      .next (if m = 0 then pastInstr s gi p 8 g else s.trap gi g p ⟨0x10, p.pc, 0, m, code.setWidth 32⟩)) ∧
    (Issues s (.brk gd code) gi g p [] → exec (.brk gd code) s =
      .next (if m = 0 then pastInstr s gi p 8 g else s.trap gi g p ⟨0x11, p.pc, 0, m, code.setWidth 32⟩))

/-- R374: `eret` of the whole handler path at the depth of entry, with a TPC that is a legal target, goes to TPC and leaves handler mode; the
trap-state registers and every other register stay. At the rejoin of its innermost entry the path stops there, and the last of an entry's paths pops it (R109), as after a
transfer. -/
def Obligations.ReturnFromTrap : Prop :=
  ∀ (gd : Guard) (s : State) (gi : Nat) (g : Gang) (p : Path), Issues s (.eret gd) gi g p [] → guardLanes g p gd ≠ 0 → Current g p →
    g.handler = some ⟨p.mask, g.stack.length⟩ → TargetOk s g g.tpc →
    let out := { g with handler := none }
    ∃ g', exec (.eret gd) s = .next (s.putGang gi g') ∧ g' = { g with handler := none, paths := g'.paths, stack := g'.stack } ∧
      (GoesOn out p g.tpc → g'.stack = g.stack ∧ ∃ q, findPath g'.paths p.id = some q ∧ q.pc = g.tpc ∧ q.mask = p.mask ∧ q.st = .ready) ∧
      (StopsAt out p g.tpc → g'.stack = g.stack ∧ ∃ q, findPath g'.paths p.id = some q ∧ q.pc = g.tpc ∧ q.mask = p.mask ∧ q.st = .atRejoin) ∧
      ∀ e rest, let live := e.members &&& ~~~g.exited
        LastIn out p e rest live → e.rejoin = g.tpc → Popped g' e rest live

/-- R66, R374, R376: outside handler mode `eret` is PRIV with TINFO 3, taken at rank 2; in it, `eret` of a part of the handler path, or at
another depth, is ILLOP with TINFO 2. `mts` to a read-only register is PRIV with TINFO 1, and to a trap-state register outside handler
mode PRIV with TINFO 2, whatever the guard. -/
def Obligations.PrivilegeTraps : Prop :=
  ∀ (gd : Guard) (a reg : Field10) (s : State) (gi : Nat) (g : Gang) (p : Path) (hm : HandlerMode),
    (Issues s (.eret gd) gi g p [] → g.handler = none → exec (.eret gd) s = .next (s.putGang gi { g with
        stopped := true
        pending := g.pending ++ [(⟨0x02, p.pc, 0, p.mask, 3⟩, none)] })) ∧
    (Issues s (.eret gd) gi g p [] → g.handler = some hm → guardLanes g p gd ≠ 0 → p.mask ≠ hm.path ∨ g.stack.length ≠ hm.depth →
      exec (.eret gd) s = .next (s.trap gi g p ⟨0x01, p.pc, 0, p.mask, 2⟩)) ∧
    (Issues s (.mts gd a reg) gi g p [] → reg.toNat < 0x10 → exec (.mts gd a reg) s = .next (s.trap gi g p ⟨0x02, p.pc, 0, p.mask, 1⟩)) ∧
    (Issues s (.mts gd a reg) gi g p [] → 0x20 ≤ reg.toNat → g.handler = none →
      exec (.mts gd a reg) s = .next (s.trap gi g p ⟨0x02, p.pc, 0, p.mask, 2⟩))

namespace Sys2Proof.Claim

/-- The registers of R377 as a lane reads them (R114, R115): number and value. -/
def sysTable (s : State) (g : Gang) (l : Nat) : List (Nat × DWord) :=
  let t := g.gangid * g.kd.gangw + l
  [(0x000, BitVec.ofNat 64 l), (0x001, BitVec.ofNat 64 g.gangid), (0x002, BitVec.ofNat 64 (t % g.kd.cx)),
    (0x003, BitVec.ofNat 64 (t / g.kd.cx % g.kd.cy)), (0x004, BitVec.ofNat 64 (t / (g.kd.cx * g.kd.cy)))] ++
  [(0x005, g.cidx.setWidth 64), (0x006, g.cidy.setWidth 64), (0x007, g.cidz.setWidth 64), (0x008, g.ncidx.setWidth 64),
    (0x009, g.ncidy.setWidth 64), (0x00A, g.ncidz.setWidth 64), (0x00B, BitVec.ofNat 64 g.core), (0x00C, BitVec.ofNat 64 g.die),
    (0x00D, s.clock)] ++
  [(0x010, g.round.setWidth 64), (0x011, g.fpstat.setWidth 64), (0x012, g.xlctl.setWidth 64), (0x013, g.capctl.setWidth 64),
    (0x014, g.capstat.setWidth 64)] ++
  [(0x020, g.tcause.setWidth 64), (0x021, g.tpc), (0x022, g.taddr), (0x023, g.tlanes), (0x024, g.tinfo.setWidth 64)]

/-- No path of the gang waits for an atomic, whose flags come with its answer (R117, R259). -/
def NoAtomic (g : Gang) : Prop := ∀ o ∈ g.ops, ∀ gd op ty sp d a v x, o.instr ≠ .atom gd op ty sp d a v x

/-- A register of R377 that is 64 bits wide. -/
def wideReg (r : Nat) : Bool := r == 0x00D || r == 0x021 || r == 0x022 || r == 0x023

end Sys2Proof.Claim

/-- R375, R377: `mfs` into a vector register gives each lane with a true guard its value of the register, and into a uniform register the value
of the lowest such lane; a read of FPSTAT happens once no drain and no atomic of the gang is pending. -/
def Obligations.SystemRead : Prop :=
  ∀ (gd : Guard) (d reg : Field10) (s : State) (gi : Nat) (g : Gang) (p : Path) (x : Nat → DWord),
    (∀ l, (reg.toNat, x l) ∈ sysTable s g l) → (reg.toNat = 0x011 → drainPending s gi g = false ∧ NoAtomic g) → spOk 0 g.v = true → spOk 0 g.s = true →
    let ty : Ty := if wideReg reg.toNat then .b64 else .b32
    let m := guardLanes g p gd
    (Issues s (.mfs gd true d reg) gi g p (vregs ty d) →
      ∃ g', exec (.mfs gd true d reg) s = .next (pastInstr s gi p 8 g') ∧ WroteV g g' ty d m x) ∧
    (Issues s (.mfs gd false d reg) gi g p [] → m ≠ 0 →
      ∃ g' l, exec (.mfs gd false d reg) s = .next (pastInstr s gi p 8 g') ∧ WroteS g g' ty d (x l) ∧
        m.getLsbD l = true ∧ ∀ k, k < l → m.getLsbD k = false)

/-- R46, R140, R170, R204, R376: what `mts` leaves in each register that software can write: reserved bits are ignored, ROUND.MODE keeps its
value against 5 to 7, CAPCTL.THRESH is at least 4, CAPSTAT.ACTIVE is not written, and neither is a CAPSTAT.LAST of 9 to 15; the other fields of CAPSTAT are. -/
def Obligations.SystemWrite : Prop :=
  ∀ (gd : Guard) (a reg : Field10) (s : State) (gi : Nat) (g : Gang) (p : Path),
    Issues s (.mts gd a reg) gi g p [] → guardLanes g p gd ≠ 0 → 0x10 ≤ reg.toNat → (0x20 ≤ reg.toNat → g.handler.isSome = true) →
    (reg.toNat = 0x011 → drainPending s gi g = false ∧ NoAtomic g) →
    let x := getS g a.toNat
    let w := getSS g a.toNat
    ∃ g', exec (.mts gd a reg) s = .next (pastInstr s gi p 8 g') ∧
      (reg.toNat = 0x010 → g' = { g with round := g'.round } ∧ g'.round.toNat < 16 ∧ g'.round.getLsbD 3 = x.getLsbD 3 ∧
        (g'.round.extractLsb' 0 3 = if (x.extractLsb' 0 3).toNat ≤ 4 then x.extractLsb' 0 3 else g.round.extractLsb' 0 3)) ∧
      (reg.toNat = 0x011 → g' = { g with fpstat := x &&& 0x7F }) ∧
      (reg.toNat = 0x012 → g' = { g with xlctl := x &&& 3 }) ∧
      (reg.toNat = 0x013 → g' = { g with capctl := g'.capctl } ∧ g'.capctl.toNat < 2 ^ 16 ∧ g'.capctl.extractLsb' 0 2 = x.extractLsb' 0 2 ∧
        g'.capctl.extractLsb' 2 6 = 0 ∧ (g'.capctl.extractLsb' 8 8).toNat = max 4 (x.extractLsb' 8 8).toNat) ∧
      (reg.toNat = 0x014 → g' = { g with capstat := g'.capstat } ∧ g'.capstat.getLsbD 4 = g.capstat.getLsbD 4 ∧
        g'.capstat.extractLsb' 16 16 = x.extractLsb' 16 16 ∧ g'.capstat.extractLsb' 5 7 = x.extractLsb' 5 7 ∧ g'.capstat.extractLsb' 0 4 = 0 ∧
        g'.capstat.extractLsb' 12 4 = if (x.extractLsb' 12 4).toNat ≤ 8 then x.extractLsb' 12 4 else g.capstat.extractLsb' 12 4) ∧
      (reg.toNat = 0x020 → g' = { g with tcause := x &&& 0xFF }) ∧
      (reg.toNat = 0x021 → g' = { g with tpc := w }) ∧
      (reg.toNat = 0x022 → g' = { g with taddr := w }) ∧
      (reg.toNat = 0x023 → g' = { g with tlanes := w }) ∧
      (reg.toNat = 0x024 → g' = { g with tinfo := x })

namespace Sys2Proof.Claim

/-- Lane `l` is named by the mask operand `a` of a cross-lane instruction (R138, R142). -/
def named (g : Gang) (a : Field10) (l : Nat) : Bool :=
  decide (l < 64 ∧ l < g.kd.gangw) && (a == 0x3FF#10 || (getSS g a.toNat).getLsbD l)

/-- Some named lane is absent (R139). -/
def anyMissing (g : Gang) (a : Field10) (m : LaneMask) : Bool := (List.range 64).any fun l => named g a l && !m.getLsbD l

/-- The members: named lanes that are present (R138). -/
def members (g : Gang) (a : Field10) (m : LaneMask) : List Nat := (lanesOf m).filter (named g a)

/-- The gang with MISS set if a named lane was absent (R139, R140). -/
def withMissing (g : Gang) (a : Field10) (m : LaneMask) (g' : Gang) : Gang :=
  { g' with xlctl := g'.xlctl ||| if anyMissing g a m then 1 else 0 }

/-- XLMISS would be raised (R139). -/
def wouldTrap (g : Gang) (a : Field10) (m : LaneMask) : Bool := anyMissing g a m && g.xlctl.getLsbD 1

/-- XLMISS of a cross-lane instruction: TLANES holds the absent named lanes and TINFO the minor code (R139, R360). -/
def MissTrap (i : Instr) (s : State) (gi : Nat) (g : Gang) (p : Path) (a : Field10) (m : LaneMask) (minor : Word) : Prop :=
  ∃ lanes : LaneMask, exec i s = .next (s.trap gi g p ⟨0x07, p.pc, 0, lanes, minor⟩) ∧ ∀ k, k < 64 → lanes.getLsbD k = (named g a k && !m.getLsbD k)

/-- The fixed pairwise tree of R145 over 2^n positions from `base`: a node with one full child passes it on. -/
def pairTree {α : Type} (op : α → α → α) (leaf : Nat → Option α) : Nat → Nat → Option α
  | 0, base => leaf base
  | n + 1, base =>
    match pairTree op leaf n base, pairTree op leaf n (base + 2 ^ n) with
    | some x, some y => some (op x y)
    | some x, none => some x
    | none, y => y

/-- The value of a reduction over a set of lanes (R145), with the flags that its leaves and nodes raise. -/
def treeValue (g : Gang) (op : XOp) (ty : Ty) (rm : RSel) (b : Src) (mem : List Nat) : Nat × FFlags :=
  let node (x y : Nat × FFlags) : Nat × FFlags := let r := xopNode g op ty rm x.1 y.1; (r.1, x.2 ||| y.2 ||| r.2)
  (pairTree node (fun l => if l ∈ mem then some (xopLeaf g ty (readB g ty b l)) else none) 6 0).getD (xopIdentity op ty, 0)

end Sys2Proof.Claim

/-- R138, R139, R143, R144: with no lane present `vote` writes nothing and goes past. `vote` with a lane present and no XLMISS writes the ballot into the uniform pair, sets p(PD) to (ballot ≠ 0) in the
present lanes, and sets MISS when a named lane is absent, or raises XLMISS when XLEN is set, with the absent named lanes and its minor code 0. `shfl` gives each present lane the value of its source lane when that lane is
present, else its own; an absent source lane below 64, or a selector of 64 or more, sets MISS, or raises XLMISS when XLEN is set, with the
absent lanes and TINFO 1, or 0x201 with a high selector. -/
def Obligations.VoteShuffle : Prop :=
  ∀ (gd : Guard) (ty : Ty) (d a : Field10) (b : Src) (pd ps : BitVec 4) (s : State) (gi : Nat) (g : Gang) (p : Path),
    let m := guardLanes g p gd
    let sel (l : Nat) : Nat := (readB32 g b l).toNat
    let absent (k : Nat) : Bool := !m.getLsbD k && (lanesOf m).any (fun l => sel l == k)
    let high := (lanesOf m).any (fun l => decide (64 ≤ sel l))
    let missing := high || (List.range 64).any absent
    (Issues s (.vote gd d a pd ps) gi g p [] → spOk 0 g.s = true → spOk 0 g.p = true → m ≠ 0 → wouldTrap g a m = false →
      ∃ g1 g2 ballot, exec (.vote gd d a pd ps) s = .next (pastInstr s gi p 8 (withMissing g a m g2)) ∧
        (∀ l, l < 64 → ballot.getLsbD l = (decide (l ∈ members g a m) && (getPred g ps).getLsbD l)) ∧
        WroteS g g1 .b64 d ballot ∧ WroteP g1 g2 pd m (fun _ => ballot != 0)) ∧
    (Issues s (.vote gd d a pd ps) gi g p [] → m = 0 → exec (.vote gd d a pd ps) s = .next (pastInstr s gi p 8 g)) ∧
    (Issues s (.vote gd d a pd ps) gi g p [] → m ≠ 0 → wouldTrap g a m = true → MissTrap (.vote gd d a pd ps) s gi g p a m 0) ∧
    (Issues s (.shfl gd ty d a b) gi g p (vregs ty a ++ vregsB .i32 b ++ vregs ty d) → spOk 0 g.v = true →
      Unpoisoned g m (vregs ty a ++ vregsB .i32 b) →
      (missing = false ∨ g.xlctl.getLsbD 1 = false →
        ∃ g', exec (.shfl gd ty d a b) s = .next (pastInstr s gi p 8 { g' with xlctl := g.xlctl ||| if missing then 1 else 0 }) ∧
          WroteV g g' ty d m (fun l => readV g ty a (if sel l < 64 ∧ m.getLsbD (sel l) = true then sel l else l))) ∧
      (missing = true → g.xlctl.getLsbD 1 = true →
        ∃ lanes : LaneMask, exec (.shfl gd ty d a b) s = .next (s.trap gi g p ⟨0x07, p.pc, 0, lanes, if high then 0x201 else 1⟩) ∧
          ∀ k, k < 64 → lanes.getLsbD k = absent k))

/-- R138, R139, R145, R146: with no lane present `xred` and `xscan` write nothing and go past. `xred` and `xscan` with a lane present and no XLMISS write the value of the fixed tree over the members, or over the
members up to each lane's own position, and OR the flags of the nodes into FPSTAT; MISS is set when a named lane is absent. With XLEN set an absent named lane
raises XLMISS, with the minor code 2 or 3. -/
def Obligations.ReductionResult : Prop :=
  ∀ (gd : Guard) (ty : Ty) (rm : RSel) (op : XOp) (inc : Bool) (d a : Field10) (b : Src) (s : State) (gi : Nat) (g : Gang) (p : Path),
    let m := guardLanes g p gd
    let r := treeValue g op ty rm b (members g a m)
    let q (l : Nat) := treeValue g op ty rm b ((members g a m).filter (fun k => if inc then decide (k ≤ l) else decide (k < l)))
    (m = 0 →
      (∀ ud, Issues s (.xred gd ty rm op ud d a b) gi g p (vregsB ty b ++ if ud then [] else vregs ty d) →
        exec (.xred gd ty rm op ud d a b) s = .next (pastInstr s gi p 8 g)) ∧
      (Issues s (.xscan gd ty rm op inc d a b) gi g p (vregsB ty b ++ vregs ty d) →
        exec (.xscan gd ty rm op inc d a b) s = .next (pastInstr s gi p 8 g))) ∧
    (spOk 0 g.v = true → spOk 0 g.s = true → m ≠ 0 → Unpoisoned g m (vregsB ty b) →
    (wouldTrap g a m = true →
      (Issues s (.xred gd ty rm op false d a b) gi g p (vregsB ty b ++ vregs ty d) → MissTrap (.xred gd ty rm op false d a b) s gi g p a m 2) ∧
      (Issues s (.xred gd ty rm op true d a b) gi g p (vregsB ty b) → MissTrap (.xred gd ty rm op true d a b) s gi g p a m 2) ∧
      (Issues s (.xscan gd ty rm op inc d a b) gi g p (vregsB ty b ++ vregs ty d) → MissTrap (.xscan gd ty rm op inc d a b) s gi g p a m 3)) ∧
    (wouldTrap g a m = false →
    (Issues s (.xred gd ty rm op false d a b) gi g p (vregsB ty b ++ vregs ty d) →
      ∃ g', exec (.xred gd ty rm op false d a b) s = .next (pastInstr s gi p 8 (withMissing g a m (withFlags g' r.2))) ∧
        WroteV g g' ty d m (fun _ => BitVec.ofNat 64 r.1)) ∧
    (Issues s (.xred gd ty rm op true d a b) gi g p (vregsB ty b) →
      ∃ g', exec (.xred gd ty rm op true d a b) s = .next (pastInstr s gi p 8 (withMissing g a m (withFlags g' r.2))) ∧
        WroteS g g' ty d (BitVec.ofNat 64 r.1)) ∧
    (Issues s (.xscan gd ty rm op inc d a b) gi g p (vregsB ty b ++ vregs ty d) →
      ∃ g' fl, exec (.xscan gd ty rm op inc d a b) s = .next (pastInstr s gi p 8 (withMissing g a m (withFlags g' fl))) ∧
        FlagsOf m (fun l => (q l).2) fl ∧ WroteV g g' ty d m (fun l => BitVec.ofNat 64 (q l).1))))

/-- R138, R139, R147, R148: with no lane present `match`, `xcomp` and `xexp` write nothing and go past. `match`, `xcomp` and `xexp` with a lane present and no XLMISS: the members equal to each lane; the values of the members
with p(PS) moved to the first members in order; and the reverse. Every other present lane keeps v(D) and has p(PD) cleared. With XLEN set an absent named lane
raises XLMISS, with the minor code 4, 5 or 6. -/
def Obligations.MoveResult : Prop :=
  ∀ (gd : Guard) (ty : Ty) (d a : Field10) (b : Src) (pd ps : BitVec 4) (s : State) (gi : Nat) (g : Gang) (p : Path),
    let m := guardLanes g p gd
    let ms := members g a m
    let ts := ms.filter (fun l => (getPred g ps).getLsbD l)
    let moved (dst src : List Nat) (g1 g2 : Gang) : Prop :=
      g1 = g.withV g1.v g1.vpoison ∧
      (∀ r l, l < 64 → (l ∉ dst.take src.length → getV g1 r l = getV g r l)) ∧
      (∀ k, k < dst.length → k < src.length → readV g1 ty d (dst.getD k 0) = readB g ty b (src.getD k 0)) ∧
      (∀ r l, r ∉ vregs ty d → l < 64 → getV g1 r l = getV g r l) ∧
      WroteP g1 g2 pd m (fun l => decide (l ∈ dst.take src.length))
    (m = 0 →
      (Issues s (.xmatch gd ty d a b) gi g p (vregsB ty b ++ vregs .b64 d) → exec (.xmatch gd ty d a b) s = .next (pastInstr s gi p 8 g)) ∧
      (Issues s (.xcomp gd ty d a b pd ps) gi g p (vregsB ty b ++ vregs ty d) → exec (.xcomp gd ty d a b pd ps) s = .next (pastInstr s gi p 8 g)) ∧
      (Issues s (.xexp gd ty d a b pd ps) gi g p (vregsB ty b ++ vregs ty d) → exec (.xexp gd ty d a b pd ps) s = .next (pastInstr s gi p 8 g))) ∧
    (spOk 0 g.v = true → spOk 0 g.p = true → m ≠ 0 → Unpoisoned g m (vregsB ty b) →
    (wouldTrap g a m = true →
      (Issues s (.xmatch gd ty d a b) gi g p (vregsB ty b ++ vregs .b64 d) → MissTrap (.xmatch gd ty d a b) s gi g p a m 4) ∧
      (Issues s (.xcomp gd ty d a b pd ps) gi g p (vregsB ty b ++ vregs ty d) → MissTrap (.xcomp gd ty d a b pd ps) s gi g p a m 5) ∧
      (Issues s (.xexp gd ty d a b pd ps) gi g p (vregsB ty b ++ vregs ty d) → MissTrap (.xexp gd ty d a b pd ps) s gi g p a m 6)) ∧
    (wouldTrap g a m = false →
    (Issues s (.xmatch gd ty d a b) gi g p (vregsB ty b ++ vregs .b64 d) →
      ∃ g' x, exec (.xmatch gd ty d a b) s = .next (pastInstr s gi p 8 (withMissing g a m g')) ∧ WroteV g g' .b64 d m x ∧
        ∀ l k, k < 64 → (x l).getLsbD k = (decide (k ∈ ms) && readB g ty b k == readB g ty b l)) ∧
    (Issues s (.xcomp gd ty d a b pd ps) gi g p (vregsB ty b ++ vregs ty d) →
      ∃ g1 g2, exec (.xcomp gd ty d a b pd ps) s = .next (pastInstr s gi p 8 (withMissing g a m g2)) ∧ moved ms ts g1 g2) ∧
    (Issues s (.xexp gd ty d a b pd ps) gi g p (vregsB ty b ++ vregs ty d) →
      ∃ g1 g2, exec (.xexp gd ty d a b pd ps) s = .next (pastInstr s gi p 8 (withMissing g a m g2)) ∧ moved ts ms g1 g2)))
-- Memory

namespace Sys2Proof.Claim

/-- No operation of path `p` is in flight, and those of the gang's other paths have sent their requests (R117). -/
def NoOp (g : Gang) (p : Path) : Prop := ∀ o ∈ g.ops, o.path ≠ p.id ∧ o.unsent = []

/-- The offsets of the lanes of a `.s` or `.q` access are aligned and within the bound of the space, their bytes lie in one core's local
store, in one line of it, and no Ox instruction of the gang is going to write them (R221, R268, R346). -/
structure LocalOk (s : State) (gi : Nat) (g : Gang) (p : Path) (sp : Space) (ma : MemAddr) (size : Nat) (mk : LaneMask) : Prop where
  space : sp ≠ .g
  op : NoOp g p
  lanes : mk ≠ 0
  aligned : ∀ l ∈ lanesOf mk, (eaLocal g ma size l).toNat % size = 0
  bound : ∀ l ∈ lanesOf mk, (eaLocal g ma size l).toNat + size ≤ localBound g sp
  inside : ∀ l ∈ lanesOf mk, (localWhere g sp (eaLocal g ma size l).toNat).2 % size = 0 ∧
    (localWhere g sp (eaLocal g ma size l).toNat).2 + size ≤ 2 ^ 18
  free : extentHolds s gi g sp size (laneAddrs g sp ma size mk) = false

/-- No word that the lanes touch is poisoned (R369). -/
def LocalClean (s : State) (g : Gang) (sp : Space) (ma : MemAddr) (size : Nat) (mk : LaneMask) : Prop :=
  ∀ l ∈ lanesOf mk, let w := localWhere g sp (eaLocal g ma size l).toNat
    poisonedAt (s.coreAt g.die w.1).mpoison w.2 size = false

/-- A block of `n` registers from v(d) is written in the lanes of `m`, and every other register, and everything else of the gang but the
poison marks of those registers, is as before. -/
structure WroteBlock (g g' : Gang) (d n : Nat) (m : LaneMask) (x : Nat → Nat → Word) : Prop where
  rest : g' = g.withV g'.v g'.vpoison
  regs : ∀ r l, l < 64 → getV g' r l = if m.getLsbD l = true ∧ d ≤ r ∧ r < d + n then x l (r - d) else getV g r l
  marks : ∀ r l, l < 64 → g'.vpoison.contains (64 * r + l) =
    (g.vpoison.contains (64 * r + l) && !(m.getLsbD l && decide (d ≤ r ∧ r < d + n)))

/-- A load performed at issue: the path waits, and LOCAL_LOAD_RETURN, when no other path's access is answered, leaves the gang as `g'`, past the
instruction. -/
def LoadsLocal (i : Instr) (s : State) (gi : Nat) (g : Gang) (p : Path) (g' : Gang) : Prop :=
  ∃ op, op.path = p.id ∧ exec i s = .next (s.putGang gi (waitPath (putOp g op) p.id .mem)) ∧
    ((∀ o ∈ g.ops, o.waits ≠ []) →
      exec (.localLoadReturn gi) (s.putGang gi (waitPath (putOp g op) p.id .mem)) = .next (pastInstr s gi p 8 g'))

/-- The bytes of a core's local stores after an access: byte `a` of core `c` is what `f` says where it says something, and else as before;
nothing of the state changes but the path and these local stores. -/
def LocalWrites (s t : State) (gi : Nat) (g g' : Gang) (f : Nat → Nat → Option Byte) : Prop :=
  t = { s.putGang gi g' with cores := t.cores } ∧
  (∀ d c, (∀ k a, f k a ≠ none → coreKey d c ≠ coreKey g.die k) → t.coreAt d c = s.coreAt d c) ∧
  (∀ c, t.coreAt g.die c = { s.coreAt g.die c with mem := (t.coreAt g.die c).mem, mpoison := (t.coreAt g.die c).mpoison }) ∧
  (∀ c a, localByte (t.coreAt g.die c).mem a = (f c a).getD (localByte (s.coreAt g.die c).mem a)) ∧
  (∀ c w, (t.coreAt g.die c).mpoison.contains w =
    ((s.coreAt g.die c).mpoison.contains w && !(List.range 8).all (fun i => (f c (8 * w + i)).isSome)))

/-- The cores and their local stores are in their canonical form. -/
def CoresOk (s : State) : Prop := spOk Core.reset s.cores = true ∧ ∀ d c, spOk 0 (s.coreAt d c).mem = true

/-- The byte that a store of lanes leaves at local address `a` of core `c`: that of the highest lane that covers it (R253). -/
def storedByte (g : Gang) (sp : Space) (ma : MemAddr) (size : Nat) (mk : LaneMask) (bytes : Nat → List Byte) (c a : Nat) : Option Byte :=
  let covers (l : Nat) : Bool :=
    let w := localWhere g sp (eaLocal g ma size l).toNat
    w.1 == c && decide (w.2 ≤ a ∧ a < w.2 + size)
  (((lanesOf mk).filter covers).getLast?).map fun l => (bytes l).getD (a - (localWhere g sp (eaLocal g ma size l).toNat).2) 0

/-- One atomic operation on an element of `size` bytes: its new value (R258). -/
def atomStep (op : AtomOp) (ty : Ty) (old : DWord) (y : DWord × DWord) : DWord :=
  BitVec.ofNat 64 ((atomNew op ty old y.1 y.2).1.toNat % 2 ^ (8 * accessSize ty))

/-- The value of an element after the operations of some lanes, one after another (R259). -/
def atomChain (op : AtomOp) (ty : Ty) (g : Gang) (d : Field10) (start : DWord) (lanes : List Nat) : DWord :=
  lanes.foldl (fun x l => atomStep op ty x (atomOperands g op ty d l)) start

end Sys2Proof.Claim

/-- R221, R222, R248, R251, R257: a `.s` or `.q` load of aligned lanes within the bound reads the bytes of each lane's address as they stand at
issue; its path waits, nothing else changes, and LOCAL_LOAD_RETURN writes the values, extended by type, and moves the path on. `ldb` writes a block
of registers. (That the values are those of issue is the model's reading, log entry 43.) -/
def Obligations.LocalLoad : Prop :=
  ∀ (gd : Guard) (ty : Ty) (sp : Space) (cau na : Bool) (bl : BitVec 2) (d : Field10) (ma : MemAddr) (s : State) (gi : Nat) (g : Gang) (p : Path),
    let mk := guardLanes g p gd
    let ld : Instr := .ld gd ty sp cau na d ma
    let ldb : Instr := .ldb gd sp na bl d ma
    Current g p → spOk 0 g.v = true → Unpoisoned g mk (indexRegs ma) →
    (Issues s ld gi g p (indexRegs ma ++ vregs ty d) → LocalOk s gi g p sp ma (accessSize ty) mk → LocalClean s g sp ma (accessSize ty) mk →
      ∃ g', WroteV g g' ty d mk (fun l => extendLoad ty (natLE (localRead s g sp (eaLocal g ma (accessSize ty) l).toNat (accessSize ty)))) ∧
        LoadsLocal ld s gi g p g') ∧
    (Issues s ldb gi g p (indexRegs ma ++ vrange d (4 * 2 ^ bl.toNat)) → LocalOk s gi g p sp ma (blockSize bl) mk →
      LocalClean s g sp ma (blockSize bl) mk →
      ∃ g', WroteBlock g g' d.toNat (4 * 2 ^ bl.toNat) mk (fun l i => BitVec.ofNat 32 (natLE (((localRead s g sp
          (eaLocal g ma (blockSize bl) l).toNat (blockSize bl)).drop (4 * i)).take 4))) ∧
        LoadsLocal ldb s gi g p g')

/-- R221, R248, R251, R253, R257, R263: a `.s` or `.q` store whose gate is open writes the bytes of each lane at its address, the highest lane
winning a byte, and every other byte of every local store and of memory stays; a word of the local store that is written whole loses its poison. -/
def Obligations.LocalStore : Prop :=
  ∀ (gd : Guard) (ty : Ty) (sp : Space) (blk na : Bool) (bl : BitVec 2) (d : Field10) (ma : MemAddr) (s : State) (gi : Nat) (g : Gang) (p : Path),
    let mk := guardLanes g p gd
    let st : Instr := .st gd ty sp blk na d ma
    let stb : Instr := .stb gd sp na bl d ma
    CoresOk s → gateOpen s g = true →
    (Issues s st gi g p (indexRegs ma ++ vregs ty d) → LocalOk s gi g p sp ma (accessSize ty) mk → Unpoisoned g mk (indexRegs ma ++ vregs ty d) →
      ∃ t, exec st s = .next t ∧ LocalWrites s t gi g (advance g p.id 8 s.seq)
        (storedByte g sp ma (accessSize ty) mk (fun l => bytesLE (accessSize ty) (readV g ty d l).toNat))) ∧
    (Issues s stb gi g p (indexRegs ma ++ vrange d (4 * 2 ^ bl.toNat)) → LocalOk s gi g p sp ma (blockSize bl) mk →
      Unpoisoned g mk (indexRegs ma ++ vrange d (4 * 2 ^ bl.toNat)) →
      ∃ t, exec stb s = .next t ∧ LocalWrites s t gi g (advance g p.id 8 s.seq)
        (storedByte g sp ma (blockSize bl) mk (fun l => (List.range (4 * 2 ^ bl.toNat)).flatMap (fun i => bytesLE 4 (getV g (d.toNat + i) l).toNat))))

/-- R258 to R260, R280: a `.s` or `.q` atomic performs its lanes one after another, in rising order, on the elements at their addresses; its
path waits, and LOCAL_LOAD_RETURN, when no other path's access is answered, writes the prior value that each lane saw, ORs the flags into FPSTAT and
moves the path on. -/
def Obligations.LocalAtomic : Prop :=
  ∀ (gd : Guard) (op : AtomOp) (ty : Ty) (sp : Space) (d sb vi off : Field10) (s : State) (gi : Nat) (g : Gang) (p : Path),
    let mk := guardLanes g p gd
    let ma : MemAddr := ⟨false, sb, vi, off⟩
    let i : Instr := .atom gd op ty sp d sb vi off
    let w (l : Nat) := localWhere g sp (eaLocal g ma (accessSize ty) l).toNat
    let start (l : Nat) : DWord := BitVec.ofNat 64 (natLE (localRead s g sp (eaLocal g ma (accessSize ty) l).toNat (accessSize ty)))
    let prior (l : Nat) : DWord := atomChain op ty g d (start l) ((lanesOf mk).filter (fun k => decide (k < l) && w k == w l))
    let final (l : Nat) : DWord := atomChain op ty g d (start l) ((lanesOf mk).filter (fun k => w k == w l))
    CoresOk s → gateOpen s g = true → Current g p → spOk 0 g.v = true → Issues s i gi g p (indexRegs ma ++ atomRegs op ty d) →
    LocalOk s gi g p sp ma (accessSize ty) mk → LocalClean s g sp ma (accessSize ty) mk → Unpoisoned g mk (indexRegs ma ++ atomRegs op ty d) →
    ∃ t o g' fl, o.path = p.id ∧ exec i s = .next t ∧
      LocalWrites s t gi g (waitPath (putOp g o) p.id .mem)
        (storedByte g sp ma (accessSize ty) mk (fun l => bytesLE (accessSize ty) (final l).toNat)) ∧
      WroteV g g' ty d mk prior ∧ FlagsOf mk (fun l => (atomNew op ty (prior l) (atomOperands g op ty d l).1 (atomOperands g op ty d l).2).2) fl ∧
      ((∀ x ∈ g.ops, x.waits ≠ []) → exec (.localLoadReturn gi) t = .next (pastInstr t gi p 8 (withFlags g' fl)))
namespace Sys2Proof.Claim

/-- A memory access: guard, space, address operand, size of an element, registers read and registers written, and whether it reads and writes
memory. -/
structure Access where
  gd : Guard
  sp : Space
  ma : MemAddr
  size : Nat
  rd : List Nat
  wr : List Nat
  reads : Bool
  writes : Bool

def accessOf : Instr → Option Access
  | .ld gd ty sp _ _ d m => some ⟨gd, sp, m, accessSize ty, indexRegs m, vregs ty d, true, false⟩
  | .st gd ty sp _ _ d m => some ⟨gd, sp, m, accessSize ty, indexRegs m ++ vregs ty d, [], false, true⟩
  | .ldb gd sp _ bl d m => some ⟨gd, sp, m, blockSize bl, indexRegs m, vrange d (4 * 2 ^ bl.toNat), true, false⟩
  | .stb gd sp _ bl d m => some ⟨gd, sp, m, blockSize bl, indexRegs m ++ vrange d (4 * 2 ^ bl.toNat), [], false, true⟩
  | .atom gd op ty sp d sb vi off =>
    some ⟨gd, sp, ⟨false, sb, vi, off⟩, accessSize ty, indexRegs ⟨false, sb, vi, off⟩ ++ atomRegs op ty d, [], true, true⟩
  | _ => none

/-- The address of a lane (R220, R221). -/
def Access.addr (a : Access) (g : Gang) (l : Nat) : DWord :=
  if a.sp = .g then eaGlobal g a.ma a.size l else (eaLocal g a.ma a.size l).setWidth 64

/-- The lanes of an access with a true guard and their addresses. -/
def Access.lanes (a : Access) (g : Gang) (p : Path) : List (Nat × DWord) := laneAddrs g a.sp a.ma a.size (guardLanes g p a.gd)

/-- The instruction traps for its lanes that satisfy `bad`; TADDR is the address of the lowest of them. -/
def TrapsFor (i : Instr) (s : State) (gi : Nat) (g : Gang) (p : Path) (mk : LaneMask) (cause info : Word) (addr : Nat → DWord) (bad : Nat → Bool) : Prop :=
  ∃ lanes : LaneMask, (∀ k, k < 64 → lanes.getLsbD k = (mk.getLsbD k && bad k)) ∧
    exec i s = .next (s.trap gi { g with xc := Xc.empty } p ⟨cause, p.pc, addr (lowestLane lanes), lanes, info⟩)

/-- A global access with a true guard and nothing in the way of its issue, whose pages answer: the places of its lanes, the answers, what is
left of the gang's translations, and the state after the look-up (R241). -/
structure GlobalReady (s : State) (i : Instr) (gi : Nat) (g : Gang) (p : Path) (a : Access) (places : List (Nat × Nat)) (xls : List (Nat × Xl))
    (x : Xc) (s1 : State) : Prop where
  access : accessOf i = some a
  issues : Issues s i gi g p (a.rd ++ a.wr)
  space : a.sp = .g
  op : NoOp g p
  lanes : guardLanes g p a.gd ≠ 0
  clean : Unpoisoned g (guardLanes g p a.gd) a.rd
  aligned : ∀ l ∈ lanesOf (guardLanes g p a.gd), (a.addr g l).toNat % a.size = 0
  ready : translateLanes s g a.reads a.writes (a.lanes g p) = (.ready places xls, x, s1)
  placed : ∀ y ∈ places, y.2 % a.size = 0

/-- The bytes and the class (bulk or ordered) of a store (R248, R250, R257). -/
def storeOf (g : Gang) : Instr → Option (Bool × (Nat → List Byte))
  | .st _ ty _ blk _ d _ => some (blk, fun l => bytesLE (accessSize ty) (readV g ty d l).toNat)
  | .stb _ _ _ bl d _ => some (false, fun l => (List.range (4 * 2 ^ bl.toNat)).flatMap (fun i => bytesLE 4 (getV g (d.toNat + i) l).toNat))
  | _ => none

/-- An operation that returns its value causally: a causal load or an atomic of global memory (R275). -/
def returnsCausally (i : Instr) : Bool :=
  match i with
  | .ld _ _ sp cau _ _ _ => cau && sp == .g
  | .atom _ _ _ sp _ _ _ _ => sp == .g
  | _ => false

/-- No causal load or atomic of global memory of the gang's other paths has still to return (R117, R273, R275). -/
def CausalDone (g : Gang) (p : Path) : Prop := ∀ o ∈ g.ops, o.path ≠ p.id → returnsCausally o.instr = false

/-- The lanes of a line that write byte `b` of it. -/
def writers (places : List (Nat × Nat)) (size b : Nat) : List (Nat × Nat) := places.filter (fun y => decide (y.2 % 64 ≤ b ∧ b < y.2 % 64 + size))

/-- All lanes touch line `key`, its page is one of this package's, home `h` serves it, and nothing else of the gang is in its way. -/
structure OneLine (s1 : State) (g : Gang) (places : List (Nat × Nat)) (xls : List (Nat × Xl)) (load : Bool) (key h : Nat) (t : Target) (r : Xl) : Prop where
  one : ∀ y ∈ places, y.2 / 64 = key
  answer : ∃ y, places.head? = some y ∧ look xls y.1 = some r ∧ t = targetOf s1 g.die load (64 * key) r ∧
    (match r with | .remote _ _ => False | _ => True)
  home : t.dst = some h
  far : t.remote = false
  idle : ∀ o ∈ g.outst, o.line ≠ key
  flights : spOk [] s1.flights = true

/-- The request `r` went out from die `die` to home `h` as packet `pk`; those outstanding before stay, each with its tag and home. -/
def Sent (s1 t : State) (die h : Nat) (r : Req) (pk : Packet) : Prop :=
  (∃ old, t.reqs = old ++ [r] ∧ old.map (fun q => (q.tag, q.die, q.home)) = s1.reqs.map (fun q => (q.tag, q.die, q.home))) ∧ r.tag = s1.fresh ∧ r.die = die ∧ r.home = h ∧ pk.tag = r.tag ∧ pk.src = die ∧ pk.dst = h ∧
  spGet [] t.flights (flightKey die h (chanOf pk.op)) = spGet [] s1.flights (flightKey die h (chanOf pk.op)) ++ [pk]

end Sys2Proof.Claim

/-- R23, R220, R221, R268: an access whose guard holds in no lane goes past its instruction. With a lane whose address is not a multiple of the
element's size it raises ALIGN, and with an aligned offset past the bound of a local space PROT with TINFO 0x57: the lanes at fault, and the
address of the lowest of them. -/
def Obligations.AccessTraps : Prop :=
  ∀ (i : Instr) (a : Access) (s : State) (gi : Nat) (g : Gang) (p : Path), accessOf i = some a → Issues s i gi g p (a.rd ++ a.wr) → NoOp g p →
    let mk := guardLanes g p a.gd
    let off (l : Nat) : Bool := (a.addr g l).toNat % a.size != 0
    let out (l : Nat) : Bool := decide (localBound g a.sp < (a.addr g l).toNat + a.size)
    (mk = 0 → exec i s = .next (pastInstr s gi p 8 g)) ∧
    (Unpoisoned g mk a.rd → (lanesOf mk).any off = true → TrapsFor i s gi g p mk 0x03 0 (a.addr g) off) ∧
    (Unpoisoned g mk a.rd → (lanesOf mk).any off = false → a.sp ≠ .g → (lanesOf mk).any out = true →
      TrapsFor i s gi g p mk 0x05 0x57 (a.addr g) out)

/-- R224, R230, R252, R268: no global load, store or atomic whose pages answer changes HBM, a uniform register or a predicate at its issue. A plain
load whose lines all stand in the L1 of its core, with a good check and without poison, writes their bytes and goes on at once; with no line there it asks the home of
each line once, and waits. -/
def Obligations.GlobalLoad : Prop :=
  (∀ (i : Instr) (s : State) (gi : Nat) (g : Gang) (p : Path) (a : Access) (places : List (Nat × Nat)) (xls : List (Nat × Xl)) (x : Xc) (s1 : State),
    GlobalReady s i gi g p a places xls x s1 →
    ∃ t g', exec i s = .next t ∧ t.hbm = s.hbm ∧ t.gang gi = some g' ∧ g'.s = g.s ∧ g'.p = g.p) ∧
  (∀ (gd : Guard) (ty : Ty) (na : Bool) (bl : BitVec 2) (d : Field10) (ma : MemAddr) (s : State) (gi : Nat) (g : Gang) (p : Path) (a : Access)
      (places : List (Nat × Nat)) (xls : List (Nat × Xl)) (x : Xc) (s1 : State),
    let ld : Instr := .ld gd ty .g false na d ma
    let ldb : Instr := .ldb gd .g na bl d ma
    let c := s1.coreAt g.die g.core
    let hit (y : Nat) : List Byte := match l1Line c (y / 64) with | some n => ((bytesLE 64 n.data.toNat).drop (y % 64)).take a.size | none => []
    let of (l : Nat) : Nat := (look places l).getD 0
    let got (l : Nat) : List Byte := hit (of l)
    let lines := (places.map (fun y => y.2 / 64)).eraseDups
    let asks (i : Instr) : Prop := ∃ t op new, exec i s = .next t ∧ t.reqs = s1.reqs ++ new ∧
      new.map (fun r => r.who) = lines.map (fun k => .load gi p.id k (!coreWrites s1 g.die g.core k) c.l1Epoch) ∧ (∀ r ∈ new, r.die = g.die) ∧
      t.gang gi = some (waitPath (putOp { g with xc := Xc.empty } op) p.id .mem) ∧ op.path = p.id ∧ op.waits = new.map (fun r => r.tag) ∧ op.instr = i
    Current g p → spOk 0 g.v = true → g.outst = [] →
    ((∀ y ∈ places, ∃ n, l1Line c (y.2 / 64) = some n ∧ n.poison = false) →
      (GlobalReady s ld gi g p a places xls x s1 →
        ∃ g', WroteV g g' ty d (guardLanes g p gd) (fun l => extendLoad ty (natLE (got l))) ∧
          exec ld s = .next (pastInstr s1 gi p 8 { g' with xc := Xc.empty })) ∧
      (GlobalReady s ldb gi g p a places xls x s1 →
        ∃ g', WroteBlock g g' d.toNat (4 * 2 ^ bl.toNat) (guardLanes g p gd) (fun l k => BitVec.ofNat 32 (natLE (((got l).drop (4 * k)).take 4))) ∧
          exec ldb s = .next (pastInstr s1 gi p 8 { g' with xc := Xc.empty }))) ∧
    ((∀ y ∈ places, l1Line c (y.2 / 64) = none ∧ ∀ r, look xls y.1 = some r → (targetOf s1 g.die true (64 * (y.2 / 64)) r).dst ≠ none ∧
        (targetOf s1 g.die true (64 * (y.2 / 64)) r).remote = false) →
      (GlobalReady s ld gi g p a places xls x s1 → asks ld) ∧ (GlobalReady s ldb gi g p a places xls x s1 → asks ldb)))

/-- R225, R250, R252 to R254, R259, R273, R275, R419, R420: a store, an atomic or a causal load to one line of this package, with room, sends one request to the
line's home. A store's packet enables the bytes that its lanes write, carries for each the byte of the highest lane, and the path goes on; the write
is outstanding. An atomic's packet carries its lanes in rising order with their operands, and, as for a causal load, the path waits. An ordered store or a causal load waits, with nothing sent, while a
causal load or an atomic of another path has not returned, and an atomic while any access of another path is in flight (for the others of these, the model's choice, log 134). -/
def Obligations.GlobalRequest : Prop :=
  ∀ (i : Instr) (s : State) (gi : Nat) (g : Gang) (p : Path) (a : Access) (places : List (Nat × Nat)) (xls : List (Nat × Xl)) (x : Xc) (s1 : State)
      (key h : Nat) (tg : Target) (xr : Xl),
    GlobalReady s i gi g p a places xls x s1 → gateOpen s1 g = true →
    let mk := guardLanes g p a.gd
    let went (r : Req) (ben : LaneMask) (bulk : Bool) : Gang :=
      { g with xc := Xc.empty, outst := g.outst ++ [⟨r.tag, h, key, ben, bulk, h == 16, p.pc, mk, a.addr g (lowestLane mk), refusalOf xr⟩],
               hostWrites := if h = 16 ∧ bulk = false then g.hostWrites ++ [r.tag] else g.hostWrites
               engineHost := if h = 16 ∧ bulk = true then g.engineHost ++ [(r.tag, a.addr g (lowestLane mk))] else g.engineHost }
    (∀ bulk bytes, storeOf g i = some (bulk, bytes) → OneLine s1 g places xls false key h tg xr →
      (bulk = true ∨ maySend s1 g.die h true = true ∧ CausalDone g p) →
      ∃ t r pk, exec i s = .next t ∧ Sent s1 t g.die h r pk ∧ r.who = .store gi ∧ pk.op = (if bulk then .bulkWrite else .orderedWrite) ∧
        pk.addr = tg.addr ∧ pk.asid = g.kd.asid ∧
        (∀ b, b < 64 → pk.ben.getLsbD b = !(writers places a.size b).isEmpty ∧
          ∀ y, (writers places a.size b).getLast? = some y → pk.data.getD b 0 = (bytes y.1).getD (b - y.2 % 64) 0) ∧
        t.gang gi = some (advance (went r pk.ben bulk) p.id 8 s.seq)) ∧
    (∀ gd op ty d sb vi off, i = .atom gd op ty .g d sb vi off → OneLine s1 g places xls false key h tg xr → maySend s1 g.die h true = true → g.ops = [] →
      (h = 16 → hostAtomic op ty = true) → (∀ y ∈ xls, match y.2 with | .host _ _ _ _ _ _ => h = 16 | _ => h ≠ 16) →
      ∃ t r pk o, exec i s = .next t ∧ Sent s1 t g.die h r pk ∧ r.who = .atomic gi p.id key ∧ pk.op = .atomic ∧ pk.addr = tg.addr ∧
        pk.atom = some ⟨op, ty, places.map (fun y => ⟨y.1, y.2 % 64, (atomOperands g op ty d y.1).1, (atomOperands g op ty d y.1).2⟩)⟩ ∧
        o.path = p.id ∧ o.waits = [r.tag] ∧ t.gang gi = some (waitPath (putOp (went r pk.ben false) o) p.id .mem)) ∧
    (∀ gd ty na d ma, i = .ld gd ty .g true na d ma → OneLine s1 g places xls true key h tg xr → maySend s1 g.die h false = true → CausalDone g p →
      ∃ t r pk o, exec i s = .next t ∧ Sent s1 t g.die h r pk ∧ r.who = .load gi p.id key false o.epoch ∧ pk.op = .causalLoad ∧ pk.addr = tg.addr ∧
        o.path = p.id ∧ o.waits = [r.tag] ∧ t.gang gi = some (waitPath (putOp { g with xc := Xc.empty } o) p.id .mem)) ∧
    (∀ o ∈ g.ops, o.path ≠ p.id →
      (returnsCausally o.instr = true → ((∃ bytes, storeOf g i = some (false, bytes)) ∨ ∃ gd ty na d ma, i = .ld gd ty .g true na d ma) →
        exec i s = .next (s1.putGang gi { g with xc := x })) ∧
      (∀ gd op ty d sb vi off, i = .atom gd op ty .g d sb vi off → hostAtomic op ty = true → exec i s = .next (s1.putGang gi { g with xc := x })))

/-- R165 to R167: `tld` writes the entry of the active bank that each lane names, clamped to 0 to 1023; `tldi` writes an entry, or the value between
two neighbouring finite entries by the lane's fraction, rounded once, or the canonical NaN beside a NaN, and ORs its flags into FPSTAT. Both read zero when the cohort does not
own the table. Each completes for all values of its operands where no entry that it reads is poisoned. -/
def Obligations.TableLookup : Prop :=
  ∀ (gd : Guard) (d sb vi off : Field10) (s : State) (gi : Nat) (g : Gang) (p : Path),
    let mk := guardLanes g p gd
    let vr : List Nat := if vi = 0x3FF#10 then [] else [vi.toNat]
    let c := s.coreAt g.die g.core
    let owns : Prop := c.tableOwner = some g.cohort
    let entry (n : Nat) : Word := BitVec.ofNat 32 (natLE ((List.range 4).map (fun k => localByte c.mem (0x3E000 + 0x1000 * c.bank + 4 * n + k))))
    let base : Int := if sb = 0x3FF#10 then 0 else (getS g sb.toNat).toInt
    let index (l : Nat) : Int := if vi = 0x3FF#10 then 0 else (getV g vi.toNat l).toInt
    let clamped (l : Nat) : Nat := (max 0 (min 1023 ((base + index l + 4 * off.toInt) / 4))).toNat
    let whole (l : Nat) : Int := (base + 4 * off.toInt) / 4 + index l / 2 ^ 16
    let part (l : Nat) : Nat := if 0 ≤ whole l ∧ whole l < 1023 then (index l % 2 ^ 16).toNat else 0
    let at_ (l : Nat) : Nat := (max 0 (min 1023 (whole l))).toNat
    let isNan (x : Word) : Bool := (x &&& 0x7FFFFFFF).toNat > 0x7F800000
    let sound (n : Nat) : Prop := poisonedAt c.mpoison (0x3E000 + 0x1000 * c.bank + 4 * n) 4 = false
    let f32 (x : Word) : XReal := (decodeF fmtF32 false x.toNat).1
    spOk 0 g.v = true → Unpoisoned g mk vr →
    (Issues s (.tld gd d sb vi off) gi g p (vr ++ [d.toNat]) → (owns → ∀ l ∈ lanesOf mk, sound (clamped l)) →
      ∃ g', exec (.tld gd d sb vi off) s = .next (pastInstr s gi p 8 g') ∧
        (owns → WroteV g g' .i32 d mk (fun l => (entry (clamped l)).setWidth 64)) ∧ (¬ owns → WroteV g g' .i32 d mk (fun _ => 0))) ∧
    (Issues s (.tldi gd d sb vi off) gi g p (vr ++ [d.toNat]) → (owns → ∀ l ∈ lanesOf mk, sound (at_ l) ∧ (part l ≠ 0 → sound (at_ l + 1))) →
      ∃ g' fl, exec (.tldi gd d sb vi off) s = .next (pastInstr s gi p 8 (withFlags g' fl)) ∧
        (¬ owns → fl = 0 ∧ WroteV g g' .i32 d mk (fun _ => 0)) ∧
        (owns → ∃ x : Nat → DWord, WroteV g g' .i32 d mk x ∧ ∀ l ∈ lanesOf mk,
          (part l = 0 → x l = if isNan (entry (at_ l)) then 0x7FC00000 else (entry (at_ l)).setWidth 64) ∧
          (part l ≠ 0 → (isNan (entry (at_ l)) = true ∨ isNan (entry (at_ l + 1)) = true → x l = 0x7FC00000) ∧
            (isFinite (f32 (entry (at_ l))) = true → isFinite (f32 (entry (at_ l + 1))) = true →
              ∃ y, isFinite y = true ∧ x l = BitVec.ofNat 64 (roundF fmtF32 .rne false y).1 ∧
                valueOf y = valueOf (f32 (entry (at_ l))) +
                  (part l : Rat) / 2 ^ 16 * (valueOf (f32 (entry (at_ l + 1))) - valueOf (f32 (entry (at_ l))))))))
/-- R226, R262 to R266, R267: the fences and cache instructions. With a false guard a `fence` goes past; with a true one it waits for the accesses of
the gang's other paths, and at `.gang` then goes past. `.acq` empties the L1 of its
core; `.rel` keeps the outstanding ordered writes for later stores to wait for, and at `.sys` the host writes too; `.ar` does both; `.sc` waits for
them, and at `.sys` for a zero-length read, and then empties the L1. `cinv` drops every line of the L1, or the lines of its lanes; `cwb` waits for the gang's ordered writes to its lines, asks every home of the lines
to write them back, and waits for the answers; `prf` and `prf.l2` ask for lines, the one for the L1 and the other for the homes' L2, and neither waits. None changes memory or a register.
That `cwb` and `prf.l2` ask with plain loads is the model's choice (log entry 41), and so is what a `.sys` fence waits for beside its zero-length read (log entry 42). -/
def Obligations.FenceCache : Prop :=
  ∀ (gd : Guard) (sem : FenceSem) (sc : Scope) (ma : MemAddr) (s : State) (gi : Nat) (g : Gang) (p : Path),
    let mk := guardLanes g p gd
    let f : Instr := .fence gd sem sc
    let emptied (t : State) : Prop := (t.coreAt g.die g.core).l1 = [] ∧
      t.coreAt g.die g.core = { s.coreAt g.die g.core with l1 := [], l1Epoch := (s.coreAt g.die g.core).l1Epoch + 1 } ∧
      ∀ d c, coreKey d c ≠ coreKey g.die g.core → t.coreAt d c = s.coreAt d c
    let gated : Gang := { g with
      storeGate := (g.outst.filter (fun o => !o.bulk)).map (fun o => o.tag), sysGate := if sc = .sys then g.hostWrites else g.sysGate }
    let passed (t : State) (g' : Gang) : Prop := t = { pastInstr s gi p 8 g' with cores := t.cores }
    let cleanRead (t : State) : Prop := t.hbm = s.hbm ∧ t.hostMem = s.hostMem
    let alone : Prop := ∀ o ∈ g.ops, o.path = p.id
    (spOk Core.reset s.cores = true → Issues s f gi g p [] →
      (mk = 0 → exec f s = .next (pastInstr s gi p 8 g)) ∧
      (mk ≠ 0 → ¬ alone → exec f s = .next s) ∧
      (mk ≠ 0 → alone → sc = .gang → exec f s = .next (pastInstr s gi p 8 g)) ∧
      (mk ≠ 0 → alone → sc ≠ .gang →
        (sem = .acq → ∃ t, exec f s = .next t ∧ passed t g ∧ emptied t) ∧
        (sem = .rel → exec f s = .next (pastInstr s gi p 8 gated)) ∧
        (sem = .ar → ∃ t, exec f s = .next t ∧ passed t gated ∧ emptied t) ∧
        (sem = .sc → undelivered g = true → exec f s = .next s) ∧
        (sem = .sc → undelivered g = false → sc ≠ .sys → ∃ t, exec f s = .next t ∧ passed t g ∧ emptied t) ∧
        (sem = .sc → undelivered g = false → sc = .sys → hostIssued s g = false → exec f s = .next s) ∧
        (sem = .sc → undelivered g = false → sc = .sys → hostIssued s g = true → g.sysRead = none →
          ∃ t, exec f s = .next t ∧ t.pcie = s.pcie ++ [(s.fresh, .zeroRead)] ∧ t.gang gi = some { g with sysRead := some s.fresh } ∧ cleanRead t) ∧
        (∀ n, sem = .sc → undelivered g = false → sc = .sys → hostIssued s g = true → g.sysRead = some n →
          ((∃ x, look s.pcie n = some x) → exec f s = .next s) ∧
          (look s.pcie n = none → ∃ t, exec f s = .next t ∧ passed t { g with sysRead := none } ∧ emptied t)))) ∧
    (spOk Core.reset s.cores = true → Issues s (.cinvAll gd) gi g p [] →
      (mk = 0 → exec (.cinvAll gd) s = .next (pastInstr s gi p 8 g)) ∧
      (mk ≠ 0 → ∃ t, exec (.cinvAll gd) s = .next t ∧ passed t g ∧ emptied t)) ∧
    (NoOp g p → mk = 0 →
      (Issues s (.cinvLine gd ma) gi g p (indexRegs ma) → exec (.cinvLine gd ma) s = .next (pastInstr s gi p 8 g)) ∧
      (Issues s (.cwb gd ma) gi g p (indexRegs ma) → exec (.cwb gd ma) s = .next (pastInstr s gi p 8 g)) ∧
      (Issues s (.prf gd ma) gi g p (indexRegs ma) → exec (.prf gd ma) s = .next (pastInstr s gi p 8 g)) ∧
      (Issues s (.prfL2 gd ma) gi g p (indexRegs ma) → exec (.prfL2 gd ma) s = .next (pastInstr s gi p 8 g))) ∧
    (∀ ls x s1, NoOp g p → mk ≠ 0 → spOk Core.reset s1.cores = true →
      softPlaces s g (lineAddrs g ma mk) = (some ls, x, s1) →
      let c := s1.coreAt g.die g.core
      let went (t : State) : Prop := t.gang gi = some (advance { g with xc := Xc.empty } p.id 8 s.seq) ∧ cleanRead t
      (Issues s (.cinvLine gd ma) gi g p (indexRegs ma) →
        ∃ t, exec (.cinvLine gd ma) s = .next t ∧ went t ∧ ∀ y, y ∈ (t.coreAt g.die g.core).l1 ↔ y ∈ c.l1 ∧ ∀ k ∈ ls, k.1 ≠ y.1) ∧
      (Issues s (.prf gd ma) gi g p (indexRegs ma) →
        ∃ t new, exec (.prf gd ma) s = .next t ∧ went t ∧ t.reqs = s1.reqs ++ new ∧
          (∀ k ∈ ls, l1Line c k.1 = none → (targetOf s1 g.die true (64 * k.1) k.2).dst ≠ none →
            ∃ r ∈ new, r.who = .prefetch g.die g.core k.1 (if coreWrites s1 g.die g.core k.1 then 0 else c.l1Epoch + 1))) ∧
      (Issues s (.prfL2 gd ma) gi g p (indexRegs ma) →
        ∃ t new, exec (.prfL2 gd ma) s = .next t ∧ went t ∧ t.reqs = s1.reqs ++ new ∧
          ∀ k ∈ ls, 64 * k.1 < 2 ^ 39 → ∀ d, (targetOf s1 g.die true (64 * k.1) k.2).dst = some d →
            ∃ r ∈ new, r.who = .prefetch g.die g.core k.1 0 ∧ r.home = d)) ∧
    (∀ places xls x s1, NoOp g p → Current g p → mk ≠ 0 → Unpoisoned g mk (indexRegs ma) → Issues s (.cwb gd ma) gi g p (indexRegs ma) →
      translateLanes s g true false (lineAddrs g ma mk) = (.ready places xls, x, s1) →
      ((∃ y ∈ places, ∃ o ∈ g.outst, o.line = y.2 / 64 ∧ o.bulk = false) → exec (.cwb gd ma) s = .next (s1.putGang gi { g with xc := x })) ∧
      ((∀ y ∈ places, ∀ o ∈ g.outst, o.line = y.2 / 64 → o.bulk = true) →
        ∃ t new, exec (.cwb gd ma) s = .next t ∧ t.reqs = s1.reqs ++ new ∧ cleanRead t ∧
          (new = [] → t.gang gi = some (advance { g with xc := Xc.empty } p.id 8 s.seq)) ∧
          (new ≠ [] → ∃ op, op.instr = .cwb gd ma ∧ op.path = p.id ∧ op.unsent = [] ∧ op.waits = new.map (fun r => r.tag) ∧
            t.gang gi = some (waitPath (putOp { g with xc := Xc.empty } op) p.id .mem)) ∧
          ∀ y a e n, places.find? (fun z => z.2 / 64 == y.2 / 64) = some y → look xls y.1 = some (.leaf a e n) →
            ∀ b, b = 64 * (y.2 / 64) ∨ (pteDup e = true ∧ b = partnerOf (64 * (y.2 / 64))) → homeServes s1 (homeOf b) = true →
              ∃ r ∈ new, r.home = homeOf b ∧ ∃ k, r.who = .load gi p.id (y.2 / 64) false k)) ∧
    (∀ (op : MemOp) (p0 : Path), op.instr = .cwb gd ma → opTrap p0 op = none)
-- The matrix engine

namespace Sys2Proof.Claim

/-- What an Ox instruction checks and captures at issue (R63, R315 to R317): guard, vector registers, tiles and metadata registers that must
exist, metadata registers it consumes, the scratch offsets A, B and C it captures, the extents it checks in order, K, and its SP field. -/
structure OxForm where
  gd : Guard
  vr : List Nat
  tiles : List (BitVec 4)
  mregs : List Nat
  metas : List Nat
  offs : Nat × Nat × Nat
  ops : List (Nat × Nat)
  kk : Nat
  sp : BitVec 2

def oxForm (g : Gang) : Instr → Option OxForm
  | .oxip gd ta tb a b acc mreg nk sp =>
    let kk := oxK ta nk
    let ms := if sp = 0 then [] else (List.range (oxMetaCount ta nk)).map (mreg.toNat + ·)
    some ⟨gd, [], [acc], ms, ms, (sOff g a, sOff g b, 0), [(sOff g a, extentOf ta (16 * kk / 2 ^ sp.toNat)), (sOff g b, extentOf tb (16 * kk))], kk, sp⟩
  | .oxop gd ta tb a b acc nk cs =>
    some ⟨gd, [], [acc], [], [], (sOff g a, sOff g b, 0), if cs then [(sOff g a, 4), (sOff g b, 4)]
      else [(sOff g a, extentOf ta (16 * oxK ta nk)), (sOff g b, extentOf tb (16 * oxK ta nk))], 0, 0⟩
  | .oxrw gd ta tb a b c acc nk cmp =>
    some ⟨gd, [], if cmp then [] else [acc], [], [], (sOff g a, sOff g b, if cmp then sOff g c else 0),
      [(sOff g a, 4), (sOff g b, extentOf tb (16 * oxK ta nk))] ++ (if cmp then [(sOff g c, 2184)] else []), 0, 0⟩
  | .accz gd _ acc => some ⟨gd, [], [acc], [], [], (0, 0, 0), [], 0, 0⟩
  | .accld gd tb a acc => some ⟨gd, [], [acc], [], [], (sOff g a, 0, 0), [(sOff g a, extentOf tb 256)], 0, 0⟩
  | .accst gd tb _ d a b c acc sc =>
    some ⟨gd, if d = 0x3FF#10 then [] else vrange d 16, [acc], [], [],
      (if d = 0x3FF#10 then sOff g a else 0, if sc then sOff g b else 0, if sc then sOff g c else 0),
      (if d = 0x3FF#10 then [(sOff g a, extentOf tb 256)] else []) ++ (if sc then [(sOff g b, 64), (sOff g c, 64)] else []), 0, 0⟩
  | .accmv gd acc acc2 => some ⟨gd, [], [acc, acc2], [], [], (0, 0, 0), [], 0, 0⟩
  | .ldmeta gd a mreg _ => some ⟨gd, [], [], [mreg.toNat], [], (sOff g a, 0, 0), [(sOff g a, 128)], 0, 0⟩
  | _ => none

/-- Groups that register `w` of those consumed covers (R304). -/
def OxForm.groups (f : OxForm) (w : Nat) : Nat := min 16 ((f.kk - 64 * w) / 4)

/-- The consumed words of the metadata are not poisoned (R371), and every consumed register has the MODE of the instruction and only valid groups (R306). -/
def MetaClean (g : Gang) (f : OxForm) : Prop :=
  ∀ w, w < f.metas.length → ∀ b, b < 32 → 8 * (b % 2) < f.groups w →
    (listGet Meta.reset g.mregs (f.metas.getD w 0)).poison.getLsbD b = false
def MetaFits (g : Gang) (f : OxForm) (w : Nat) : Prop :=
  (listGet Meta.reset g.mregs (f.metas.getD w 0)).mode = f.sp ∧
    ∀ row gp, row < 16 → gp < f.groups w → (listGet Meta.reset g.mregs (f.metas.getD w 0)).valid.getLsbD (16 * row + gp) = true
def MetaValid (g : Gang) (f : OxForm) : Prop := ∀ w, w < f.metas.length → MetaFits g f w

/-- An earlier queued `ldmeta` of the gang loads a register that the instruction consumes. -/
def MetaLater (c : Core) (gi : Nat) (f : OxForm) : Prop := ∃ e ∈ c.oxq, e.gang = gi ∧ ∃ r ∈ f.metas, loadsMeta e r = true

/-- Element `k` of an integer operand at local address `base` (R40, R299). -/
def elemInt (ty : Ty) (m : List Host.Cell) (base k : Nat) : Int :=
  let bits := (cvtTy ty).bits
  let code : Nat := if bits = 4 then (localByte m (base + k / 2)).toNat / 16 ^ (k % 2) % 16 else natLE (localBytes m (base + k * (bits / 8)) (bits / 8))
  if (ty = .s8 ∨ ty = .s4) ∧ 2 ^ (bits - 1) ≤ code then code - 2 ^ bits else code

/-- The exact inner product of row i of A and column j of B (R299, R302). -/
def dotInt (ta tb : Ty) (m : List Host.Cell) (a b kk i j : Nat) : Int :=
  ((List.range kk).map (fun k => elemInt ta m a (i * kk + k) * elemInt tb m b (16 * k + j))).sum

/-- Element `k` of an operand at local address `base`, packed (R40, R299). -/
def operandAt (ty : Ty) (m : List Host.Cell) (base k : Nat) : OxVal :=
  let bits := (cvtTy ty).bits
  oxOfCode ty (if bits = 4 then (localByte m (base + k / 2)).toNat / 16 ^ (k % 2) % 16 else natLE (localBytes m (base + k * (bits / 8)) (bits / 8))) false

/-- Products of a type accumulate as FP32; else modulo 2^32 (R53, R297). -/
def sumsF32 (ty : Ty) : Bool := match cvtTy ty with | .flt _ => true | .int _ _ => false

/-- The exact value of an FP32 word. -/
def f32Of (w : Word) : XReal := (decodeF fmtF32 false w.toNat).1

/-- acc + a × b with one rounding to nearest even; a × b so rounded; a sum so rounded; or each modulo 2^32 (R53, R54). -/
def accMul (fl : Bool) (acc : Word) (x : OxVal × OxVal) : Word :=
  if fl then BitVec.ofNat 32 (roundF fmtF32 .rne false (xSum .rne [f32Of acc, (xMul x.1.x x.2.x).1]).1).1 else acc + BitVec.ofInt 32 (x.1.i * x.2.i)
def firstMul (fl : Bool) (x : OxVal × OxVal) : Word :=
  if fl then BitVec.ofNat 32 (roundF fmtF32 .rne false (xMul x.1.x x.2.x).1).1 else BitVec.ofInt 32 (x.1.i * x.2.i)
def accAdd (fl : Bool) (acc w : Word) : Word :=
  if fl then BitVec.ofNat 32 (roundF fmtF32 .rne false (xSum .rne [f32Of acc, f32Of w]).1).1 else acc + w

/-- The positions k of row i that an `oxip` keeps, ascending, each with the number of its A element (R299, R303, R304). -/
def keptAt (sp : BitVec 2) (ms : List Meta) (kk i : Nat) : List (Nat × Nat) :=
  if sp = 0 then (List.range kk).map (fun k => (k, i * kk + k))
  else (List.range (kk / 4)).flatMap fun g =>
    let field := (listGet Meta.reset ms (g / 16)).data
    let q0 := (field.extractLsb' (64 * i + 4 * (g % 16)) 2).toNat
    let q1 := (field.extractLsb' (64 * i + 4 * (g % 16) + 2) 2).toNat
    if sp = 1 then [(4 * g + q0, i * (kk / 2) + 2 * g), (4 * g + q1, i * (kk / 2) + 2 * g + 1)] else [(4 * g + q0, i * (kk / 4) + g)]

/-- The pairs of operand elements at positions `ks` for element (i, j) of the product. -/
def pairsAt (ta tb : Ty) (m : List Host.Cell) (a b j : Nat) (ks : List (Nat × Nat)) : List (OxVal × OxVal) :=
  ks.map (fun k => (operandAt ta m a k.2, operandAt tb m b (16 * k.1 + j)))

/-- The partial sum of chunk c of `n` positions of a dense `oxop` (R307). -/
def chunkOf (fl : Bool) (xs : List (OxVal × OxVal)) (n c : Nat) : Word :=
  match (xs.drop (n * c)).take n with
  | [] => 0
  | x :: r => r.foldl (accMul fl) (firstMul fl x)

/-- The groups of a coordinate stream, from its words: up to `n` groups, a stream-end mark, or the end of the words (R318, R319). -/
def groupsOf (ty : Ty) : List Nat → Nat → List (Nat × OxVal) → List (List (Nat × OxVal))
  | _, 0, _ => []
  | [], _ + 1, cur => [cur]
  | w :: r, n + 1, cur =>
    if w / 2 ^ 16 = 0xFFFE then [cur]
    else if w / 2 ^ 16 = 0xFFFF then cur :: groupsOf ty r n []
    else groupsOf ty r (n + 1) (cur ++ [(w / 2 ^ 16, oxOfCode ty (w % 2 ^ 16) false)])

/-- The words of the scratch area of gang `g` from local address `off` on. -/
def areaWords (g : Gang) (m : List Host.Cell) (off : Nat) : List Nat :=
  (List.range ((areaBase g + g.kd.scratch - off) / 4)).map (fun n => natLE (localBytes m (off + 4 * n) 4))

/-- The products that meet element (i, j) under `oxop` with streams, in their order: of the first 16 entries of each pair of groups (R308). -/
def crossed (as bs : List (List (Nat × OxVal))) (i j : Nat) : List (OxVal × OxVal) :=
  (as.zip bs).flatMap fun x => ((x.1.take 16).filter (fun y => y.1 == i)).flatMap fun y =>
    ((x.2.take 16).filter (fun z => z.1 == j)).map (fun z => (y.2, z.2))

/-- The products that meet element (i, j) under `oxrw`, in stream order: coordinates below K, and no B element that is zero (R309). -/
def merged (ta tb : Ty) (m : List Host.Cell) (rows : List (List (Nat × OxVal))) (kk b i j : Nat) : List (OxVal × OxVal) :=
  (((listGet [] rows i).filter (fun y => decide (y.1 < kk))).map (fun y => (y.2, operandAt tb m b (16 * y.1 + j)))).filter
    (fun x => if sumsF32 ta then !x.2.x.isZero else x.2.i != 0)

/-- The wide words that `oxrw` with CMP = 1 writes (R309, R320). -/
def rowWords (ta tb : Ty) (m : List Host.Cell) (rows : List (List (Nat × OxVal))) (kk b : Nat) : List Nat :=
  let fl := sumsF32 ta
  ((List.range 16).flatMap fun i =>
    (List.range 16).filterMap (fun j => match merged ta tb m rows kk b i j with
      | [] => none
      | x :: r => some ((r.foldl (accMul fl) (firstMul fl x)).toNat + j * 2 ^ 32)) ++ [0xFFFF * 2 ^ 32]) ++ [0xFFFE * 2 ^ 32]

/-- What `accst` makes of an element, with its flags (R52, R323): of an integer tile without scales by the integer rows of R51, else of the exact
value, times the exact scales at `b` and `c`. -/
def drained (t : Tile) (tb : Ty) (mode : RMode) (scaled : Bool) (m : List Host.Cell) (b c i j : Nat) : Nat × FFlags :=
  let w := tileAt t i j
  let scale (a : Nat) : XReal × FFlags := decodeF fmtF32 false (natLE (localBytes m a 4))
  let x : XReal × FFlags := if t.kind then (xOfInt w.toInt, 0) else decodeF fmtF32 false w.toNat
  if !scaled && t.kind then convInt (cvtTy tb) mode w.toInt
  else
    let y : XReal × FFlags := if scaled then xMul x.1 (scale (b + 4 * i)).1 else (x.1, 0)
    let z : XReal × FFlags := if scaled then xMul y.1 (scale (c + 4 * j)).1 else (y.1, 0)
    let q := convReal (cvtTy tb) mode false z.1
    (q.1, x.2 ||| (if scaled then (scale (b + 4 * i)).2 ||| (scale (c + 4 * j)).2 else 0) ||| y.2 ||| z.2 ||| q.2)

/-- The tile that an entry writes, and the bytes of the local store that it writes: first address and length (R297, R320, R323). -/
def tileWritten (e : OxEntry) : Option Nat :=
  match e.instr with
  | .oxip _ _ _ _ _ a _ _ _ => some a.toNat
  | .oxop _ _ _ _ _ a _ _ => some a.toNat
  | .oxrw _ _ _ _ _ _ a _ cmp => if cmp then none else some a.toNat
  | .accz _ _ a => some a.toNat
  | .accld _ _ _ a => some a.toNat
  | .accmv _ a _ => some a.toNat
  | _ => none
def storeWritten (e : OxEntry) : Option (Nat × Nat) :=
  match e.instr with
  | .accst _ tb _ d _ _ _ _ _ => if d = 0x3FF#10 then some (e.offA, 256 * (cvtTy tb).bits / 8) else none
  | .oxrw _ _ _ _ _ _ _ _ cmp => if cmp then some (e.offC, 2184) else none
  | _ => none

end Sys2Proof.Claim

/-- R215, R296, R301, R306, R315 to R317: an Ox instruction with a true guard checks the offsets it captures (ALIGN for one that is no multiple of 64,
the lowest; then PROT with TINFO 0x57 for the first extent past the area), waits for an earlier `ldmeta` of a register that it consumes, raises
MXMETA for metadata that does not fit, whose TINFO names the first failure, waits while its queue holds eight, and else joins the queue with all that it captures and goes on.
That PROT names the first extent in the order A, B, C is the model's choice (log 154). -/
def Obligations.OxIssue : Prop :=
  ∀ (i : Instr) (f : OxForm) (s : State) (gi : Nat) (g : Gang) (p : Path), oxForm g i = some f → Issues s i gi g p f.vr →
    (∀ t ∈ f.tiles, t.toNat < g.kd.acc) → (∀ m ∈ f.mregs, m < g.kd.nmeta) → spOk Core.reset s.cores = true →
    let c := s.coreAt g.die g.core
    let aligned : Prop := ∀ o ∈ f.ops, o.1 % 64 = 0
    let fits : Prop := ∀ o ∈ f.ops, o.1 + o.2 ≤ g.kd.scratch
    (guardLanes g p f.gd = 0 → exec i s = .next (pastInstr s gi p 16 g)) ∧
    (guardLanes g p f.gd ≠ 0 →
      (∀ o ∈ f.ops, o.1 % 64 ≠ 0 → (∀ x ∈ f.ops, x.1 % 64 ≠ 0 → o.1 ≤ x.1) →
        exec i s = .next (s.trap gi g p (trapAll p 0x03 (BitVec.ofNat 64 o.1) 0))) ∧
      (∀ pre o post, aligned → f.ops = pre ++ o :: post → (∀ x ∈ pre, x.1 + x.2 ≤ g.kd.scratch) → g.kd.scratch < o.1 + o.2 →
        exec i s = .next (s.trap gi g p (trapAll p 0x05 (BitVec.ofNat 64 o.1) 0x57))) ∧
      (aligned → fits → MetaLater c gi f → exec i s = .next s) ∧
      (aligned → fits → ¬ MetaLater c gi f → MetaClean g f →
        (∀ pre r post, f.metas = pre ++ r :: post → (∀ w, w < pre.length → MetaFits g f w) →
          let m := listGet Meta.reset g.mregs r
          (m.mode ≠ f.sp → exec i s = .next (s.trap gi g p (trapAll p 0x08 0 (BitVec.ofNat 32 (0x1000 + 256 * r))))) ∧
          (∀ row gp, m.mode = f.sp → row < 16 → gp < f.groups pre.length → m.valid.getLsbD (16 * row + gp) = false →
            (∀ row' gp', row' < 16 → gp' < f.groups pre.length → 16 * row' + gp' < 16 * row + gp → m.valid.getLsbD (16 * row' + gp') = true) →
            exec i s = .next (s.trap gi g p (trapAll p 0x08 0 (BitVec.ofNat 32 (256 * r + 16 * row + gp))))))) ∧
      (aligned → fits → ¬ MetaLater c gi f → MetaClean g f → MetaValid g f →
        (8 ≤ c.oxq.length → exec i s = .next s) ∧
        (c.oxq.length < 8 → ∃ t, exec i s = .next t ∧ t = { pastInstr s gi p 16 g with cores := t.cores, fresh := s.fresh + 1 } ∧
          t.coreAt g.die g.core = { c with oxq := c.oxq ++
            [⟨s.fresh, gi, i, areaBase g + f.offs.1, areaBase g + f.offs.2.1, areaBase g + f.offs.2.2, f.metas.map (listGet Meta.reset g.mregs),
              g.round, p.mask, none, 0⟩] } ∧
          ∀ d k, coreKey d k ≠ coreKey g.die g.core → t.coreAt d k = s.coreAt d k)))

/-- R52, R54, R300, R302, R303, R305, R307 to R310, R320, R323: the oldest entry of a queue of which nothing runs starts, on the local store as it stands; one
that shares a tile with an older entry of its gang does not. A started entry completes: it leaves the queue; memory, uniform registers, predicates, paths, other tiles and the local
store but the bytes that the instruction writes there stay. Where the store has not changed since its start and nothing of it is poisoned: `accz` zeroes a tile and sets its KIND, `accmv` copies one,
`accld` and `ldmeta` read scratch, VALID of each group by its MODE; `oxip` adds the kept products of a row in ascending k, one rounding for each; `oxop` adds the partial sums of
its chunks, or the products of its streams in their order; `oxrw` merges the products of its rows into the tile, or writes them as a stream of wide words; `accst` converts each
element, with its exact scales, into scratch or registers, and raises the flags. -/
def Obligations.OxQueue : Prop :=
  (∀ (s : State) (k : Nat) (e : OxEntry) (pre post : List OxEntry),
    let c := s.coreAt (k / 256) (k % 256)
    c.oxq = pre ++ e :: post → (pre ++ e :: post).Pairwise (fun x y => x.id < y.id) →
    (pre = [] → (∀ x ∈ c.oxq, x.started = none) →
      ∃ n, exec (.oxEntryStart k e.id) s = .next (({ s with freeCtr := s.freeCtr + 1 } : State).putCore (k / 256) (k % 256)
          { c with oxq := { e with started := some (c.mem, c.mpoison), leaves := s.clock + BitVec.ofNat 64 n } :: post }) ∧
        (∀ gd ta tb x y acc mr nk sp, e.instr = .oxip gd ta tb x y acc mr nk sp → oxK ta nk / (oxRate ta).getD 1 / (if sp = 0 then 1 else 2) ≤ n)) ∧
    ((∃ x ∈ pre, x.gang = e.gang ∧ ∃ n ∈ tilesNamed x, n ∈ tilesNamed e) → exec (.oxEntryStart k e.id) s = .next s)) ∧
  (∀ (s : State) (k : Nat) (e : OxEntry) (g : Gang) (m0 : List Host.Cell) (p0 : List Nat),
    let c := s.coreAt (k / 256) (k % 256)
    spOk Core.reset s.cores = true → c.oxq.find? (fun x => x.id == e.id) = some e → e.started = some (m0, p0) → s.gang e.gang = some g →
    ∃ t g', exec (.oxComplete k e.id) s = .next t ∧ t.gang e.gang = some g' ∧ g'.s = g.s ∧ g'.p = g.p ∧ g'.paths = g.paths ∧
      t.hbm = s.hbm ∧ t.hostMem = s.hostMem ∧ (∀ n, n ≠ e.gang → t.gang n = s.gang n) ∧
      (t.coreAt (k / 256) (k % 256)).oxq = c.oxq.filter (fun x => x.id != e.id) ∧
      (∀ d n, coreKey d n ≠ coreKey (k / 256) (k % 256) → t.coreAt d n = s.coreAt d n) ∧
      (∀ n, tileWritten e ≠ some n → listGet Tile.reset g'.tiles n = listGet Tile.reset g.tiles n) ∧
      (spOk 0 c.mem = true → ∀ x, (∀ a n, storeWritten e = some (a, n) → x < a ∨ a + n ≤ x) →
        localByte (t.coreAt (k / 256) (k % 256)).mem x = localByte c.mem x) ∧
      ((∀ gd tb rm d a b z acc sc, e.instr = .accst gd tb rm d a b z acc sc → d = 0x3FF) → g'.v = g.v) ∧
      (m0 = c.mem → p0 = [] → c.mpoison = [] →
        let tile (a : BitVec 4) : Tile := listGet Tile.reset g.tiles a.toNat
        let tile' (a : BitVec 4) : Tile := listGet Tile.reset g'.tiles a.toNat
        let mem := (t.coreAt (k / 256) (k % 256)).mem
        let elements (ta : Ty) (a : BitVec 4) (f : Nat → Nat → Word) : Prop := (tile' a).kind = !sumsF32 ta ∧
          ∀ i j, i < 16 → j < 16 → tileAt (tile' a) i j = f i j ∧ tileBad (tile' a) i j = tileBad (tile a) i j
        (∀ gd ty a, e.instr = .accz gd ty a → a.toNat < g.tiles.length →
          (tile' a).kind = (ty == .s32) ∧ (tile' a).poison = 0 ∧ ∀ i j, i < 16 → j < 16 → tileAt (tile' a) i j = 0) ∧
        (∀ gd a b, e.instr = .accmv gd a b → a.toNat < g.tiles.length → tile' a = tile b) ∧
        (∀ gd ty o a, e.instr = .accld gd ty o a → a.toNat < g.tiles.length → (ty = .f32 ∨ ty = .s32) →
          (tile' a).kind = (ty == .s32) ∧
          ∀ i j, i < 16 → j < 16 → tileAt (tile' a) i j = BitVec.ofNat 32 (natLE (localBytes c.mem (e.offA + 4 * (16 * i + j)) 4))) ∧
        (∀ gd ty F o a, e.instr = .accld gd ty o a → a.toNat < g.tiles.length → (ty = .f16 ∧ F = fmtF16) ∨ (ty = .bf16 ∧ F = fmtBF16) →
          (tile' a).kind = false ∧ ∀ i j, i < 16 → j < 16 →
            tileAt (tile' a) i j = BitVec.ofNat 32 (roundF fmtF32 .rne false (decodeF F false (natLE (localBytes c.mem (e.offA + 2 * (16 * i + j)) 2))).1).1) ∧
        (∀ gd o n sp, e.instr = .ldmeta gd o n sp → n.toNat < g.mregs.length →
          let m := listGet Meta.reset g'.mregs n.toNat
          m.data = BitVec.ofNat 1024 (natLE (localBytes c.mem e.offA 128)) ∧ m.mode = sp ∧ m.poison = 0 ∧
          ∀ r gp, r < 16 → gp < 16 → let q0 := (m.data.extractLsb' (64 * r + 4 * gp) 2).toNat; let q1 := (m.data.extractLsb' (64 * r + 4 * gp + 2) 2).toNat
            (sp = 1 → m.valid.getLsbD (16 * r + gp) = decide (q0 < q1)) ∧ (sp = 2 → m.valid.getLsbD (16 * r + gp) = decide (q1 = q0))) ∧
        (∀ gd ta tb oa ob a mr nk, e.instr = .oxip gd ta tb oa ob a mr nk 0 ∨ e.instr = .oxop gd ta tb oa ob a nk false → e.instr.wf = true →
          a.toNat < g.tiles.length → ta ∈ [.s8, .z8, .s4, .z4] → tile' a = { tile' a with kind := true } ∧
          ∀ i j, i < 16 → j < 16 → tileAt (tile' a) i j = tileAt (tile a) i j + BitVec.ofInt 32 (dotInt ta tb c.mem e.offA e.offB (oxK ta nk) i j)) ∧
        (∀ gd ta tb oa ob a mr nk sp, e.instr = .oxip gd ta tb oa ob a mr nk sp → a.toNat < g.tiles.length →
          elements ta a (fun i j => (pairsAt ta tb c.mem e.offA e.offB j (keptAt sp e.metas (oxK ta nk) i)).foldl (accMul (sumsF32 ta)) (tileAt (tile a) i j))) ∧
        (∀ gd ta tb oa ob a nk, e.instr = .oxop gd ta tb oa ob a nk false → a.toNat < g.tiles.length → oxRate ta ≠ none →
          let n := 16 * (oxRate ta).getD 1
          elements ta a (fun i j => (List.range (oxK ta nk / n)).foldl (fun w ch => accAdd (sumsF32 ta) w
            (chunkOf (sumsF32 ta) (pairsAt ta tb c.mem e.offA e.offB j (keptAt 0 [] (oxK ta nk) i)) n ch)) (tileAt (tile a) i j))) ∧
        (∀ gd ta tb oa ob a nk, e.instr = .oxop gd ta tb oa ob a nk true → a.toNat < g.tiles.length → spOk 0 (tile a).words = true →
          elements ta a (fun i j => (crossed (groupsOf ta (areaWords g c.mem e.offA) (oxK ta nk) []) (groupsOf tb (areaWords g c.mem e.offB) (oxK ta nk) []) i j).foldl
            (accMul (sumsF32 ta)) (tileAt (tile a) i j))) ∧
        (∀ gd ta tb oa ob oc a nk, e.instr = .oxrw gd ta tb oa ob oc a nk false → a.toNat < g.tiles.length → spOk 0 (tile a).words = true →
          elements ta a (fun i j => (merged ta tb c.mem (groupsOf ta (areaWords g c.mem e.offA) 16 []) (oxK ta nk) e.offB i j).foldl
            (accMul (sumsF32 ta)) (tileAt (tile a) i j))) ∧
        (∀ gd ta tb oa ob oc a nk, e.instr = .oxrw gd ta tb oa ob oc a nk true → spOk 0 c.mem = true →
          let ws := rowWords ta tb c.mem (groupsOf ta (areaWords g c.mem e.offA) 16 []) (oxK ta nk) e.offB
          (∀ n, n < ws.length → natLE (localBytes mem (e.offC + 8 * n) 8) = ws.getD n 0) ∧
          ∀ x, x < e.offC ∨ e.offC + 8 * ws.length ≤ x → localByte mem x = localByte c.mem x) ∧
        (∀ gd tb rm d oa ob oc a sc, e.instr = .accst gd tb rm d oa ob oc a sc → numTy tb ≠ none → spOk 0 c.mem = true →
          let bits := (cvtTy tb).bits
          let out (n : Nat) : Nat × FFlags := drained (tile a) tb (selMode { g with round := e.round } rm) sc c.mem e.offB e.offC (n / 16) (n % 16)
          (∃ fl : FFlags, g'.fpstat = (withFlags g fl).fpstat ∧ ∀ b, fl.getLsbD b = (List.range 256).any (fun n => (out n).2.getLsbD b)) ∧
          (d = 0x3FF → ∀ n, n < 256 → if bits = 4 then (localByte mem (e.offA + n / 2)).toNat / 16 ^ (n % 2) % 16 = (out n).1
            else natLE (localBytes mem (e.offA + n * (bits / 8)) (bits / 8)) = (out n).1) ∧
          (d ≠ 0x3FF → spOk 0 g.v = true → ∀ r l, l < 64 → getV g' r l =
            if e.lanes.getLsbD l = true ∧ d.toNat ≤ r ∧ r < d.toNat + 16 then extendTo32 (cvtTy tb) (out (16 * (r - d.toNat) + l % 16)).1 else getV g r l))))
-- The copy engine and tokens

namespace Sys2Proof.Claim

/-- What a command of major 0xB0 checks at issue (R330): guard, token, a further token it names, minor code (R64), the offsets it checks with their
alignments in order, the extents within the area, and whether it has a descriptor at the first offset. -/
structure CmdForm where
  gd : Guard
  tok : BitVec 4
  more : List Nat
  minor : Nat
  aligns : List (DWord × Nat)
  bounds : List (DWord × Nat)
  desc : Bool

def cmdForm (g : Gang) : Instr → Option CmdForm
  | .cp gd a tok => some ⟨gd, tok, [], 0, [((getS g a.toNat).setWidth 64, 64)], [((getS g a.toNat).setWidth 64, 64)], true⟩
  | .cpx gd a tok => some ⟨gd, tok, [], 2, [((getS g a.toNat).setWidth 64, 64)], [((getS g a.toNat).setWidth 64, 64)], true⟩
  | .cpz gd a tok => some ⟨gd, tok, [], 1, [((getS g a.toNat).setWidth 64, 64)], [((getS g a.toNat).setWidth 64, 64)], true⟩
  | .cpg gd a b tok => some ⟨gd, tok, [], 3, [((getS g a.toNat).setWidth 64, 64), ((getS g b.toNat).setWidth 64, 4)],
      [((getS g a.toNat).setWidth 64, 64)], true⟩
  | .cps gd a b tok => some ⟨gd, tok, [], 4, [((getS g a.toNat).setWidth 64, 64), ((getS g b.toNat).setWidth 64, 4)],
      [((getS g a.toNat).setWidth 64, 64)], true⟩
  | .flsig gd _ named tok tok2 => some ⟨gd, tok, if named then [tok2.toNat] else [], 5, [], [], false⟩
  | .tload gd loc a tok =>
    let x := if loc then (getS g a.toNat).setWidth 64 else getSS g a.toNat
    some ⟨gd, tok, [], 6, [(x, 64)], if loc then [(x, 4096)] else [], false⟩
  | _ => none

/-- Token `k` of a gang, and the gang with another one. -/
def token (g : Gang) (k : BitVec 4) : Token := listGet Token.reset g.tokens k.toNat
def withToken (g : Gang) (k : BitVec 4) (t : Token) : Gang := { g with tokens := listSet g.tokens k.toNat t }

/-- ENGINE with the report that a token keeps (R338). -/
def engineReport (p : Path) (t : Token) : TrapInfo := ⟨0x0B, p.pc, t.addr, t.lanes, t.info⟩

/-- The numbers of a descriptor in the local store (R331): `n` bytes at byte `o` of it. -/
def descNat (c : Core) (a o n : Nat) : Nat := natLE (localBytes c.mem (a + o) n)

def DescIs (c : Core) (a : Nat) (d : CopyDesc) : Prop :=
  d.src.toNat = descNat c a 0 8 ∧ d.dst.toNat = descNat c a 8 8 ∧ d.ctl.toNat = descNat c a 16 4 ∧ d.n0 = descNat c a 20 4 ∧
  d.n1 = descNat c a 24 4 ∧ d.n2 = descNat c a 28 4 ∧ d.ss1.toNat = descNat c a 32 8 ∧ d.ss2.toNat = descNat c a 40 8 ∧
  d.ds1.toNat = descNat c a 48 8 ∧ d.ds2.toNat = descNat c a 56 8

/-- A command of a core's queue (one of that number), with the cores in canonical form. -/
structure Queued (s : State) (k : Nat) (c : CopyCmd) : Prop where
  cores : spOk Core.reset s.cores = true
  pos : (s.coreAt (k / 256) (k % 256)).copyq.find? (fun x => x.id == c.id) = some c

/-- No pre-emption has stopped the command's cohort; or one has, of a grid that goes on (R343, R380). -/
def Unstopped (s : State) (c : CopyCmd) : Prop := ∀ g h, s.gang c.gang = some g → s.cohort g.cohort = some h → h.stopping = false
def StoppedCmd (s : State) (c : CopyCmd) : Prop :=
  ∃ g h gr, s.gang c.gang = some g ∧ s.cohort g.cohort = some h ∧ h.stopping = true ∧ look s.grids h.grid = some gr ∧ gr.failed = false ∧ c.fault = none

/-- Device memory and host memory stay. -/
def MemorySame (s t : State) : Prop := t.hbm = s.hbm ∧ t.hostMem = s.hostMem

/-- The command is in flight in its queue, goes on and waits for no page (R336). -/
structure Moves (s : State) (k : Nat) (c : CopyCmd) : Prop where
  queued : Queued s k c
  active : c.active = true
  started : c.started = true
  sound : c.fault = none
  free : c.park = none
  unstopped : Unstopped s c

/-- Element `n` is the one of the counters (R334). -/
structure Visits (c : CopyCmd) (n i0 i1 i2 : Nat) : Prop where
  inner : i0 < c.desc.n0
  middle : i1 < c.desc.n1
  number : n = (i2 * c.desc.n1 + i1) * c.desc.n0 + i0

def isCpg : Instr → Bool
  | .cpg _ _ _ _ => true
  | _ => false
def isCps : Instr → Bool
  | .cps _ _ _ _ => true
  | _ => false
def isCpx : Instr → Bool
  | .cpx _ _ _ => true
  | _ => false
def isCpz : Instr → Bool
  | .cpz _ _ _ => true
  | _ => false
def isCopy (i : Instr) : Bool := isCpg i || isCps i || isCpx i || match i with | .cp _ _ _ => true | _ => false

/-- Some word of `n` bytes of the local store is poisoned. -/
def HurtAt (co : Core) (a n : Nat) : Prop := ∃ w ∈ co.mpoison, a < 8 * w + 8 ∧ 8 * w < a + n

/-- The next element has been read: what stands in staging for it. -/
def staged (c c1 : CopyCmd) (x : Staged) : CopyCmd := { c1 with rn := c.rn + 1, stage := c.stage ++ [(c.rn, x)] }

/-- The words that element `n` of a `cpz` adds to its stream, each with the number of elements consumed when it finds no room (R318, R335): row `r`,
column `col`, the element's code and whether that is a zero. -/
def zOut (c : CopyCmd) (n r col code : Nat) (zero : Bool) : List (Nat × Nat) :=
  let byCols := c.desc.ctl.getLsbD 23
  (if zero then [] else [((if byCols then r else col) * 0x10000 + code, n)]) ++
  (if (byCols = true ∧ r + 1 = c.desc.n1) ∨ (byCols = false ∧ col + 1 = c.desc.n0) then [(0xFFFF0000, n + 1)] else []) ++
  (if n + 1 = c.desc.n0 * c.desc.n1 then [(0xFFFE0000, n + 1)] else [])

/-- What `cpz` takes for zero (R335). -/
def zeroCode (ty : Ty) (code : Nat) : Bool :=
  match ty with
  | .f16 | .bf16 => code == 0 || code == 0x8000
  | _ => code == 0

/-- The bytes of a core's local store are those of `b` from `a` on, and elsewhere as in `co`. -/
def WroteLocal (co co' : Core) (a : Nat) (b : List Byte) : Prop :=
  ∀ x, localByte co'.mem x = if a ≤ x ∧ x < a + b.length then b.getD (x - a) 0 else localByte co.mem x

/-- The command as it stands in the queue of a core. -/
def cmdAt (s : State) (k id : Nat) : Option CopyCmd := (s.coreAt (k / 256) (k % 256)).copyq.find? (fun x => x.id == id)

end Sys2Proof.Claim

/-- R215, R328 to R331, R338, R339: a command with a true guard waits while its token is BUSY and raises ENGINE with the token's report, which
frees it, when it is FAULT. Else it checks alignment, extent and poison; waits while its queue holds sixteen, while another path's earlier access has lines to send, and once its
cohort is asked to leave (the model's choice, log 158); and joins the queue with what it captures
(the descriptor; the gang's undelivered ordered writes and the Ox instructions that have yet to write scratch; what a `flsig` covers). Its token becomes BUSY and the path goes on.
That ALIGN names the descriptor's offset where the index offset is misaligned too (log 148), and that the descriptor is read without waiting for an older Ox instruction
(log 149), are the model's choices. -/
def Obligations.CommandIssue : Prop :=
  ∀ (i : Instr) (f : CmdForm) (s : State) (gi : Nat) (g : Gang) (p : Path), cmdForm g i = some f → Issues s i gi g p [] →
    f.tok.toNat < g.kd.tokens → (∀ n ∈ f.more, n < g.kd.tokens) → spOk Core.reset s.cores = true →
    let c := s.coreAt g.die g.core
    let tk := token g f.tok
    let aligned : Prop := ∀ x ∈ f.aligns, x.1.toNat % x.2 = 0
    let fits : Prop := ∀ x ∈ f.bounds, x.1.toNat + x.2 ≤ g.kd.scratch
    let hurt (w : Nat) : Prop := f.desc = true ∧ w ∈ c.mpoison ∧ ∃ x ∈ f.bounds, areaBase g + x.1.toNat ≤ 8 * w ∧ 8 * w < areaBase g + x.1.toNat + 64
    (guardLanes g p f.gd = 0 → exec i s = .next (pastInstr s gi p 16 g)) ∧
    (guardLanes g p f.gd ≠ 0 →
      (tk.st = .busy → exec i s = .next s) ∧
      (tk.st = .fault → exec i s = .next (s.trap gi (withToken g f.tok Token.reset) p (engineReport p tk))) ∧
      (tk.st = .free ∨ tk.st = .done →
        (∀ pre x post, f.aligns = pre ++ x :: post → (∀ y ∈ pre, y.1.toNat % y.2 = 0) → x.1.toNat % x.2 ≠ 0 →
          exec i s = .next (s.trap gi g p (trapAll p 0x03 x.1 0))) ∧
        (∀ x ∈ f.bounds, aligned → g.kd.scratch < x.1.toNat + x.2 → exec i s = .next (s.trap gi g p (trapAll p 0x05 x.1 0x57))) ∧
        (aligned → fits → (∃ w, hurt w) →
          ∃ w, hurt w ∧ exec i s = .next (s.trap gi g p (trapAll p 0x06 (BitVec.ofNat 64 (8 * w - areaBase g)) 0x20))) ∧
        (aligned → fits → (∀ w, ¬ hurt w) →
          (16 ≤ c.copyq.length ∨ (∃ h, s.cohort g.cohort = some h ∧ h.asked = true) ∨ (∃ o ∈ g.ops, o.path ≠ p.id ∧ o.unsent ≠ []) → exec i s = .next s) ∧
          (c.copyq.length < 16 → (∀ h, s.cohort g.cohort = some h → h.asked = false) → NoOp g p → ∃ t cmd, exec i s = .next t ∧ t.coreAt g.die g.core = { c with copyq := c.copyq ++ [cmd] } ∧
            t = { pastInstr s gi p 16 (withToken g f.tok { Token.reset with st := .busy, cmd := f.minor, id := s.fresh, pc := p.pc }) with
                  cores := t.cores, fresh := s.fresh + 1 } ∧
            (∀ d k, coreKey d k ≠ coreKey g.die g.core → t.coreAt d k = s.coreAt d k) ∧
            cmd.id = s.fresh ∧ cmd.gang = gi ∧ cmd.asid = g.kd.asid ∧ cmd.instr = i ∧ cmd.tok = f.tok.toNat ∧ cmd.pc = p.pc ∧ cmd.round = g.round ∧
            cmd.base = areaBase g ∧ cmd.limit = g.kd.scratch ∧ cmd.active = false ∧ cmd.started = false ∧ cmd.fault = none ∧ cmd.n = 0 ∧ cmd.rn = 0 ∧
            cmd.reads = [] ∧ cmd.writes = [] ∧ cmd.stage = [] ∧ cmd.cv = [] ∧ cmd.park = none ∧
            (∀ n, n ∈ cmd.oxBefore ↔ ∃ e ∈ c.oxq, e.id = n ∧ e.gang = gi ∧ (writtenExtent e).isSome = true) ∧
            (∀ gd a b tok, i = .cpg gd a b tok ∨ i = .cps gd a b tok → cmd.idxOff = (getS g b.toNat).toNat) ∧
            cmd.before = (g.outst.filter (fun o => !o.bulk)).map (fun o => o.tag) ∧
            (f.desc = true → ∀ x, f.bounds.head? = some x → cmd.off = x.1 ∧ DescIs c (areaBase g + x.1.toNat) cmd.desc) ∧
            (∀ gd sc tok tok2, i = .flsig gd sc true tok tok2 → (cmd.covers = if (token g tok2).st = .busy then [(token g tok2).id] else []) ∧
              cmd.hostWrites = (token g tok2).host) ∧
            (∀ gd sc tok tok2, i = .flsig gd sc false tok tok2 → cmd.bulk = (g.outst.filter (fun o => o.bulk)).map (fun o => o.tag) ∧
              cmd.hostWrites = g.engineHost ∧
              ∀ n, n ∈ cmd.covers ↔ ∃ x ∈ c.copyq, x.id = n ∧ x.gang = gi ∧ (∀ a b d e z, x.instr ≠ .flsig a b d e z) ∧ ∀ a b d e, x.instr ≠ .tload a b d e)))))

/-- R226, R329, R338, R339, R341, R342: `twait` with a true guard: TOKEN with the token's number for a FREE token, ENGINE for a faulted one, which frees it; at a BUSY one
the path is held where it is; a DONE one is freed, the path goes on, and the L1 of the core is emptied but after a `tload`; after a
`flsig` the core's vector takes what the homes returned. `tpoll` writes the state's code into s(D) and changes no token. -/
def Obligations.TokenWait : Prop :=
  ∀ (gd : Guard) (d : Field10) (tok : BitVec 4) (s : State) (gi : Nat) (g : Gang) (p : Path), tok.toNat < g.kd.tokens → spOk Core.reset s.cores = true →
    let i : Instr := .twait gd tok
    let q : Instr := .tpoll gd d tok
    let tk := token g tok
    let c := s.coreAt g.die g.core
    (guardLanes g p gd = 0 → (Issues s i gi g p [] → exec i s = .next (pastInstr s gi p 16 g)) ∧
      (Issues s q gi g p [] → exec q s = .next (pastInstr s gi p 16 g))) ∧
    (guardLanes g p gd ≠ 0 → Issues s i gi g p [] →
      (tk.st = .free → exec i s = .next (s.trap gi g p (trapAll p 0x0A 0 (tok.setWidth 32)))) ∧
      (tk.st = .fault → exec i s = .next (s.trap gi (withToken g tok Token.reset) p (engineReport p tk))) ∧
      (tk.st = .busy → ∃ g', exec i s = .next (s.putGang gi g') ∧ g' = { g with paths := g'.paths, stack := g'.stack } ∧
        (Current g p → OthersRest g p → (∀ e ∈ entries g, StillOut g g.paths e) →
          g'.stack = g.stack ∧ ∃ r, findPath g'.paths p.id = some r ∧ r.pc = p.pc ∧ r.mask = p.mask ∧ r.st = .twait tok.toNat ∧ r.onSl = 0)) ∧
      (tk.st = .done → ∃ t, exec i s = .next t ∧ t = { pastInstr s gi p 16 (withToken g tok Token.reset) with cores := t.cores } ∧
        t.coreAt g.die g.core =
          { c with l1 := if tk.cmd = 6 then c.l1 else [], l1Epoch := if tk.cmd = 6 then c.l1Epoch else c.l1Epoch + 1,
                   cv := if tk.cmd = 5 then mergeCV c.cv tk.cv else c.cv } ∧
        ∀ e k, coreKey e k ≠ coreKey g.die g.core → t.coreAt e k = s.coreAt e k)) ∧
    (guardLanes g p gd ≠ 0 → Issues s q gi g p [] → spOk 0 g.s = true →
      ∃ g', exec q s = .next (pastInstr s gi p 16 g') ∧
        WroteS g g' .i32 d (match tk.st with | .free => 0 | .busy => 1 | .done => 2 | .fault => 3))

/-- R168, R329, R333 to R341, R346, R350: the life of a command. The oldest waiting command becomes active while fewer than four are; it
starts once the writes and Ox entries before it are over, a `tload` also once those before it are, and faults then with DESC if its descriptor is refused, a `tload` with
TABLE without the table. Elements are visited in R334's order. Each is read into staging: from scratch, or by one engine read at its home; then it is written: to scratch, by one bulk write to
its home, as the words of a `cpz` or into the inactive bank; `cpx` converts, and `cpz` ends in CAPACITY at the first word beyond DS1. A fault at an element stops the command there. A
write to global memory waits until the one before it is delivered (the model's choice, log 119); 4-bit elements are staged by their byte (log 167), lines of a `tload` as elements (log 155).
Nothing moves while the cohort is stopped for a pre-emption. A `flsig` asks every home once what it covers is over. A command that is over leaves the queue and its token becomes DONE, or
FAULT with its report; for `tload` the other bank becomes active; for `flsig` once every home has replied and its bulk writes are delivered, at `.sys` also once a zero-length read behind the
host writes is back, with REMOTE for the first that was refused. -/
def Obligations.CommandLife : Prop :=
  (∀ (s : State) (k : Nat) (c : CopyCmd), Queued s k c →
    let co := s.coreAt (k / 256) (k % 256)
    let ready : Prop := (∀ n ∈ c.before, ∀ r ∈ s.reqs, r.tag ≠ n) ∧ (∀ n ∈ c.oxBefore, ∀ e ∈ co.oxq, e.id ≠ n) ∧ c.fault = none
    (StoppedCmd s c → exec (.copyCmdStart k c.id) s = .next s ∧ exec (.copyElement k c.id) s = .next s) ∧
    (c.active = false ∨ c.started = false ∨ c.fault ≠ none → exec (.copyElement k c.id) s = .next s) ∧
    (c.active = false → Unstopped s c → ∀ pre post, co.copyq = pre ++ c :: post → (∀ x ∈ pre, x.id ≠ c.id) →
      ((∀ x ∈ pre, x.active = true) → (co.copyq.filter (fun x => x.active)).length < 4 →
        ∃ t, exec (.copyCmdStart k c.id) s = .next t ∧ cmdAt t k c.id = some { c with active := true } ∧ t.hbm = s.hbm ∧ t.gangs = s.gangs) ∧
      ((∃ x ∈ pre, x.active = false) ∨ 4 ≤ (co.copyq.filter (fun x => x.active)).length → exec (.copyCmdStart k c.id) s = .next s)) ∧
    (c.active = true → Unstopped s c → c.started = false → isFlsig c.instr = false →
      ((∃ n ∈ c.before, ∃ r ∈ s.reqs, r.tag = n) ∨ (∃ n ∈ c.oxBefore, ∃ e ∈ co.oxq, e.id = n) → exec (.copyCmdStart k c.id) s = .next s) ∧
      (ready → isTload c.instr = false →
        ∃ t, exec (.copyCmdStart k c.id) s = .next t ∧ t.hbm = s.hbm ∧ t.gangs = s.gangs ∧
          cmdAt t k c.id = some (if descRefused c then { c with started := true, fault := some (1, c.off, 0), stage := [] } else { c with started := true })) ∧
      (isTload c.instr = true → ∀ pre post, co.copyq = pre ++ c :: post → (∀ x ∈ pre, x.id ≠ c.id) →
        ((∃ x ∈ pre, isTload x.instr = true) → exec (.copyCmdStart k c.id) s = .next s) ∧
        (ready → (∀ x ∈ pre, isTload x.instr = false) → ∀ g, s.gang c.gang = some g →
          ∃ t, exec (.copyCmdStart k c.id) s = .next t ∧ t.hbm = s.hbm ∧ t.gangs = s.gangs ∧
            cmdAt t k c.id = some (if co.tableOwner = some g.cohort then { c with started := true } else { c with started := true, fault := some (7, c.off, 0), stage := [] })))) ∧
    (c.active = true → Unstopped s c → isFlsig c.instr = true →
      (c.asked = true ∨ c.fault ≠ none ∨ (∃ n ∈ c.covers, ∃ x ∈ co.copyq, x.id = n) → exec (.copyCmdStart k c.id) s = .next s) ∧
      (c.asked = false → c.fault = none → (∀ n ∈ c.covers, ∀ x ∈ co.copyq, x.id ≠ n) → k / 256 < 17 → spOk [] s.flights = true →
        ∃ t, exec (.copyCmdStart k c.id) s = .next t ∧ MemorySame s t ∧ cmdAt t k c.id = some { c with started := true, asked := true, replies := liveHomes s } ∧
          ∀ h, (h ∈ liveHomes s ↔ h = 16 ∨ (8 ≤ h ∧ h < 16 ∧ homeServes s h = true)) ∧ (h ∈ liveHomes s →
            ∃ a, spGet [] t.flights (flightKey (k / 256) h 2) = spGet [] s.flights (flightKey (k / 256) h 2) ++ [a] ∧ a.op = .flushMarker)))) ∧
  (∀ (c : CopyCmd) (n idx i0 i1 i2 : Nat), Visits c n i0 i1 i2 →
    let at_ (base s2 s1 : DWord) (size : Nat) : DWord := base + BitVec.ofNat 64 i2 * s2 + BitVec.ofNat 64 i1 * s1 + BitVec.ofNat 64 (i0 * size)
    (isCopy c.instr = true →
      elemSrc c n idx = (if isCpg c.instr then c.desc.src + BitVec.ofNat 64 (idx * (elemSizes c).1) else at_ c.desc.src c.desc.ss2 c.desc.ss1 (elemSizes c).1) ∧
      elemDst c n idx = (if isCps c.instr then c.desc.dst + BitVec.ofNat 64 (idx * (elemSizes c).2) else at_ c.desc.dst c.desc.ds2 c.desc.ds1 (elemSizes c).2) ∧
      (isCpx c.instr = false → elemSizes c = (2 ^ (c.desc.ctl.toNat / 256 % 8), 2 ^ (c.desc.ctl.toNat / 256 % 8)))) ∧
    (isTload c.instr = true → elemSrc c n idx = c.off + BitVec.ofNat 64 (64 * n) ∧ elemCount c = 64) ∧
    (∀ r col, isCpz c.instr = true → c.desc.n2 = 1 → r < c.desc.n1 → col < c.desc.n0 → n = (if c.desc.ctl.getLsbD 23 then col * c.desc.n1 + r else r * c.desc.n0 + col) →
      elemSrc c n idx = c.desc.src + BitVec.ofNat 64 r * c.desc.ss1 + BitVec.ofNat 64 (col * cpzBits (tyOfCode (c.desc.ctl.toNat / 4096 % 16)) / 8)) ∧
    (∀ data, isCpx c.instr = false → elemOut c data = data) ∧
    (∀ data a b, isCpx c.instr = true → numTy (tyOfCode (c.desc.ctl.toNat / 4096 % 16)) = some a → numTy (tyOfCode (c.desc.ctl.toNat / 65536 % 16)) = some b →
      let rnd := c.desc.ctl.toNat / 2 ^ 20 % 8
      elemOut c data = bytesLE (elemSizes c).2 (convert a b (roundMode (if rnd = 0 then c.round else BitVec.ofNat 32 (rnd - 1))) false (natLE data)).1)) ∧
  (∀ (s : State) (k : Nat) (c : CopyCmd), Moves s k c → look c.stage c.n = none →
    let i : Instr := .copyElement k c.id
    let co := s.coreAt (k / 256) (k % 256)
    let n := c.rn
    let es := (elemSizes c).1
    let indexed : Bool := isCpg c.instr || isCps c.instr
    let at_ : Nat := c.base + c.idxOff + 4 * n
    let idx : Nat := if indexed then localNat co.mem at_ 4 else 0
    let a := elemSrc c n idx
    let reads (x : Staged) : Prop := ∃ t, exec i s = .next t ∧ MemorySame s t ∧ t.gangs = s.gangs ∧ cmdAt t k c.id = some (staged c c x)
    (elemCount c ≤ n ∨ c.n + max 1 (256 / es) ≤ n → exec i s = .next s) ∧
    (n < elemCount c → n < c.n + max 1 (256 / es) → c.idxOff + 4 * n + 4 < 2 ^ 64 →
      (indexed = true → c.limit < c.idxOff + 4 * n + 4 → reads (.fault 5 (BitVec.ofNat 64 (c.idxOff + 4 * n)))) ∧
      (indexed = true → c.idxOff + 4 * n + 4 ≤ c.limit → HurtAt co at_ 4 → reads (.fault 4 (BitVec.ofNat 64 (c.idxOff + 4 * n)))) ∧
      ((indexed = true → c.idxOff + 4 * n + 4 ≤ c.limit ∧ ¬ HurtAt co at_ 4) →
        (srcLocal c = true →
          (c.limit < a.toNat + es → reads (.fault 5 a)) ∧
          (a.toNat + es ≤ c.limit → HurtAt co (c.base + a.toNat) es → reads (.fault 4 a)) ∧
          (a.toNat + es ≤ c.limit → ¬ HurtAt co (c.base + a.toNat) es → reads (.bytes (localBytes co.mem (c.base + a.toNat) es) idx))) ∧
        (srcLocal c = false →
          (∀ code c1 s1, cmdTranslate s k c true false a = (.fault code, c1, s1) → Queued s1 k c →
            ∃ t, exec i s = .next t ∧ MemorySame s1 t ∧ cmdAt t k c.id = some (staged c c1 (.fault code a))) ∧
          (∀ c1 s1, cmdTranslate s k c true false a = (.wait, c1, s1) → Queued s1 k c →
            ∃ t, exec i s = .next t ∧ MemorySame s1 t ∧ cmdAt t k c.id = some c1) ∧
          (∀ place xl c1 s1, cmdTranslate s k c true false a = (.ok place xl, c1, s1) → Queued s1 k c →
            let tg := targetOf s1 (k / 256) true place xl
            (tg.remote = true → ∃ t, exec i s = .next t ∧ MemorySame s1 t ∧ cmdAt t k c.id = some (staged c c1 (.bytes (placeBytes s1 place es) idx))) ∧
            (tg.remote = false → tg.dst = none → ∃ t, exec i s = .next t ∧ MemorySame s1 t ∧ cmdAt t k c.id = some (staged c c1 (.fault 8 a))) ∧
            (∀ h, tg.remote = false → tg.dst = some h → spOk [] s1.flights = true →
              ∃ t r pk, exec i s = .next t ∧ MemorySame s1 t ∧ Sent s1 t (k / 256) h r pk ∧ r.who = .engineRead (k / 256) (k % 256) c.id (place % 64) ∧
                pk.op = .engineRead ∧ pk.addr = tg.addr ∧ pk.asid = c.asid ∧
                cmdAt t k c.id = some { c1 with rn := n + 1, reads := c1.reads ++ [(r.tag, n, a)] })))))) ∧
  (∀ (s : State) (k : Nat) (c : CopyCmd) (b : List Byte) (idx : Nat), Moves s k c → look c.stage c.n = some (.bytes b idx) → isCopy c.instr = true →
    let i : Instr := .copyElement k c.id
    let co := s.coreAt (k / 256) (k % 256)
    let out := elemOut c b
    let a := elemDst c c.n idx
    let fails (t : State) (c1 : CopyCmd) (code : Nat) : Prop := cmdAt t k c.id = some { c1 with fault := some (code, a, c.n), stage := [] }
    (ctlDsp c.desc.ctl = 1 →
      (c.limit < a.toNat + out.length → ∃ t, exec i s = .next t ∧ MemorySame s t ∧ fails t c 5) ∧
      (a.toNat + out.length ≤ c.limit → spOk 0 co.mem = true → ∃ t c', exec i s = .next t ∧ MemorySame s t ∧ t.gangs = s.gangs ∧ cmdAt t k c.id = some c' ∧
        c'.n = c.n + 1 ∧ c'.fault = none ∧ c'.rn = c.rn ∧ (∀ e, e ∈ c'.stage ↔ e ∈ c.stage ∧ e.1 ≠ c.n) ∧
        WroteLocal co (t.coreAt (k / 256) (k % 256)) (c.base + a.toNat) out)) ∧
    (ctlDsp c.desc.ctl ≠ 1 → c.writes ≠ [] → exec i s = .next s) ∧
    (ctlDsp c.desc.ctl ≠ 1 → c.writes = [] →
      (∀ code c1 s1, cmdTranslate s k c false true a = (.fault code, c1, s1) → Queued s1 k c → ∃ t, exec i s = .next t ∧ MemorySame s1 t ∧ fails t c1 code) ∧
      (∀ place xl c1 s1, cmdTranslate s k c false true a = (.ok place xl, c1, s1) → Queued s1 k c →
        let tg := targetOf s1 (k / 256) false place xl
        (tg.remote = false → tg.dst = none → ∃ t, exec i s = .next t ∧ MemorySame s1 t ∧ fails t c1 8) ∧
        (∀ h, tg.remote = false → tg.dst = some h → spOk [] s1.flights = true → place % 64 + out.length ≤ 64 →
          ∃ t r pk c', exec i s = .next t ∧ MemorySame s1 t ∧ Sent s1 t (k / 256) h r pk ∧ r.who = .engineWrite (k / 256) (k % 256) c.id ∧
            pk.op = .bulkWrite ∧ pk.addr = tg.addr ∧ pk.dup = tg.dup ∧ pk.asid = c.asid ∧ cmdAt t k c.id = some c' ∧ c'.n = c.n + 1 ∧ c'.writes = [(r.tag, c.n, a)] ∧
            c'.hostWrites = (if h = 16 then c.hostWrites ++ [(r.tag, a)] else c.hostWrites) ∧
            ∀ x, x < 64 → pk.ben.getLsbD x = decide (place % 64 ≤ x ∧ x < place % 64 + out.length) ∧
              (pk.ben.getLsbD x = true → pk.data.getD x 0 = out.getD (x - place % 64) 0))))) ∧
  (∀ (s : State) (k : Nat) (c : CopyCmd) (x : Staged), Moves s k c → look c.stage c.n = some x →
    let i : Instr := .copyElement k c.id
    let co := s.coreAt (k / 256) (k % 256)
    (∀ code a, x = .fault code a → exec i s = .next (s.putCmd k { c with fault := some (code, a, c.n), stage := [] })) ∧
    (∀ b idx, x = .bytes b idx → isTload c.instr = true → b.length = 64 → spOk 0 co.mem = true →
      ∃ t c', exec i s = .next t ∧ MemorySame s t ∧ cmdAt t k c.id = some c' ∧ c'.n = c.n + 1 ∧ c'.fault = none ∧
        (t.coreAt (k / 256) (k % 256)).bank = co.bank ∧ WroteLocal co (t.coreAt (k / 256) (k % 256)) (0x3E000 + 0x1000 * (1 - co.bank) + 64 * c.n) b) ∧
    (∀ b idx r col, x = .bytes b idx → isCpz c.instr = true → spOk 0 co.mem = true → c.desc.dst.toNat < 2 ^ 32 → c.zw < 2 ^ 28 → r < c.desc.n1 → col < c.desc.n0 →
      c.n = (if c.desc.ctl.getLsbD 23 then col * c.desc.n1 + r else r * c.desc.n0 + col) →
      let ty := tyOfCode (c.desc.ctl.toNat / 4096 % 16)
      let code := if cpzBits ty = 4 then natLE b / 16 ^ (col % 2) % 16 else natLE b
      let ws := zOut c c.n r col code (zeroCode ty code)
      let room (m : Nat) : Prop := 4 * (c.zw + m) ≤ c.desc.ds1.toNat
      let inArea (m : Nat) : Prop := c.desc.dst.toNat + 4 * (c.zw + m) ≤ c.limit
      let ends (done : List (Nat × Nat)) (fault : Option (Nat × DWord × Nat)) : Prop :=
        ∃ t c', exec i s = .next t ∧ MemorySame s t ∧ cmdAt t k c.id = some c' ∧ c'.n = c.n + 1 ∧ c'.zw = c.zw + done.length ∧ c'.fault = fault ∧
          WroteLocal co (t.coreAt (k / 256) (k % 256)) (c.base + c.desc.dst.toNat + 4 * c.zw) (done.flatMap (fun w => bytesLE 4 w.1))
      code < 2 ^ 16 →
      (room ws.length → (ws = [] ∨ inArea ws.length) → ends ws none) ∧
      (∀ pre w post, ws = pre ++ w :: post → room pre.length → (pre = [] ∨ inArea pre.length) →
        (¬ room (pre.length + 1) → ends pre (some (6, c.desc.dst + c.desc.ds1, w.2))) ∧
        (room (pre.length + 1) → ¬ inArea (pre.length + 1) → ends pre (some (5, c.desc.dst + BitVec.ofNat 64 (4 * (c.zw + pre.length)), w.2)))))) ∧
  (∀ (s : State) (k : Nat) (c : CopyCmd) (g : Gang), Queued s k c → c.started = true → c.active = true → c.park = none → c.writes = [] → s.gang c.gang = some g →
    c.tok < g.tokens.length → (listGet Token.reset g.tokens c.tok).st = .busy → (listGet Token.reset g.tokens c.tok).id = c.id → g.paths ≠ [] →
    let co := s.coreAt (k / 256) (k % 256)
    let tk := listGet Token.reset g.tokens c.tok
    let ends (i : Instr) (bank : Nat) (fault : Option (Nat × DWord × Nat)) : Prop := ∃ t g', exec i s = .next t ∧ t.gang c.gang = some g' ∧ cmdAt t k c.id = none ∧
      listGet Token.reset g'.tokens c.tok = (match fault with
        | none => { tk with st := .done, cv := c.cv, host := madeHost c }
        | some (code, a, n) => { tk with st := .fault, host := madeHost c, addr := a, lanes := BitVec.ofNat 64 n, info := BitVec.ofNat 32 (16 * code + c.tok) }) ∧
      g'.v = g.v ∧ g'.s = g.s ∧ t.hbm = s.hbm ∧ (t.coreAt (k / 256) (k % 256)).bank = bank
    let i : Instr := .flsigComplete k c.id
    (isFlsig c.instr = false → isTload c.instr = false → c.fault ≠ none ∨ c.n = elemCount c → ends (.copyCmdDone k c.id) co.bank c.fault) ∧
    (isTload c.instr = true → c.fault ≠ none → ends (.tloadComplete k c.id) co.bank c.fault) ∧
    (isTload c.instr = true → c.fault = none → c.n = 64 → ends (.tloadComplete k c.id) (1 - co.bank) none) ∧
    (isFlsig c.instr = true → c.fault ≠ none → ends i co.bank c.fault) ∧
    (isFlsig c.instr = true → c.fault = none → c.asked = false ∨ c.replies ≠ [] ∨ (∃ n ∈ c.bulk, ∃ r ∈ s.reqs, r.tag = n) → exec i s = .next s) ∧
    (∀ gd sc named x y, c.instr = .flsig gd sc named x y → c.fault = none → c.asked = true → c.replies = [] → (∀ n ∈ c.bulk, ∀ r ∈ s.reqs, r.tag ≠ n) →
      (sc ≠ .sys ∨ c.hostWrites = [] → ends i co.bank none) ∧
      (sc = .sys → c.hostWrites ≠ [] → c.zero = none →
        ∃ t, exec i s = .next t ∧ MemorySame s t ∧ t.pcie = s.pcie ++ [(s.fresh, .zeroRead)] ∧ cmdAt t k c.id = some { c with zero := some s.fresh }) ∧
      (∀ z, sc = .sys → c.hostWrites ≠ [] → c.zero = some z →
        ((look s.pcie z).isSome = true → exec i s = .next s) ∧
        (look s.pcie z = none → (∀ w ∈ c.hostWrites, w.1 ∉ s.refusedHost) → z ∉ s.refusedHost → ends i co.bank none) ∧
        (look s.pcie z = none → (∀ w ∈ c.hostWrites, w.1 ∉ s.refusedHost) → z ∈ s.refusedHost → ∃ a, ends i co.bank (some (9, a, 0))) ∧
        (∀ pre w post, look s.pcie z = none → c.hostWrites = pre ++ w :: post → (∀ y ∈ pre, y.1 ∉ s.refusedHost) → w.1 ∈ s.refusedHost →
          ends i co.bank (some (9, w.2, 0))))))
-- Loop capture and the Clover array

namespace Sys2Proof.Claim

/-- The core of a core number. -/
def coreOf (s : State) (k : Nat) : Core := s.coreAt (k / 256) (k % 256)

/-- The only stream of a gang in a core's array. -/
structure Streams (s : State) (k gi : Nat) (st : Stream) (g : Gang) : Prop where
  cores : spOk Core.reset s.cores = true
  found : (coreOf s k).streams.find? (fun x => x.gang == gi) = some st
  owner : st.gang = gi
  gang : s.gang gi = some g

/-- What the gang and its path say to entering the array at the head of placement `sl` (R179): capture is enabled and no handler runs, the
iteration is not one for the front end, and a placement that came as an image is allowed. -/
structure MayStream (g : Gang) (p : Path) (sl : Slot) : Prop where
  enabled : capEn g.capctl = true
  handler : g.handler = none
  front : g.frontAt ≠ some p.pc
  key : sl.head = p.pc ∧ sl.asid = g.kd.asid
  allowed : sl.pre = false ∨ capPre g.capctl = true

/-- Each delay line of the streams holds one token for each quarter with a live lane: four lanes of the register, the lanes that are live, the
number of the quarter in its slice, the stream's number and the iteration modulo 256 (R176, R178, R180). -/
def LinesHold (st : Stream) : Prop :=
  ∀ e ∈ st.lines, e.2 = (quartersOf st.live).map (fun q =>
    { data := (List.range 4).map (fun i => regValue st.work e.1 (4 * q + i)), mask := st.live.extractLsb' (4 * q) 4, quarter := BitVec.ofNat 2 (q % 4),
      stream := BitVec.ofNat 4 ((look st.nums (q / 4)).getD 0), tag := BitVec.ofNat 8 (st.iter % 256) })

/-- Path `p` of the gang streams, its streams primed with the registers of the gang (R179, R180). The streams of its slices have numbers below 16 that no
stream of `old` has (R176), and the delay lines of the placement hold their first tokens. -/
def Primed (old : List Stream) (g g' : Gang) (p : Path) (sl : Slot) (gi : Nat) (st : Stream) : Prop :=
  (∀ q ∈ g'.paths, q.id = p.id → q.st = .streaming) ∧ g'.v = g.v ∧ g'.s = g.s ∧ st.gang = gi ∧ st.head = sl.head ∧ st.entered = p.mask ∧ st.boundary = 0 ∧
  st.rel.v = g.v ∧ st.rel.p = g.p ∧ st.rel.s = g.s ∧ st.work.v = g.v ∧ st.live = p.mask ∧ st.iter = 0 ∧ st.fired = [] ∧ st.part = [] ∧
  (∀ e ∈ st.nums, e.2 < 16 ∧ ∀ x ∈ old, ∀ y ∈ x.nums, y.2 ≠ e.2) ∧ st.lines.map (fun e => e.1) = lineKeys sl ∧ LinesHold st ∧ g'.capstat.getLsbD 4 = true

/-- Stream of gang `gi` after a step. -/
def streamOf (t : State) (k gi : Nat) : Option Stream := (coreOf t k).streams.find? (fun x => x.gang == gi)

end Sys2Proof.Claim

/-- R170, R194, R199 to R203, R268: capture control with a true guard. `capctl` writes CAPCTL. `lmark` writes HEAD and COUNT and asks the placer when capture is
enabled, the loop is neither placed nor refused and the placer is free. `capdrop` frees the slots of its head, once no stream of it runs, and clears HEAD
and COUNT. `capsave` writes 0 for a head without a slot, else the size of the image, whose writes it makes. `capload` reads the 32 bytes of the
header, then as many bytes as it says; an image that fails sets INTEG and LAST = 7, one that passes takes a slot, and where none can be given LAST = 6. A
pre-emption before it completes drops what it has read, and PC and slots stay. A misaligned address is ALIGN. That `capdrop` also takes the
placement out of the planes, and discards a shadow plane that loads it, is the model's choice (log entry 59); that ALIGN comes before the answer for a head
without a slot, and a header that fails after its read, are its reading (log entry 60). -/
def Obligations.CaptureControl : Prop :=
  ∀ (gd : Guard) (imm : Imm20) (d a : Field10) (s : State) (gi : Nat) (g : Gang) (p : Path), spOk Core.reset s.cores = true →
    let h : DWord := p.pc + BitVec.ofInt 64 (8 * imm.toInt)
    let c := s.coreAt g.die g.core
    let on : Prop := guardLanes g p gd ≠ 0
    let va := getSS g a.toNat
    let mine (x : Option Slot) : Prop := ∃ sl, x = some sl ∧ sl.head = h ∧ sl.asid = g.kd.asid
    let loading : Prop := mine (c.shadow.map (fun x => x.1))
    (guardLanes g p gd = 0 → NoOp g p →
      (Issues s (.capctl gd imm) gi g p [] → exec (.capctl gd imm) s = .next (pastInstr s gi p 8 g)) ∧
      (Issues s (.lmark gd imm) gi g p [] → exec (.lmark gd imm) s = .next (pastInstr s gi p 8 g)) ∧
      (Issues s (.capdrop gd imm) gi g p [] → exec (.capdrop gd imm) s = .next (pastInstr s gi p 8 g)) ∧
      (Issues s (.capsave gd d a imm) gi g p [] → exec (.capsave gd d a imm) s = .next (pastInstr s gi p 8 g)) ∧
      (g.stopped = false → Issues s (.capload gd a imm) gi g p [] → exec (.capload gd a imm) s = .next (pastInstr s gi p 8 g))) ∧
    (on → Issues s (.capctl gd imm) gi g p [] →
      exec (.capctl gd imm) s = .next (pastInstr s gi p 8 { g with capctl := BitVec.ofNat 32 (imm.toNat % 2 ^ 16) })) ∧
    (on → Issues s (.lmark gd imm) gi g p [] →
      ∃ t, exec (.lmark gd imm) s = .next t ∧ t.gang gi = some (advance { g with head := h, count := capThresh g.capctl } p.id 8 s.seq) ∧ MemorySame s t ∧
        (t.coreAt g.die g.core).slots = c.slots ∧
        (capEn g.capctl = true → (∀ x ∈ c.slots, ¬ mine x) → (h, g.kd.asid) ∉ c.refused → c.placer = none →
          (t.coreAt g.die g.core).placer = some ⟨gi, g.kd.asid, h, none⟩) ∧
        (capEn g.capctl = false ∨ (h, g.kd.asid) ∈ c.refused ∨ c.placer ≠ none → (t.coreAt g.die g.core).placer = c.placer)) ∧
    (on → Issues s (.capdrop gd imm) gi g p [] →
      ∃ t, exec (.capdrop gd imm) s = .next t ∧ MemorySame s t ∧ (∀ x ∈ (t.coreAt g.die g.core).slots, ¬ mine x) ∧
        (∀ x ∈ c.slots, ¬ mine x → x ∈ (t.coreAt g.die g.core).slots) ∧
        ((∀ st ∈ c.streams, ¬ (st.head = h ∧ st.asid = g.kd.asid)) → ¬ loading → t.gang gi = some (advance { g with head := 0, count := 0 } p.id 8 s.seq)) ∧
        (loading → (t.coreAt g.die g.core).shadow = none) ∧
        ((∃ st ∈ c.streams, st.head = h ∧ st.asid = g.kd.asid) → (¬ loading → t.gang gi = some { g with head := 0, count := 0 }) ∧
          ∀ st ∈ (t.coreAt g.die g.core).streams, st.head = h → st.asid = g.kd.asid → st.trigger ≠ none)) ∧
    (on → NoOp g p → va.toNat % 8 ≠ 0 →
      (Issues s (.capsave gd d a imm) gi g p [] → exec (.capsave gd d a imm) s = .next (s.trap gi g p (trapAll p 0x03 va 0))) ∧
      (g.stopped = false → Issues s (.capload gd a imm) gi g p [] → exec (.capload gd a imm) s = .next (s.trap gi g p (trapAll p 0x03 va 0)))) ∧
    (Issues s (.capload gd a imm) gi g p [] →
      (on → NoOp g p → va.toNat % 8 = 0 → g.stopped = false →
        exec (.capload gd a imm) s = readRange (.capload gd a imm) 0 gi g p ((List.range 4).map (fun n => (n, va + BitVec.ofNat 64 (8 * n)))) s) ∧
      (g.stopped = true →
        ∃ t g', exec (.capload gd a imm) s = .next t ∧ t.cores = s.cores ∧ MemorySame s t ∧ t.gang gi = some g' ∧ g'.paths = g.paths ∧ g'.capstat = g.capstat ∧
          g'.engaged = none ∧ ∀ o ∈ g'.ops, o.path ≠ p.id ∧ o ∈ g.ops)) ∧
    (on → NoOp g p → va.toNat % 8 = 0 → spOk 0 g.s = true → Issues s (.capsave gd d a imm) gi g p [] →
      ((∀ x ∈ c.slots, ¬ mine x) → ∃ g', WroteS g g' .i32 d 0 ∧ exec (.capsave gd d a imm) s = .next (pastInstr s gi p 8 g')) ∧
      (∀ sl places xls x s1, c.slots.find? (fun y => match y with | some z => z.head == h && z.asid == g.kd.asid | none => false) = some (some sl) →
        translateLanes s g false true (pieces va (imageBytes sl).length) = (.ready places xls, x, s1) → gateOpen s1 g = true →
        CausalDone g p → (∀ o ∈ g.outst, o.bulk = false) → (∀ y ∈ places, ∀ r, look xls y.1 = some r → (targetOf s1 g.die false (64 * (y.2 / 64)) r).dst ≠ none) →
        ∃ t g', exec (.capsave gd d a imm) s = .next t ∧ t.gang gi = some g' ∧ getS g' d.toNat = BitVec.ofNat 32 (imageBytes sl).length ∧
          (∀ r, r ≠ d.toNat → getS g' r = getS g r) ∧ g'.v = g.v ∧ t.hbm = s.hbm)) ∧
    (∀ op, g.stopped = false → opOf g p.id = some op → op.waits = [] → op.unsent = [] → loadTrap p op = none → Issues s (.capload gd a imm) gi g p [] →
      (op.phase ≠ 1 → 32 < imageField (rangeBytes op) 6 2 →
        exec (.capload gd a imm) s = readRange (.capload gd a imm) 1 gi (dropOp g p.id) p (pieces va (imageField (rangeBytes op) 6 2)) s) ∧
      (op.phase = 1 ∨ imageField (rangeBytes op) 6 2 ≤ 32 →
        (∀ sl c', revalidate s g.die g.core g.kd.asid g.kd h (rangeBytes op) = some sl → placeSlot c sl = some c' →
          some sl ∈ c'.slots ∧ ∃ t, exec (.capload gd a imm) s = .next t ∧ t = { pastInstr s gi p 8 { dropOp g p.id with xc := Xc.empty } with cores := t.cores } ∧
            t.coreAt g.die g.core = c') ∧
        (∀ sl, revalidate s g.die g.core g.kd.asid g.kd h (rangeBytes op) = some sl → placeSlot c sl = none →
          exec (.capload gd a imm) s =
            .next (pastInstr s gi p 8 { dropOp g p.id with xc := Xc.empty, capstat := (g.capstat &&& 0xFFFF0FFF) ||| 0x6000 })) ∧
        (revalidate s g.die g.core g.kd.asid g.kd h (rangeBytes op) = none →
          exec (.capload gd a imm) s = .next (pastInstr s gi p 8 (dropImage { dropOp g p.id with xc := Xc.empty })))))

/-- R171, R176 to R181, R187 to R189, R194, R195, R204: the array's events. The placer ends with a refusal, remembered with at most 15 others and told to the gang
by INEL and LAST = 8, when it has no mapping; a mapping that fits takes a slot. After 64 cycles the planes switch, and a path that waits enters. An arrival that may
enter makes streams, with numbers that no other stream has and a token in each delay line for each quarter, and its path streams; one at a placement that
stands in a slot only starts its loading, also while another placement is in the active plane, and one at a placement that is being loaded waits. A drained iteration is
discarded and the lanes that still loop go on at H on the front end; lanes that all left go on at F, with the released registers. None of
these changes memory, but where a release commits stores. A cell that has its operands fires: a control cell decides, an element-wise cell computes in the lanes of one quarter what the front
end computes; one that has not, or that has four tokens waiting behind it, does nothing. A memory cell's load writes its register when it returns, or its fault is held.
The model's choices are: one record for the streams of a path (log entry 28), tokens that memory and control cells take as they come (log entry 57), the order in
which waiting paths enter (log entry 116), when a plane that is entered switches (log entry 153), and what a refusal does whose gang has ended (log entry 160). -/
def Obligations.CloverEvents : Prop :=
  (∀ (s : State) (k : Nat) (r : PlacerReq), spOk Core.reset s.cores = true → (coreOf s k).placer = some r →
    let c := coreOf s k
    (∃ t, exec (.placerDone k none) s = .next t ∧ MemorySame s t ∧ (coreOf t k).placer = none ∧
      ((placerBody s k r).2 = true → (coreOf t k).refused = c.refused) ∧
      ((placerBody s k r).2 = false → (r.head, r.asid) ∈ (coreOf t k).refused ∧ (coreOf t k).slots = c.slots ∧
        (c.refused.length ≤ 16 → (coreOf t k).refused.length ≤ 16) ∧
        (∀ g, s.gang r.gang = some g → t.gang r.gang = some { g with capstat := (g.capstat &&& 0xFFFF0FFF) ||| 0x8020 }))) ∧
    (∀ ws cs rm g, placerBody s k r = (some ws, false) → s.gang r.gang = some g → placedOk g.kd (decodeRun 112 0 ws) cs rm = true →
      bodySize (decodeRun 112 0 ws) = 8 * ws.length → none ∈ c.slots → (∀ x ∈ c.slots, ∀ sl, x = some sl → ¬ (sl.head = r.head ∧ sl.asid = r.asid)) →
      ∃ t, exec (.placerDone k (some (cs, rm))) s = .next t ∧ MemorySame s t ∧ (coreOf t k).placer = none ∧
        some ⟨r.head, r.asid, ws, cs, rm, false, false, s.seq⟩ ∈ (coreOf t k).slots)) ∧
  (∀ (s : State) (k w : Nat) (sl : Slot) (since : DWord), spOk Core.reset s.cores = true → (coreOf s k).shadow = some (sl, w, since) →
    ((s.clock - since).toNat < 64 → exec (.planeSwitch k) s = .next s) ∧
    (64 ≤ (s.clock - since).toNat → (coreOf s k).streams = [] →
      ∃ t, exec (.planeSwitch k) s = .next t ∧ (coreOf t k).plane = some sl ∧ (coreOf t k).shadow = none ∧ MemorySame s t ∧
        ((∀ e ∈ s.gangs, coreKey e.2.die e.2.core = k → ∀ q ∈ e.2.paths, q.st ≠ .planeWait) →
          t = { s with cores := t.cores } ∧ coreOf t k = { coreOf s k with plane := some sl, shadow := none }) ∧
        (∀ gi g p, s.gangs = [(gi, g)] → g.paused = false → coreKey g.die g.core = k → g.paths = [p] → p.st = .planeWait → fullyCurrent p = true →
          g.stopped = false → MayStream g p sl → sliceCount p.mask ≤ admits sl → (coreOf s k).oxq = [] →
          ∃ g' st, t.gang gi = some g' ∧ (coreOf t k).streams = [st] ∧ Primed [] g g' p sl gi st))) ∧
  (∀ (s : State) (gi : Nat) (g : Gang) (p : Path) (sl : Slot), spOk Core.reset s.cores = true → s.gang gi = some g → g.stopped = false → g.paused = false →
    g.parks = [] → g.ops = [] → g.paths = [p] → p.st = .ready → fullyCurrent p = true → MayStream g p sl →
    let c := s.coreAt g.die g.core
    let i : Instr := .cloverEnter (coreKey g.die g.core) gi
    let waits (t : State) (shadow : Option (Slot × Nat × DWord)) : Prop :=
      t.gang gi = some (waitPath { g with engaged := none, fetching := none, xc := Xc.empty } p.id .planeWait) ∧ t.coreAt g.die g.core = { c with shadow := shadow } ∧ MemorySame s t
    (∀ st ∈ c.streams, st.draining = false) →
    (c.plane = some sl → c.oxq = [] → streamCount c + sliceCount p.mask ≤ admits sl →
      ∃ t g' st, exec i s = .next t ∧ t.gang gi = some g' ∧ (t.coreAt g.die g.core).streams = c.streams ++ [st] ∧ Primed c.streams g g' p sl gi st ∧ MemorySame s t) ∧
    (keyed p.pc g.kd.asid c.plane = false → c.shadow = none → c.streams = [] → c.slots.find? (keyed p.pc g.kd.asid) = some (some sl) → sliceCount p.mask ≤ admits sl →
      sl.loaded = false → ∃ t, exec i s = .next t ∧ waits t (some (sl, gi, s.clock))) ∧
    (∀ w since, keyed p.pc g.kd.asid c.plane = false → c.shadow = some (sl, w, since) → ∃ t, exec i s = .next t ∧ waits t c.shadow)) ∧
  (∀ (s : State) (k gi : Nat) (st : Stream) (g : Gang), Streams s k gi st g →
    (∀ e r, st.held = [] → st.draining = false → st.ends = e :: r →
      ∃ t g', exec (.iterationRelease k gi) s = .next t ∧ MemorySame s t ∧ t.gang gi = some g' ∧ g'.fpstat = g.fpstat ||| e.regs.fpstat ∧ g'.v = g.v ∧
        streamOf t k gi = some { st with ends := r, boundary := e.iter + 1, rel := { e.regs with fpstat := 0 }, relLive := e.live, held := [] }) ∧
    (∀ e r, (∀ h ∈ st.held, st.boundary ≤ h.iter) → st.draining = false → st.ends = e :: r → homeless s g st e.iter = false →
      ∃ t st', exec (.iterationRelease k gi) s = .next t ∧ streamOf t k gi = some st' ∧ st'.boundary = e.iter + 1 ∧ st'.ends = r ∧
        st'.rel = { e.regs with fpstat := 0 } ∧ st'.relLive = e.live) ∧
    (st.held = [] → st.draining = false → st.ends = [] → st.live ≠ 0 → exec (.iterationRelease k gi) s = .next s) ∧
    (∀ q, st.held = [] → st.draining = false → st.ends = [] → st.live = 0 → g.paths = [q] → q.id = st.path → g.stack = [] → g.handler = none →
      ∃ t g' r, exec (.iterationRelease k gi) s = .next t ∧ MemorySame s t ∧ t.gang gi = some g' ∧ streamOf t k gi = none ∧
        findPath g'.paths st.path = some r ∧ r.pc = st.fall ∧ r.mask = st.entered ∧ r.st = .ready) ∧
    (∀ cause, st.draining = false → drainDue st = some cause → st.held = [] →
      ∃ t st', exec (.drain k gi cause) s = .next t ∧ MemorySame s t ∧ t.gangs = s.gangs ∧ streamOf t k gi = some st' ∧ st'.draining = true ∧
        st'.trigger = some cause ∧ st'.iter = st.boundary ∧ st'.ends = [] ∧ st'.rel = st.rel ∧ st'.relLive = st.relLive ∧ st'.part = [] ∧
        st'.lines.map (fun e => e.1) = st.lines.map (fun e => e.1) ∧ LinesHold st') ∧
    (st.draining = true → (∀ x ∈ st.loads, x.op.waits = []) →
      ∃ t g', exec (.drainComplete k gi) s = .next t ∧ MemorySame s t ∧ t.gang gi = some g' ∧ streamOf t k gi = none) ∧
    (∀ q cause, st.draining = true → st.loads = [] → st.trigger = some cause → cause ≠ .integrity → st.relLive ≠ 0 → st.relLive &&& g.exited = 0 →
      st.relLive &&& ~~~st.entered = 0 → g.paths = [q] → q.id = st.path → g.nextPath ≠ st.path → g.stack = [] → g.handler = none → st.fall ≠ st.head →
      ∃ t g' r, exec (.drainComplete k gi) s = .next t ∧ MemorySame s t ∧ t.gang gi = some g' ∧ streamOf t k gi = none ∧ g'.frontAt = some st.head ∧
        findPath g'.paths st.path = some r ∧ r.pc = st.head ∧ r.mask = st.relLive ∧ r.st = .ready ∧ ⟨st.fall, st.entered⟩ ∈ g'.stack) ∧
    (∀ cell j off i, cellIndex (coreOf s k) cell = some j → (coreOf s k).streams = [st] → keyed st.head st.asid (coreOf s k).plane = true → st.body[j]? = some (off, i) →
      (canFire st j = false → exec (.cellFire k cell) s = .next s) ∧
      (∀ q e, isElement i = true → nextQuarter st off j = some q → j < e → (∀ m, j < m → m ≤ e → ∃ x, st.body[m]? = some x ∧ (isElement x.2 = true ∨ kindOf x.2 = 0)) →
        4 ≤ (onEdge st j e).length → exec (.cellFire k cell) s = .next s) ∧
      (canFire st j = true → kindOf i = 5 →
        exec (.cellFire k cell) s = .next (putStream { s with freeCtr := s.freeCtr + 1 } k (endIteration (fireControl g st off j i)))) ∧
      (canFire st j = true → isElement i = true → nextQuarter st off j = none →
        exec (.cellFire k cell) s = .next (putStream { s with freeCtr := s.freeCtr + 1 } k (endIteration (markFired st j)))) ∧
      (∀ q s1 g1, canFire st j = true → isElement i = true → nextQuarter st off j = some q →
        cellRun i { s with freeCtr := s.freeCtr + 1, gangs := [(0, cellGang g st off (activeAt st off &&& quarterMask q))], cur := some (0, 0) } = .next s1 →
        s1.gang 0 = some g1 → g1.pending = [] →
        exec (.cellFire k cell) s = .next (putStream { s1 with gangs := s.gangs, cur := s.cur } k (endIteration (markPart
            { st with work := ⟨g1.v, g1.vpoison, g1.p, g1.s, st.work.fpstat ||| g1.fpstat⟩ } off j q))))) ∧
    (∀ cell j x, cellIndex (coreOf s k) cell = some j → (coreOf s k).streams = [st] → st.draining = false → st.loads = [x] → x.idx = j → x.done = false →
      x.op.waits = [] → x.op.unsent = [] →
      exec (.memcellAccessReturn k cell) s =
        .next (putStream s k (if loadBad x then { st with loads := [{ x with done := true }], faultAt := some st.iter } else endIteration (finishLoad g st x)))))
-- The dispatcher

namespace Sys2Proof.Claim

/-- The next cohort of a grid is the saved one `o`, or a new one, it waits for room and its turn has come (R205, R207, R390), and `dm` is what
it takes. -/
structure Next (s : State) (gi : Nat) (gr : Grid) (o : Option Nat) (dm : Demand) : Prop where
  grid : s.grid gi = some gr
  demand : nextDemand s gi gr = some (o, dm)
  room : waitsForRoom s gi gr = true
  turn : itsTurn s gi gr = true

/-- Every gang of a cohort has ended and nothing of it is on its way (R122, R123). -/
def CohortQuiet (s : State) (cid : Nat) : Prop :=
  ∀ e ∈ s.gangs, e.2.cohort = cid → e.2.paths = [] ∧ gangQuiet s e.1 e.2 = true ∧ e.2.pending = [] ∧ e.2.paused = false

end Sys2Proof.Claim

/-- R21, R114, R122 to R125, R127, R133, R205, R207, R209 to R211, R213, R214, R216, R283, R379: the dispatcher's events. A gang is urgent after 56 cycles and not before; an ended gang's
block returns. A cohort whose gangs have all ended leaves with them and counts for its grid, and a grid that is over closes its host writes with a zero-length read before
its launch ends. A cohort is placed with its gangs at the kernel's entry and every register zero. A cohort that has waited reserves a quartet, or a core, or names one victim. A
compaction moves one block after another, two cycles a granule. The model's choices among these are in the log: granules that return at the gang's own end (69), which
quartet or core is reserved (71), the zero-length read at a grid's end (72), one victim at a time (84). -/
def Obligations.DispatchEvents : Prop :=
  (∀ (s : State) (gi : Nat) (g : Gang) (t : DWord), s.gang gi = some g → g.readySince = some t →
    ((s.clock - t).toNat < 56 → exec (.gangUrgent gi) s = .next s) ∧
    (56 ≤ (s.clock - t).toNat → exec (.gangUrgent gi) s = .next (s.putGang gi { g with urgent := true }))) ∧
  (∀ (s : State) (gi : Nat) (g : Gang), s.gang gi = some g →
    (g.paths ≠ [] → exec (.gangBlockRelease gi) s = .next s) ∧
    (g.paths = [] → g.ops = [] → g.paused = false → (∀ e ∈ (s.coreAt g.die g.core).oxq, e.gang ≠ gi) →
      exec (.gangBlockRelease gi) s = .next (s.putGang gi { g with granules := 0 }))) ∧
  (∀ (s : State) (ci : Nat) (c : Cohort) (gr : Grid), s.cohort ci = some c → s.grid c.grid = some gr → CohortQuiet s ci →
    ∃ t, exec (.cohortEnd ci) s = .next t ∧ t.cohort ci = none ∧ t.gangs = s.gangs.filter (fun e => e.2.cohort != ci) ∧
      t.grid c.grid = some { gr with finished := gr.finished + 1 } ∧ MemorySame s t) ∧
  (∀ (s : State) (gi : Nat) (gr : Grid), s.grid gi = some gr →
    (gridOver s gi gr = false → exec (.gridComplete gi) s = .next s) ∧
    (gridOver s gi gr = true → gr.abandoned = false → gr.zero = none →
      ∃ t, exec (.gridComplete gi) s = .next t ∧ t.pcie = s.pcie ++ [(s.fresh, .zeroRead)] ∧ t.grid gi = some { gr with zero := some s.fresh }) ∧
    (∀ n q pk, gridOver s gi gr = true → gr.abandoned = false → gr.zero = some n → look s.pcie n = none → s.queue (gridQueue gr) = some q →
      q.pend = [pk] → pk.grid = some gi →
      ∃ t, exec (.gridComplete gi) s = .next t ∧ t.grid gi = none ∧ t.queue (gridQueue gr) = some { q with pend := [{ pk with done := true }] })) ∧
  (∀ (s : State) (gi : Nat) (gr : Grid) (dm : Demand), Next s gi gr none dm →
    (findSpot s gr dm = none → exec (.cohortPlace gi) s = .next s) ∧
    (∀ k plans, findSpot s gr dm = some (.now k) → planAll s dm k = some plans →
      ∃ t c, exec (.cohortPlace gi) s = .next t ∧ t.cohort s.fresh = some c ∧ c.grid = gi ∧ c.number = gr.nextCohort ∧ c.die = keyDie k ∧ c.core = keyCore k ∧
        t.grid gi = some { gr with nextCohort := gr.nextCohort + 1, lastDie := some (keyDie k), waitFrom := some s.clock } ∧ t.hbm = s.hbm ∧
        ∀ n ∈ c.gangs, ∃ g q, t.gang n = some g ∧ g.cohort = s.fresh ∧ g.kd = gr.kd ∧ g.v = [] ∧ g.s = [] ∧ g.p = [] ∧ g.stack = [] ∧ g.exited = 0 ∧
          g.paths = [q] ∧ q.pc = gr.kd.base + BitVec.ofNat 64 gr.kd.entry ∧ q.mask = lowLanes gr.kd.gangw ∧ q.st = .ready)) ∧
  (∀ (s : State) (gi k x y : Nat) (gr : Grid) (o : Option Nat) (dm : Demand) (r : List (Nat × Nat)) (g : Gang), Next s gi gr o dm →
    findSpot s gr dm = some (.compact k) → movesOk s dm k ((x, y) :: r) = true → s.gang x = some g → spOk Core.reset s.cores = true →
    ∃ t c', exec (.compactionStart k gi ((x, y) :: r)) s = .next t ∧ (coreOf t k).compact = some c' ∧ c'.grid = gi ∧ c'.saved = o ∧
      c'.moves = (x, y) :: r ∧ MemorySame s t ∧
      (movable g = true → blockQuiet s x g = true → c'.since = some s.clock ∧ t.gang x = some { g with paused := true }) ∧
      (movable g = false ∨ blockQuiet s x g = false → c'.since = none ∧ t.gang x = some g)) ∧
  (∀ (s : State) (k gi b : Nat) (r : List (Nat × Nat)) (x : Compact) (t0 : DWord) (g : Gang), spOk Core.reset s.cores = true →
    (coreOf s k).compact = some x → x.moves = (gi, b) :: r → x.since = some t0 → s.gang gi = some g → g.paths ≠ [] →
    ((s.clock - t0).toNat < 2 * g.granules → exec (.compactionMoveEnd k) s = .next s) ∧
    (2 * g.granules ≤ (s.clock - t0).toNat → r ≠ [] → ∃ t g', exec (.compactionMoveEnd k) s = .next t ∧ t.gang gi = some g' ∧ g'.block = b ∧
      g'.granules = g.granules ∧ MemorySame s t)) ∧
  (∀ (s : State) (gi d : Nat) (gr : Grid) (o : Option Nat) (dm : Demand) (k : Nat), s.grid gi = some gr → nextDemand s gi gr = some (o, dm) →
    d ∈ dieOrder s gr → 4096 ≤ waited s gr → waitsForRoom s gi gr = true →
    (needsQuartet dm.kd = true → placeable s gi gr = none → (∀ r ∈ s.reserveQ, r.1 ≠ d ∧ r.2.2 ≠ gi) →
      leastLoaded s dm ((firstCores dm d).filter (fun j => (coresOf dm j).all (coreOpen s dm))) = some k →
      exec (.quartetReserve d gi) s = .next { s with reserveQ := s.reserveQ ++ [(d, keyCore k / 4, gi)] }) ∧
    (needsQuartet dm.kd = false → (∀ r ∈ s.reserveL1, r.1 ≠ d ∧ r.2.2 ≠ gi) → (∀ j ∈ firstCores dm d, planAll s dm j = none) →
      leastLoaded s dm ((firstCores dm d).filter (fun j => coreOpen s dm j && (cohortsOn s j).any (fun e => e.2.kd.l1 != dm.kd.l1))) = some k →
      exec (.l1SizeReserve d gi) s = .next { s with reserveL1 := s.reserveL1 ++ [(d, keyCore k, gi)] })) ∧
  (∀ (s : State) (gi vi : Nat) (gr : Grid) (v : Cohort), s.grid gi = some gr → (nextDemand s gi gr).isSome = true → waitsForRoom s gi gr = true →
    placeable s gi gr = none → (∀ e ∈ s.cohorts, e.2.asked = false ∨ e.2.askedBy ≠ some gi) → victims s gr = [(vi, v)] →
    ((s.fn gr.fn).delay = 0xFFFFFFFF ∨ waited s gr ≤ 3600 * (s.fn gr.fn).delay.toNat → exec (.preemptDelayExpire gi) s = .next s) ∧
    ((s.fn gr.fn).delay ≠ 0xFFFFFFFF → 3600 * (s.fn gr.fn).delay.toNat < waited s gr →
      exec (.preemptDelayExpire gi) s = .next (s.putCohort vi { v with asked := true, askedBy := some gi, room := roomLeft s v })))

/-- R366, R379 to R383, R390, R391, R441, R442: a cohort that is asked to leave stops: no gang of it issues. At its points it is saved: its context goes to the queue's save area, it
leaves, and it stays on record; an abandoned grid's cohort only leaves. A context that cannot be written ends the grid. A saved cohort comes back before the unplaced
ones, when it is its turn and it fits and its block passes the checks; a block that fails them ends the grid. That a context takes the first free 4 KiB stretch of the
save area (log 83), that a request keeps such a place for it, so that its cohort's context then finds one (log 158), and that a block is written in one step, a failed one
ending the grid (log 85), are the model's choices. -/
def Obligations.Preemption : Prop :=
  (∀ (s : State) (ci : Nat) (c : Cohort), s.cohort ci = some c →
    (c.asked = false ∨ c.stopping = true → exec (.preemptRequest ci) s = .next s) ∧
    (c.asked = true → c.stopping = false →
      ∃ t, exec (.preemptRequest ci) s = .next t ∧ t.cohort ci = some { c with stopping := true } ∧ MemorySame s t ∧
        (∀ n g, t.gang n = some g → g.cohort = ci → g.stopped = true) ∧
        ∀ n g, s.gang n = some g → ∃ g', t.gang n = some g' ∧ g'.v = g.v ∧ g'.s = g.s ∧ g'.p = g.p ∧ g'.stack = g.stack ∧ g'.fpstat = g.fpstat)) ∧
  (∀ (s : State) (ci : Nat) (c : Cohort) (gr : Grid), s.cohort ci = some c → s.grid c.grid = some gr →
    (c.asked = false ∨ c.stopping = false ∨ gr.failed = true ∨ cohortAtPoint s ci c = false → exec (.contextSave ci) s = .next s) ∧
    (c.asked = true → c.stopping = true → gr.failed = false → cohortAtPoint s ci c = true →
      (gr.abandoned = true → ∃ t, exec (.contextSave ci) s = .next t ∧ t.cohort ci = none ∧ t.saved = s.saved ∧ MemorySame s t) ∧
      (∀ q o, gr.abandoned = false → s.queue (gridQueue gr) = some q →
        firstRoom q.saveSize (roomTaken s (gridQueue gr) q ++ roomPromised s (gridQueue gr) (some ci)) (roomFor (contextBlock s c gr).length) = some o →
        let b := contextBlock s c gr
        let va := q.save + BitVec.ofNat 64 o
        (∀ s1, writeBlock c.die c.kd.asid (b.length / 64 + 1) s va b = .done s1 →
          ∃ t sv, exec (.contextSave ci) s = .next t ∧ t.cohort ci = none ∧ t.saved = s1.saved ++ [(s1.fresh, sv)] ∧ sv.grid = c.grid ∧ sv.number = c.number ∧
            sv.va = va ∧ sv.bytes = b.length ∧ t.hbm = s1.hbm) ∧
        (writeBlock c.die c.kd.asid (b.length / 64 + 1) s va b = .wait → exec (.contextSave ci) s = .next s) ∧
        (writeBlock c.die c.kd.asid (b.length / 64 + 1) s va b = .failed → ∃ t gr', exec (.contextSave ci) s = .next t ∧ t.grid c.grid = some gr' ∧ gr'.failed = true)) ∧
      (∀ q, gr.abandoned = false → s.queue (gridQueue gr) = some q →
        firstRoom q.saveSize (roomTaken s (gridQueue gr) q ++ roomPromised s (gridQueue gr) (some ci)) (roomFor (contextBlock s c gr).length) = none →
        ∃ t, exec (.contextSave ci) s = .next t ∧ t.cohort ci = some { c with asked := false, stopping := false, askedBy := none, room := none }) ∧
      (∀ q o n, gr.abandoned = false → s.queue (gridQueue gr) = some q → c.room = some (o, n) → roomFor (contextBlock s c gr).length ≤ n → o + n ≤ q.saveSize →
        (∀ r ∈ roomTaken s (gridQueue gr) q ++ roomPromised s (gridQueue gr) (some ci), o + n ≤ r.1 ∨ r.1 + r.2 ≤ o) →
        ∃ o', firstRoom q.saveSize (roomTaken s (gridQueue gr) q ++ roomPromised s (gridQueue gr) (some ci)) (roomFor (contextBlock s c gr).length) = some o'))) ∧
  (∀ (s : State) (id : Nat) (sv : Saved) (gr : Grid) (dm : Demand), look s.saved id = some sv → s.grid sv.grid = some gr →
    demandOf s sv.grid gr (some id) = some dm →
    (resumePlace s sv.grid gr id dm = none → exec (.resume id) s = .next s) ∧
    (∀ k plans b s1, resumePlace s sv.grid gr id dm = some k → planAll s dm k = some plans → readBlock s gr.kd.asid sv = .bytes b s1 →
      (blockFits b gr.kd sv = true → ∃ t c, exec (.resume id) s = .next t ∧ t.cohort s1.fresh = some c ∧ c.grid = sv.grid ∧ c.number = sv.number ∧
        c.die = keyDie k ∧ c.core = keyCore k ∧ look t.saved id = none ∧ t.hbm = s.hbm) ∧
      (blockFits b gr.kd sv = false → ∃ t gr', exec (.resume id) s = .next t ∧ look t.saved id = none ∧ t.grid sv.grid = some gr' ∧ gr'.failed = true)))
-- User queues and the driver

namespace Sys2Proof.Claim

/-- The packet at RIDX of queue `k` may start, can be read, and is `p`, with no reserved bit and a usable signal word (R205, R435, R437). -/
structure Starts (s : State) (k : Nat) (q : Queue) (p : QPkt) (s1 : State) : Prop where
  queue : s.queue k = some q
  open_ : ∀ x ∈ q.pend, x.done = false ∧ x.idx ≠ q.ridx
  may : mayStartPkt s q = true
  read : ∃ ws, fetchPkt s q = .words ws s1 ∧ p = ⟨q.ridx, ws, none, 0, [], [], none, false⟩
  clean : pktReserved p = false
  sig : sigOk s q p = .ok true

/-- The queue once packet `p` has started and stands as `p'`: RIDX is past it. -/
def startedQueue (s : State) (q : Queue) (p' : QPkt) : Queue := { q with ridx := q.ridx + 1, lastStart := s.clock, pend := q.pend ++ [p'] }

/-- The packet has failed with a code: the queue halts first; its SIG add follows when it has one (R437, R438). -/
def failedQueue (s : State) (q : Queue) (p : QPkt) (err : BitVec 8) : Queue :=
  { q with ridx := q.ridx + 1, lastStart := s.clock, pend := q.pend ++ (if pktSig p then [{ p with done := true }] else []),
           failidx := p.idx.setWidth 32, err := err, halt := true }

/-- What an event of a queue leaves that stands as `q` in `t`: refusals of host pages that have halted it lapse, and a queue that is leaving goes (R437, R441). -/
def ended (t : State) (q : Queue) : State := settleQueues (if q.halt = true then lapse t q.asid else t)

/-- The same with the queue put back. -/
def endedAs (s : State) (k : Nat) (q : Queue) : State := ended (s.putQueue k q) q

/-- Die 16 has asked the host for this page, which granted neither R nor W (`true`), or has not answered yet. -/
def Asked16 (s : State) (asid : Nat) (va : DWord) (refused : Bool) : Prop := s.atsBy16.find? (fun x => x.1 == (asid, pageOf va)) = some ((asid, pageOf va), refused)

/-- An address in host memory, by a leaf that allows the access, for which the ATC has no entry (R242, R243). -/
structure HostPage (s : State) (asid : Nat) (va : DWord) (rd wr : Bool) : Prop where
  canonical : canonical va = true
  here : windowOf s asid (pageOf va) = none
  leaf : ∃ e level, (walkPage s 16 asid (pageOf va)).1 = .leaf e level ∧ xlOfLeaf s asid (pageOf va) e level = none ∧ leafLacks rd wr e = false

/-- A place that die 16 reads and writes at its home: one of device memory, at the line of its own address, without a partner. -/
structure Plain16 (s : State) (asid : Nat) (va : DWord) (rd : Bool) (place : Nat) (xl : Xl) : Prop where
  ok : qXl s asid va rd true = .ok place xl
  hbm : place / 64 * 64 + 64 ≤ 2 ^ 39
  aligned : place % 8 = 0
  home : ∃ h, h ≠ 16 ∧ homeAt s place xl = ⟨some h, BitVec.ofNat 64 (place / 64 * 64), false, false, false, false⟩ ∧ inlineOk s 16 h (s.member 16).cv true = true
  single : isDuplex s (place / 64) = false

/-- The first packet of a queue's started ones, not done. -/
structure Head (s : State) (k : Nat) (q : Queue) (p : QPkt) (r : List QPkt) (ty : Nat) : Prop where
  queue : s.queue k = some q
  pend : q.pend = p :: r
  ids : ∀ x ∈ r, x.idx ≠ p.idx
  open_ : ∀ x ∈ q.pend, x.done = false
  type : pktType p = ty

/-- A function may give commands (R434, R449). -/
def MayCommand (s : State) (fn : Nat) : Prop := s.up = true ∧ fn < 32

/-- The command is answered with a status and a value, and no memory changes. -/
def Answered (s t : State) (fn code : Nat) (status w0 : DWord) : Prop :=
  (t.fn fn).replies = (s.fn fn).replies ++ [⟨code, status, w0, 0⟩] ∧ MemorySame s t

end Sys2Proof.Claim

/-- R205, R206, R208, R436 to R440: packets start in order, at RIDX, and a packet in error halts its queue. A NOP ends at once; a BARRIER when it is first; a WAIT when
its word has reached the value, once what the host wrote before has been passed on; a TIMESTAMP writes CLOCK and a SIGNAL its value when they are first; a COPY goes on until all is moved; a LAUNCH makes a grid; a
CAPLOAD keeps an image that passes the checks for later launches, at most four, and ignores another. Die 16 waits for the translation of a host page; one that the
host refuses is untranslatable, ERR 4. KICK raises WIDX within the ring and else halts the queue with
ERR 5; a kicked queue becomes resident where there is room. The model's choices among these are in the log: 64 µs as 230400 cycles (5), die 16's accesses
in one step (65), which engine takes a queue and from when it is idle (107, 108), host traffic passed on in order (124), the place of a swapped-out queue among the
kicks (145), a refused page without a page request (157), which of two equally idle queues goes (162), ERR 1 for a COPY of more than 2^40 bytes (169). -/
def Obligations.QueuePackets : Prop :=
  (∀ (s : State) (k : Nat) (q : Queue) (p : QPkt) (s1 : State), Starts s k q p s1 →
    let q2 := startedQueue s q p
    let plain : Prop := ∀ x ∈ q.pend, pktType x ≠ pktType p
    (pktType p = 0 → exec (.nopPacket k) s = .next (endedAs s1 k (startedQueue s q { p with done := true }))) ∧
    (plain → pktType p = 5 → exec (.barrier k) s = .next (endedAs s1 k q2)) ∧
    (plain → pktType p = 3 → exec (.wait k) s =
      .next (endedAs s1 k (if (pktWord p 1).toNat % 8 = 0 then q2 else failedQueue s q p 4))) ∧
    (plain → pktType p = 4 → exec (.signal k) s =
      .next (endedAs s1 k (if (pktWord p 1).toNat % 8 = 0 then q2 else failedQueue s q p 4))) ∧
    (plain → pktType p = 7 → exec (.timestamp k) s =
      .next (endedAs s1 k (if (pktWord p 1).toNat % 8 = 0 then q2 else failedQueue s q p 4))) ∧
    (plain → pktType p = 2 → exec (.copy k) s =
      .next (endedAs s1 k (if (pktWord p 1).toNat % 64 ≠ 0 ∨ (pktWord p 2).toNat % 64 ≠ 0 ∨ (pktWord p 3).toNat % 64 ≠ 0 then failedQueue s q p 4
        else if 2 ^ 40 < (pktWord p 3).toNat then failedQueue s q p 1 else q2))) ∧
    (pktType p = 1 → look s1.handles ((pktWord p 0).toNat / 2 ^ 32) = none → exec (.launch k) s = .next (endedAs s1 k (failedQueue s q p 2))) ∧
    (∀ h, pktType p = 1 → look s1.handles ((pktWord p 0).toNat / 2 ^ 32) = some h → h.asid = q.asid → h.kd.paramSize = 0 → pktWord p 3 = 0 →
      let n (x : Nat) := x + 1
      let size := n ((pktWord p 1).toNat % 2 ^ 32) * n ((pktWord p 1).toNat / 2 ^ 32) * n ((pktWord p 2).toNat % 2 ^ 32) * cohortThreads h.kd
      (2 ^ 48 < size → exec (.launch k) s = .next (endedAs s1 k (failedQueue s q p 3))) ∧
      (size ≤ 2 ^ 48 → ∃ t gr, exec (.launch k) s = .next t ∧ t.grid s1.fresh = some gr ∧ gr.kd = h.kd ∧ gr.params = [] ∧ gr.launch = q.launches ∧
        gr.nx = n ((pktWord p 1).toNat % 2 ^ 32) ∧ gr.ny = n ((pktWord p 1).toNat / 2 ^ 32) ∧ gr.nz = n ((pktWord p 2).toNat % 2 ^ 32) ∧
        gr.nextCohort = 0 ∧ gr.failed = false ∧ MemorySame s1 t ∧
        t.queue k = some { startedQueue s q { p with grid := some s1.fresh } with launches := q.launches + 1 })) ∧
    (∀ h hd b s2 s3, pktType p = 6 → look s1.handles ((pktWord p 0).toNat / 2 ^ 32) = some h → h.asid = q.asid → (pktWord p 1).toNat % 8 = 0 →
      readRange16 q.asid 3 s1 (pktWord p 1) 32 [] = .bytes hd s2 →
      readRange16 q.asid 1026 s2 (pktWord p 1) (imageField hd 6 2) [] = .bytes b s3 →
      let head := h.kd.base + BitVec.ofNat 64 (pktWord p 2).toNat
      ∃ t q', exec (.caploadPacket k) s = .next t ∧ t.queue k = some q' ∧ q'.ridx = q.ridx + 1 ∧ MemorySame s3 t ∧
        ((revalidate s3 16 0 q.asid h.kd head b).isSome = true → q'.images.getLast? = some ⟨h.kd, head, b, q.launches⟩ ∧
          (q.images.length ≤ 4 → q'.images.length ≤ 4)) ∧
        ((revalidate s3 16 0 q.asid h.kd head b).isSome = false → q'.images = q.images))) ∧
  (∀ (s : State) (k : Nat) (q : Queue) (p : QPkt) (r : List QPkt),
    let done : Queue := { q with pend := { p with done := true } :: r }
    (Head s k q p r 5 → exec (.barrier k) s = .next (endedAs s k done)) ∧
    (Head s k q p r 3 → s.hostIn ≠ [] → exec (.waitReread k) s = .next (ended s q)) ∧
    (∀ s1, Head s k q p r 3 → s.hostIn = [] → qXl s q.asid (pktWord p 1) true false = .wait s1 → s1.queue k = s.queue k → exec (.waitReread k) s = .next (ended s1 q)) ∧
    (Head s k q p r 3 → s.hostIn = [] → qXl s q.asid (pktWord p 1) true false = .bad → exec (.waitReread k) s = .next (endedAs s k
      { q with pend := (if pktSig p then { p with done := true } :: r else r), failidx := p.idx.setWidth 32, err := 4, halt := true })) ∧
    (∀ place xl b s1, Head s k q p r 3 → s.hostIn = [] → qXl s q.asid (pktWord p 1) true false = .ok place xl →
      read16 s place 8 xl = .bytes b s1 →
      exec (.waitReread k) s = .next (if (pktWord p 2).toNat ≤ natLE b then endedAs s1 k done else ended s q)) ∧
    (∀ place xl, Head s k q p r 7 → Plain16 s q.asid (pktWord p 1) false place xl → spOk 0 s.hbm = true →
      ∃ t, exec (.timestamp k) s = .next t ∧ t.queue k = some done ∧ placeBytes t place 8 = bytesLE 8 s.clock.toNat ∧
        ∀ a, a < place ∨ place + 8 ≤ a → placeByte t a = placeByte s a) ∧
    (∀ place xl, Head s k q p r 4 → (pktWord p 0).getLsbD 16 = false → Plain16 s q.asid (pktWord p 1) false place xl → spOk 0 s.hbm = true →
      ∃ t, exec (.signal k) s = .next t ∧ t.queue k = some done ∧ placeBytes t place 8 = bytesLE 8 (pktWord p 2).toNat ∧
        ∀ a, a < place ∨ place + 8 ≤ a → placeByte t a = placeByte s a) ∧
    (Head s k q p r 2 → (pktWord p 3).toNat ≤ p.moved → p.bulk = [] → p.waits = [] →
      ∃ t, exec (.copy k) s = .next t ∧ t.queue k = some done ∧ MemorySame s t)) ∧
  (∀ (s : State) (asid : Nat) (va : DWord) (rd wr : Bool), HostPage s asid va rd wr →
    ((∀ b, ¬ Asked16 s asid va b) → ∃ s1, qXl s asid va rd wr = .wait s1 ∧ (asid, pageOf va) ∈ s1.atsReqs ∧ Asked16 s1 asid va false ∧ s1.pri = s.pri ∧ s1.queues = s.queues) ∧
    (Asked16 s asid va false → qXl s asid va rd wr = .wait s) ∧ (Asked16 s asid va true → qXl s asid va rd wr = .bad)) ∧
  (∀ (s : State) (k : Nat) (q : Queue) (v : DWord), s.queue k = some q → s.up = true → q.reg = true → q.halt = false →
    (s.hostIn ≠ [] → exec (.kick k 0 8 v) s = .next { s with hostIn := s.hostIn ++ [.kick k v] }) ∧
    (s.hostIn = [] → q.widx.toNat ≤ v.toNat → v.toNat ≤ q.ridx.toNat + q.size → ∃ q', exec (.kick k 0 8 v) s = .next (s.putQueue k q') ∧ q'.widx = v ∧ q'.halt = false ∧
      q'.ridx = q.ridx ∧ q'.pend = q.pend) ∧
    (s.hostIn = [] → v.toNat < q.widx.toNat ∨ q.ridx.toNat + q.size < v.toNat →
      exec (.kick k 0 8 v) s = .next (s.putQueue k { q with failidx := v.setWidth 32, err := 5, halt := true }))) ∧
  (∀ (s : State) (k n : Nat) (q : Queue), s.queue k = some q → q.reg = true → q.kicked = some n →
    (q.res = true → exec (.queueSwapIn k) s = .next s) ∧
    (q.res = false → (∃ e ∈ s.queues, e.2.engine = q.engine ∧ e.1 ≠ k ∧ ∃ b, e.2.kicked = some b ∧ b < n) → exec (.queueSwapIn k) s = .next s) ∧
    (q.res = false → (∀ e ∈ s.queues, e.2.engine = q.engine → e.1 ≠ k → ∀ b, e.2.kicked = some b → n ≤ b) →
      (∀ m, m < 16 → (engineResidents s m).length < 64 → (∀ j < m, 64 ≤ (engineResidents s j).length) →
        exec (.queueSwapIn k) s = .next (s.putQueue k { q with res := true, engine := m, kicked := none, lastStart := s.clock })) ∧
      ((∀ m < 16, 64 ≤ (engineResidents s m).length) → (∀ e ∈ engineResidents s q.engine, (s.clock - e.2.lastStart).toNat < 230400) →
        exec (.queueSwapIn k) s = .next s)))

/-- R79, R207, R209, R232, R236, R242, R245, R434 to R436, R438, R441 to R443: the driver's commands, of a function below 32 after bring-up; each is answered with its code and a status. Status 1 names a
field in error, 2 another owner, 3 a privilege. With good fields: BIND_ASID writes the ASID's entry with its owner; VERIFY reports the verdict; KERNEL makes the next handle;
QUEUE registers a queue; UNQUEUE halts it and abandons its grids; RESTART clears HALT and ERR; INVAL begins an invalidation; PREEMPT asks every cohort that fits; FAULTQ, SETDELAY and RESPOND
change the function's registers; PTWRITE writes an entry. A queue number of 65,536 or more names none. Before bring-up nothing happens. The model's choices among these are in the log: how protected tables are made (78); how segments and kernels are named (79); the statuses that R441 leaves open, 1 for a
queue that is not registered and for an unknown segment and 2 for an ASID that is invalid or out of range (80), and 1 for a FAULTQ size that is no power of two and for a
PTWRITE to a table that is not protected (82); what a second verification does to an earlier segment (143); the place that PREEMPT keeps for a context (158). -/
def Obligations.DriverCommands : Prop :=
  ∀ (s : State) (fn q asid record segment index size saveSize prio : Nat) (va ring save w0 w1 entry : DWord) (delay : Word) (retry unv : Bool)
      (descs : List (List DWord)),
    let k := 65536 * fn + q
    let answered (i : Instr) (code : Nat) (status v : DWord) (f : State → Prop) : Prop := ∃ t, exec i s = .next t ∧ Answered s t fn code status v ∧ f t
    let same (i : Instr) (code : Nat) (status : DWord) : Prop := exec i s = .next (s.reply fn code status 0)
    spOk Fn.reset s.fns = true → spOk (0, 0) s.asids = true →
    (s.up = false → exec (.bindAsid fn asid w0 w1) s = .next s ∧ exec (.setdelay fn delay) s = .next s ∧ exec (.queue fn q asid ring size prio save saveSize) s = .next s ∧
      exec (.verify fn asid va size descs unv) s = .next s ∧ exec (.inval fn asid va size) s = .next s) ∧
    (MayCommand s fn →
      -- BIND_ASID
      (4096 ≤ asid ∨ w0 &&& 0xFFFFFFF0000000FC ≠ 0 ∨ w1 &&& 0xFFFFFF8000000FFF ≠ 0 → same (.bindAsid fn asid w0 w1) 1 1) ∧
      (asid < 4096 → w0 &&& 0xFFFFFFF0000000FC = 0 → w1 &&& 0xFFFFFF8000000FFF = 0 →
        (asidValid s asid = true → asidFn s asid ≠ fn → same (.bindAsid fn asid w0 w1) 1 2) ∧
        (asidValid s asid = false ∨ asidFn s asid = fn → w0.getLsbD 0 = true →
          answered (.bindAsid fn asid w0 w1) 1 0 0 (fun t => spGet (0, 0) t.asids asid = ((w0 &&& 0x0000000FFFFF0003) ||| BitVec.ofNat 64 (256 * fn), w1)))) ∧
      -- VERIFY
      (unv = true → fn ≠ 0 → same (.verify fn asid va size descs unv) 2 3) ∧
      (unv = false ∨ fn = 0 → ownsAsid s fn asid = false → same (.verify fn asid va size descs unv) 2 2) ∧
      (∀ ws, unv = false → ownsAsid s fn asid = true → va.toNat + size < 2 ^ 56 → va.toNat % 8 = 0 → size % 8 = 0 → 0 < size → size ≤ 2 ^ 34 →
        segWords s asid va (size / 8) = some ws → (verifySegment ws descs).status ≠ 0 →
        ∃ t, exec (.verify fn asid va size descs unv) s = .next t ∧ t.segments = s.segments ∧ MemorySame s t ∧
          (t.fn fn).replies = (s.fn fn).replies ++ [⟨2, 0, (verifySegment ws descs).words.1, (verifySegment ws descs).words.2⟩]) ∧
      (∀ ws s1, unv = false → ownsAsid s fn asid = true → va.toNat + size < 2 ^ 56 → va.toNat % 8 = 0 → size % 8 = 0 → 0 < size → size ≤ 2 ^ 34 →
        segWords s asid va (size / 8) = some ws → (verifySegment ws descs).status = 0 → passSegment s fn asid va size descs false (verifySegment ws descs) = (0, some s1) →
        exec (.verify fn asid va size descs unv) s = .next s1 ∧ s1.invals.length = s.invals.length + 1 ∧
          ∃ sg ∈ s1.segments, sg.asid = asid ∧ sg.base = va ∧ sg.words = size / 8 ∧ sg.starts = (verifySegment ws descs).starts ∧ sg.unverified = false) ∧
      -- KERNEL
      (s.segments.length ≤ segment → same (.kernel fn segment index) 3 1) ∧
      (∀ sg d, s.segments[segment]? = some sg → sg.fn = fn → sg.descs[index]? = some d → s.handles.length + 1 < 2 ^ 32 →
        answered (.kernel fn segment index) 3 0 (BitVec.ofNat 64 (s.handles.length + 1))
          (fun t => t.handles = s.handles ++ [(s.handles.length + 1, ⟨fn, sg.asid, kernelOf sg.asid sg.base d, d⟩)])) ∧
      -- QUEUE, RESTART, UNQUEUE, PREEMPT
      (asid < 4096 → q < 65536 → asidValid s asid = true → asidFn s asid = fn → isPow2In size 6 20 = true → ring.toNat % 64 = 0 → prio < 8 → save.toNat % 64 = 0 →
        s.queue k = none → answered (.queue fn q asid ring size prio save saveSize) 4 0 0 (fun t => ∃ x, t.queue k = some x ∧ x.reg = true ∧ x.halt = false ∧
          x.err = 0 ∧ x.widx = 0 ∧ x.ridx = 0 ∧ x.fn = fn ∧ x.asid = asid ∧ x.ring = ring ∧ x.size = size ∧ x.prio = prio ∧ x.pend = [])) ∧
      (65536 ≤ q ∨ s.queue k = none → same (.restart fn q) 6 1 ∧ same (.unqueue fn q) 5 1 ∧ same (.preempt fn q) 8 1) ∧
      (∀ x, q < 65536 → s.queue k = some x → x.reg = true →
        (x.leaving = false → answered (.restart fn q) 6 0 0 (fun t => t.queue k = some { x with halt := false, err := 0 })) ∧
        answered (.unqueue fn q) 5 0 0 (fun t => (∃ y, t.queue k = some y ∧ y.halt = true) ∧
          ∀ n g, t.grid n = some g → gridQueue g = k → g.abandoned = true) ∧
        (queuePlacing s k = [] → (∀ e ∈ s.cohorts, ∀ g, s.grid e.2.grid = some g → gridQueue g ≠ k) → answered (.preempt fn q) 8 0 0 (fun t => t.cohorts = s.cohorts)) ∧
        (∀ n c o, queuePlacing s k = [] → queueCohorts s k = [(n, c)] → c.room = none → s.cohort n = some c → roomLeft s c = some o →
          answered (.preempt fn q) 8 0 0 (fun t => t.cohort n = some { c with asked := true, room := some o })) ∧
        (∀ n c o, queuePlacing s k = [] → queueCohorts s k = [(n, c)] → c.room = some o → answered (.preempt fn q) 8 0 0 (fun t => t.cohorts = s.cohorts)) ∧
        (∀ n c, queuePlacing s k = [] → queueCohorts s k = [(n, c)] → c.room = none → roomLeft s c = none → answered (.preempt fn q) 8 4 0 (fun t => t.cohorts = s.cohorts))) ∧
      -- INVAL, PTWRITE
      (ownsAsid s fn asid = false → same (.inval fn asid va size) 7 2 ∧ same (.ptwrite fn asid va entry) 12 2) ∧
      (ownsAsid s fn asid = true → ∃ t, exec (.inval fn asid va size) s = .next t ∧ t.invals.length = s.invals.length + 1 ∧ MemorySame s t) ∧
      (∀ tb, ownsAsid s fn asid = true → canonical va = true → tableAt s asid (pageOf va) 0 4 (asidRoot s asid) = some tb →
        (∀ e sg, e = entry ∨ e = hbmWord s (tb + 8 * (pageOf va % 512)) → pteV e = true → pteBig e = true → sg ∈ s.segments → sg.asid = asid → 0 < sg.words →
          let run := pageOf va / 16 * 16 * 4096
          sg.base.toNat % 2 ^ 57 < run + 65536 → run < sg.base.toNat % 2 ^ 57 + 8 * sg.words → same (.ptwrite fn asid va entry) 12 1) ∧
        (isProtected s tb = false ∨ mapsSegment s asid (pageOf va) entry = true ∨ mapsSegment s asid (pageOf va) (hbmWord s (tb + 8 * (pageOf va % 512))) = true ∨ pteX entry = true → same (.ptwrite fn asid va entry) 12 1) ∧
        (isProtected s tb = true → mapsSegment s asid (pageOf va) (hbmWord s (tb + 8 * (pageOf va % 512))) = false → pteX entry = false → pteV entry = false → tb % 4096 = 0 →
          tb + 4096 ≤ 2 ^ 39 → spOk 0 s.hbm = true →
          ∃ t, exec (.ptwrite fn asid va entry) s = .next t ∧ hbmWord t (tb + 8 * (pageOf va % 512)) = entry ∧
            (∀ a, a < tb + 8 * (pageOf va % 512) ∨ tb + 8 * (pageOf va % 512) + 8 ≤ a → placeByte t a = placeByte s a))) ∧
      -- FAULTQ, RESPOND, SETDELAY
      (isPow2In size 0 32 = false → same (.faultq fn va size) 9 1) ∧
      (isPow2In size 0 32 = true → answered (.faultq fn va size) 9 0 0 (fun t => (t.fn fn).ring = va ∧ (t.fn fn).size = size ∧ (t.fn fn).fqw = 0 ∧ (t.fn fn).fqr = 0)) ∧
      (record ∉ (s.fn fn).pageIds → same (.respond fn record retry) 10 1) ∧
      (record ∈ (s.fn fn).pageIds → ∃ t, exec (.respond fn record retry) s = .next t ∧ (t.fn fn).pageIds = (s.fn fn).pageIds.filter (fun i => i != record) ∧ MemorySame s t) ∧
      answered (.setdelay fn delay) 11 0 0 (fun t => (t.fn fn).delay = delay))
-- Packets at a home

namespace Sys2Proof.Claim

/-- The arrival event of an operation between two members (R416). -/
inductive IsArrival (src dst : Nat) : POp → Instr → Prop where
  | orderedWrite : IsArrival src dst .orderedWrite (.orderedWrite src dst)
  | atomic : IsArrival src dst .atomic (.atomic src dst)
  | causalLoad : IsArrival src dst .causalLoad (.causalLoad src dst)
  | plainLoad : IsArrival src dst .plainLoad (.plainLoad src dst)
  | forwardedWrite : IsArrival src dst .forwardedWrite (.forwardedWrite src dst)
  | bulkWrite : IsArrival src dst .bulkWrite (.bulkWrite src dst)
  | engineRead : IsArrival src dst .engineRead (.engineRead src dst)
  | flushMarker : IsArrival src dst .flushMarker (.flushMarker src dst)
  | readResponse : IsArrival src dst .readResponse (.readResponse src dst)
  | atomicResponse : IsArrival src dst .atomicResponse (.atomicResponse src dst)
  | writeAck : IsArrival src dst .writeAck (.writeAcknowledgement src dst)
  | flushReply : IsArrival src dst .flushReply (.flushReply src dst)
  | frontier : IsArrival src dst .frontier (.frontier src dst)
  | frontierRequest : IsArrival src dst .frontierRequest (.frontierRequest src dst)
  | management : IsArrival src dst .management (.management src dst)

/-- Packet `p` is the next of its channel from `src` to `dst`, before `r`, and its route is open (R411, R413, R416). -/
structure Arrives (s : State) (op : POp) (src dst : Nat) (p : Packet) (r : List Packet) : Prop where
  head : spGet [] s.flights (flightKey src dst (chanOf op)) = p :: r
  op : p.op = op
  from_ : p.src = src
  to_ : p.dst = dst
  open_ : pairOpen s src dst = true
  alive : memberGone s dst = false
  flights : spOk [] s.flights = true

/-- The packet is off its channel. -/
def taken (s : State) (op : POp) (src dst : Nat) (r : List Packet) : State :=
  { s with flights := spSet [] s.flights (flightKey src dst (chanOf op)) r }

/-- Every table of members has one entry for each of the 17 (R418). -/
def Members17 (s : State) : Prop :=
  s.members.length = 17 ∧ ∀ m ∈ s.members, m.last.length = 17 ∧ m.view.length = 17 ∧ m.pstamp.length = 17 ∧ m.lentTo.length = 17 ∧
    m.borrowed.length = 17 ∧ m.kept.length = 17 ∧ m.lastD.length = 17

/-- A packet whose header is as R416 and R417 ask, of the present generation, whose CHAIN is not behind LAST (R417). -/
def NoDefect (m : Member) (p : Packet) : Prop :=
  headerBad (headerOf p) = false ∧ p.gen = m.gen ∧ (isStamped p.op = true → windowLess16 p.chain (low16 (nth32 m.last p.src)) = false)

/-- An access to host memory names a valid ATC entry (R415). -/
def HasPlace (s : State) (p : Packet) : Prop := p.dst = 16 → (hostPlace s p.addr).isSome = true

/-- Member `dst` has a free hold entry for the source: 32, and those it has lent (R426). -/
def HoldRoom (m : Member) (src : Nat) : Prop := (m.holds.filter (fun q => q.src == src)).length < 32 + listGet 0 m.lentTo src

/-- The packet with its elided entries put back (R419). -/
def whole (m : Member) (p : Packet) : Packet := (fullStamp m p).1

/-- The packet passes the test of R421 at `dst`: CHAIN is LAST, and VIEW reaches the stamp in every entry but those of the source, of `dst` and
of removed members. -/
def Passes (m : Member) (dst : Nat) (p : Packet) : Prop :=
  p.chain = low16 (nth32 m.last p.src) ∧
  ∀ k, k < 17 → k ≠ p.src → k ≠ dst → k ∉ m.removed → windowLess16 (low16 (nth32 m.view k)) (nth16 p.stamp k) = false

/-- A stamped packet at home `dst` that is delivered on arrival. -/
structure Comes (s : State) (op : POp) (src dst : Nat) (p : Packet) (r : List Packet) : Prop where
  arrives : Arrives s op src dst p r
  home : 8 ≤ dst ∧ dst < 16 ∧ src < 17 ∧ src ≠ dst
  tables : Members17 s
  sound : NoDefect (s.member dst) p
  present : src ∉ (s.member dst).removed
  first : ∀ q ∈ (s.member dst).holds, q.src ≠ src
  passes : Passes (s.member dst) dst (whole (s.member dst) p)
  single : p.dup = false
  stamp : p.stamp.length = 17
  uncrossed : isDuplex s (p.addr.toNat / 64) = true → (∀ h ∈ (s.member dst).lineHolds, h.line ≠ p.addr.toNat / 64) ∧
    ∀ h ∈ (s.member (homeOf (partnerOf p.addr.toNat))).lineHolds, h.line ≠ partnerOf (64 * (p.addr.toNat / 64)) / 64

/-- The line of a packet's address, and one byte of memory after a write with its byte enables. -/
def lineNo (p : Packet) : Nat := p.addr.toNat / 64
def byteAfter (s : State) (p : Packet) (a : Nat) : Byte :=
  if a / 64 = lineNo p ∧ p.ben.getLsbD (a % 64) = true then listGet 0 p.data (a % 64) else placeByte s a

/-- The line check of a packet holds (R230), its page may be written (R27, R236), and no duplex page maps its line too. -/
structure Lands (s : State) (p : Packet) : Prop where
  check : p.check = packetCheck p
  writable : writeBarred s p.addr.toNat = false
  single : isDuplex s (lineNo p) = false

/-- The write is merged into its line and into nothing else; a write that comes poisoned poisons the line, and one of all 64 bytes cleans it
(R230, R231). -/
def Merged (s t : State) (p : Packet) : Prop :=
  (∀ a, placeByte t a = byteAfter s p a) ∧
  (∀ l, t.poison.contains l = (if l = lineNo p then p.poison.isSome || (s.poison.contains l && p.ben != BitVec.allOnes 64) else s.poison.contains l))

/-- A packet of VC-C behind `before` in the write queue of home `dst` may be performed (R350): no packet of its source is before it, a flush marker
finds every earlier write delivered, and no other crosses a forward on its way (R271). -/
def MayPerform (s : State) (dst : Nat) (before : List Packet) (p : Packet) : Prop :=
  (∀ q ∈ before, q.src ≠ p.src) ∧
  (p.op = .flushMarker → (s.member dst).lineHolds = [] ∧ (∀ q ∈ (s.member dst).holds, isCounted q.op = false) ∧ ∀ q ∈ before, q.op ≠ .bulkWrite) ∧
  (p.op ≠ .flushMarker → crossesForward s dst p = false)

/-- A reply of an operation has gone to the source, the last of its channel. -/
def Replied (s t : State) (op : POp) (p : Packet) (dst : Nat) (a : Packet) : Prop :=
  spGet [] t.flights (flightKey dst p.src 1) = spGet [] s.flights (flightKey dst p.src 1) ++ [a] ∧ a.op = op ∧ a.tag = p.tag ∧ a.addr = p.addr

/-- LAST is the packet's own entry, and its stamp is in the causal vector (R422). -/
def Counted (s t : State) (dst : Nat) (p : Packet) : Prop :=
  low16 (nth32 (t.member dst).last p.src) = nth16 p.stamp p.src ∧ (t.member dst).cv = mergeCV (s.member dst).cv p.stamp

end Sys2Proof.Claim

/-- R229 to R231, R258, R259, R271, R350, R415 to R417, R419, R421, R422, R426: a packet with a defect is discarded and reported, as one to host memory
without an ATC entry is; one of a removed source is discarded. A stamped packet that passes the delivery test is delivered: a write is merged and acknowledged,
an atomic of one lane is performed and answered with the value before and the home's vector, a causal load answers the line with the home's stamp. One that does not pass
is held while its source has a hold entry, and a held one is delivered once it passes. Plain loads, engine reads and bulk writes are not tested. What comes on VC-C waits
outside a full write queue; else it takes an entry or is performed, and the home performs a first entry that nothing holds up; a flush marker
is answered with the home's vector once every write before it is delivered. A write whose line check fails, or to a page under a write lock, changes nothing. A `cwb` leaves the line clean.
The model's choices among these are in the log: a first held packet raises VIEW (33), the unit codes of what is reported (88), what a flush marker waits for (118), the home's write queue
(136, 156), what a causal load at the partner home waits for (139). -/
def Obligations.HomeArrivals : Prop :=
  (∀ (s : State) (op : POp) (i : Instr) (src dst : Nat) (p : Packet) (r : List Packet), IsArrival src dst op i →
    (spGet [] s.flights (flightKey src dst (chanOf op)) = [] → exec i s = .next s) ∧
    (Arrives s op src dst p r → ¬ NoDefect (s.member dst) p →
      exec i s = .next { taken s op src dst r with checks := s.checks ++ [(dst, 1)] }) ∧
    (Arrives s op src dst p r → NoDefect (s.member dst) p → dst = 16 → isStamped op = true ∨ op = .plainLoad ∨ op = .bulkWrite ∨ op = .engineRead →
      hostPlace s p.addr = none → exec i s = .next { taken s op src dst r with checks := s.checks ++ [(16, 2)] }) ∧
    (Arrives s op src dst p r → NoDefect (s.member dst) p → HasPlace s p → isStamped op = true → src ∈ (s.member dst).removed →
      exec i s = .next (taken s op src dst r)) ∧
    (Arrives s op src dst p r → NoDefect (s.member dst) p → op = .management → exec i s = .next (taken s op src dst r))) ∧
  (∀ (s : State) (op : POp) (i : Instr) (src dst : Nat) (p : Packet) (r : List Packet), IsArrival src dst op i → s.memoryOk = true →
    (isStamped op = true → Arrives s op src dst p r → NoDefect (s.member dst) p → HasPlace s p → src ∉ (s.member dst).removed → dst < 17 → Members17 s →
      ¬ Passes (s.member dst) dst (whole (s.member dst) p) →
      (HoldRoom (s.member dst) src →
        ∃ t, exec i s = .next t ∧ (t.member dst).holds = (s.member dst).holds ++ [whole (s.member dst) p] ∧ MemorySame s t) ∧
      (¬ HoldRoom (s.member dst) src → exec i s = .next s)) ∧
    (op = .orderedWrite ∨ op = .forwardedWrite → Comes s op src dst p r → p.data.length = 64 →
      (Lands s p → ∃ t a, exec i s = .next t ∧ Merged s t p ∧ Replied s t .writeAck p dst a ∧ Counted s t dst (whole (s.member dst) p)) ∧
      (p.check ≠ packetCheck p ∨ writeBarred s p.addr.toNat = true → ∃ t a, exec i s = .next t ∧ MemorySame s t ∧ Replied s t .writeAck p dst a ∧
        Counted s t dst (whole (s.member dst) p))) ∧
    (op = .causalLoad → Comes s op src dst p r → p.cst = none → (p.partner = true → partnerSeen s (whole (s.member dst) p) = true) → (∀ h ∈ (s.member dst).lineHolds, h.line ≠ lineNo p) →
      ∃ t a, exec i s = .next t ∧ MemorySame s t ∧ Replied s t .readResponse p dst a ∧ a.data = placeBytes s (64 * lineNo p) 64 ∧
        a.poison = (if s.poison.contains (lineNo p) then some 0 else none) ∧ a.stamp = homeStamp (s.member dst) dst) ∧
    (∀ aop ty lane off x cmp, op = .atomic → Comes s op src dst p r → p.atom = some ⟨aop, ty, [⟨lane, off, x, cmp⟩]⟩ →
      (∀ h ∈ (s.member dst).lineHolds, h.line ≠ lineNo p) → writeBarred s p.addr.toNat = false → isDuplex s (lineNo p) = false →
      off % accessSize ty = 0 → off < 64 → ty ∈ [.i32, .s32, .z32, .b32, .b64, .f32] → p.addr.toNat < 2 ^ 39 →
      let n := accessSize ty
      let a0 := 64 * lineNo p + off
      let old := BitVec.ofNat 64 (natLE (placeBytes s a0 n))
      (s.poison.contains (lineNo p) = false → ∃ t a, exec i s = .next t ∧ Replied s t .atomicResponse p dst a ∧ a.olds = [(lane, old)] ∧
        a.poison = none ∧ a.stamp = (t.member dst).cv ∧ placeBytes t a0 n = bytesLE n (atomStep aop ty old (x, cmp)).toNat ∧
        (∀ b, b < a0 ∨ a0 + n ≤ b → placeByte t b = placeByte s b) ∧ Counted s t dst (whole (s.member dst) p)) ∧
      (s.poison.contains (lineNo p) = true → ∃ t a, exec i s = .next t ∧ Replied s t .atomicResponse p dst a ∧ a.olds = [] ∧
        a.poison = some 0 ∧ a.stamp = (t.member dst).cv ∧ MemorySame s t)) ∧
    (op = .plainLoad → Arrives s op src dst p r → NoDefect (s.member dst) p → 8 ≤ dst → dst < 16 → (∀ h ∈ (s.member dst).lineHolds, h.line ≠ lineNo p) →
      ∃ t a, exec i s = .next t ∧ MemorySame s t ∧ Replied s t .readResponse p dst a ∧ a.data = placeBytes s (64 * lineNo p) 64 ∧
        a.poison = (if s.poison.contains (lineNo p) then some 0 else none) ∧ a.stamp = homeStamp (s.member dst) dst ∧
        (p.wb = true → look t.l2 (lineNo p) ≠ some true) ∧
        (p.wb = false → homeMode s (homeOf (64 * lineNo p)) ≠ .degraded → look t.l2 (lineNo p) ≠ none)) ∧
    (chanOf op = 2 → Arrives s op src dst p r → NoDefect (s.member dst) p → HasPlace s p →
      let m := s.member dst
      let s1 : State := { taken s op src dst r with freeCtr := s.freeCtr + 1 }
      (Config.writeQueue < m.writeq.length → exec i s = .next s) ∧
      (m.writeq.length ≤ Config.writeQueue → MayPerform s dst m.writeq p →
        exec i s = .next (performQueued s1 dst p) ∨ exec i s = .next (s1.putMember dst { m with writeq := m.writeq ++ [p] })) ∧
      (m.writeq.length ≤ Config.writeQueue → ¬ MayPerform s dst m.writeq p →
        exec i s = .next (s1.putMember dst { m with writeq := m.writeq ++ [p] })))) ∧
  (∀ (s : State) (dst : Nat) (p : Packet), 8 ≤ dst → dst < 16 → spOk [] s.flights = true → s.memoryOk = true → Members17 s →
    let t := performQueued s dst p
    (∀ rest, (s.member dst).writeq = p :: rest → (∀ q ∈ rest, q.tag ≠ p.tag) → MayPerform s dst [] p → (s.member dst).fwds = [] → s.resends = [] →
      memberGone s dst = false → driveHome dst s = .next (performQueued (s.putMember dst { s.member dst with writeq := rest }) dst p)) ∧
    (p.op = .engineRead → (∀ h ∈ (s.member dst).lineHolds, h.line ≠ lineNo p) →
      ∃ a, MemorySame s t ∧ Replied s t .readResponse p dst a ∧ a.data = placeBytes s (64 * lineNo p) 64 ∧
        a.poison = (if s.poison.contains (lineNo p) then some 0 else none)) ∧
    (p.op = .bulkWrite → p.dup = false → p.data.length = 64 → Lands s p →
      ∃ a, Merged s t p ∧ Replied s t .writeAck p dst a ∧ t.members = s.members) ∧
    (p.op = .bulkWrite → p.dup = true → p.data.length = 64 → p.src ≠ dst → p.src < 17 → p.check = packetCheck p → writeBarred s p.addr.toNat = false →
      writeBarred s (partnerOf p.addr.toNat) = false → homeServes s (homeOf (partnerOf p.addr.toNat)) = true →
      ∃ h, Merged s t p ∧ (t.member dst).lineHolds = (s.member dst).lineHolds ++ [h] ∧ h.line = lineNo p ∧ h.waiting = [] ∧
        spGet [] t.flights (flightKey dst p.src 1) = spGet [] s.flights (flightKey dst p.src 1) ∧
        ((s.member dst).fwds = [] → maySend s dst (homeOf (partnerOf p.addr.toNat)) true = true →
          ∃ q ∈ t.reqs, q.tag = h.tag ∧ q.home = homeOf (partnerOf p.addr.toNat))) ∧
    (p.op = .flushMarker → ∃ a, MemorySame s t ∧ spGet [] t.flights (flightKey dst p.src 1) = spGet [] s.flights (flightKey dst p.src 1) ++ [a] ∧
      a.op = .flushReply ∧ a.tag = p.tag ∧ a.stamp = homeStamp (s.member dst) dst)) ∧
  (∀ (s : State) (dst : Nat), dst < 17 → Members17 s → s.memoryOk = true →
    let m := raiseViews (s.member dst)
    (firstFree m dst (holdFree s dst) [] m.holds = none → ∃ t, exec (.holdRelease dst) s = .next t ∧ (t.member dst).holds = (s.member dst).holds ∧ MemorySame s t) ∧
    (∀ p, memberGone s dst = false → firstFree m dst (holdFree s dst) [] m.holds = some p → p.op = .orderedWrite → p.dup = false → Lands s p → 8 ≤ dst → dst < 16 → p.data.length = 64 → p.src ≠ dst → p.src < 17 →
      p.stamp.length = 17 → spOk [] s.flights = true →
      ∃ t a, exec (.holdRelease dst) s = .next t ∧ Merged s t p ∧ Replied s t .writeAck p dst a ∧ Counted s t dst p ∧
        p ∉ (t.member dst).holds))

-- Replies and frontiers

namespace Sys2Proof.Claim

/-- A response that arrives answers request `rq`, without a loan. -/
structure Replies (s : State) (op : POp) (src dst : Nat) (p : Packet) (r : List Packet) (rq : Req) : Prop where
  arrives : Arrives s op src dst p r
  sound : NoDefect (s.member dst) p
  asked : s.reqs.find? (fun x => x.tag == p.tag) = some rq
  loan : p.loan = 0

/-- An operation of gang `gi` that waits for nothing but request `tag`, with every lane in one line. -/
structure LastLine (s : State) (gi : Nat) (g : Gang) (op : MemOp) (p0 : Path) (tag line : Nat) : Prop where
  gang : s.gang gi = some g
  busy : g.ops = [op]
  unparked : g.parks = [] ∧ ∀ q ∈ g.paths, q.st ≠ .parked
  path : findPath g.paths op.path = some p0
  waits : op.waits = [tag]
  unsent : op.unsent = []
  got : op.got = []
  fresh : op.olds = [] ∧ op.done = 0 ∧ op.poisoned = 0 ∧ op.refused = 0 ∧ op.released = 0 ∧ op.flags = 0
  places : ∀ l ∈ lanesOf op.lanes, ∃ a, look op.places l = some a ∧ a / 64 = line
  laneAddrs : op.addrs.map (·.1) = lanesOf op.lanes
  regs : spOk 0 g.v = true

/-- The gang with its operation over and its path ready. -/
def opOver (g : Gang) (op : MemOp) : Gang := waitPath { g with ops := [] } op.path .ready

/-- A member's frontier to another: its COUNTER in its own entry, its VIEW in the others, the last write to it in CHAIN (R424). -/
def IsFrontier (s : State) (i j : Nat) (a : Packet) : Prop :=
  a.op = .frontier ∧ a.chain = low16 (nth32 (s.member i).sentLast j) ∧ a.fare = false ∧
  ∀ k, k < 17 → nth16 a.stamp k = if k = i then low16 (s.member i).counter else low16 (nth32 (s.member i).view k)

end Sys2Proof.Claim

/-- R224, R231, R248, R252, R259, R261, R268, R336, R350, R422 to R424: a response without a request changes nothing. A line that returns to a load is kept;
one whose line check fails is read once more; with the last one the load writes its registers, or takes POISON with none written. An atomic writes the value before in the lane that was
performed and raises its flags. A stamped answer's vector is merged by the core. An acknowledged write is outstanding no more; the answer
held for a forwarded write goes out. A line that an engine read brings is staged; a flush reply's vector is merged by its command. A frontier
raises VIEW once LAST is its CHAIN, and is kept until then; one is sent when asked for, and after 461 core cycles without VC-D
traffic. That 256 fabric cycles are 461 core cycles (log 5) and that a member that has left answers no request (log 132) are the model's readings. -/
def Obligations.RepliesAndFrontiers : Prop :=
  (∀ (s : State) (op : POp) (i : Instr) (src dst : Nat) (p : Packet) (r : List Packet), IsArrival src dst op i → chanOf op = 1 →
    Arrives s op src dst p r → NoDefect (s.member dst) p → s.reqs.find? (fun x => x.tag == p.tag) = none → exec i s = .next (taken s op src dst r)) ∧
  (∀ (s : State) (src dst : Nat) (p : Packet) (r : List Packet) (rq : Req) (gi pi line epoch : Nat) (fill : Bool) (g : Gang) (op : MemOp),
    Replies s .readResponse src dst p r rq → rq.who = .load gi pi line fill epoch → p.check = packetCheck p →
    (s.gang gi = some g → opOf g pi = some op → p.tag ∈ op.waits → setDel op.waits p.tag ≠ [] → rq.tag = p.tag →
      ∃ t, exec (.readResponse src dst) s = .next t ∧ MemorySame s t ∧ t.reqs = s.reqs.filter (fun x => x.tag ≠ p.tag) ∧
        t.gang gi = some (putOp g { op with waits := setDel op.waits p.tag, got := op.got ++ [⟨line, p.data, p.poison, p.cst⟩] })) ∧
    (∀ p0 gd ty sp cau na d ma, op.path = pi → LastLine s gi g op p0 p.tag line → op.instr = .ld gd ty sp cau na d ma → p.cst = none →
      (p.poison = none → ∃ t g', exec (.readResponse src dst) s = .next t ∧ MemorySame s t ∧ t.gang gi = some (advance g' op.path 8 s.seq) ∧
        WroteV (opOver g op) g' ty d op.lanes
          (fun l => extendLoad ty (natLE ((p.data.drop ((look op.places l).getD 0 % 64)).take (accessSize ty))))) ∧
      (∀ source, p.poison = some source → lanesOf op.lanes ≠ [] → ∃ t va m, exec (.readResponse src dst) s = .next t ∧ MemorySame s t ∧
        (∀ l, l < 64 → m.getLsbD l = op.lanes.getLsbD l) ∧ op.addrs.head?.map (·.2) = some va ∧
        t.gang gi = some (takeTrapGang { opOver g op with xc := Xc.empty } op.path ⟨cPOISON, p0.pc, va, m, poisonInfo source⟩ s.seq)))) ∧
  (∀ (s : State) (src dst : Nat) (p : Packet) (r : List Packet) (rq : Req), Replies s .readResponse src dst p r rq → rq.tag = p.tag → p.check ≠ packetCheck p →
    p.resent = false → ∃ t rq', exec (.readResponse src dst) s = .next t ∧ MemorySame s t ∧ t.gangs = s.gangs ∧ rq' ∈ t.reqs ∧ rq'.tag = p.tag ∧ rq'.die = rq.die ∧
      rq'.home = rq.home ∧ rq'.who = rq.who) ∧
  (∀ (s : State) (src dst : Nat) (p : Packet) (r : List Packet) (rq : Req) (gi line lane : Nat) (g : Gang) (op : MemOp) (p0 : Path) (gd : Guard)
      (aop : AtomOp) (ty : Ty) (sp : Space) (d sb vi off : Field10) (old : DWord),
    Replies s .atomicResponse src dst p r rq → rq.who = .atomic gi op.path line → rq.tag = p.tag → LastLine s gi g op p0 p.tag line →
    spOk Core.reset s.cores = true → op.instr = .atom gd aop ty sp d sb vi off → lane < 64 → p.olds = [(lane, old)] →
    p.poison = none → p.refused = false → p.cst = none →
    ∃ t g', exec (.atomicResponse src dst) s = .next t ∧ MemorySame s t ∧
      WroteV (opOver { g with outst := g.outst.filter (fun o => o.tag ≠ p.tag) } op) g' ty d (laneBit lane) (fun _ => old) ∧
      t.gang gi = some (advance (withFlags g' p.flags) op.path 8 s.seq) ∧
      (t.coreAt g.die g.core).cv = mergeCV (s.coreAt g.die g.core).cv p.stamp) ∧
  (∀ (s : State) (src dst : Nat) (p : Packet) (r : List Packet) (rq : Req),
    (∀ gi g, Replies s .writeAck src dst p r rq → rq.tag = p.tag → rq.who = .store gi → s.gang gi = some g →
      (p.refused = false → ∃ t, exec (.writeAcknowledgement src dst) s = .next t ∧ MemorySame s t ∧
        t.gang gi = some { g with outst := g.outst.filter (fun o => o.tag ≠ p.tag) }) ∧
      (∀ o, p.refused = true → g.outst.find? (fun o => o.tag == p.tag) = some o →
        ∃ t g', exec (.writeAcknowledgement src dst) s = .next t ∧ MemorySame s t ∧ t.gang gi = some g' ∧ g'.stopped = true ∧
          g'.outst = g.outst.filter (fun o => o.tag ≠ p.tag) ∧
          g'.pending.map (·.1) = g.pending.map (·.1) ++ [⟨cPROT, o.pc, o.va, o.lanes, BitVec.ofNat 32 o.refusal⟩])) ∧
    (∀ line q, Replies s .writeAck src dst p r rq → rq.tag = p.tag → rq.who = .forward line (some q) →
      (∀ h ∈ (s.member rq.die).lineHolds, h.tag = p.tag → h.waiting = []) →
      ∃ t a, exec (.writeAcknowledgement src dst) s = .next t ∧ MemorySame s t ∧ a.op = q.op ∧ a.tag = q.tag ∧ a.olds = q.olds ∧
        spGet [] t.flights (flightKey q.src q.dst (chanOf q.op)) =
          spGet [] (taken s .writeAck src dst r).flights (flightKey q.src q.dst (chanOf q.op)) ++ [a]) ∧
    (∀ d c x cmd, Replies s .writeAck src dst p r rq → p.refused = false → rq.tag = p.tag → rq.who = .engineWrite d c cmd → c < 256 → x.id = cmd → Queued s (256 * d + c) x →
      ∃ t, exec (.writeAcknowledgement src dst) s = .next t ∧ MemorySame s t ∧ cmdAt t (256 * d + c) cmd = some { x with writes := x.writes.filter (fun w => w.1 ≠ p.tag) }) ∧
    (∀ d c x cmd off n a, Replies s .readResponse src dst p r rq → rq.tag = p.tag → rq.who = .engineRead d c cmd off → c < 256 → x.id = cmd →
      Queued s (256 * d + c) x → x.reads.find? (fun y => y.1 == p.tag) = some (p.tag, n, a) → p.poison = none → p.check = packetCheck p →
      ∃ t idx, exec (.readResponse src dst) s = .next t ∧ MemorySame s t ∧
        cmdAt t (256 * d + c) cmd = some { x with
          reads := x.reads.filter (fun y => y.1 ≠ p.tag)
          stage := x.stage ++ [(n, .bytes ((p.data.drop off).take (elemSizes x).1) idx)] }) ∧
    (∀ d c x cmd, Replies s .flushReply src dst p r rq → rq.who = .flush d c cmd → c < 256 → x.id = cmd → Queued s (256 * d + c) x →
      ∃ t, exec (.flushReply src dst) s = .next t ∧ MemorySame s t ∧
        cmdAt t (256 * d + c) cmd = some { x with replies := setDel x.replies src, cv := mergeCV x.cv p.stamp })) ∧
  (∀ (s : State) (src dst : Nat) (p : Packet) (r : List Packet), src < 17 → dst < 17 → src ≠ dst → Members17 s →
    let m := s.member dst
    (Arrives s .frontier src dst p r → NoDefect m p →
      (p.chain = low16 (nth32 m.last src) → ∃ t, exec (.frontier src dst) s = .next t ∧ MemorySame s t ∧
        nth32 (t.member dst).view src = later32 (nth32 m.view src) (reach32 (nth32 m.view src) (nth16 p.stamp src)) ∧
        (∀ k, k ≠ src → nth32 (t.member dst).view k = nth32 m.view k) ∧ (p.fare = true → src ∈ (t.member dst).removed)) ∧
      (p.chain ≠ low16 (nth32 m.last src) → ∃ t, exec (.frontier src dst) s = .next t ∧ MemorySame s t ∧ (t.member dst).view = m.view ∧
        listGet none (t.member dst).kept src = some ⟨nth16 p.stamp src, p.chain, p.fare⟩)) ∧
    (Arrives s .frontierRequest src dst p r → NoDefect m p → dst ∈ m.removed → exec (.frontierRequest src dst) s = .next (taken s .frontierRequest src dst r)) ∧
    (Arrives s .frontierRequest src dst p r → NoDefect m p → dst ∉ m.removed → ∃ t a, exec (.frontierRequest src dst) s = .next t ∧ MemorySame s t ∧
      IsFrontier s dst src a ∧ spGet [] t.flights (flightKey dst src 3) = spGet [] s.flights (flightKey dst src 3) ++ [a]) ∧
    (spOk [] s.flights = true → src ∉ (s.member 16).removed → src ∉ (s.member src).removed → 461 ≤ (s.clock - listGet 0 (s.member src).lastD dst).toNat →
      ∃ t a, exec (.frontierIdleTimer src dst) s = .next t ∧ MemorySame s t ∧
      IsFrontier s src dst a ∧ spGet [] t.flights (flightKey src dst 3) = spGet [] s.flights (flightKey src dst 3) ++ [a]) ∧
    ((s.clock - listGet 0 (s.member src).lastD dst).toNat < 461 → exec (.frontierIdleTimer src dst) s = .next s))

-- Translation

namespace Sys2Proof.Claim

/-- The tables of a page from the root down to level `n`: `e k` is the entry that the walk reads at level `k` in table `t k`; those above `n` are
good pointers (R233, R234). -/
structure Tables (s : State) (asid page n : Nat) (t : Nat → Nat) (e : Nat → DWord) : Prop where
  root : t 4 = asidRoot s asid
  reads : ∀ k, n ≤ k → k ≤ 4 → e k = hbmWord s (t k + 8 * (page / 2 ^ (9 * k) % 512))
  clean : ∀ k, n ≤ k → k ≤ 4 → s.poison.contains ((t k + 8 * (page / 2 ^ (9 * k) % 512)) / 64) = false ∧
    homeServes s (homeOf (t k + 8 * (page / 2 ^ (9 * k) % 512))) = true
  pointers : ∀ k, n < k → k ≤ 4 → pteV (e k) = true ∧ pteLeaf (e k) = false ∧ malformed s (e k) k (t k) = false ∧ t (k - 1) = pteAddr (e k)

/-- A walk of a page has one of the 128 walkers of a die (R238) and begins at the root, for a gang that waits for the page. -/
structure Walks (s : State) (die asid page gi : Nat) (g : Gang) : Prop where
  running : (asid, page) ∈ (s.xlOf die).walks.take 128
  cold : walkStart s die asid page = (4, asidRoot s asid)
  gang : s.gang gi = some g
  mine : g.die = die ∧ g.kd.asid = asid ∧ page ∈ g.xc.wants
  dies : spOk DieXl.reset s.dieXl = true

/-- A gang that is parked at one path on one page that it asked for by PRI, or by a page request record (R242, R244). -/
structure ParkedOn (s : State) (gi : Nat) (g : Gang) (p : Path) (k : Park) : Prop where
  gang : s.gang gi = some g
  parks : g.parks = [k]
  open_ : k.answer = none
  lanes : k.lanes ≠ 0
  path : g.paths.find? (fun x => x.st == .parked) = some p

/-- The gang goes on: its parked path may issue again. -/
def unparked (g : Gang) : Gang :=
  { g with parks := [], xc := Xc.empty, paths := g.paths.map (fun p => if p.st = .parked then { p with st := .ready } else p) }

end Sys2Proof.Claim

/-- R79, R233 to R235, R239 to R245: a walk reads one entry a level from the root; a leaf of device memory fills the TLB and answers those who wait, and an entry
without V answers that the page is absent. An ATS completion with a grant fills the ATC, of 16384 entries with an index each, and waits while all are in use; without one the
page is to be asked for. A PRI response lets the gangs parked on the page go on, or has them take PAGE with reason 4, once their earlier accesses have ended; a failure also stops the
function's requests until the driver lets them go, as far as the host's allocation has room. An invalidation ends the range's use in the ATC and the TLBs of every ASID with the PASID, and completes once every access
translated before is delivered. Which entry a full TLB or ATC gives up (log 35) and when a waiting page request is sent (log 37) are the model's choices. -/
def Obligations.Translation : Prop :=
  (∀ (s : State) (die asid n gi : Nat) (va : DWord) (g : Gang) (t : Nat → Nat) (e : Nat → DWord),
    let page := pageOf va
    let x := s.xlOf die
    ((asid, page) ∉ x.walks.take 128 → exec (.walkComplete die asid va) s = .next s) ∧
    (Walks s die asid page gi g → Tables s asid page n t e → n ≤ 2 → pteV (e n) = true → pteLeaf (e n) = true → malformed s (e n) n (t n) = false →
      pteHost (e n) = false →
      let size := 2 ^ leafLog2 (e n) n
      ∃ u g', exec (.walkComplete die asid va) s = .next u ∧ MemorySame s u ∧ (asid, page) ∉ (u.xlOf die).walks ∧
        (u.xlOf die).tlb = (⟨asid, page * 4096 / size * size, leafLog2 (e n) n, e n, n⟩ :: x.tlb).take 8192 ∧
        u.gang gi = some { g with xc := g' } ∧ page ∉ g'.wants ∧ look g'.got page = some (.leaf (pteAddr (e n) + page * 4096 % size) (e n) n)) ∧
    (Walks s die asid page gi g → Tables s asid page n t e → n ≤ 4 → pteV (e n) = false →
      ∃ u g', exec (.walkComplete die asid va) s = .next u ∧ MemorySame s u ∧ (asid, page) ∉ (u.xlOf die).walks ∧ (u.xlOf die).tlb = x.tlb ∧
        u.gang gi = some { g with xc := g' } ∧ page ∉ g'.wants ∧ look g'.got page = some (.absent n))) ∧
  (∀ (s : State) (asid log2 : Nat) (va addr : DWord) (rd wr : Bool) (gi : Nat) (g : Gang),
    let page := pageOf va
    let i : Instr := .atsCompletion asid va rd wr addr log2
    ((asid, page) ∉ s.atsReqs → exec i s = .next s) ∧
    (rd = true ∨ wr = true → s.atc.length = 16384 → (∀ y ∈ s.atc, atcUsed s y.idx = true) → exec i s = .next s) ∧
    ((asid, page) ∈ s.atsReqs → s.gang gi = some g → g.kd.asid = asid → page ∈ g.xc.wants → 12 ≤ log2 → log2 ≤ 30 →
      (rd = false ∧ wr = false) ∨ s.atc.length < 16384 ∨ (s.atc.length = 16384 ∧ ∃ y ∈ s.atc, atcUsed s y.idx = false) →
      ∃ u g', exec i s = .next u ∧ MemorySame s u ∧ (asid, page) ∉ u.atsReqs ∧ u.gang gi = some { g with xc := g' } ∧ page ∉ g'.wants ∧
        (∀ b, ((asid, page), b) ∈ u.atsBy16 → rd = false ∧ wr = false ∧ b = true) ∧
        (rd = false ∧ wr = false → u.atc = s.atc ∧ (∀ b, ((asid, page), b) ∈ s.atsBy16 → ((asid, page), true) ∈ u.atsBy16) ∧ (∀ e n, look g.xc.got page = some (.needAts e n) → look g'.got page = some (.noGrant e n)) ∧
          ((∀ e n, look g.xc.got page ≠ some (.needAts e n)) → look g'.got page = none)) ∧
        (rd = true ∨ wr = true → ∃ keep a, u.atc = keep ++ [a] ∧ keep.Sublist s.atc ∧ (∀ y ∈ s.atc, atcUsed s y.idx = true → y ∈ keep) ∧
          (∀ y ∈ keep, y.idx ≠ a.idx) ∧ u.atc.length ≤ 16384 ∧
          a.live = true ∧ a.pasid = asidPasid s asid ∧ a.base = page * 4096 / 2 ^ log2 * 2 ^ log2 ∧ a.log2 = log2 ∧ a.host = addr ∧ a.r = rd ∧ a.w = wr ∧
          g'.got = forget g.xc.got page))) ∧
  (∀ (s : State) (fn asid code gi : Nat) (va : DWord) (g : Gang) (p : Path) (k : Park),
    let page := pageOf va
    let i : Instr := .priResponse fn asid va code
    ((∀ r ∈ s.pri, ¬ (r.fn = fn ∧ r.asid = asid ∧ r.page = page ∧ r.sent = true)) → exec i s = .next s) ∧
    (∀ r ∈ s.pri, r.fn = fn → r.asid = asid → r.page = page → r.sent = true → ParkedOn s gi g p k → k.pri = true → k.page = page → g.kd.asid = asid →
      spOk Fn.reset s.fns = true → asidFn s asid = fn →
      ∃ u, exec i s = .next u ∧ MemorySame s u ∧ (∀ r' ∈ u.pri, ¬ (r'.fn = fn ∧ r'.asid = asid ∧ r'.page = page)) ∧
        ((∀ o ∈ g.ops, o.path ≠ p.id) → u.gang gi = some (if code = 0 then unparked g
          else if g.ops = [] then takeTrapGang (unparked g) p.id ⟨cPAGE, p.pc, k.addr, k.lanes, pageInfo 4 k.level⟩ s.seq
          else { g with parks := [{ k with answer := some false }] })) ∧
        (u.fn fn).priStopped = (decide (1 < code) || (s.fn fn).priStopped)) ∧
    (spOk Fn.reset s.fns = true → ∃ u, exec (.priReenable fn) s = .next u ∧ (u.fn fn).priStopped = false ∧ MemorySame s u ∧
      ((s.pri.filter (fun r => r.fn == fn)).length ≤ Config.priAllocation fn + 1 →
        u.pri = s.pri.map (fun r => if r.fn = fn then { r with sent := true } else r)))) ∧
  (∀ (s : State) (pasid size : Nat) (va : DWord), spOk DieXl.reset s.dieXl = true →
    let lo := va.toNat % 2 ^ 57
    ∃ u, exec (.atsInvalidate pasid va size) s = .next u ∧ MemorySame s u ∧
      u.atc = s.atc.map (fun e => if e.pasid = pasid ∧ e.base < lo + size ∧ lo < e.base + 2 ^ e.log2 then { e with live := false } else e) ∧
      (∀ a w, (a, w) ∈ s.asids → asidValid s a = true → asidPasid s a = pasid →
        (∀ d, ∀ e ∈ (u.xlOf d).tlb, e.asid = a → ¬ (e.base < lo + size ∧ lo < e.base + 2 ^ e.log2)) ∧
        ∃ x ∈ u.invals, x.asid = a ∧ x.fn = none ∧ x.waits = s.reqs.map (fun r => r.tag))) ∧
  (∀ (s : State) (x : Inval) (r : List Inval), s.invals = x :: r → (∀ y ∈ r, y.id ≠ x.id) → spOk Fn.reset s.fns = true →
    ((∃ t ∈ x.waits, ∃ q ∈ s.reqs, q.tag = t) → exec (.invalidationComplete x.id) s = .next s) ∧
    ((∀ t ∈ x.waits, ∀ q ∈ s.reqs, q.tag ≠ t) → holdsTranslated s x.asid = false →
      ∃ u, exec (.invalidationComplete x.id) s = .next u ∧ MemorySame s u ∧ u.invals = r ∧
        (∀ f rep, x.fn = some (f, rep) → (u.fn f).replies = (s.fn f).replies ++ [rep]) ∧ (x.fn = none → u.fns = s.fns)))

-- Faults, retirement and loss

namespace Sys2Proof.Claim

/-- RET of a die is set (R403). -/
def Ret (s : State) (d : Nat) : Prop := (listGet (0 : BitVec 8) s.remap d).getLsbD 7 = true

/-- The controller has declared `d` lost (R429): every other member that is not removed has its notice, and RET is set. -/
def DeclaredLost (s t : State) (d : Nat) : Prop :=
  (∀ j, j < 17 → j ≠ d → j ∉ (s.member 16).removed → (j, d) ∈ t.notices) ∧ Ret t d

/-- No other home has the latest value of a line: it has no duplex partner that serves, or the partner's copy is poisoned and no forward to it is on its
way (R229). -/
def OnlyCopy (s : State) (l : Nat) : Prop :=
  let q := partnerOf (64 * l) / 64
  isDuplex s l = true → homeServes s (homeOf (64 * q)) = true → q ∈ s.poison ∧ ∀ h ∈ (s.member (homeOf (64 * l))).lineHolds, h.line ≠ l

/-- The home of `d` has become a degraded one: its lines have no copies in the L2, and those whose latest value stood only there are poisoned (R406). -/
def Degraded (s t : State) (d : Nat) : Prop :=
  homeMode t d = .degraded ∧ (∀ x ∈ t.l2, homeOf (64 * x.1) ≠ d) ∧ MemorySame s t ∧
  ∀ l, l ∈ t.poison ↔ l ∈ s.poison ∨ ((l, true) ∈ s.l2 ∧ homeOf (64 * l) = d ∧ OnlyCopy s l)

/-- The state of a compute die is gone (R368): it has no cohort, and the grids that had one there are ended. -/
def ComputeLost (s t : State) (d : Nat) : Prop :=
  (∀ e ∈ t.cohorts, e.2.die ≠ d) ∧
  (∀ e ∈ s.cohorts, e.2.die = d → ∀ gr, s.grid e.2.grid = some gr → ∃ gr', t.grid e.2.grid = some gr' ∧ gr'.failed = true)

/-- The controller's notice of the loss of `d` is at member `j`: die 16 has it at once, another member by its packet, which the event takes off the channel
(R416, R429). -/
def Noticed (s : State) (j d : Nat) (s0 : State) : Prop :=
  (j, d) ∈ s.notices ∧ ((j = 16 ∧ s0 = s) ∨ (j ≠ 16 ∧ ∃ p r, Arrives s .lossNotice 16 j p r ∧ NoDefect (s.member j) p ∧ p.addr.toNat = d ∧
    s0 = taken s .lossNotice 16 j r))

/-- The gang has left a POISON of a SOURCE for rank 2 (R370). -/
def StruckBy (g g' : Gang) (source : Nat) : Prop :=
  ∃ x, g'.pending = g.pending ++ [x] ∧ x.1.cause = cPOISON ∧ x.1.info = poisonInfo source ∧ g' = { g with stopped := true, pending := g'.pending }

end Sys2Proof.Claim

/-- R231, R365, R366, R368 to R370, R394, R404 to R406, R443: rank 2 records the trap of a stopped gang and ends its grid. A record goes to the ring, in
the layout of R443, when there is room, and FQR moves only forward and not past FQW. Gander logs a machine check and retires what it names. A
corrected error only counts; an uncorrectable one marks or drops what it hits, and one that strikes a gang discards the shadow plane that is loaded for it; a write that fails its check is sent again once, and then reported. A failing core's quartet is emptied, then mapped onto a
spare, or onto the highest valid quartet. A die is retired orderly, as a degraded home, or lost. The model's readings among these are in the log: the fault
ring's address (74), the unit codes of machine checks (88), a lost compute die (89), what degrades a home (90), the sets of an escalation record (94). -/
def Obligations.FaultsAndRetirement : Prop :=
  (∀ (s : State) (gi : Nat) (g : Gang) (t : TrapInfo) (old : Option TrapInfo), s.gang gi = some g →
    (g.pending = [] → exec (.rank2Supervisor gi) s = .next s) ∧
    (∀ rest, g.pending = (t, old) :: rest → spOk Fn.reset s.fns = true →
      let f := asidFn s g.kd.asid
      ∃ u r, exec (.rank2Supervisor gi) s = .next u ∧ (u.fn f).records = (s.fn f).records ++ [r] ∧ r.kind = (if gangEnded g ∧ t.cause = cENGINE then 4 else 2) ∧ r.id = (s.fn f).nextId ∧
        r.asid = g.kd.asid ∧ r.die = g.die ∧ r.core = g.core ∧ r.gangid = g.gangid ∧ r.set1 = t ∧ r.set2 = old ∧ MemorySame s u ∧
        (∃ g', u.gang gi = some g' ∧ g'.pending = rest ∧ g'.stopped = true) ∧
        (∀ gr, s.grid g.grid = some gr → ∃ gr', u.grid g.grid = some gr' ∧ gr'.failed = true ∧
          (gr.failed = false → gr.abandoned = false → ∀ q, s.queue (gridQueue gr) = some q → ∃ q', u.queue (gridQueue gr) = some q' ∧ q'.halt = true ∧
            q'.err = 6 ∧ q'.failidx = gr.packet.setWidth 32)))) ∧
  (∀ (s : State) (fn : Nat) (v : DWord) (r : FaultRec) (rest : List FaultRec), spOk Fn.reset s.fns = true →
    let f := s.fn fn
    (s.up = true → fn < 32 → exec (.fqrWrite fn v) s =
      .next (if v.toNat < f.fqr.toNat ∨ f.fqw.toNat < v.toNat then s else s.putFn fn { f with fqr := v })) ∧
    (f.records = r :: rest → (f.size = 0 ∨ f.size ≤ (f.fqw - f.fqr).toNat ∨ s.pcieUp = false ∨ pcieQuiet s = false) → exec (.faultRecordWrite fn) s = .next s) ∧
    (f.records = r :: rest → 0 < f.size → (f.fqw - f.fqr).toNat < f.size → s.pcieUp = true → pcieQuiet s = true → s.memoryOk = true →
      r.kind < 2 ^ 8 → r.asid < 2 ^ 16 → r.id < 2 ^ 32 → r.queue < 2 ^ 32 → r.launch < 2 ^ 32 → r.die < 2 ^ 8 → r.core < 2 ^ 16 → r.gangid < 2 ^ 32 →
      let a := hostBase + f.ring.toNat + 128 * (f.fqw.toNat % f.size)
      ∃ t, exec (.faultRecordWrite fn) s = .next t ∧ t.fn fn = { f with records := rest, fqw := f.fqw + 1, msix := f.msix + 1 } ∧
        (let at_ (o n : Nat) : Nat := natLE (placeBytes t (a + o) n)
        at_ 0 1 = r.kind ∧ at_ 1 1 = (if r.set2.isSome then 1 else 0) ∧ at_ 2 2 = r.asid ∧ at_ 4 4 = r.id ∧ at_ 8 4 = r.queue ∧ at_ 12 4 = r.launch ∧
        at_ 16 1 = r.die ∧ at_ 18 2 = r.core ∧ at_ 20 4 = r.gangid ∧ at_ 24 8 = r.va.toNat ∧
        at_ 32 4 = r.set1.cause.toNat ∧ at_ 36 4 = r.set1.info.toNat ∧ at_ 40 8 = r.set1.pc.toNat ∧ at_ 48 8 = r.set1.addr.toNat ∧ at_ 56 8 = r.set1.lanes.toNat ∧
        (∀ x, r.set2 = some x → at_ 64 4 = x.cause.toNat ∧ at_ 68 4 = x.info.toNat ∧ at_ 72 8 = x.pc.toNat ∧ at_ 80 8 = x.addr.toNat ∧ at_ 88 8 = x.lanes.toNat)) ∧
        ∀ b, b < a ∨ a + 128 ≤ b → placeByte t b = placeByte s b)) ∧
  (∀ (s : State) (d unit : Nat), let i : Instr := .machineCheck d unit
    ((d, unit) ∉ s.checks → exec i s = .next s) ∧
    ((d, unit) ∈ s.checks → ∃ u, exec i s = .next u ∧ u.gander.log = s.gander.log ++ [(d, unit)] ∧
      (unit = 3 → 8 ≤ d → d < 16 → s.homeModes.length = 8 → homeMode s d = .live → s.remap.length = 16 → Degraded s u d ∧ Ret u d) ∧
      ((unit = 3 ∨ unit = 5 ∨ unit = 6 ∨ unit = 7) → d < 8 → s.remap.length = 16 → s.cohorts.Pairwise (fun a b => a.1 ≠ b.1) →
        ComputeLost s u d ∧ (¬ (d ∈ (s.member 16).removed ∧ Ret s d) → (16, d) ∉ s.notices → DeclaredLost s u d)) ∧
      (32 ≤ unit → unit < 256 → ∀ n gr q, s.grid n = some gr → s.queue (gridQueue gr) = some q → q.engine = unit - 32 →
        ∃ gr', u.grid n = some gr' ∧ gr'.failed = true) ∧
      (256 ≤ unit → let hit (c : Cohort) : Prop := standsOn c d (unit % 256) = true ∧ c.quartet = decide (512 ≤ unit)
        (∀ e ∈ s.cohorts, hit e.2 → ∀ gr, s.grid e.2.grid = some gr → ∃ gr', u.grid e.2.grid = some gr' ∧ gr'.failed = true) ∧
        (∀ n gr, s.grid n = some gr → (∀ e ∈ s.cohorts, e.2.grid = n → ¬ hit e.2) → ∃ gr', u.grid n = some gr' ∧ gr'.failed = gr.failed) ∧
        (quartetValid s d (unit % 256 / 4) = true → 64 * d + unit % 256 / 4 ∈ u.failing)) ∧
      (unit < 32 → unit ≠ 3 → unit ≠ 5 → unit ≠ 6 → unit ≠ 7 → MemorySame s u ∧ u.cohorts = s.cohorts ∧ u.homeModes = s.homeModes))) ∧
  (∀ (s : State) (x : SoftTarget), exec (.softError x true) s = .next { s with corrected := s.corrected + 1 }) ∧
  (∀ (s : State) (gi : Nat) (g : Gang), s.gang gi = some g →
    (∀ l r, l < g.kd.gangw → l < 64 → r < g.kd.regs → ∃ m, exec (.softError (.vreg gi l r) false) s = .next (s.putGang gi { g with vpoison := m }) ∧
      ∀ x, m.contains x = (x == 64 * r + l || g.vpoison.contains x)) ∧
    (gangEnded g = false → spOk Core.reset s.cores = true → g.core < 256 →
      ((∀ sl w since, (s.coreAt g.die g.core).shadow = some (sl, w, since) → w ≠ gi) →
        ∃ g', exec (.softError (.gangControl gi) false) s = .next (s.putGang gi g') ∧ StruckBy g g' 6) ∧
      (∀ sl since, (s.coreAt g.die g.core).shadow = some (sl, gi, since) → ∃ t g' x, exec (.softError (.gangControl gi) false) s = .next t ∧ MemorySame s t ∧
        (t.coreAt g.die g.core).shadow = none ∧ t.gang gi = some g' ∧ g'.stopped = true ∧ g'.pending = g.pending ++ [x] ∧ x.1.cause = cPOISON ∧ x.1.info = poisonInfo 6)) ∧
    (∀ t e, t < g.kd.acc → t < g.tiles.length → e < 256 → ∃ g', exec (.softError (.accElement gi t e) false) s = .next (s.putGang gi g') ∧
      g' = { g with tiles := g'.tiles } ∧ (∀ u, u ≠ t → listGet Tile.reset g'.tiles u = listGet Tile.reset g.tiles u) ∧
      ∀ b, b < 256 → (listGet Tile.reset g'.tiles t).poison.getLsbD b = (b == e || (listGet Tile.reset g.tiles t).poison.getLsbD b))) ∧
  (∀ (s : State) (k n : Nat), s.memoryOk = true →
    exec (.softError (.icache k) false) s = .next s ∧
    (k / 256 < 8 → spOk Core.reset s.cores = true → ∃ t, exec (.softError (.l1Line k n) false) s = .next t ∧ MemorySame s t ∧ l1Line (coreOf t k) n = none ∧
      ∀ j, j ≠ n → look (coreOf t k).l1 j = look (coreOf s k).l1 j) ∧
    (n < 2 ^ 33 → isDuplex s n = false → ∃ t, exec (.softError (.hbmLine n) false) s = .next t ∧ MemorySame s t ∧
      ∀ l, t.poison.contains l = (l == n || s.poison.contains l)) ∧
    (n < 2 ^ 33 → isDuplex s n = true → homeServes s (homeOf (partnerOf (64 * n))) = true → s.poison.contains (partnerOf (64 * n) / 64) = false →
      ∃ t, exec (.softError (.hbmLine n) false) s = .next t ∧ placeBytes t (64 * n) 64 = placeBytes s (partnerOf (64 * n) / 64 * 64) 64 ∧
        t.poison.contains n = false ∧ ∀ b, b / 64 ≠ n → placeByte t b = placeByte s b) ∧
    exec (.softError (.homeStructure k) false) s = .next { s with checks := s.checks ++ [(k, 3)] }) ∧
  (∀ (s : State) (src dst k : Nat) (p : Packet), src ≠ 16 → firstWrite s src dst = some (k, p) → spOk [] s.flights = true →
    ∃ t, exec (.softError (.storeCheck src dst) false) s = .next t ∧ MemorySame s t ∧ t.members = s.members ∧
      (p.resent = false → t.gangs = s.gangs ∧ ∀ q ∈ spGet [] t.flights k, q.tag = p.tag → q.resent = true) ∧
      (p.resent = true → (∀ q ∈ spGet [] t.flights k, q.tag = p.tag → q.check ≠ packetCheck q) ∧
        ∀ r gi g o, s.reqs.find? (fun x => x.tag == p.tag) = some r → r.who = .store gi → s.gang gi = some g → g.outst.find? (fun x => x.tag == p.tag) = some o →
          ∃ g', t.gang gi = some g' ∧ g'.stopped = true ∧ g'.pending.map (·.1) = g.pending.map (·.1) ++ [⟨cPOISON, o.pc, o.va, o.lanes, poisonInfo 4⟩])) ∧
  (∀ (s : State) (d core : Nat), let q := core / 4
    let here (c : Cohort) (x : Nat) : Prop := c.die = d ∧ c.core / 4 = x
    let placing (x : Nat) : Prop := placingOn s d (fun c => c / 4 == x) = true
    (8 ≤ d ∨ 256 ≤ core ∨ quartetValid s d q = false → exec (.coreRetire d core) s = .next s) ∧
    (d < 8 → core < 256 → quartetValid s d q = true →
      (64 * d + q ∉ s.failing ∨ 128 * d + quartetPhys s d q ∉ s.deadQuartets → s.cohorts.Pairwise (fun a b => a.1 ≠ b.1) → ∃ t, exec (.coreRetire d core) s = .next t ∧ MemorySame s t ∧ 64 * d + q ∈ t.failing ∧
        128 * d + quartetPhys s d q ∈ t.deadQuartets ∧ (∀ e ∈ t.cohorts, here e.2 q → e.2.asked = true)) ∧
      (64 * d + q ∈ s.failing → 128 * d + quartetPhys s d q ∈ s.deadQuartets → (∃ p, freeSpare s d = some p) → (∃ e ∈ s.cohorts, here e.2 q) ∨ placing q →
        exec (.coreRetire d core) s = .next s) ∧
      (64 * d + q ∈ s.failing → 128 * d + quartetPhys s d q ∈ s.deadQuartets → (∀ e ∈ s.cohorts, ¬ here e.2 q) → ¬ placing q →
        (∀ p, freeSpare s d = some p → ∃ t, exec (.coreRetire d core) s = .next t ∧ MemorySame s t ∧ quartetPhys t d q = p ∧ quartetValid t d q = true ∧
          64 * d + q ∉ t.failing ∧ ∀ x, x ≠ q → x < 64 → spareEntry t d x = spareEntry s d x) ∧
        (freeSpare s d = none → topQuartet s d q = q → ∃ t, exec (.coreRetire d core) s = .next t ∧ MemorySame s t ∧ quartetValid t d q = false ∧
          ∀ x, x ≠ q → x < 64 → spareEntry t d x = spareEntry s d x) ∧
        (freeSpare s d = none → let h := topQuartet s d q
          h ≠ q → 64 * d + h ∈ s.failing → (∀ e ∈ s.cohorts, ¬ here e.2 h) → ¬ placing h → ∃ t, exec (.coreRetire d core) s = .next t ∧ MemorySame s t ∧
          quartetPhys t d q = quartetPhys s d h ∧ quartetValid t d q = true ∧ quartetValid t d h = false ∧
          ∀ x, x ≠ q → x ≠ h → x < 64 → spareEntry t d x = spareEntry s d x)))) ∧
  (∀ (s : State) (d : Nat) (way : RetireWay), 16 ≤ d → exec (.dieRetire d way) s = .next s) ∧
  (∀ (s : State) (d : Nat), s.remap.length = 16 → s.homeModes.length = 8 → s.cohorts.Pairwise (fun a b => a.1 ≠ b.1) →
    (d < 16 → (d, RetireWay.orderly) ∉ s.leavingDies → ∃ t, exec (.dieRetire d .orderly) s = .next t ∧ MemorySame s t ∧ (d, RetireWay.orderly) ∈ t.leavingDies ∧
      ∀ e ∈ t.cohorts, e.2.die = d → e.2.asked = true) ∧
    (8 ≤ d → d < 16 → homeMode s d = .live → ∃ t, exec (.dieRetire d .degradedHome) s = .next t ∧ Degraded s t d ∧ Ret t d) ∧
    (d < 8 → ¬ (d ∈ (s.member 16).removed ∧ Ret s d) → (16, d) ∉ s.notices → ∃ t, exec (.dieRetire d .lost) s = .next t ∧ ComputeLost s t d ∧ DeclaredLost s t d))

/-- R402, R403, R425, R428 to R430, R443: a member is declared lost when no route to it is left, when its home is, or after 1887437 core cycles without an
answer. A loss notice ends what a member has from, and outstanding to, the lost one, and a load held for it is answered with CST and no data. An orderly removal goes in the steps of R428.
A resynchronisation first stops the stamped sends, by a control packet to each member, and once nothing is outstanding zeroes the causal state with the next
generation and epoch. A home that is lost takes what it has forwarded and its partner has not delivered along. The model's readings among these are in the log: 2^20 fabric cycles as 1887437 core cycles (5), what a stop leaves running (128), the order of a
release by loss (129), what a readmission brings back (140), what a resynchronisation leaves with the virtual die (168), whom the requests of a lost home's forwards ask (173). -/
def Obligations.LossAndResynchronisation : Prop :=
  (∀ (s : State) (d : Nat), d < 16 → s.remap.length = 16 →
    (lossDue s d = false → exec (.memberLossTimeout d) s = .next s) ∧
    (lossDue s d = true → ¬ (d ∈ (s.member 16).removed ∧ Ret s d) → (16, d) ∉ s.notices → ∃ t, exec (.memberLossTimeout d) s = .next t ∧ DeclaredLost s t d ∧
      (d < 8 → MemorySame s t ∧ (s.cohorts.Pairwise (fun a b => a.1 ≠ b.1) → ComputeLost s t d))) ∧
    (∀ j t0, look s.unanswered (32 * j + d) = some t0 → j ∉ (s.member 16).removed → 1887437 ≤ (s.clock - t0).toNat → lossDue s d = true) ∧
    (placeReached s (placeOfDie s d) = false → lossDue s d = true) ∧
    (placeReached s (placeOfDie s d) = true → (∀ j t0, (32 * j + d, t0) ∈ s.unanswered → j ∉ (s.member 16).removed → (s.clock - t0).toNat < 1887437) →
      lossDue s d = false) ∧
    (lossDue s d = true → 8 ≤ d → ¬ (d ∈ (s.member 16).removed ∧ Ret s d) → (16, d) ∉ s.notices → Members17 s → spOk [] s.flights = true →
      ∃ t, exec (.memberLossTimeout d) s = .next t ∧ (t.member d).fwds = [] ∧ (∀ r ∈ t.reqs, r.die ≠ d) ∧
        ∀ j, 8 ≤ j → j < 16 → spGet [] t.flights (flightKey d j 0) = [] ∧ ∀ p ∈ (t.member j).holds, p.src ≠ d)) ∧
  (∀ (s : State) (j d : Nat), j < 17 → j ≠ d → Members17 s → spOk [] s.flights = true →
    ((j, d) ∉ s.notices → exec (.lossNotice j d) s = .next s) ∧
    (j ≠ 16 → spGet [] s.flights (flightKey 16 j 3) = [] → exec (.lossNotice j d) s = .next s) ∧
    (∀ s0, Noticed s j d s0 → d < 8 ∨ homeServes s d = false → ∃ t, exec (.lossNotice j d) s = .next t ∧ (j, d) ∉ t.notices ∧ d ∈ (t.member j).removed ∧
      (∀ p ∈ (t.member j).holds, p.src ≠ d) ∧ (∀ r ∈ t.reqs, ¬ (r.die = j ∧ r.home = d)) ∧
      ((s.member j).holds = [] → (∀ r ∈ s.reqs, r.die ≠ j) → MemorySame s t ∧ ∀ vc, vc < 4 → spGet [] t.flights (flightKey d j vc) = []) ∧
      (∀ p, (s.member j).holds = [p] → p.op = .causalLoad → p.src ≠ d → p.src < 17 → dependsOn (s.member j) d p = true → (s.member j).fwds = [] → (∀ r ∈ s.reqs, r.die ≠ j) →
        MemorySame s t ∧ (t.member j).holds = [] ∧ ∃ a, spGet [] t.flights (flightKey j p.src 1) = spGet [] s.flights (flightKey j p.src 1) ++ [a] ∧
          a.op = .readResponse ∧ a.tag = p.tag ∧ a.cst = some d ∧ a.data = []))) ∧
  (∀ (s : State) (d : Nat), d < 16 → Members17 s → s.remap.length = 16 → (d, RetireWay.orderly) ∈ s.leavingDies → spOk [] s.flights = true →
    let m := s.member d
    let i : Instr := .orderlyRemoval d
    let other (j : Nat) : Prop := j < 17 ∧ j ≠ d ∧ j ∉ (s.member 16).removed
    let placing : Prop := placingOn s d (fun _ => true) = true
    ((∃ e ∈ s.cohorts, e.2.die = d) ∨ placing → exec i s = .next s) ∧
    ((∀ e ∈ s.cohorts, e.2.die ≠ d) → ¬ placing →
      (m.quiet = false → exec i s = .next (s.putMember d { m with quiet := true })) ∧
      (m.quiet = true → (∃ r ∈ s.reqs, r.die = d) ∨ m.fwds ≠ [] → exec i s = .next s) ∧
      (m.quiet = true → (∀ r ∈ s.reqs, r.die ≠ d) → m.fwds = [] → d ∉ m.removed → ∃ t, exec i s = .next t ∧ MemorySame s t ∧ d ∈ (t.member d).removed ∧
        ∀ j, other j → ∃ a, spGet [] t.flights (flightKey d j 3) = spGet [] s.flights (flightKey d j 3) ++ [a] ∧ a.op = .frontier ∧ a.fare = true ∧
          nth16 a.stamp d = low16 m.counter) ∧
      (m.quiet = true → (∀ r ∈ s.reqs, r.die ≠ d) → m.fwds = [] → d ∈ m.removed → (∀ j, other j → d ∈ (s.member j).removed) → ∃ t, exec i s = .next t ∧ MemorySame s t ∧ Ret t d))) ∧
  (∀ (s : State) (w : List (Nat × Nat)) (back : List Nat), Members17 s → spOk [] s.flights = true → 16 ∉ (s.member 16).removed →
    let i : Instr := .resynchronisation w back
    let live (j : Nat) : Prop := j < 17 ∧ j ∉ (s.member 16).removed
    (s.resync = none → ∃ t, exec i s = .next t ∧ MemorySame s t ∧ (t.member 16).quiet = true ∧ t.reqs = s.reqs ∧ t.resync = some (w, back) ∧
      ∀ j, live j → j ≠ 16 → (t.member j).quiet = (s.member j).quiet ∧
        ∃ a, spGet [] t.flights (flightKey 16 j 3) = spGet [] s.flights (flightKey 16 j 3) ++ [a] ∧ a.op = .resyncControl) ∧
    (∀ j p r, s.resync.isSome = true → live j → Arrives s .resyncControl 16 j p r → NoDefect (s.member j) p →
      (∀ k, live k → k < j → ∀ q ∈ (spGet [] s.flights (flightKey 16 k 3)).head?, q.op ≠ .resyncControl) →
      exec i s = .next ((taken s .resyncControl 16 j r).putMember j { s.member j with quiet := true })) ∧
    (∀ w' back', s.resync = some (w', back') → quietDown s = false → (∀ k, live k → ∀ q ∈ (spGet [] s.flights (flightKey 16 k 3)).head?, q.op ≠ .resyncControl) →
      ∃ t, exec i s = .next t ∧ MemorySame s t ∧ t.members = s.members ∧ t.resync = s.resync) ∧
    (∀ w' back', s.resync = some (w', back') → quietDown s = true → spOk Core.reset s.cores = true →
      ∃ t, exec i s = .next t ∧ MemorySame s t ∧ t.reqs = s.reqs ∧ (∀ n, spGet [] t.flights n = (spGet [] s.flights n).filter (fun p => p.op != .resyncControl)) ∧
        t.resync = none ∧ t.unanswered = [] ∧ (∀ d c, (t.coreAt d c).cv = copies 17 0) ∧
        ∀ j, live j → let u := t.member j
          u.counter = 0 ∧ u.view = copies 17 0 ∧ u.last = copies 17 0 ∧ u.low = copies 17 0 ∧ u.floor = copies 17 0 ∧ u.cv = copies 17 0 ∧ u.holds = [] ∧
          u.quiet = false ∧ u.gen = !(s.member 16).gen ∧ u.epoch = (s.member j).epoch + 1 ∧
          ∀ k ∈ back', k < 17 → memberGone s k = false → k ∉ u.removed))

-- Power, links, PCIe, the host, other packages, Gander

namespace Sys2Proof.Claim

/-- Only Gander's own state changes. -/
def OnlyGander (s t : State) : Prop := t = { s with gander := t.gander }

/-- The level that a temperature holds at least (R408). -/
def heldLevel (celsius : Nat) : Nat := if 105 ≤ celsius then 7 else if 95 ≤ celsius then 4 else 0

/-- What R447 asks of an image. -/
def Signed (g : Gander) (x : FirmwareImage) : Prop :=
  x.digest.length = 32 ∧ x.signature.length = 2420 ∧ (∃ k, k < g.keys.length ∧ listGet [] g.keys k = x.keyDigest ∧ listGet false g.revoked k = false) ∧
  Config.signatureValid x.digest x.signature x.keyDigest = true ∧ g.minVersion.toNat ≤ x.version.toNat

/-- The links as training left them (R449 step 2). -/
def trainedLinks (b : BringUp) : List Link := State.reset.links.zipIdx.map (fun x => if b.deadLinks.contains x.2 then { x.1 with failed := true } else x.1)

/-- Bring-up succeeds (R449 steps 2 and 3): the protected region lies in memory, the HBM could be initialised, and every die is reached. -/
def ComesUp (b : BringUp) : Prop :=
  b.base % 4096 = 0 ∧ b.base + 4096 * b.pages ≤ 2 ^ 39 ∧ b.hbmOk = true ∧ ∀ i, i < 17 → placeReached { State.reset with links := trainedLinks b } i = true

/-- The machine as it leaves reset, but for Gander, host memory, the tables that Gander wrote, and the model's own counters. No spare entry
names a quartet that failed its test. -/
def Fresh (s t : State) (b : BringUp) (failed : List (Nat × Nat)) : Prop :=
  (failed = [] → t.spares = [] ∧ t.deadQuartets = []) ∧ (b.deadLinks = [] → t.routes = []) ∧
  (∀ d q p, (d, p) ∈ failed → d < 8 → p < 68 → q < 64 → 128 * d + p ∈ t.deadQuartets ∧ (quartetValid t d q = true → quartetPhys t d q ≠ p)) ∧
  t = { State.reset with
    remap := if remapOk b.remap then b.remap else State.reset.remap, spares := t.spares, deadQuartets := t.deadQuartets,
    links := trainedLinks b, routes := t.routes,
    seq := s.seq, fresh := s.fresh, freeCtr := s.freeCtr, agenda := s.agenda, hostMem := s.hostMem, gander := t.gander, protBase := b.base, protPages := b.pages,
    up := t.up, pcieUp := t.pcieUp }

/-- One modules' lanes in a link: those with at most 4 failed lanes in each direction work (R402). -/
def workingModules (lanes : List Nat) : Nat :=
  ((List.range 16).filter (fun m => decide (listGet 0 lanes (2 * m) ≤ 4 ∧ listGet 0 lanes (2 * m + 1) ≤ 4))).length

end Sys2Proof.Claim

/-- R230, R236, R260, R263, R282, R402, R407, R408, R411, R431, R444 to R450. The throttle level moves by one step with the estimate and is held up by the temperature; at
115 °C there is a machine check. The cap stays from 1200 to 2400 W. A repaired lane makes its link retrain for at most 7200 core cycles (a free value), and a link with fewer than 8
working modules has failed. Posted writes reach host memory before an operation behind them completes; a refused one changes nothing. A host write reaches its place
unless the page is locked. The driver writes and clears a function's windows and imports. Another package is served when the pair is imported, and else refused. Firmware that passes goes into the other slot, and
reset runs it, with the tables of bring-up, or leaves the functions shut when the image, the links or the memory fail. A replay delays what follows on one link of the
route. The model's choices among these are in the log: times in core cycles (5), the delay of a replay (55), unit codes (88), the layout of telemetry and measurements (96), what a
reset keeps (97), the form of other packages' accesses (98), host traffic in order (124), the delay of a repair (126), when the driver acts on windows and imports (170). -/
def Obligations.PackageControl : Prop :=
  (∀ (s : State) (d x : Nat), d < 17 → s.gander.levels.length = 8 → s.gander.celsius.length = 17 → s.gander.watts.length = 8 →
    let g := s.gander
    let l := listGet 0 g.levels d
    (d < 8 → ∃ t, exec (.powerEstimate d x) s = .next t ∧ OnlyGander s t ∧ listGet 0 t.gander.watts d = x ∧ t.gander.celsius = g.celsius ∧ t.gander.cap = g.cap ∧
      (∀ k, k ≠ d → listGet 0 t.gander.levels k = listGet 0 g.levels k) ∧
      let moved := if g.cap - 500 < 8 * x then min 7 (l + 1) else if 80 * x < 9 * (g.cap - 500) then l - 1 else l
      listGet 0 t.gander.levels d = max moved (heldLevel (listGet 0 g.celsius d))) ∧
    (∃ t, exec (.temperatureThreshold d x) s = .next t ∧ t = { s with gander := t.gander, checks := t.checks } ∧ listGet 0 t.gander.celsius d = x ∧
      t.checks = s.checks ++ (if 115 ≤ x then [(d, 5)] else []) ∧ (d < 8 → listGet 0 t.gander.levels d = max l (heldLevel x)) ∧
      (∀ k, k ≠ d → listGet 0 t.gander.levels k = listGet 0 g.levels k)) ∧
    (exec (.setPowerCap x) s = .next (if 1200 ≤ x ∧ x ≤ 2400 then { s with gander := { g with cap := x } } else s)) ∧
    (∃ m, exec (.readTelemetry d) s = .next { s with gander := { g with message := m } } ∧ m.length = 5)) ∧
  (∀ (s : State) (l m lane : Nat), l < 24 → s.links.length = 24 →
    let k := linkAt s l
    (m < 32 → lane < 68 → k.lanes.length = 32 → ∃ t n, exec (.laneRepair l m lane) s = .next t ∧ n ≤ 7200 ∧ MemorySame s t ∧ t.flights = s.flights ∧
      (∀ j, j ≠ l → linkAt t j = linkAt s j) ∧ (linkAt t l).lanes = listSet k.lanes m (listGet 0 k.lanes m + 1) ∧
      (linkAt t l).busy = some (s.clock + BitVec.ofNat 64 n) ∧ (linkAt t l).failed = (k.failed || decide (workingModules (linkAt t l).lanes < 8))) ∧
    (∃ t, exec (.linkFail l) s = .next t ∧ t = { s with links := t.links } ∧ linkAt t l = { k with failed := true } ∧ ∀ j, j ≠ l → linkAt t j = linkAt s j)) ∧
  (∀ (s : State) (a b : Nat), (routeOf s a b = [] → exec (.linkReplay a b) s = .next s) ∧
    (a < 17 → b < 17 → a ≠ b → routeOf s a b ≠ [] →
      ∃ t n hop, exec (.linkReplay a b) s = .next t ∧ n ≤ 144 ∧ hop ∈ routeHops (placeOfDie s a) (routeOf s a b) ∧ look t.delays (32 * a + b) = some (s.clock + BitVec.ofNat 64 n) ∧
        (∀ x y, x < 17 → y < 17 → look t.delays (32 * x + y) = if x ≠ y ∧ hop ∈ routeHops (placeOfDie s x) (routeOf s x y) then some (s.clock + BitVec.ofNat 64 n)
          else look s.delays (32 * x + y)) ∧ t = { s with delays := t.delays, freeCtr := t.freeCtr })) ∧
  (∀ (s : State), exec .pcieLinkDown s = .next { s with pcieUp := false, checks := s.checks ++ [(16, 4)] }) ∧
  (∀ (s : State) (package : Nat), ∃ t, exec (.unreachablePackage package) s = .next t ∧ t = { s with unreachable := t.unreachable } ∧
    ∀ x, t.unreachable.contains x = (x == package || s.unreachable.contains x)) ∧
  (∀ (s : State) (tag a : Nat) (st : PcieStatus) (rep : Packet) (rest : List (Nat × PcieOp)),
    let i : Instr := .pcieCompletion tag st
    let key := flightKey rep.src rep.dst (chanOf rep.op)
    let sends (t : State) (x : Packet) : Prop := spGet [] t.flights key = spGet [] s.flights key ++ [x] ∧ x.op = rep.op ∧ x.tag = rep.tag
    (look s.pcie tag = none ∨ s.pcieUp = false → exec i s = .next s) ∧
    (∀ ahead op n c rq rp, s.pcie = ahead ++ (tag, op) :: rest → (∀ x ∈ ahead, x.1 ≠ tag) → (n, PcieOp.atomic c rq rp) ∈ ahead → exec i s = .next s) ∧
    (∀ im, s.pcieUp = true → s.pcie = (tag, .write a im) :: rest → (st = .unsupported ∨ st = .abort) →
      ∃ t, exec i s = .next t ∧ MemorySame s t ∧ t.refusedHost = s.refusedHost ++ [tag]) ∧
    (∀ im d, s.pcieUp = true → s.pcie = (tag, .write a im) :: rest → st = .ok d → s.memoryOk = true → im.Pairwise (fun x y => x.1 ≠ y.1) →
      ∃ t, exec i s = .next t ∧ look t.pcie tag = none ∧ (∀ x ∈ im, placeByte t x.1 = x.2) ∧ ∀ b, (∀ x ∈ im, x.1 ≠ b) → placeByte t b = placeByte s b) ∧
    (∀ im tw c, s.pcieUp = true → tw ≠ tag → s.pcie = (tw, .write c im) :: (tag, .zeroRead) :: rest → s.memoryOk = true → im.Pairwise (fun x y => x.1 ≠ y.1) →
      ∃ t, exec i s = .next t ∧ (∀ x ∈ im, placeByte t x.1 = x.2) ∧ ∀ b, (∀ x ∈ im, x.1 ≠ b) → placeByte t b = placeByte s b) ∧
    (s.pcieUp = true → s.pcie = (tag, .read a rep) :: rest → spOk [] s.flights = true → s.memoryOk = true →
      (∀ data, st = .ok data → data.length = 64 → ∃ t x, exec i s = .next t ∧ sends t x ∧ x.data = data ∧ x.poison = rep.poison) ∧
      (st = .unsupported ∨ st = .abort → ∃ t x, exec i s = .next t ∧ sends t x ∧ x.poison = some 0 ∧ MemorySame s t)) ∧
    (∀ aop ty lane off y z, s.pcieUp = true → s.pcie = (tag, .atomic a ⟨aop, ty, [⟨lane, off, y, z⟩]⟩ rep) :: rest → spOk [] s.flights = true → s.memoryOk = true →
      a % 64 = 0 → off % accessSize ty = 0 → off < 64 → ty ∈ [.i32, .s32, .z32, .b32, .b64, .f32] →
      let n := accessSize ty
      let old := BitVec.ofNat 64 (natLE (placeBytes s (a + off) n))
      (st = .ok [] → ∃ t x, exec i s = .next t ∧ sends t x ∧ x.olds = [(lane, old)] ∧ x.refused = rep.refused ∧
        placeBytes t (a + off) n = bytesLE n (atomStep aop ty old (y, z)).toNat ∧ ∀ b, b < a + off ∨ a + off + n ≤ b → placeByte t b = placeByte s b) ∧
      (st = .unsupported ∨ st = .abort → ∃ t x, exec i s = .next t ∧ sends t x ∧ x.refused = true ∧ MemorySame s t))) ∧
  (∀ (s : State) (addr : DWord) (data : List Byte), s.memoryOk = true →
    let a := addr.toNat
    (∃ t, exec (.hostWrite true addr data) s = .next t ∧ ∀ b, placeByte t b = if hostBase + a ≤ b ∧ b < hostBase + a + data.length then listGet 0 data (b - (hostBase + a)) else placeByte s b) ∧
    (s.locked.contains (a / 4096) = true ∨ isProtected s a = true → exec (.hostWrite false addr data) s = .next s) ∧
    (a + data.length ≤ 2 ^ 39 → 0 < data.length → a % 64 + data.length ≤ 64 → s.locked.contains (a / 4096) = false → isProtected s a = false → isDuplex s (a / 64) = false →
      (s.hostIn ≠ [] → exec (.hostWrite false addr data) s = .next { s with hostIn := s.hostIn ++ [.write a data false] }) ∧
      (s.hostIn = [] → homeServes s (homeOf a) = true → inlineOk s 16 (homeOf a) (s.member 16).cv true = true →
        ∃ t, exec (.hostWrite false addr data) s = .next t ∧ ∀ b, placeByte t b = if a ≤ b ∧ b < a + data.length then listGet 0 data (b - a) else placeByte s b))) ∧
  (∀ (s : State) (w : Window) (fn slot package asid : Nat), s.up = true →
    (w.fn < 32 → w.slot < 256 → w.asid < 4096 → w.package < 1024 → w.remote < 4096 → w.base + w.gib ≤ 2 ^ 27 →
      ∀ x, x ∈ (hostAct (.putWindow w) s).windows ↔ x = w ∨ (x ∈ s.windows ∧ ¬ (x.fn = w.fn ∧ x.slot = w.slot))) ∧
    (∀ x, x ∈ (hostAct (.clearWindow fn slot) s).windows ↔ x ∈ s.windows ∧ ¬ (x.fn = fn ∧ x.slot = slot)) ∧
    (package < 1024 → asid < 4096 → (∀ y, y ∈ (hostAct (.addImport package asid) s).imports ↔ y = (package, asid) ∨ y ∈ s.imports) ∧
      ∀ y, y ∈ (hostAct (.dropImport package asid) s).imports ↔ y ≠ (package, asid) ∧ y ∈ s.imports) ∧
    fnRegister (s.fn fn) 0x00000 = (s.fn fn).fqw ∧ fnRegister (s.fn fn) 0x00008 = (s.fn fn).fqr) ∧
  (∀ (s : State) (package asid place n : Nat) (va : DWord) (op : RemoteOp) (xl : Xl), let i : Instr := .vetchXRemoteAccess package asid va op
    ((package, asid) ∉ s.imports ∨ asidValid s asid = false → exec i s = .next { s with remoteReply := none }) ∧
    ((package, asid) ∈ s.imports → asidValid s asid = true →
      (∀ b s1, op = .read n → 1 ≤ n → va.toNat % 64 + n ≤ 64 → qXl s asid va true false = .ok place xl → plainRead16 s place n xl = .bytes b s1 →
        exec i s = .next { s1 with remoteReply := some (b, false) }) ∧
      (op = .read n → 1 ≤ n → va.toNat % 64 + n ≤ 64 → qXl s asid va true false = .ok place xl → plainRead16 s place n xl = .unreadable →
        exec i s = .next { s with remoteReply := some (placeBytes s place n, true) }) ∧
      (op = .read n → 1 ≤ n → va.toNat % 64 + n ≤ 64 → qXl s asid va true false = .bad → exec i s = .next { lapse s asid with remoteReply := none }) ∧
      (∀ data, op = .write data → data.length = 8 → va.toNat % 8 = 0 → (∀ m ∈ s.members, m.writeq.length ≤ Config.writeQueue) → Plain16 s asid va false place xl → s.memoryOk = true →
        ∃ t, exec i s = .next t ∧ t.remoteReply = some ([], false) ∧ t.remoteBad = false ∧ (s.remoteBad = true → t.poison.contains (place / 64) = true) ∧ placeBytes t place 8 = data ∧ ∀ b, b < place ∨ place + 8 ≤ b → placeByte t b = placeByte s b) ∧
      (∀ aop ty x cmp b s1 s2, op = .atomic aop ty x cmp → ty ∈ [.i32, .s32, .z32, .b32, .b64, .f32] → va.toNat % accessSize ty = 0 →
        place % accessSize ty = 0 → qXl s asid va true true = .ok place xl → read16 s (place / 64 * 64) 64 xl = .bytes b s1 → b.length = 64 →
        let old := BitVec.ofNat 64 (natLE ((b.drop (place % 64)).take (accessSize ty)))
        write16 s1 asid place xl (bytesLE (accessSize ty) (atomStep aop ty old (x, cmp)).toNat) = some s2 →
        exec i s = .next { s2 with remoteReply := some (bytesLE (accessSize ty) old.toNat, false) }))) ∧
  (∀ (s : State) (d c l : Nat) (way : RetireWay),
    exec (.retireRequest (.die d way)) s = exec (.dieRetire d way) s ∧
    (l < 24 → s.links.length = 24 → ∃ t, exec (.retireRequest (.link l)) s = .next t ∧ t = { s with links := t.links } ∧ (linkAt t l).failed = true) ∧
    (d < 8 → c < 256 → quartetValid s d (c / 4) = true → ∃ t, exec (.retireRequest (.core d c)) s = .next t ∧ MemorySame s t ∧ 64 * d + c / 4 ∈ t.failing)) ∧
  (∀ (s : State) (x : FirmwareImage), let g := s.gander
    (Signed g x → g.running < 2 → g.slots.length = 2 → ∃ t, exec (.stageFirmware x) s = .next t ∧ OnlyGander s t ∧ t.gander.staged = true ∧ t.gander.running = g.running ∧
      listGet FirmwareImage.blank t.gander.slots (1 - g.running) = x ∧ listGet FirmwareImage.blank t.gander.slots g.running = listGet FirmwareImage.blank g.slots g.running) ∧
    (¬ Signed g x → exec (.stageFirmware x) s = .next s)) ∧
  (∀ (s : State) (k : Nat) (nonce m : List Byte),
    (nonce.length = 32 → (k, m) ∈ [(1, s.gander.rom), (2, (listGet FirmwareImage.blank s.gander.slots s.gander.running).digest), (3, s.gander.dieConfig), (4, sha3 (fuseBytes s.gander))] →
      ∃ t sig, exec (.attestation k nonce) s = .next t ∧ OnlyGander s t ∧ t.gander.message = m ++ sig) ∧
    (nonce.length ≠ 32 ∨ k = 0 ∨ 6 ≤ k → exec (.attestation k nonce) s = .next s)) ∧
  (∀ (s : State) (x : FirmwareImage) (b : BringUp) (failed : List (Nat × Nat)), let g := s.gander
    g.running < 2 → g.slots.length = 2 →
    let slot := listGet FirmwareImage.blank g.slots g.running
    let runs := if g.staged then listGet FirmwareImage.blank g.slots (1 - g.running) else if slot = FirmwareImage.blank then x else slot
    (Signed g runs → ComesUp b → ∃ t, exec (.reset x b failed) s = .next t ∧ Fresh s t b failed ∧ t.up = true ∧ t.pcieUp = true ∧
      listGet FirmwareImage.blank t.gander.slots t.gander.running = runs ∧ t.gander.staged = false ∧ t.gander.keys = g.keys ∧ t.gander.revoked = g.revoked ∧ t.gander.minVersion = g.minVersion ∧ t.gander.cap = 2400) ∧
    (¬ Signed g runs ∨ ¬ ComesUp b → ∃ t, exec (.reset x b failed) s = .next t ∧ Fresh s t ⟨0, 0, [], [], true⟩ [] ∧ t.up = false ∧ t.pcieUp = false))

-- Encoding, reset, and the step

namespace Sys2Proof.Claim

/-- An instruction at the virtual address `p.pc` that the gang fetches without waiting: its page has a leaf of device memory with X in the core's TLB,
its words stand in the page, clean and served (R25, R237, R239). -/
structure Fetches (s : State) (g : Gang) (p : Path) (t : TlbEntry) (a : Nat) (w0 w1 : DWord) : Prop where
  canon : canonical p.pc = true
  empty : g.xc = Xc.empty
  window : windowOf s g.kd.asid (pageOf p.pc) = none
  tlb : (s.coreAt g.die g.core).l1tlb.find? (fun e => covers e g.kd.asid (pageOf p.pc)) = some t
  leaf : pteHost t.leaf = false ∧ pteX t.leaf = true
  place : a = pteAddr t.leaf + pageOf p.pc * 4096 % 2 ^ leafLog2 t.leaf t.level + p.pc.toNat % 4096
  fits : p.pc.toNat % 4096 + 16 ≤ 4096
  clean : ∀ x, a ≤ x → x < a + 16 → s.poison.contains (x / 64) = false ∧ homeServes s (homeOf x) = true
  first : w0 = hbmWord s a
  second : w1 = (if wordsLen w0 = 8 then 0 else hbmWord s (a + 8))

/-- It is the path's turn to issue an instruction of the front end (R119, R120, R134, R216), and no captured loop is entered (R179). -/
def Issuing (s : State) (gi : Nat) (g : Gang) (p : Path) : Prop := hisTurn s gi g p = true ∧ (arrival s g p = .front ∨ (opOf g p.id).isSome = true)

/-- The gang once its path has issued (R120, R134, R188, R216). -/
def afterIssue (g : Gang) (p : Path) : Gang :=
  { g with readySince := none, urgent := false, held := [], rot := rotated g (some p.id), fetching := none,
           engaged := if g.engaged = some p.id then none else g.engaged, frontAt := if g.handler.isNone then none else g.frontAt }

/-- The state once its turn has found path `pi` of gang `gi` held (R134, R239, R264). -/
def Held (s u : State) (gi pi : Nat) : Prop :=
  ∃ g g', s.gang gi = some g ∧ u = { s with gangs := u.gangs, idle := true } ∧ u.gang gi = some g' ∧ (∀ n, n ≠ gi → u.gang n = s.gang n) ∧
    g' = { g with held := pi :: g.held, rot := g'.rot, engaged := g'.engaged, fetching := none }

/-- Path `pi` of gang `gi` holds the gang: no other path of it issues (R152, R239, R264, R361). -/
def HoldsGang (u : State) (gi pi : Nat) : Prop := ∃ g, u.gang gi = some g ∧ g.engaged = some pi

/-- A set of registers is in its canonical form, and p0 is not listed (R18). -/
def RegsOk (r : Regs) : Prop := spOk 0 r.v = true ∧ spOk 0 r.s = true ∧ spOk 0 r.p = true ∧ ∀ e ∈ r.p, e.1 ≠ 0

/-- The paths of a gang have names of their own. -/
def NamesOk (g : Gang) : Prop := g.paths.Pairwise (fun a b => a.id ≠ b.id) ∧ ∀ q ∈ g.paths, q.id < g.nextPath

/-- What the statements take for granted of a state: every sparse table is in its canonical form, the register files of every gang and stream
too, the paths of a gang have names of their own, and the causal domain has its 17 members (R15, R18, R117, R418). -/
structure Inv (s : State) : Prop where
  memory : s.memoryOk = true
  cores : spOk Core.reset s.cores = true
  flights : spOk [] s.flights = true
  dies : spOk DieXl.reset s.dieXl = true
  fns : spOk Fn.reset s.fns = true
  asids : spOk (0, 0) s.asids = true
  members : Members17 s
  gangs : ∀ e ∈ s.gangs, e.2.sound = true ∧ NamesOk e.2
  units : ∀ e ∈ s.cores, spOk 0 e.2.mem = true ∧ ∀ st ∈ e.2.streams, RegsOk st.work ∧ RegsOk st.rel

/-- What the worked encodings of the specification stand for (R57, R81, R95, R162, R164, R318, R340, R372). -/
def workedWords : List (DWord × DWord × Instr) :=
  [(0x420280B0300A0B28, 0, .fma ⟨2, true⟩ .f32 .dyn 10 11 12 10),
   (0x8001C04FFC010900, 0, .ld ⟨0, false⟩ .b32 .g false false 7 ⟨false, 4, 0x3FF, 1⟩),
   (0x1C00000000030010, 0x0000001400000000, .brd ⟨1, false⟩ 3 5),
   (0x200000100A10E202, 0, .icmp ⟨0, false⟩ .z32 .lt 1 ⟨true, 2⟩ 1 0),
   (0x10027FFFFFFD3000, 0, .lpb ⟨0, false⟩ 9 0x3FFFFFFD),
   (0x0F00400000000000, 0x0000000001234567, .sliLong ⟨0, false⟩ 1 0x01234567),
   (0x70053FF020022B00, 0, .xred ⟨0, false⟩ .f32 .dyn .max false 20 0x3FF ⟨false, 8⟩),
   (0x840300A02C004940, 0, .atom ⟨4, false⟩ .or .b32 .g 12 10 11 0),
   (0xE000C00800203000, 0, .mfs ⟨0, false⟩ true 3 0x20)]

def workedEngineWords : List (DWord × DWord × Instr) :=
  [(0xA000004018000C00, 0x20F7000000000000, .oxip ⟨0, false⟩ .f16 .f16 4 6 2 0 15 1),
   (0xB000008000000000, 0x3000000000000000, .cp ⟨0, false⟩ 8 3),
   (0xC000000000030000, 0, .bar ⟨0, false⟩ 3),
   (0xD000000010031000, 0, .capctl ⟨0, false⟩ 0x1003)]

end Sys2Proof.Claim

/-- R56, R57, R59 to R61, R65: every well-formed instruction, with every operand that its encoding admits, is read back from its bytes, whatever bytes come
after it. -/
def Obligations.DecodeEncode : Prop :=
  ∀ (i : Instr) (rest : List Byte), (encodeFields i).isSome = true → i.wf = true → decode (encodeBytes i ++ rest) = some (i, rest)

/-- R56, R65: bytes that decode are the bytes of the instruction they decode to, which is well-formed: no two encodings stand for one instruction,
and no bit of a word is ignored. -/
def Obligations.EncodeDecode : Prop :=
  ∀ (bs rest : List Byte) (i : Instr), decode bs = some (i, rest) → i.wf = true ∧ encodeBytes i ++ rest = bs

/-- R57, R61, R81, R95, R162, R318, R340: the worked encodings of the specification decode to the instructions that it gives for them. -/
def Obligations.WordsDecode : Prop :=
  ∀ e ∈ workedWords ++ workedEngineWords, decode (wordToBytes e.1 ++ wordToBytes e.2.1) =
    some (e.2.2, if wordsLen e.1 = 8 then wordToBytes e.2.1 else [])

/-- R21, R31, R118, R377, R403, R404, R430, R449: after reset device memory reads zero everywhere, CLOCK is zero, the causal state is zero in generation 0, no quartet is remapped
and every die is its own place, and nothing runs. A gang starts with every register, predicate and status at zero, ROUND and CAPCTL from the kernel, and one path of
all its lanes at the entry. Of the values after reset, those that the spec leaves open are the model's choice: bring-up has finished and found every part good (log 125), memory that
nothing has written reads zero and nothing is poisoned, and queues, records and lists are empty (log 9). -/
def Obligations.StartState : Prop :=
  (let s := State.reset
   s.memoryOk = true ∧ (∀ a, a < 2 ^ 39 → placeByte s a = 0) ∧ s.poison = [] ∧ s.clock = 0 ∧ s.gangs = [] ∧ s.cohorts = [] ∧ s.grids = [] ∧ s.queues = [] ∧ s.flights = [] ∧
   s.reqs = [] ∧ s.members.length = 17 ∧
   (∀ i, i < 17 → let m := s.member i
     m.counter = 0 ∧ m.gen = false ∧ m.view = copies 17 0 ∧ m.last = copies 17 0 ∧ m.cv = copies 17 0 ∧ m.holds = []) ∧
   (∀ d q, d < 8 → q < 64 → quartetValid s d q = true ∧ quartetPhys s d q = q) ∧
   (∀ d, d < 8 → placeOfDie s d % 8 = d ∧ placeOfDie s (d + 8) % 8 = d ∧ placeOfDie s d ≠ placeOfDie s (d + 8)) ∧ placeOfDie s 16 = 16) ∧
  (∀ (s : State) (gridId cohort number gangid k block index spos : Nat) (gr : Grid) (phys areas : List Nat),
    let g := newGang s gridId gr cohort number gangid k block index phys areas spos
    (∀ r l, getV g r l = 0) ∧ (∀ r, getS g r = 0) ∧ (∀ n l, l < 64 → (getPred g n).getLsbD l = decide (n = 0)) ∧ g.fpstat = 0 ∧ g.round = gr.kd.round ∧
    g.capctl = gr.kd.capctl ∧ g.xlctl = 0 ∧ g.exited = 0 ∧ g.stack = [] ∧ g.handler = none ∧ g.sound = true ∧
    ∃ p, g.paths = [p] ∧ p.pc = gr.kd.base + BitVec.ofNat 64 gr.kd.entry ∧ p.mask = lowLanes gr.kd.gangw ∧ p.st = .ready ∧ fullyCurrent p = true)

/-- R24, R25, R30, R31, R65, R66, R120, R134, R153, R216, R217, R264: a step whose turn is the issue of a path fetches the words at its PC, in a page that the core's TLB translates, and runs
the instruction that they decode to, at that state with the path named, unless the load/store unit is Clover's; words that decode to none raise ILLOP at that PC. A step whose turn is
an event, or an act of the driver or the host, runs it. A cell of Clover that wants the load/store unit
lets an urgent gang's access go first, and takes turns with another's. A trap waits while another path's access is on its way, and a path so held, or held at a fence, a barrier or `capdrop`, keeps
the gang to itself. When a gang has waited for 255 cycles, an issue comes, and a sleep ends in time. In each step time passes: CLOCK never goes
back, no ready gang comes to wait for more than 255 cycles and no path to sleep for more than 256 beyond its time, and nothing else changes but the record of waiting times.
That a turn comes from the agenda, or by a free value (log 10), what the host does by such a turn (logs 75, 170), and when a trap is taken beside other paths' accesses (log 134), are the model's choices. -/
def Obligations.StepRunsDecoded : Prop :=
  (∀ (s : State) (gi pi : Nat) (r : List Turn) (g : Gang) (p : Path) (t : TlbEntry) (a : Nat) (w0 w1 : DWord),
    s.agenda = .issue gi pi :: r → s.gang gi = some g → findPath g.paths pi = some p → Issuing { s with agenda := r } gi g p → Fetches s g p t a w0 w1 →
    let s1 := ({ s with agenda := r } : State).putGang gi g
    let c := s.coreAt g.die g.core
    (∀ i, decodeWords w0 w1 = some i → (lsuRival s g i = none ∨ c.lsuFront = false) →
      step s = ticked (issued gi g p i (lsuRival s g i).isSome s1 (exec i (s1.naming gi pi)))) ∧
    (∀ i x, decodeWords w0 w1 = some i → lsuRival s g i = some x → c.lsuFront = true →
      step s = ticked (exec (.cellFire (coreKey g.die g.core) x) (s1.putCore g.die g.core { c with lsuFront := false }))) ∧
    (decodeWords w0 w1 = none → (∀ o ∈ g.ops, o.path = p.id) → step s = .next ((noteIssue (s1.trap gi g p ⟨0x01, p.pc, 0, p.mask, 0⟩) gi p false).tick)) ∧
    (decodeWords w0 w1 = none → (∃ o ∈ g.ops, o.path ≠ p.id) → ∃ u, Held s1 u gi p.id ∧ HoldsGang u gi p.id ∧ step s = .next u.tick)) ∧
  (∀ (s : State) (x : HostAct) (r : List Turn), s.agenda = .host x :: r → step s = .next (hostAct x { s with agenda := r }).tick) ∧
  (∀ (s : State) (i : Instr) (r : List Turn), s.agenda = .event i :: r → isEvent i = true → (∀ k x, i ≠ .cellFire k x) → step s = ticked (exec i { s with agenda := r })) ∧
  (∀ (s : State) (k x : Nat) (r : List Turn), s.agenda = .event (.cellFire k x) :: r →
    let s1 : State := { s with agenda := r }
    let c := s1.coreAt (keyDie k) (keyCore k)
    (memCellReady c x = false ∨ frontLsu s1 k = none → step s = ticked (exec (.cellFire k x) s1)) ∧
    (memCellReady c x = true → frontLsu s1 k = some true → step s = .next s1.tick) ∧
    (memCellReady c x = true → frontLsu s1 k = some false →
      step s = ticked (if c.lsuFront then exec (.cellFire k x) (s1.putCore (keyDie k) (keyCore k) { c with lsuFront := false }) else .next s1))) ∧
  (∀ (s : State), s.agenda = [] → dueTurns s ≠ [] → ∃ gi g p, (gi, g) ∈ s.gangs ∧ p ∈ g.paths ∧
    ((hisTurn s gi g p = true ∧ step s = ticked (issueStep gi p.id { s with freeCtr := s.freeCtr + 1 })) ∨
     (sleepLeft s.clock p = some 0 ∧ step s = ticked (exec (.sleepEnd gi p.id) { s with freeCtr := s.freeCtr + 1 })))) ∧
  (∀ (t : State), t.clock.toNat ≤ t.tick.clock.toNat ∧
    (∀ e ∈ t.gangs, e.2.readySince.isSome = true → waitOf t.clock e.2 ≤ 255 → waitOf t.tick.clock e.2 ≤ 255) ∧
    (∀ e ∈ t.gangs, ∀ p ∈ e.2.paths, ∀ start n, p.st = .sleep start n → (t.clock - start).toNat ≤ n + 256 → (t.tick.clock - start).toNat ≤ n + 256) ∧
    t.tick = { t with seq := t.seq + 1, clock := t.tick.clock, cur := none, idle := false, gangs := t.tick.gangs } ∧
    ∀ e ∈ t.tick.gangs, ∃ g, (e.1, g) ∈ t.gangs ∧
      e.2 = { g with readySince := e.2.readySince, urgent := e.2.urgent, held := e.2.held, rot := e.2.rot }) ∧
  (∀ (gi : Nat) (p : Path) (i : Instr) (lsu : Bool) (s0 t : State) (g0 g : Gang), s0.gang gi = some g0 → t.gang gi = some g → spOk Core.reset t.cores = true →
    (trapWaits g0 g p = true → ∃ u, issued gi g0 p i lsu s0 (.next t) = .next u ∧ Held s0 u gi p.id ∧ HoldsGang u gi p.id) ∧
    (trapWaits g0 g p = false → wasHeld g0 g p i = false → ∃ u, issued gi g0 p i lsu s0 (.next t) = .next u ∧ u = { t with gangs := u.gangs, cores := u.cores } ∧
      u.gang gi = some (afterIssue g p) ∧ (∀ n, n ≠ gi → u.gang n = t.gang n) ∧
      ∀ d c, u.coreAt d c = { t.coreAt d c with slot0 := (u.coreAt d c).slot0, slot1 := (u.coreAt d c).slot1, lsuFront := (u.coreAt d c).lsuFront }) ∧
    (trapWaits g0 g p = false → wasHeld g0 g p i = true → ∃ u, issued gi g0 p i lsu s0 (.next t) = .next u ∧ Held t u gi p.id ∧
      (keepsGang g p i = true → HoldsGang u gi p.id)))

/-- R24, R65, R66, R120, R134, R365, R366: no step refuses or faults: whatever the state and whoever's turn it is, the machine goes on. That an event which is not due leaves the state as it is (log
26), and that an instruction without an issuing path would fault, which no step meets (log 27), are the model's choices. It is a statement of one step, and no invariant. -/
def Obligations.StepGoesOn : Prop := ∀ s : State, ∃ t, step s = .next t

/-- R3, R15, R18, R117, R227, R418: every step keeps the memories of the package in their canonical form, so that equal memories are equal data; and it keeps all that the
other statements take for granted of a state, which the state after reset has: the canonical form of every table and register file, names of their own for the paths of a gang, and
17 members of the causal domain. -/
def Obligations.StepKeepsMemory : Prop :=
  (∀ s t : State, s.memoryOk = true → step s = .next t → t.memoryOk = true) ∧
  Inv State.reset ∧ (∀ s t : State, Inv s → step s = .next t → Inv t)
end

