-- ==== Sys2Proof/Laws/Encoding.lean ====
section
/-! SUPPORT. Fields put into a word come out of it again, and every code of a table names what it was made from. -/

namespace Sys2Proof

@[simp] theorem Ty.ofCode_code (t : Ty) : Ty.ofCode t.code = t := by cases t <;> rfl
@[simp] theorem RSel.ofCode_code (t : RSel) : RSel.ofCode t.code = some t := by cases t <;> rfl
@[simp] theorem Cond.ofCode_code (t : Cond) : Cond.ofCode t.code = t := by cases t <;> rfl
@[simp] theorem Space.ofCode_code (t : Space) : Space.ofCode t.code = some t := by cases t <;> rfl
@[simp] theorem AtomOp.ofCode_code (t : AtomOp) : AtomOp.ofCode t.code = some t := by cases t <;> rfl
@[simp] theorem FenceSem.ofCode_code (t : FenceSem) : FenceSem.ofCode t.code = some t := by cases t <;> rfl
@[simp] theorem Scope.ofCode_code (t : Scope) : Scope.ofCode t.code = some t := by cases t <;> rfl
@[simp] theorem XOp.ofCode_code (t : XOp) : XOp.ofCode t.code = some t := by cases t <;> rfl

/-- The high part of a concatenation. -/
@[simp] theorem extract_high {n m : Nat} (x : BitVec n) (y : BitVec m) : (x ++ y).extractLsb' m n = x := by
  simp [BitVec.extractLsb'_append_eq_left]

/-- The low part of a concatenation. -/
@[simp] theorem extract_low {n m : Nat} (x : BitVec n) (y : BitVec m) : (x ++ y).extractLsb' 0 m = y := by
  simp [BitVec.extractLsb'_append_eq_right]

/-- Three ten-bit pieces of a displacement joined again. -/
@[simp] theorem join_disp (d : BitVec 30) : d.extractLsb' 20 10 ++ d.extractLsb' 10 10 ++ d.extractLsb' 0 10 = d := by
  have h := BitVec.extractLsb'_append_extractLsb'_eq_extractLsb' (x := d) (start₁ := 10) (len₁ := 10) (len₂ := 10) rfl
  have k := BitVec.extractLsb'_append_extractLsb'_eq_extractLsb' (x := d) (start₁ := 0) (len₁ := 10) (len₂ := 20) rfl
  exact ((congrArg (fun x => x ++ d.extractLsb' 0 10) h).trans k).trans BitVec.extractLsb'_eq_self

/-- Two ten-bit pieces of an immediate joined again. -/
@[simp] theorem join_imm (d : Imm20) : d.extractLsb' 10 10 ++ d.extractLsb' 0 10 = d :=
  (BitVec.extractLsb'_append_extractLsb'_eq_extractLsb' (start₁ := 0) (len₁ := 10) (len₂ := 10) rfl).trans
    BitVec.extractLsb'_eq_self

@[simp] theorem ofBool_eq_one (b : Bool) : decide (BitVec.ofBool b = 1#1) = b := by cases b <;> rfl

/-- A field above a piece of `w` bits. -/
theorem peelHigh {v w start len : Nat} (x : BitVec v) (y : BitVec w) (h : w ≤ start) :
    (x ++ y).extractLsb' start len = x.extractLsb' (start - w) len := BitVec.extractLsb'_append_eq_of_le h

/-- The lowest piece. -/
theorem peelLow {v w : Nat} (x : BitVec v) (y : BitVec w) : (x ++ y).extractLsb' 0 w = y := extract_low x y

/-- What is packed is unpacked again. -/
@[simp] theorem Fields.unpack_pack (f : Fields) : Fields.unpack f.pack = f := by
  obtain ⟨x0, x1, x2, x3, x4, x5, x6, x7, x8, x9⟩ := f
  exact Fields.mk.injEq .. |>.mpr ⟨
    (peelHigh (v := 61) (w := 3) _ _ (by decide)).trans <| (peelHigh (v := 60) (w := 1) _ _ (by decide)).trans <| (peelHigh (v := 56) (w := 4) _ _ (by decide)).trans <| (peelHigh (v := 52) (w := 4) _ _ (by decide)).trans <| (peelHigh (v := 48) (w := 4) _ _ (by decide)).trans <| (peelHigh (v := 38) (w := 10) _ _ (by decide)).trans <| (peelHigh (v := 28) (w := 10) _ _ (by decide)).trans <| (peelHigh (v := 18) (w := 10) _ _ (by decide)).trans <| (peelHigh (v := 8) (w := 10) _ _ (by decide)).trans <| BitVec.extractLsb'_eq_self,
    (peelHigh (v := 61) (w := 3) _ _ (by decide)).trans <| (peelHigh (v := 60) (w := 1) _ _ (by decide)).trans <| (peelHigh (v := 56) (w := 4) _ _ (by decide)).trans <| (peelHigh (v := 52) (w := 4) _ _ (by decide)).trans <| (peelHigh (v := 48) (w := 4) _ _ (by decide)).trans <| (peelHigh (v := 38) (w := 10) _ _ (by decide)).trans <| (peelHigh (v := 28) (w := 10) _ _ (by decide)).trans <| (peelHigh (v := 18) (w := 10) _ _ (by decide)).trans <| peelLow (v := 8) (w := 10) _ _,
    (peelHigh (v := 61) (w := 3) _ _ (by decide)).trans <| (peelHigh (v := 60) (w := 1) _ _ (by decide)).trans <| (peelHigh (v := 56) (w := 4) _ _ (by decide)).trans <| (peelHigh (v := 52) (w := 4) _ _ (by decide)).trans <| (peelHigh (v := 48) (w := 4) _ _ (by decide)).trans <| (peelHigh (v := 38) (w := 10) _ _ (by decide)).trans <| (peelHigh (v := 28) (w := 10) _ _ (by decide)).trans <| peelLow (v := 18) (w := 10) _ _,
    (peelHigh (v := 61) (w := 3) _ _ (by decide)).trans <| (peelHigh (v := 60) (w := 1) _ _ (by decide)).trans <| (peelHigh (v := 56) (w := 4) _ _ (by decide)).trans <| (peelHigh (v := 52) (w := 4) _ _ (by decide)).trans <| (peelHigh (v := 48) (w := 4) _ _ (by decide)).trans <| (peelHigh (v := 38) (w := 10) _ _ (by decide)).trans <| peelLow (v := 28) (w := 10) _ _,
    (peelHigh (v := 61) (w := 3) _ _ (by decide)).trans <| (peelHigh (v := 60) (w := 1) _ _ (by decide)).trans <| (peelHigh (v := 56) (w := 4) _ _ (by decide)).trans <| (peelHigh (v := 52) (w := 4) _ _ (by decide)).trans <| (peelHigh (v := 48) (w := 4) _ _ (by decide)).trans <| peelLow (v := 38) (w := 10) _ _,
    (peelHigh (v := 61) (w := 3) _ _ (by decide)).trans <| (peelHigh (v := 60) (w := 1) _ _ (by decide)).trans <| (peelHigh (v := 56) (w := 4) _ _ (by decide)).trans <| (peelHigh (v := 52) (w := 4) _ _ (by decide)).trans <| peelLow (v := 48) (w := 4) _ _,
    (peelHigh (v := 61) (w := 3) _ _ (by decide)).trans <| (peelHigh (v := 60) (w := 1) _ _ (by decide)).trans <| (peelHigh (v := 56) (w := 4) _ _ (by decide)).trans <| peelLow (v := 52) (w := 4) _ _,
    (peelHigh (v := 61) (w := 3) _ _ (by decide)).trans <| (peelHigh (v := 60) (w := 1) _ _ (by decide)).trans <| peelLow (v := 56) (w := 4) _ _,
    (peelHigh (v := 61) (w := 3) _ _ (by decide)).trans <| peelLow (v := 60) (w := 1) _ _,
    peelLow (v := 61) (w := 3) _ _⟩

/-- What is packed is unpacked again. -/
@[simp] theorem MatrixWord.unpack_pack (f : MatrixWord) : MatrixWord.unpack f.pack = f := by
  obtain ⟨x0, x1, x2, x3, x4, x5, x6, x7, x8⟩ := f
  exact MatrixWord.mk.injEq .. |>.mpr ⟨
    (peelHigh (v := 24) (w := 40) _ _ (by decide)).trans <| (peelHigh (v := 20) (w := 4) _ _ (by decide)).trans <| (peelHigh (v := 19) (w := 1) _ _ (by decide)).trans <| (peelHigh (v := 18) (w := 1) _ _ (by decide)).trans <| (peelHigh (v := 14) (w := 4) _ _ (by decide)).trans <| (peelHigh (v := 12) (w := 2) _ _ (by decide)).trans <| (peelHigh (v := 8) (w := 4) _ _ (by decide)).trans <| (peelHigh (v := 4) (w := 4) _ _ (by decide)).trans <| BitVec.extractLsb'_eq_self,
    (peelHigh (v := 24) (w := 40) _ _ (by decide)).trans <| (peelHigh (v := 20) (w := 4) _ _ (by decide)).trans <| (peelHigh (v := 19) (w := 1) _ _ (by decide)).trans <| (peelHigh (v := 18) (w := 1) _ _ (by decide)).trans <| (peelHigh (v := 14) (w := 4) _ _ (by decide)).trans <| (peelHigh (v := 12) (w := 2) _ _ (by decide)).trans <| (peelHigh (v := 8) (w := 4) _ _ (by decide)).trans <| peelLow (v := 4) (w := 4) _ _,
    (peelHigh (v := 24) (w := 40) _ _ (by decide)).trans <| (peelHigh (v := 20) (w := 4) _ _ (by decide)).trans <| (peelHigh (v := 19) (w := 1) _ _ (by decide)).trans <| (peelHigh (v := 18) (w := 1) _ _ (by decide)).trans <| (peelHigh (v := 14) (w := 4) _ _ (by decide)).trans <| (peelHigh (v := 12) (w := 2) _ _ (by decide)).trans <| peelLow (v := 8) (w := 4) _ _,
    (peelHigh (v := 24) (w := 40) _ _ (by decide)).trans <| (peelHigh (v := 20) (w := 4) _ _ (by decide)).trans <| (peelHigh (v := 19) (w := 1) _ _ (by decide)).trans <| (peelHigh (v := 18) (w := 1) _ _ (by decide)).trans <| (peelHigh (v := 14) (w := 4) _ _ (by decide)).trans <| peelLow (v := 12) (w := 2) _ _,
    (peelHigh (v := 24) (w := 40) _ _ (by decide)).trans <| (peelHigh (v := 20) (w := 4) _ _ (by decide)).trans <| (peelHigh (v := 19) (w := 1) _ _ (by decide)).trans <| (peelHigh (v := 18) (w := 1) _ _ (by decide)).trans <| peelLow (v := 14) (w := 4) _ _,
    (peelHigh (v := 24) (w := 40) _ _ (by decide)).trans <| (peelHigh (v := 20) (w := 4) _ _ (by decide)).trans <| (peelHigh (v := 19) (w := 1) _ _ (by decide)).trans <| peelLow (v := 18) (w := 1) _ _,
    (peelHigh (v := 24) (w := 40) _ _ (by decide)).trans <| (peelHigh (v := 20) (w := 4) _ _ (by decide)).trans <| peelLow (v := 19) (w := 1) _ _,
    (peelHigh (v := 24) (w := 40) _ _ (by decide)).trans <| peelLow (v := 20) (w := 4) _ _,
    peelLow (v := 24) (w := 40) _ _⟩

/-- What is packed is unpacked again. -/
@[simp] theorem AsyncWord.unpack_pack (f : AsyncWord) : AsyncWord.unpack f.pack = f := by
  obtain ⟨x0, x1, x2, x3, x4⟩ := f
  exact AsyncWord.mk.injEq .. |>.mpr ⟨
    (peelHigh (v := 12) (w := 52) _ _ (by decide)).trans <| (peelHigh (v := 8) (w := 4) _ _ (by decide)).trans <| (peelHigh (v := 7) (w := 1) _ _ (by decide)).trans <| (peelHigh (v := 4) (w := 3) _ _ (by decide)).trans <| BitVec.extractLsb'_eq_self,
    (peelHigh (v := 12) (w := 52) _ _ (by decide)).trans <| (peelHigh (v := 8) (w := 4) _ _ (by decide)).trans <| (peelHigh (v := 7) (w := 1) _ _ (by decide)).trans <| peelLow (v := 4) (w := 3) _ _,
    (peelHigh (v := 12) (w := 52) _ _ (by decide)).trans <| (peelHigh (v := 8) (w := 4) _ _ (by decide)).trans <| peelLow (v := 7) (w := 1) _ _,
    (peelHigh (v := 12) (w := 52) _ _ (by decide)).trans <| peelLow (v := 8) (w := 4) _ _,
    peelLow (v := 12) (w := 52) _ _⟩

/-- The guard comes out as it went in. -/
theorem guard_of (g : Guard) : (⟨g.gp, decide (BitVec.ofBool g.gn = 1#1)⟩ : Guard) = g := by
  cases g; simp

/-- The parts of Format X's bits [25:16] (R58). -/
theorem packX_bu (bu : Bool) (pd ps : BitVec 4) : (packX bu pd ps).extractLsb' 9 1 = BitVec.ofBool bu :=
  (peelHigh (v := 6) (w := 4) _ _ (by decide)).trans <| (peelHigh (v := 2) (w := 4) _ _ (by decide)).trans <|
    (peelHigh (v := 1) (w := 1) _ _ (by decide)).trans BitVec.extractLsb'_eq_self
theorem packX_xr (bu : Bool) (pd ps : BitVec 4) : (packX bu pd ps).extractLsb' 8 1 = 0#1 :=
  (peelHigh (v := 6) (w := 4) _ _ (by decide)).trans <| (peelHigh (v := 2) (w := 4) _ _ (by decide)).trans <|
    peelLow (v := 1) (w := 1) _ _
theorem packX_pd (bu : Bool) (pd ps : BitVec 4) : (packX bu pd ps).extractLsb' 4 4 = pd :=
  (peelHigh (v := 6) (w := 4) _ _ (by decide)).trans <| peelLow (v := 2) (w := 4) _ _
theorem packX_ps (bu : Bool) (pd ps : BitVec 4) : (packX bu pd ps).extractLsb' 0 4 = ps := peelLow (v := 6) (w := 4) _ _

-- small fields that hold a flag beside something else

theorem flag3_high (u : Bool) : (0#3 ++ BitVec.ofBool u : BitVec 4).extractLsb' 1 3 = 0#3 := by cases u <;> rfl
theorem flag3_low (u : Bool) : (0#3 ++ BitVec.ofBool u : BitVec 4).extractLsb' 0 1 = BitVec.ofBool u := by cases u <;> rfl
theorem flag9_high (u : Bool) : (0#9 ++ BitVec.ofBool u : BitVec 10).extractLsb' 1 9 = 0#9 := by cases u <;> rfl
theorem flag9_low (u : Bool) : (0#9 ++ BitVec.ofBool u : BitVec 10).extractLsb' 0 1 = BitVec.ofBool u := by cases u <;> rfl
theorem flag1_high (u : Bool) : (0#1 ++ BitVec.ofBool u : BitVec 2).extractLsb' 1 1 = 0#1 := by cases u <;> rfl
theorem flag1_low (u : Bool) : (0#1 ++ BitVec.ofBool u : BitVec 2).extractLsb' 0 1 = BitVec.ofBool u := by cases u <;> rfl
theorem vec_high (u : Bool) : (BitVec.ofBool u ++ 0#9 : BitVec 10).extractLsb' 9 1 = BitVec.ofBool u := by cases u <;> rfl
theorem vec_low (u : Bool) : (BitVec.ofBool u ++ 0#9 : BitVec 10).extractLsb' 0 9 = 0#9 := by cases u <;> rfl
theorem ma_low (c : Bool) (x : BitVec 2) : (BitVec.ofBool c ++ x : BitVec 3).extractLsb' 0 2 = x :=
  peelLow (v := 1) (w := 2) _ _
theorem ma_high (c : Bool) (x : BitVec 2) : (BitVec.ofBool c ++ x : BitVec 3).extractLsb' 2 1 = BitVec.ofBool c :=
  (peelHigh (v := 1) (w := 2) _ _ (by decide)).trans BitVec.extractLsb'_eq_self
theorem ma0_low (x : BitVec 2) : (0#1 ++ x : BitVec 3).extractLsb' 0 2 = x := peelLow (v := 1) (w := 2) _ _
theorem ma0_high (x : BitVec 2) : (0#1 ++ x : BitVec 3).extractLsb' 2 1 = 0#1 :=
  (peelHigh (v := 1) (w := 2) _ _ (by decide)).trans BitVec.extractLsb'_eq_self
theorem mf_low (n v : Bool) (x : BitVec 2) : (BitVec.ofBool n ++ BitVec.ofBool v ++ x : BitVec 4).extractLsb' 0 2 = x :=
  peelLow (v := 2) (w := 2) _ _
theorem mf_vw (n v : Bool) (x : BitVec 2) : (BitVec.ofBool n ++ BitVec.ofBool v ++ x : BitVec 4).extractLsb' 2 1 = BitVec.ofBool v :=
  (peelHigh (v := 2) (w := 2) _ _ (by decide)).trans <| peelLow (v := 1) (w := 1) _ _
theorem mf_na (n v : Bool) (x : BitVec 2) : (BitVec.ofBool n ++ BitVec.ofBool v ++ x : BitVec 4).extractLsb' 3 1 = BitVec.ofBool n :=
  (peelHigh (v := 2) (w := 2) _ _ (by decide)).trans <| (peelHigh (v := 1) (w := 1) _ _ (by decide)).trans BitVec.extractLsb'_eq_self
theorem mf0_low (v : Bool) : (0#1 ++ BitVec.ofBool v ++ 0#2 : BitVec 4).extractLsb' 0 2 = 0#2 := by cases v <;> rfl
theorem mf0_vw (v : Bool) : (0#1 ++ BitVec.ofBool v ++ 0#2 : BitVec 4).extractLsb' 2 1 = BitVec.ofBool v := by cases v <;> rfl
theorem mf0_na (v : Bool) : (0#1 ++ BitVec.ofBool v ++ 0#2 : BitVec 4).extractLsb' 3 1 = 0#1 := by cases v <;> rfl
theorem id_low (x : BitVec 4) : (0#6 ++ x : BitVec 10).extractLsb' 0 4 = x := peelLow (v := 6) (w := 4) _ _
theorem id_high (x : BitVec 4) : (0#6 ++ x : BitVec 10).extractLsb' 4 6 = 0#6 :=
  (peelHigh (v := 6) (w := 4) _ _ (by decide)).trans BitVec.extractLsb'_eq_self
theorem rej_high (x : BitVec 30) : (x ++ 0#34 : DWord).extractLsb' 34 30 = x :=
  (peelHigh (v := 30) (w := 34) _ _ (by decide)).trans BitVec.extractLsb'_eq_self
theorem rej_low (x : BitVec 30) : (x ++ 0#34 : DWord).extractLsb' 0 34 = 0#34 := peelLow (v := 30) (w := 34) _ _
theorem k_low (x : Word) : (0#32 ++ x : DWord).extractLsb' 0 32 = x := peelLow (v := 32) (w := 32) _ _
theorem k_high (x : Word) : (0#32 ++ x : DWord).extractLsb' 32 32 = 0#32 :=
  (peelHigh (v := 32) (w := 32) _ _ (by decide)).trans BitVec.extractLsb'_eq_self

/-- The 16-bit code of `trap` and `brk` in a 20-bit immediate. -/
theorem code_imm (c : BitVec 16) : (0#4 ++ c.extractLsb' 10 6 ++ c.extractLsb' 0 10 : Imm20) = 0#4 ++ c := by
  have h := BitVec.extractLsb'_append_extractLsb'_eq_extractLsb' (x := c) (start₁ := 0) (len₁ := 10) (len₂ := 6) rfl
  have k : (c.extractLsb' 10 6 ++ c.extractLsb' 0 10 : BitVec 16) = c := h.trans BitVec.extractLsb'_eq_self
  calc (0#4 ++ c.extractLsb' 10 6 ++ c.extractLsb' 0 10 : Imm20)
      = 0#4 ++ (c.extractLsb' 10 6 ++ c.extractLsb' 0 10 : BitVec 16) := by rw [BitVec.append_assoc]; rfl
    _ = 0#4 ++ c := by rw [k]
theorem code_low (c : BitVec 16) : (0#4 ++ c : Imm20).extractLsb' 0 16 = c := peelLow (v := 4) (w := 16) _ _
theorem code_high (c : BitVec 16) : (0#4 ++ c : Imm20).extractLsb' 16 4 = 0#4 :=
  (peelHigh (v := 4) (w := 16) _ _ (by decide)).trans BitVec.extractLsb'_eq_self

end Sys2Proof
end

