-- ==== Sys2Proof/Laws/Sparse.lean ====
section
/-! SUPPORT. Laws of sparse arrays and of numbered records: what a read sees after a write, and that a write keeps the
canonical form. -/

namespace Sys2Proof.Machine

variable {α : Type} [DecidableEq α] (d : α)

/-- The first index of a canonical list is above its bound. -/
theorem spOkFrom_mono {lo lo' : Option Nat} {m : List (Nat × α)} (h : spOkFrom d lo m = true)
    (hl : ∀ l', lo' = some l' → ∃ l, lo = some l ∧ l' ≤ l) : spOkFrom d lo' m = true := by
  cases m with
  | nil => rfl
  | cons e r =>
    obtain ⟨i, x⟩ := e
    simp only [spOkFrom, Bool.and_eq_true] at h ⊢
    refine ⟨⟨?_, h.1.2⟩, h.2⟩
    cases lo' with
    | none => rfl
    | some l' =>
      obtain ⟨l, rfl, hle⟩ := hl l' rfl
      have := h.1.1
      simp only [decide_eq_true_eq] at this ⊢
      omega

/-- The rest of a canonical list is canonical above its first index. -/
theorem spOkFrom_cons {lo : Option Nat} {i : Nat} {x : α} {r : List (Nat × α)} :
    spOkFrom d lo ((i, x) :: r) = true ↔ (∀ l, lo = some l → l < i) ∧ x ≠ d ∧ spOkFrom d (some i) r = true := by
  simp only [spOkFrom, Bool.and_eq_true, decide_eq_true_eq]
  cases lo <;> simp [and_assoc]

theorem spOkFrom_spCons {lo : Option Nat} {k : Nat} {x : α} {r : List (Nat × α)} (hk : ∀ l, lo = some l → l < k)
    (hr : spOkFrom d (some k) r = true) : spOkFrom d lo (spCons d k x r) = true := by
  unfold spCons
  split
  · exact spOkFrom_mono d hr fun l hl => ⟨k, rfl, (hk l hl).le⟩
  · exact (spOkFrom_cons d).2 ⟨hk, ‹_›, hr⟩

/-- A write keeps the canonical form above a bound below its index. -/
theorem spOkFrom_spSet {lo : Option Nat} {m : List (Nat × α)} {k : Nat} {x : α} (hk : ∀ l, lo = some l → l < k)
    (h : spOkFrom d lo m = true) : spOkFrom d lo (spSet d m k x) = true := by
  induction m generalizing lo with
  | nil => exact spOkFrom_spCons d hk rfl
  | cons e r ih =>
    obtain ⟨i, y⟩ := e
    obtain ⟨h1, h2, h3⟩ := (spOkFrom_cons d).1 h
    unfold spSet
    split
    · subst ‹k = i›; exact spOkFrom_spCons d hk h3
    · split
      · exact spOkFrom_spCons d hk ((spOkFrom_cons d).2 ⟨fun l hl => by cases hl; assumption, h2, h3⟩)
      · exact (spOkFrom_cons d).2 ⟨h1, h2, ih (fun l hl => by cases hl; omega) h3⟩

/-- A write keeps the canonical form. -/
theorem spOk_spSet {m : List (Nat × α)} (k : Nat) (x : α) (h : spOk d m = true) : spOk d (spSet d m k x) = true :=
  spOkFrom_spSet d nofun h

theorem spGet_below {m : List (Nat × α)} {l k : Nat} (h : spOkFrom d (some l) m = true) (hk : k ≤ l) : spGet d m k = d := by
  cases m with
  | nil => rfl
  | cons e r =>
    obtain ⟨i, x⟩ := e
    have := ((spOkFrom_cons d).1 h).1 l rfl
    simp only [spGet]
    rw [if_neg (by omega), if_pos (by omega)]

theorem spGet_spCons_same {k : Nat} {x : α} {r : List (Nat × α)} (hr : spOkFrom d (some k) r = true) :
    spGet d (spCons d k x r) k = x := by
  unfold spCons
  split
  · subst ‹x = d›; exact spGet_below _ hr le_rfl
  · simp [spGet]

/-- A read of the index written sees the value. -/
theorem spGet_spSet_same {m : List (Nat × α)} (k : Nat) (x : α) (h : spOk d m = true) : spGet d (spSet d m k x) k = x := by
  suffices ∀ lo, spOkFrom d lo m = true → spGet d (spSet d m k x) k = x from this none h
  clear h
  induction m with
  | nil => intro _ _; exact spGet_spCons_same d rfl
  | cons e r ih =>
    intro lo h
    obtain ⟨i, y⟩ := e
    obtain ⟨_, h2, h3⟩ := (spOkFrom_cons d).1 h
    unfold spSet
    split
    · subst ‹k = i›; exact spGet_spCons_same d h3
    · split
      · exact spGet_spCons_same d ((spOkFrom_cons d).2 ⟨fun l hl => by cases hl; assumption, h2, h3⟩)
      · simp only [spGet]; rw [if_neg (by omega), if_neg (by omega)]; exact ih _ h3

theorem spGet_spCons_ne {k j : Nat} {x : α} {r : List (Nat × α)} (hj : j ≠ k) (hr : spOkFrom d (some k) r = true) :
    spGet d (spCons d k x r) j = spGet d r j := by
  unfold spCons
  split
  · rfl
  · simp only [spGet]
    rw [if_neg hj]
    split
    · exact (spGet_below d hr (by omega)).symm
    · rfl

/-- A read of another index sees what it saw. -/
theorem spGet_spSet_ne {m : List (Nat × α)} {k j : Nat} (x : α) (hj : j ≠ k) (h : spOk d m = true) :
    spGet d (spSet d m k x) j = spGet d m j := by
  suffices ∀ lo, spOkFrom d lo m = true → spGet d (spSet d m k x) j = spGet d m j from this none h
  clear h
  induction m with
  | nil => intro _ _; exact spGet_spCons_ne d hj rfl
  | cons e r ih =>
    intro lo h
    obtain ⟨i, y⟩ := e
    obtain ⟨_, h2, h3⟩ := (spOkFrom_cons d).1 h
    unfold spSet
    split
    · subst ‹k = i›
      rw [spGet_spCons_ne d hj h3]
      simp only [spGet]
      rw [if_neg hj]
      split
      · exact spGet_below d h3 (by omega)
      · rfl
    · split
      · exact spGet_spCons_ne d hj ((spOkFrom_cons d).2 ⟨fun l hl => by cases hl; assumption, h2, h3⟩)
      · simp only [spGet]
        rw [ih _ h3]

omit [DecidableEq α]

/-- A record stored is found. -/
@[simp] theorem look_store_same (m : List (Nat × α)) (k : Nat) (x : α) : look (store m k x) k = some x := by
  induction m with
  | nil => simp [store, look]
  | cons e r ih =>
    obtain ⟨i, y⟩ := e
    unfold store
    split
    · subst ‹k = i›; simp [look]
    · simp [look, ‹k ≠ i›, ih]

/-- Storing a record leaves the others. -/
theorem look_store_ne (m : List (Nat × α)) {k j : Nat} (x : α) (h : j ≠ k) : look (store m k x) j = look m j := by
  induction m with
  | nil => simp [store, look, h]
  | cons e r ih =>
    obtain ⟨i, y⟩ := e
    unfold store
    split
    · subst ‹k = i›; simp [look, h]
    · simp only [look, ih]

theorem length_listSet (m : List α) (k : Nat) (x : α) : (listSet m k x).length = m.length := by
  induction m generalizing k with
  | nil => rfl
  | cons y r ih => cases k <;> simp [listSet, ih]

/-- A read of the element written. -/
theorem listGet_listSet_same (m : List α) {k : Nat} (x : α) (h : k < m.length) : listGet d (listSet m k x) k = x := by
  induction m generalizing k with
  | nil => cases h
  | cons y r ih =>
    cases k with
    | zero => rfl
    | succ k => exact ih (Nat.lt_of_succ_lt_succ h)

theorem listGet_listSet_ne (m : List α) {k j : Nat} (x : α) (h : j ≠ k) : listGet d (listSet m k x) j = listGet d m j := by
  induction m generalizing k j with
  | nil => rfl
  | cons y r ih =>
    cases k <;> cases j <;> simp_all [listSet, listGet]

end Sys2Proof.Machine
end

