-- ==== Sys2Proof/Laws/State.lean ====
section
/-! SUPPORT. What each named update of the state does to each field. -/

namespace Sys2Proof.Machine

@[simp] theorem State.putGang_clock (s : State) (k : Nat) (x : Gang) : (s.putGang k x).clock = s.clock := rfl
@[simp] theorem State.putGang_seq (s : State) (k : Nat) (x : Gang) : (s.putGang k x).seq = s.seq := rfl
@[simp] theorem State.putGang_fresh (s : State) (k : Nat) (x : Gang) : (s.putGang k x).fresh = s.fresh := rfl
@[simp] theorem State.putGang_freeCtr (s : State) (k : Nat) (x : Gang) : (s.putGang k x).freeCtr = s.freeCtr := rfl
@[simp] theorem State.putGang_agenda (s : State) (k : Nat) (x : Gang) : (s.putGang k x).agenda = s.agenda := rfl
@[simp] theorem State.putGang_cur (s : State) (k : Nat) (x : Gang) : (s.putGang k x).cur = s.cur := rfl
@[simp] theorem State.putGang_idle (s : State) (k : Nat) (x : Gang) : (s.putGang k x).idle = s.idle := rfl
@[simp] theorem State.putGang_gangs (s : State) (k : Nat) (x : Gang) : (s.putGang k x).gangs = store s.gangs k x := rfl
@[simp] theorem State.putGang_cohorts (s : State) (k : Nat) (x : Gang) : (s.putGang k x).cohorts = s.cohorts := rfl
@[simp] theorem State.putGang_grids (s : State) (k : Nat) (x : Gang) : (s.putGang k x).grids = s.grids := rfl
@[simp] theorem State.putGang_cores (s : State) (k : Nat) (x : Gang) : (s.putGang k x).cores = s.cores := rfl
@[simp] theorem State.putGang_segments (s : State) (k : Nat) (x : Gang) : (s.putGang k x).segments = s.segments := rfl
@[simp] theorem State.putGang_handles (s : State) (k : Nat) (x : Gang) : (s.putGang k x).handles = s.handles := rfl
@[simp] theorem State.putGang_queues (s : State) (k : Nat) (x : Gang) : (s.putGang k x).queues = s.queues := rfl
@[simp] theorem State.putGang_saved (s : State) (k : Nat) (x : Gang) : (s.putGang k x).saved = s.saved := rfl
@[simp] theorem State.putGang_served (s : State) (k : Nat) (x : Gang) : (s.putGang k x).served = s.served := rfl
@[simp] theorem State.putGang_reserveQ (s : State) (k : Nat) (x : Gang) : (s.putGang k x).reserveQ = s.reserveQ := rfl
@[simp] theorem State.putGang_reserveL1 (s : State) (k : Nat) (x : Gang) : (s.putGang k x).reserveL1 = s.reserveL1 := rfl
@[simp] theorem State.putGang_failing (s : State) (k : Nat) (x : Gang) : (s.putGang k x).failing = s.failing := rfl
@[simp] theorem State.putGang_deadQuartets (s : State) (k : Nat) (x : Gang) : (s.putGang k x).deadQuartets = s.deadQuartets := rfl
@[simp] theorem State.putGang_leavingDies (s : State) (k : Nat) (x : Gang) : (s.putGang k x).leavingDies = s.leavingDies := rfl
@[simp] theorem State.putGang_hbm (s : State) (k : Nat) (x : Gang) : (s.putGang k x).hbm = s.hbm := rfl
@[simp] theorem State.putGang_poison (s : State) (k : Nat) (x : Gang) : (s.putGang k x).poison = s.poison := rfl
@[simp] theorem State.putGang_l2 (s : State) (k : Nat) (x : Gang) : (s.putGang k x).l2 = s.l2 := rfl
@[simp] theorem State.putGang_hostMem (s : State) (k : Nat) (x : Gang) : (s.putGang k x).hostMem = s.hostMem := rfl
@[simp] theorem State.putGang_asids (s : State) (k : Nat) (x : Gang) : (s.putGang k x).asids = s.asids := rfl
@[simp] theorem State.putGang_protBase (s : State) (k : Nat) (x : Gang) : (s.putGang k x).protBase = s.protBase := rfl
@[simp] theorem State.putGang_protPages (s : State) (k : Nat) (x : Gang) : (s.putGang k x).protPages = s.protPages := rfl
@[simp] theorem State.putGang_locked (s : State) (k : Nat) (x : Gang) : (s.putGang k x).locked = s.locked := rfl
@[simp] theorem State.putGang_protUsed (s : State) (k : Nat) (x : Gang) : (s.putGang k x).protUsed = s.protUsed := rfl
@[simp] theorem State.putGang_invals (s : State) (k : Nat) (x : Gang) : (s.putGang k x).invals = s.invals := rfl
@[simp] theorem State.putGang_dieXl (s : State) (k : Nat) (x : Gang) : (s.putGang k x).dieXl = s.dieXl := rfl
@[simp] theorem State.putGang_atc (s : State) (k : Nat) (x : Gang) : (s.putGang k x).atc = s.atc := rfl
@[simp] theorem State.putGang_refusedHost (s : State) (k : Nat) (x : Gang) : (s.putGang k x).refusedHost = s.refusedHost := rfl
@[simp] theorem State.putGang_hostIn (s : State) (k : Nat) (x : Gang) : (s.putGang k x).hostIn = s.hostIn := rfl
@[simp] theorem State.putGang_atsReqs (s : State) (k : Nat) (x : Gang) : (s.putGang k x).atsReqs = s.atsReqs := rfl
@[simp] theorem State.putGang_atsBy16 (s : State) (k : Nat) (x : Gang) : (s.putGang k x).atsBy16 = s.atsBy16 := rfl
@[simp] theorem State.putGang_members (s : State) (k : Nat) (x : Gang) : (s.putGang k x).members = s.members := rfl
@[simp] theorem State.putGang_flights (s : State) (k : Nat) (x : Gang) : (s.putGang k x).flights = s.flights := rfl
@[simp] theorem State.putGang_reqs (s : State) (k : Nat) (x : Gang) : (s.putGang k x).reqs = s.reqs := rfl
@[simp] theorem State.putGang_resends (s : State) (k : Nat) (x : Gang) : (s.putGang k x).resends = s.resends := rfl
@[simp] theorem State.putGang_links (s : State) (k : Nat) (x : Gang) : (s.putGang k x).links = s.links := rfl
@[simp] theorem State.putGang_routes (s : State) (k : Nat) (x : Gang) : (s.putGang k x).routes = s.routes := rfl
@[simp] theorem State.putGang_delays (s : State) (k : Nat) (x : Gang) : (s.putGang k x).delays = s.delays := rfl
@[simp] theorem State.putGang_checks (s : State) (k : Nat) (x : Gang) : (s.putGang k x).checks = s.checks := rfl
@[simp] theorem State.putGang_corrected (s : State) (k : Nat) (x : Gang) : (s.putGang k x).corrected = s.corrected := rfl
@[simp] theorem State.putGang_seenView (s : State) (k : Nat) (x : Gang) : (s.putGang k x).seenView = s.seenView := rfl
@[simp] theorem State.putGang_seenLow (s : State) (k : Nat) (x : Gang) : (s.putGang k x).seenLow = s.seenLow := rfl
@[simp] theorem State.putGang_notices (s : State) (k : Nat) (x : Gang) : (s.putGang k x).notices = s.notices := rfl
@[simp] theorem State.putGang_lastReq (s : State) (k : Nat) (x : Gang) : (s.putGang k x).lastReq = s.lastReq := rfl
@[simp] theorem State.putGang_unanswered (s : State) (k : Nat) (x : Gang) : (s.putGang k x).unanswered = s.unanswered := rfl
@[simp] theorem State.putGang_resync (s : State) (k : Nat) (x : Gang) : (s.putGang k x).resync = s.resync := rfl
@[simp] theorem State.putGang_remap (s : State) (k : Nat) (x : Gang) : (s.putGang k x).remap = s.remap := rfl
@[simp] theorem State.putGang_spares (s : State) (k : Nat) (x : Gang) : (s.putGang k x).spares = s.spares := rfl
@[simp] theorem State.putGang_homeModes (s : State) (k : Nat) (x : Gang) : (s.putGang k x).homeModes = s.homeModes := rfl
@[simp] theorem State.putGang_pcie (s : State) (k : Nat) (x : Gang) : (s.putGang k x).pcie = s.pcie := rfl
@[simp] theorem State.putGang_pcieUp (s : State) (k : Nat) (x : Gang) : (s.putGang k x).pcieUp = s.pcieUp := rfl
@[simp] theorem State.putGang_fns (s : State) (k : Nat) (x : Gang) : (s.putGang k x).fns = s.fns := rfl
@[simp] theorem State.putGang_pri (s : State) (k : Nat) (x : Gang) : (s.putGang k x).pri = s.pri := rfl
@[simp] theorem State.putGang_windows (s : State) (k : Nat) (x : Gang) : (s.putGang k x).windows = s.windows := rfl
@[simp] theorem State.putGang_imports (s : State) (k : Nat) (x : Gang) : (s.putGang k x).imports = s.imports := rfl
@[simp] theorem State.putGang_unreachable (s : State) (k : Nat) (x : Gang) : (s.putGang k x).unreachable = s.unreachable := rfl
@[simp] theorem State.putGang_remoteReply (s : State) (k : Nat) (x : Gang) : (s.putGang k x).remoteReply = s.remoteReply := rfl
@[simp] theorem State.putGang_remoteBad (s : State) (k : Nat) (x : Gang) : (s.putGang k x).remoteBad = s.remoteBad := rfl
@[simp] theorem State.putGang_gander (s : State) (k : Nat) (x : Gang) : (s.putGang k x).gander = s.gander := rfl
@[simp] theorem State.putGang_up (s : State) (k : Nat) (x : Gang) : (s.putGang k x).up = s.up := rfl

@[simp] theorem State.putCohort_clock (s : State) (k : Nat) (x : Cohort) : (s.putCohort k x).clock = s.clock := rfl
@[simp] theorem State.putCohort_seq (s : State) (k : Nat) (x : Cohort) : (s.putCohort k x).seq = s.seq := rfl
@[simp] theorem State.putCohort_fresh (s : State) (k : Nat) (x : Cohort) : (s.putCohort k x).fresh = s.fresh := rfl
@[simp] theorem State.putCohort_freeCtr (s : State) (k : Nat) (x : Cohort) : (s.putCohort k x).freeCtr = s.freeCtr := rfl
@[simp] theorem State.putCohort_agenda (s : State) (k : Nat) (x : Cohort) : (s.putCohort k x).agenda = s.agenda := rfl
@[simp] theorem State.putCohort_cur (s : State) (k : Nat) (x : Cohort) : (s.putCohort k x).cur = s.cur := rfl
@[simp] theorem State.putCohort_idle (s : State) (k : Nat) (x : Cohort) : (s.putCohort k x).idle = s.idle := rfl
@[simp] theorem State.putCohort_gangs (s : State) (k : Nat) (x : Cohort) : (s.putCohort k x).gangs = s.gangs := rfl
@[simp] theorem State.putCohort_cohorts (s : State) (k : Nat) (x : Cohort) : (s.putCohort k x).cohorts = store s.cohorts k x := rfl
@[simp] theorem State.putCohort_grids (s : State) (k : Nat) (x : Cohort) : (s.putCohort k x).grids = s.grids := rfl
@[simp] theorem State.putCohort_cores (s : State) (k : Nat) (x : Cohort) : (s.putCohort k x).cores = s.cores := rfl
@[simp] theorem State.putCohort_segments (s : State) (k : Nat) (x : Cohort) : (s.putCohort k x).segments = s.segments := rfl
@[simp] theorem State.putCohort_handles (s : State) (k : Nat) (x : Cohort) : (s.putCohort k x).handles = s.handles := rfl
@[simp] theorem State.putCohort_queues (s : State) (k : Nat) (x : Cohort) : (s.putCohort k x).queues = s.queues := rfl
@[simp] theorem State.putCohort_saved (s : State) (k : Nat) (x : Cohort) : (s.putCohort k x).saved = s.saved := rfl
@[simp] theorem State.putCohort_served (s : State) (k : Nat) (x : Cohort) : (s.putCohort k x).served = s.served := rfl
@[simp] theorem State.putCohort_reserveQ (s : State) (k : Nat) (x : Cohort) : (s.putCohort k x).reserveQ = s.reserveQ := rfl
@[simp] theorem State.putCohort_reserveL1 (s : State) (k : Nat) (x : Cohort) : (s.putCohort k x).reserveL1 = s.reserveL1 := rfl
@[simp] theorem State.putCohort_failing (s : State) (k : Nat) (x : Cohort) : (s.putCohort k x).failing = s.failing := rfl
@[simp] theorem State.putCohort_deadQuartets (s : State) (k : Nat) (x : Cohort) : (s.putCohort k x).deadQuartets = s.deadQuartets := rfl
@[simp] theorem State.putCohort_leavingDies (s : State) (k : Nat) (x : Cohort) : (s.putCohort k x).leavingDies = s.leavingDies := rfl
@[simp] theorem State.putCohort_hbm (s : State) (k : Nat) (x : Cohort) : (s.putCohort k x).hbm = s.hbm := rfl
@[simp] theorem State.putCohort_poison (s : State) (k : Nat) (x : Cohort) : (s.putCohort k x).poison = s.poison := rfl
@[simp] theorem State.putCohort_l2 (s : State) (k : Nat) (x : Cohort) : (s.putCohort k x).l2 = s.l2 := rfl
@[simp] theorem State.putCohort_hostMem (s : State) (k : Nat) (x : Cohort) : (s.putCohort k x).hostMem = s.hostMem := rfl
@[simp] theorem State.putCohort_asids (s : State) (k : Nat) (x : Cohort) : (s.putCohort k x).asids = s.asids := rfl
@[simp] theorem State.putCohort_protBase (s : State) (k : Nat) (x : Cohort) : (s.putCohort k x).protBase = s.protBase := rfl
@[simp] theorem State.putCohort_protPages (s : State) (k : Nat) (x : Cohort) : (s.putCohort k x).protPages = s.protPages := rfl
@[simp] theorem State.putCohort_locked (s : State) (k : Nat) (x : Cohort) : (s.putCohort k x).locked = s.locked := rfl
@[simp] theorem State.putCohort_protUsed (s : State) (k : Nat) (x : Cohort) : (s.putCohort k x).protUsed = s.protUsed := rfl
@[simp] theorem State.putCohort_invals (s : State) (k : Nat) (x : Cohort) : (s.putCohort k x).invals = s.invals := rfl
@[simp] theorem State.putCohort_dieXl (s : State) (k : Nat) (x : Cohort) : (s.putCohort k x).dieXl = s.dieXl := rfl
@[simp] theorem State.putCohort_atc (s : State) (k : Nat) (x : Cohort) : (s.putCohort k x).atc = s.atc := rfl
@[simp] theorem State.putCohort_refusedHost (s : State) (k : Nat) (x : Cohort) : (s.putCohort k x).refusedHost = s.refusedHost := rfl
@[simp] theorem State.putCohort_hostIn (s : State) (k : Nat) (x : Cohort) : (s.putCohort k x).hostIn = s.hostIn := rfl
@[simp] theorem State.putCohort_atsReqs (s : State) (k : Nat) (x : Cohort) : (s.putCohort k x).atsReqs = s.atsReqs := rfl
@[simp] theorem State.putCohort_atsBy16 (s : State) (k : Nat) (x : Cohort) : (s.putCohort k x).atsBy16 = s.atsBy16 := rfl
@[simp] theorem State.putCohort_members (s : State) (k : Nat) (x : Cohort) : (s.putCohort k x).members = s.members := rfl
@[simp] theorem State.putCohort_flights (s : State) (k : Nat) (x : Cohort) : (s.putCohort k x).flights = s.flights := rfl
@[simp] theorem State.putCohort_reqs (s : State) (k : Nat) (x : Cohort) : (s.putCohort k x).reqs = s.reqs := rfl
@[simp] theorem State.putCohort_resends (s : State) (k : Nat) (x : Cohort) : (s.putCohort k x).resends = s.resends := rfl
@[simp] theorem State.putCohort_links (s : State) (k : Nat) (x : Cohort) : (s.putCohort k x).links = s.links := rfl
@[simp] theorem State.putCohort_routes (s : State) (k : Nat) (x : Cohort) : (s.putCohort k x).routes = s.routes := rfl
@[simp] theorem State.putCohort_delays (s : State) (k : Nat) (x : Cohort) : (s.putCohort k x).delays = s.delays := rfl
@[simp] theorem State.putCohort_checks (s : State) (k : Nat) (x : Cohort) : (s.putCohort k x).checks = s.checks := rfl
@[simp] theorem State.putCohort_corrected (s : State) (k : Nat) (x : Cohort) : (s.putCohort k x).corrected = s.corrected := rfl
@[simp] theorem State.putCohort_seenView (s : State) (k : Nat) (x : Cohort) : (s.putCohort k x).seenView = s.seenView := rfl
@[simp] theorem State.putCohort_seenLow (s : State) (k : Nat) (x : Cohort) : (s.putCohort k x).seenLow = s.seenLow := rfl
@[simp] theorem State.putCohort_notices (s : State) (k : Nat) (x : Cohort) : (s.putCohort k x).notices = s.notices := rfl
@[simp] theorem State.putCohort_lastReq (s : State) (k : Nat) (x : Cohort) : (s.putCohort k x).lastReq = s.lastReq := rfl
@[simp] theorem State.putCohort_unanswered (s : State) (k : Nat) (x : Cohort) : (s.putCohort k x).unanswered = s.unanswered := rfl
@[simp] theorem State.putCohort_resync (s : State) (k : Nat) (x : Cohort) : (s.putCohort k x).resync = s.resync := rfl
@[simp] theorem State.putCohort_remap (s : State) (k : Nat) (x : Cohort) : (s.putCohort k x).remap = s.remap := rfl
@[simp] theorem State.putCohort_spares (s : State) (k : Nat) (x : Cohort) : (s.putCohort k x).spares = s.spares := rfl
@[simp] theorem State.putCohort_homeModes (s : State) (k : Nat) (x : Cohort) : (s.putCohort k x).homeModes = s.homeModes := rfl
@[simp] theorem State.putCohort_pcie (s : State) (k : Nat) (x : Cohort) : (s.putCohort k x).pcie = s.pcie := rfl
@[simp] theorem State.putCohort_pcieUp (s : State) (k : Nat) (x : Cohort) : (s.putCohort k x).pcieUp = s.pcieUp := rfl
@[simp] theorem State.putCohort_fns (s : State) (k : Nat) (x : Cohort) : (s.putCohort k x).fns = s.fns := rfl
@[simp] theorem State.putCohort_pri (s : State) (k : Nat) (x : Cohort) : (s.putCohort k x).pri = s.pri := rfl
@[simp] theorem State.putCohort_windows (s : State) (k : Nat) (x : Cohort) : (s.putCohort k x).windows = s.windows := rfl
@[simp] theorem State.putCohort_imports (s : State) (k : Nat) (x : Cohort) : (s.putCohort k x).imports = s.imports := rfl
@[simp] theorem State.putCohort_unreachable (s : State) (k : Nat) (x : Cohort) : (s.putCohort k x).unreachable = s.unreachable := rfl
@[simp] theorem State.putCohort_remoteReply (s : State) (k : Nat) (x : Cohort) : (s.putCohort k x).remoteReply = s.remoteReply := rfl
@[simp] theorem State.putCohort_remoteBad (s : State) (k : Nat) (x : Cohort) : (s.putCohort k x).remoteBad = s.remoteBad := rfl
@[simp] theorem State.putCohort_gander (s : State) (k : Nat) (x : Cohort) : (s.putCohort k x).gander = s.gander := rfl
@[simp] theorem State.putCohort_up (s : State) (k : Nat) (x : Cohort) : (s.putCohort k x).up = s.up := rfl

@[simp] theorem State.putGrid_clock (s : State) (k : Nat) (x : Grid) : (s.putGrid k x).clock = s.clock := rfl
@[simp] theorem State.putGrid_seq (s : State) (k : Nat) (x : Grid) : (s.putGrid k x).seq = s.seq := rfl
@[simp] theorem State.putGrid_fresh (s : State) (k : Nat) (x : Grid) : (s.putGrid k x).fresh = s.fresh := rfl
@[simp] theorem State.putGrid_freeCtr (s : State) (k : Nat) (x : Grid) : (s.putGrid k x).freeCtr = s.freeCtr := rfl
@[simp] theorem State.putGrid_agenda (s : State) (k : Nat) (x : Grid) : (s.putGrid k x).agenda = s.agenda := rfl
@[simp] theorem State.putGrid_cur (s : State) (k : Nat) (x : Grid) : (s.putGrid k x).cur = s.cur := rfl
@[simp] theorem State.putGrid_idle (s : State) (k : Nat) (x : Grid) : (s.putGrid k x).idle = s.idle := rfl
@[simp] theorem State.putGrid_gangs (s : State) (k : Nat) (x : Grid) : (s.putGrid k x).gangs = s.gangs := rfl
@[simp] theorem State.putGrid_cohorts (s : State) (k : Nat) (x : Grid) : (s.putGrid k x).cohorts = s.cohorts := rfl
@[simp] theorem State.putGrid_grids (s : State) (k : Nat) (x : Grid) : (s.putGrid k x).grids = store s.grids k x := rfl
@[simp] theorem State.putGrid_cores (s : State) (k : Nat) (x : Grid) : (s.putGrid k x).cores = s.cores := rfl
@[simp] theorem State.putGrid_segments (s : State) (k : Nat) (x : Grid) : (s.putGrid k x).segments = s.segments := rfl
@[simp] theorem State.putGrid_handles (s : State) (k : Nat) (x : Grid) : (s.putGrid k x).handles = s.handles := rfl
@[simp] theorem State.putGrid_queues (s : State) (k : Nat) (x : Grid) : (s.putGrid k x).queues = s.queues := rfl
@[simp] theorem State.putGrid_saved (s : State) (k : Nat) (x : Grid) : (s.putGrid k x).saved = s.saved := rfl
@[simp] theorem State.putGrid_served (s : State) (k : Nat) (x : Grid) : (s.putGrid k x).served = s.served := rfl
@[simp] theorem State.putGrid_reserveQ (s : State) (k : Nat) (x : Grid) : (s.putGrid k x).reserveQ = s.reserveQ := rfl
@[simp] theorem State.putGrid_reserveL1 (s : State) (k : Nat) (x : Grid) : (s.putGrid k x).reserveL1 = s.reserveL1 := rfl
@[simp] theorem State.putGrid_failing (s : State) (k : Nat) (x : Grid) : (s.putGrid k x).failing = s.failing := rfl
@[simp] theorem State.putGrid_deadQuartets (s : State) (k : Nat) (x : Grid) : (s.putGrid k x).deadQuartets = s.deadQuartets := rfl
@[simp] theorem State.putGrid_leavingDies (s : State) (k : Nat) (x : Grid) : (s.putGrid k x).leavingDies = s.leavingDies := rfl
@[simp] theorem State.putGrid_hbm (s : State) (k : Nat) (x : Grid) : (s.putGrid k x).hbm = s.hbm := rfl
@[simp] theorem State.putGrid_poison (s : State) (k : Nat) (x : Grid) : (s.putGrid k x).poison = s.poison := rfl
@[simp] theorem State.putGrid_l2 (s : State) (k : Nat) (x : Grid) : (s.putGrid k x).l2 = s.l2 := rfl
@[simp] theorem State.putGrid_hostMem (s : State) (k : Nat) (x : Grid) : (s.putGrid k x).hostMem = s.hostMem := rfl
@[simp] theorem State.putGrid_asids (s : State) (k : Nat) (x : Grid) : (s.putGrid k x).asids = s.asids := rfl
@[simp] theorem State.putGrid_protBase (s : State) (k : Nat) (x : Grid) : (s.putGrid k x).protBase = s.protBase := rfl
@[simp] theorem State.putGrid_protPages (s : State) (k : Nat) (x : Grid) : (s.putGrid k x).protPages = s.protPages := rfl
@[simp] theorem State.putGrid_locked (s : State) (k : Nat) (x : Grid) : (s.putGrid k x).locked = s.locked := rfl
@[simp] theorem State.putGrid_protUsed (s : State) (k : Nat) (x : Grid) : (s.putGrid k x).protUsed = s.protUsed := rfl
@[simp] theorem State.putGrid_invals (s : State) (k : Nat) (x : Grid) : (s.putGrid k x).invals = s.invals := rfl
@[simp] theorem State.putGrid_dieXl (s : State) (k : Nat) (x : Grid) : (s.putGrid k x).dieXl = s.dieXl := rfl
@[simp] theorem State.putGrid_atc (s : State) (k : Nat) (x : Grid) : (s.putGrid k x).atc = s.atc := rfl
@[simp] theorem State.putGrid_refusedHost (s : State) (k : Nat) (x : Grid) : (s.putGrid k x).refusedHost = s.refusedHost := rfl
@[simp] theorem State.putGrid_hostIn (s : State) (k : Nat) (x : Grid) : (s.putGrid k x).hostIn = s.hostIn := rfl
@[simp] theorem State.putGrid_atsReqs (s : State) (k : Nat) (x : Grid) : (s.putGrid k x).atsReqs = s.atsReqs := rfl
@[simp] theorem State.putGrid_atsBy16 (s : State) (k : Nat) (x : Grid) : (s.putGrid k x).atsBy16 = s.atsBy16 := rfl
@[simp] theorem State.putGrid_members (s : State) (k : Nat) (x : Grid) : (s.putGrid k x).members = s.members := rfl
@[simp] theorem State.putGrid_flights (s : State) (k : Nat) (x : Grid) : (s.putGrid k x).flights = s.flights := rfl
@[simp] theorem State.putGrid_reqs (s : State) (k : Nat) (x : Grid) : (s.putGrid k x).reqs = s.reqs := rfl
@[simp] theorem State.putGrid_resends (s : State) (k : Nat) (x : Grid) : (s.putGrid k x).resends = s.resends := rfl
@[simp] theorem State.putGrid_links (s : State) (k : Nat) (x : Grid) : (s.putGrid k x).links = s.links := rfl
@[simp] theorem State.putGrid_routes (s : State) (k : Nat) (x : Grid) : (s.putGrid k x).routes = s.routes := rfl
@[simp] theorem State.putGrid_delays (s : State) (k : Nat) (x : Grid) : (s.putGrid k x).delays = s.delays := rfl
@[simp] theorem State.putGrid_checks (s : State) (k : Nat) (x : Grid) : (s.putGrid k x).checks = s.checks := rfl
@[simp] theorem State.putGrid_corrected (s : State) (k : Nat) (x : Grid) : (s.putGrid k x).corrected = s.corrected := rfl
@[simp] theorem State.putGrid_seenView (s : State) (k : Nat) (x : Grid) : (s.putGrid k x).seenView = s.seenView := rfl
@[simp] theorem State.putGrid_seenLow (s : State) (k : Nat) (x : Grid) : (s.putGrid k x).seenLow = s.seenLow := rfl
@[simp] theorem State.putGrid_notices (s : State) (k : Nat) (x : Grid) : (s.putGrid k x).notices = s.notices := rfl
@[simp] theorem State.putGrid_lastReq (s : State) (k : Nat) (x : Grid) : (s.putGrid k x).lastReq = s.lastReq := rfl
@[simp] theorem State.putGrid_unanswered (s : State) (k : Nat) (x : Grid) : (s.putGrid k x).unanswered = s.unanswered := rfl
@[simp] theorem State.putGrid_resync (s : State) (k : Nat) (x : Grid) : (s.putGrid k x).resync = s.resync := rfl
@[simp] theorem State.putGrid_remap (s : State) (k : Nat) (x : Grid) : (s.putGrid k x).remap = s.remap := rfl
@[simp] theorem State.putGrid_spares (s : State) (k : Nat) (x : Grid) : (s.putGrid k x).spares = s.spares := rfl
@[simp] theorem State.putGrid_homeModes (s : State) (k : Nat) (x : Grid) : (s.putGrid k x).homeModes = s.homeModes := rfl
@[simp] theorem State.putGrid_pcie (s : State) (k : Nat) (x : Grid) : (s.putGrid k x).pcie = s.pcie := rfl
@[simp] theorem State.putGrid_pcieUp (s : State) (k : Nat) (x : Grid) : (s.putGrid k x).pcieUp = s.pcieUp := rfl
@[simp] theorem State.putGrid_fns (s : State) (k : Nat) (x : Grid) : (s.putGrid k x).fns = s.fns := rfl
@[simp] theorem State.putGrid_pri (s : State) (k : Nat) (x : Grid) : (s.putGrid k x).pri = s.pri := rfl
@[simp] theorem State.putGrid_windows (s : State) (k : Nat) (x : Grid) : (s.putGrid k x).windows = s.windows := rfl
@[simp] theorem State.putGrid_imports (s : State) (k : Nat) (x : Grid) : (s.putGrid k x).imports = s.imports := rfl
@[simp] theorem State.putGrid_unreachable (s : State) (k : Nat) (x : Grid) : (s.putGrid k x).unreachable = s.unreachable := rfl
@[simp] theorem State.putGrid_remoteReply (s : State) (k : Nat) (x : Grid) : (s.putGrid k x).remoteReply = s.remoteReply := rfl
@[simp] theorem State.putGrid_remoteBad (s : State) (k : Nat) (x : Grid) : (s.putGrid k x).remoteBad = s.remoteBad := rfl
@[simp] theorem State.putGrid_gander (s : State) (k : Nat) (x : Grid) : (s.putGrid k x).gander = s.gander := rfl
@[simp] theorem State.putGrid_up (s : State) (k : Nat) (x : Grid) : (s.putGrid k x).up = s.up := rfl

@[simp] theorem State.putQueue_clock (s : State) (k : Nat) (x : Queue) : (s.putQueue k x).clock = s.clock := rfl
@[simp] theorem State.putQueue_seq (s : State) (k : Nat) (x : Queue) : (s.putQueue k x).seq = s.seq := rfl
@[simp] theorem State.putQueue_fresh (s : State) (k : Nat) (x : Queue) : (s.putQueue k x).fresh = s.fresh := rfl
@[simp] theorem State.putQueue_freeCtr (s : State) (k : Nat) (x : Queue) : (s.putQueue k x).freeCtr = s.freeCtr := rfl
@[simp] theorem State.putQueue_agenda (s : State) (k : Nat) (x : Queue) : (s.putQueue k x).agenda = s.agenda := rfl
@[simp] theorem State.putQueue_cur (s : State) (k : Nat) (x : Queue) : (s.putQueue k x).cur = s.cur := rfl
@[simp] theorem State.putQueue_idle (s : State) (k : Nat) (x : Queue) : (s.putQueue k x).idle = s.idle := rfl
@[simp] theorem State.putQueue_gangs (s : State) (k : Nat) (x : Queue) : (s.putQueue k x).gangs = s.gangs := rfl
@[simp] theorem State.putQueue_cohorts (s : State) (k : Nat) (x : Queue) : (s.putQueue k x).cohorts = s.cohorts := rfl
@[simp] theorem State.putQueue_grids (s : State) (k : Nat) (x : Queue) : (s.putQueue k x).grids = s.grids := rfl
@[simp] theorem State.putQueue_cores (s : State) (k : Nat) (x : Queue) : (s.putQueue k x).cores = s.cores := rfl
@[simp] theorem State.putQueue_segments (s : State) (k : Nat) (x : Queue) : (s.putQueue k x).segments = s.segments := rfl
@[simp] theorem State.putQueue_handles (s : State) (k : Nat) (x : Queue) : (s.putQueue k x).handles = s.handles := rfl
@[simp] theorem State.putQueue_queues (s : State) (k : Nat) (x : Queue) : (s.putQueue k x).queues = store s.queues k x := rfl
@[simp] theorem State.putQueue_saved (s : State) (k : Nat) (x : Queue) : (s.putQueue k x).saved = s.saved := rfl
@[simp] theorem State.putQueue_served (s : State) (k : Nat) (x : Queue) : (s.putQueue k x).served = s.served := rfl
@[simp] theorem State.putQueue_reserveQ (s : State) (k : Nat) (x : Queue) : (s.putQueue k x).reserveQ = s.reserveQ := rfl
@[simp] theorem State.putQueue_reserveL1 (s : State) (k : Nat) (x : Queue) : (s.putQueue k x).reserveL1 = s.reserveL1 := rfl
@[simp] theorem State.putQueue_failing (s : State) (k : Nat) (x : Queue) : (s.putQueue k x).failing = s.failing := rfl
@[simp] theorem State.putQueue_deadQuartets (s : State) (k : Nat) (x : Queue) : (s.putQueue k x).deadQuartets = s.deadQuartets := rfl
@[simp] theorem State.putQueue_leavingDies (s : State) (k : Nat) (x : Queue) : (s.putQueue k x).leavingDies = s.leavingDies := rfl
@[simp] theorem State.putQueue_hbm (s : State) (k : Nat) (x : Queue) : (s.putQueue k x).hbm = s.hbm := rfl
@[simp] theorem State.putQueue_poison (s : State) (k : Nat) (x : Queue) : (s.putQueue k x).poison = s.poison := rfl
@[simp] theorem State.putQueue_l2 (s : State) (k : Nat) (x : Queue) : (s.putQueue k x).l2 = s.l2 := rfl
@[simp] theorem State.putQueue_hostMem (s : State) (k : Nat) (x : Queue) : (s.putQueue k x).hostMem = s.hostMem := rfl
@[simp] theorem State.putQueue_asids (s : State) (k : Nat) (x : Queue) : (s.putQueue k x).asids = s.asids := rfl
@[simp] theorem State.putQueue_protBase (s : State) (k : Nat) (x : Queue) : (s.putQueue k x).protBase = s.protBase := rfl
@[simp] theorem State.putQueue_protPages (s : State) (k : Nat) (x : Queue) : (s.putQueue k x).protPages = s.protPages := rfl
@[simp] theorem State.putQueue_locked (s : State) (k : Nat) (x : Queue) : (s.putQueue k x).locked = s.locked := rfl
@[simp] theorem State.putQueue_protUsed (s : State) (k : Nat) (x : Queue) : (s.putQueue k x).protUsed = s.protUsed := rfl
@[simp] theorem State.putQueue_invals (s : State) (k : Nat) (x : Queue) : (s.putQueue k x).invals = s.invals := rfl
@[simp] theorem State.putQueue_dieXl (s : State) (k : Nat) (x : Queue) : (s.putQueue k x).dieXl = s.dieXl := rfl
@[simp] theorem State.putQueue_atc (s : State) (k : Nat) (x : Queue) : (s.putQueue k x).atc = s.atc := rfl
@[simp] theorem State.putQueue_refusedHost (s : State) (k : Nat) (x : Queue) : (s.putQueue k x).refusedHost = s.refusedHost := rfl
@[simp] theorem State.putQueue_hostIn (s : State) (k : Nat) (x : Queue) : (s.putQueue k x).hostIn = s.hostIn := rfl
@[simp] theorem State.putQueue_atsReqs (s : State) (k : Nat) (x : Queue) : (s.putQueue k x).atsReqs = s.atsReqs := rfl
@[simp] theorem State.putQueue_atsBy16 (s : State) (k : Nat) (x : Queue) : (s.putQueue k x).atsBy16 = s.atsBy16 := rfl
@[simp] theorem State.putQueue_members (s : State) (k : Nat) (x : Queue) : (s.putQueue k x).members = s.members := rfl
@[simp] theorem State.putQueue_flights (s : State) (k : Nat) (x : Queue) : (s.putQueue k x).flights = s.flights := rfl
@[simp] theorem State.putQueue_reqs (s : State) (k : Nat) (x : Queue) : (s.putQueue k x).reqs = s.reqs := rfl
@[simp] theorem State.putQueue_resends (s : State) (k : Nat) (x : Queue) : (s.putQueue k x).resends = s.resends := rfl
@[simp] theorem State.putQueue_links (s : State) (k : Nat) (x : Queue) : (s.putQueue k x).links = s.links := rfl
@[simp] theorem State.putQueue_routes (s : State) (k : Nat) (x : Queue) : (s.putQueue k x).routes = s.routes := rfl
@[simp] theorem State.putQueue_delays (s : State) (k : Nat) (x : Queue) : (s.putQueue k x).delays = s.delays := rfl
@[simp] theorem State.putQueue_checks (s : State) (k : Nat) (x : Queue) : (s.putQueue k x).checks = s.checks := rfl
@[simp] theorem State.putQueue_corrected (s : State) (k : Nat) (x : Queue) : (s.putQueue k x).corrected = s.corrected := rfl
@[simp] theorem State.putQueue_seenView (s : State) (k : Nat) (x : Queue) : (s.putQueue k x).seenView = s.seenView := rfl
@[simp] theorem State.putQueue_seenLow (s : State) (k : Nat) (x : Queue) : (s.putQueue k x).seenLow = s.seenLow := rfl
@[simp] theorem State.putQueue_notices (s : State) (k : Nat) (x : Queue) : (s.putQueue k x).notices = s.notices := rfl
@[simp] theorem State.putQueue_lastReq (s : State) (k : Nat) (x : Queue) : (s.putQueue k x).lastReq = s.lastReq := rfl
@[simp] theorem State.putQueue_unanswered (s : State) (k : Nat) (x : Queue) : (s.putQueue k x).unanswered = s.unanswered := rfl
@[simp] theorem State.putQueue_resync (s : State) (k : Nat) (x : Queue) : (s.putQueue k x).resync = s.resync := rfl
@[simp] theorem State.putQueue_remap (s : State) (k : Nat) (x : Queue) : (s.putQueue k x).remap = s.remap := rfl
@[simp] theorem State.putQueue_spares (s : State) (k : Nat) (x : Queue) : (s.putQueue k x).spares = s.spares := rfl
@[simp] theorem State.putQueue_homeModes (s : State) (k : Nat) (x : Queue) : (s.putQueue k x).homeModes = s.homeModes := rfl
@[simp] theorem State.putQueue_pcie (s : State) (k : Nat) (x : Queue) : (s.putQueue k x).pcie = s.pcie := rfl
@[simp] theorem State.putQueue_pcieUp (s : State) (k : Nat) (x : Queue) : (s.putQueue k x).pcieUp = s.pcieUp := rfl
@[simp] theorem State.putQueue_fns (s : State) (k : Nat) (x : Queue) : (s.putQueue k x).fns = s.fns := rfl
@[simp] theorem State.putQueue_pri (s : State) (k : Nat) (x : Queue) : (s.putQueue k x).pri = s.pri := rfl
@[simp] theorem State.putQueue_windows (s : State) (k : Nat) (x : Queue) : (s.putQueue k x).windows = s.windows := rfl
@[simp] theorem State.putQueue_imports (s : State) (k : Nat) (x : Queue) : (s.putQueue k x).imports = s.imports := rfl
@[simp] theorem State.putQueue_unreachable (s : State) (k : Nat) (x : Queue) : (s.putQueue k x).unreachable = s.unreachable := rfl
@[simp] theorem State.putQueue_remoteReply (s : State) (k : Nat) (x : Queue) : (s.putQueue k x).remoteReply = s.remoteReply := rfl
@[simp] theorem State.putQueue_remoteBad (s : State) (k : Nat) (x : Queue) : (s.putQueue k x).remoteBad = s.remoteBad := rfl
@[simp] theorem State.putQueue_gander (s : State) (k : Nat) (x : Queue) : (s.putQueue k x).gander = s.gander := rfl
@[simp] theorem State.putQueue_up (s : State) (k : Nat) (x : Queue) : (s.putQueue k x).up = s.up := rfl

@[simp] theorem State.putMember_clock (s : State) (k : Nat) (x : Member) : (s.putMember k x).clock = s.clock := rfl
@[simp] theorem State.putMember_seq (s : State) (k : Nat) (x : Member) : (s.putMember k x).seq = s.seq := rfl
@[simp] theorem State.putMember_fresh (s : State) (k : Nat) (x : Member) : (s.putMember k x).fresh = s.fresh := rfl
@[simp] theorem State.putMember_freeCtr (s : State) (k : Nat) (x : Member) : (s.putMember k x).freeCtr = s.freeCtr := rfl
@[simp] theorem State.putMember_agenda (s : State) (k : Nat) (x : Member) : (s.putMember k x).agenda = s.agenda := rfl
@[simp] theorem State.putMember_cur (s : State) (k : Nat) (x : Member) : (s.putMember k x).cur = s.cur := rfl
@[simp] theorem State.putMember_idle (s : State) (k : Nat) (x : Member) : (s.putMember k x).idle = s.idle := rfl
@[simp] theorem State.putMember_gangs (s : State) (k : Nat) (x : Member) : (s.putMember k x).gangs = s.gangs := rfl
@[simp] theorem State.putMember_cohorts (s : State) (k : Nat) (x : Member) : (s.putMember k x).cohorts = s.cohorts := rfl
@[simp] theorem State.putMember_grids (s : State) (k : Nat) (x : Member) : (s.putMember k x).grids = s.grids := rfl
@[simp] theorem State.putMember_cores (s : State) (k : Nat) (x : Member) : (s.putMember k x).cores = s.cores := rfl
@[simp] theorem State.putMember_segments (s : State) (k : Nat) (x : Member) : (s.putMember k x).segments = s.segments := rfl
@[simp] theorem State.putMember_handles (s : State) (k : Nat) (x : Member) : (s.putMember k x).handles = s.handles := rfl
@[simp] theorem State.putMember_queues (s : State) (k : Nat) (x : Member) : (s.putMember k x).queues = s.queues := rfl
@[simp] theorem State.putMember_saved (s : State) (k : Nat) (x : Member) : (s.putMember k x).saved = s.saved := rfl
@[simp] theorem State.putMember_served (s : State) (k : Nat) (x : Member) : (s.putMember k x).served = s.served := rfl
@[simp] theorem State.putMember_reserveQ (s : State) (k : Nat) (x : Member) : (s.putMember k x).reserveQ = s.reserveQ := rfl
@[simp] theorem State.putMember_reserveL1 (s : State) (k : Nat) (x : Member) : (s.putMember k x).reserveL1 = s.reserveL1 := rfl
@[simp] theorem State.putMember_failing (s : State) (k : Nat) (x : Member) : (s.putMember k x).failing = s.failing := rfl
@[simp] theorem State.putMember_deadQuartets (s : State) (k : Nat) (x : Member) : (s.putMember k x).deadQuartets = s.deadQuartets := rfl
@[simp] theorem State.putMember_leavingDies (s : State) (k : Nat) (x : Member) : (s.putMember k x).leavingDies = s.leavingDies := rfl
@[simp] theorem State.putMember_hbm (s : State) (k : Nat) (x : Member) : (s.putMember k x).hbm = s.hbm := rfl
@[simp] theorem State.putMember_poison (s : State) (k : Nat) (x : Member) : (s.putMember k x).poison = s.poison := rfl
@[simp] theorem State.putMember_l2 (s : State) (k : Nat) (x : Member) : (s.putMember k x).l2 = s.l2 := rfl
@[simp] theorem State.putMember_hostMem (s : State) (k : Nat) (x : Member) : (s.putMember k x).hostMem = s.hostMem := rfl
@[simp] theorem State.putMember_asids (s : State) (k : Nat) (x : Member) : (s.putMember k x).asids = s.asids := rfl
@[simp] theorem State.putMember_protBase (s : State) (k : Nat) (x : Member) : (s.putMember k x).protBase = s.protBase := rfl
@[simp] theorem State.putMember_protPages (s : State) (k : Nat) (x : Member) : (s.putMember k x).protPages = s.protPages := rfl
@[simp] theorem State.putMember_locked (s : State) (k : Nat) (x : Member) : (s.putMember k x).locked = s.locked := rfl
@[simp] theorem State.putMember_protUsed (s : State) (k : Nat) (x : Member) : (s.putMember k x).protUsed = s.protUsed := rfl
@[simp] theorem State.putMember_invals (s : State) (k : Nat) (x : Member) : (s.putMember k x).invals = s.invals := rfl
@[simp] theorem State.putMember_dieXl (s : State) (k : Nat) (x : Member) : (s.putMember k x).dieXl = s.dieXl := rfl
@[simp] theorem State.putMember_atc (s : State) (k : Nat) (x : Member) : (s.putMember k x).atc = s.atc := rfl
@[simp] theorem State.putMember_refusedHost (s : State) (k : Nat) (x : Member) : (s.putMember k x).refusedHost = s.refusedHost := rfl
@[simp] theorem State.putMember_hostIn (s : State) (k : Nat) (x : Member) : (s.putMember k x).hostIn = s.hostIn := rfl
@[simp] theorem State.putMember_atsReqs (s : State) (k : Nat) (x : Member) : (s.putMember k x).atsReqs = s.atsReqs := rfl
@[simp] theorem State.putMember_atsBy16 (s : State) (k : Nat) (x : Member) : (s.putMember k x).atsBy16 = s.atsBy16 := rfl
@[simp] theorem State.putMember_members (s : State) (k : Nat) (x : Member) : (s.putMember k x).members = listSet s.members k x := rfl
@[simp] theorem State.putMember_flights (s : State) (k : Nat) (x : Member) : (s.putMember k x).flights = s.flights := rfl
@[simp] theorem State.putMember_reqs (s : State) (k : Nat) (x : Member) : (s.putMember k x).reqs = s.reqs := rfl
@[simp] theorem State.putMember_resends (s : State) (k : Nat) (x : Member) : (s.putMember k x).resends = s.resends := rfl
@[simp] theorem State.putMember_links (s : State) (k : Nat) (x : Member) : (s.putMember k x).links = s.links := rfl
@[simp] theorem State.putMember_routes (s : State) (k : Nat) (x : Member) : (s.putMember k x).routes = s.routes := rfl
@[simp] theorem State.putMember_delays (s : State) (k : Nat) (x : Member) : (s.putMember k x).delays = s.delays := rfl
@[simp] theorem State.putMember_checks (s : State) (k : Nat) (x : Member) : (s.putMember k x).checks = s.checks := rfl
@[simp] theorem State.putMember_corrected (s : State) (k : Nat) (x : Member) : (s.putMember k x).corrected = s.corrected := rfl
@[simp] theorem State.putMember_seenView (s : State) (k : Nat) (x : Member) : (s.putMember k x).seenView = s.seenView := rfl
@[simp] theorem State.putMember_seenLow (s : State) (k : Nat) (x : Member) : (s.putMember k x).seenLow = s.seenLow := rfl
@[simp] theorem State.putMember_notices (s : State) (k : Nat) (x : Member) : (s.putMember k x).notices = s.notices := rfl
@[simp] theorem State.putMember_lastReq (s : State) (k : Nat) (x : Member) : (s.putMember k x).lastReq = s.lastReq := rfl
@[simp] theorem State.putMember_unanswered (s : State) (k : Nat) (x : Member) : (s.putMember k x).unanswered = s.unanswered := rfl
@[simp] theorem State.putMember_resync (s : State) (k : Nat) (x : Member) : (s.putMember k x).resync = s.resync := rfl
@[simp] theorem State.putMember_remap (s : State) (k : Nat) (x : Member) : (s.putMember k x).remap = s.remap := rfl
@[simp] theorem State.putMember_spares (s : State) (k : Nat) (x : Member) : (s.putMember k x).spares = s.spares := rfl
@[simp] theorem State.putMember_homeModes (s : State) (k : Nat) (x : Member) : (s.putMember k x).homeModes = s.homeModes := rfl
@[simp] theorem State.putMember_pcie (s : State) (k : Nat) (x : Member) : (s.putMember k x).pcie = s.pcie := rfl
@[simp] theorem State.putMember_pcieUp (s : State) (k : Nat) (x : Member) : (s.putMember k x).pcieUp = s.pcieUp := rfl
@[simp] theorem State.putMember_fns (s : State) (k : Nat) (x : Member) : (s.putMember k x).fns = s.fns := rfl
@[simp] theorem State.putMember_pri (s : State) (k : Nat) (x : Member) : (s.putMember k x).pri = s.pri := rfl
@[simp] theorem State.putMember_windows (s : State) (k : Nat) (x : Member) : (s.putMember k x).windows = s.windows := rfl
@[simp] theorem State.putMember_imports (s : State) (k : Nat) (x : Member) : (s.putMember k x).imports = s.imports := rfl
@[simp] theorem State.putMember_unreachable (s : State) (k : Nat) (x : Member) : (s.putMember k x).unreachable = s.unreachable := rfl
@[simp] theorem State.putMember_remoteReply (s : State) (k : Nat) (x : Member) : (s.putMember k x).remoteReply = s.remoteReply := rfl
@[simp] theorem State.putMember_remoteBad (s : State) (k : Nat) (x : Member) : (s.putMember k x).remoteBad = s.remoteBad := rfl
@[simp] theorem State.putMember_gander (s : State) (k : Nat) (x : Member) : (s.putMember k x).gander = s.gander := rfl
@[simp] theorem State.putMember_up (s : State) (k : Nat) (x : Member) : (s.putMember k x).up = s.up := rfl

@[simp] theorem State.putXl_clock (s : State) (k : Nat) (x : DieXl) : (s.putXl k x).clock = s.clock := rfl
@[simp] theorem State.putXl_seq (s : State) (k : Nat) (x : DieXl) : (s.putXl k x).seq = s.seq := rfl
@[simp] theorem State.putXl_fresh (s : State) (k : Nat) (x : DieXl) : (s.putXl k x).fresh = s.fresh := rfl
@[simp] theorem State.putXl_freeCtr (s : State) (k : Nat) (x : DieXl) : (s.putXl k x).freeCtr = s.freeCtr := rfl
@[simp] theorem State.putXl_agenda (s : State) (k : Nat) (x : DieXl) : (s.putXl k x).agenda = s.agenda := rfl
@[simp] theorem State.putXl_cur (s : State) (k : Nat) (x : DieXl) : (s.putXl k x).cur = s.cur := rfl
@[simp] theorem State.putXl_idle (s : State) (k : Nat) (x : DieXl) : (s.putXl k x).idle = s.idle := rfl
@[simp] theorem State.putXl_gangs (s : State) (k : Nat) (x : DieXl) : (s.putXl k x).gangs = s.gangs := rfl
@[simp] theorem State.putXl_cohorts (s : State) (k : Nat) (x : DieXl) : (s.putXl k x).cohorts = s.cohorts := rfl
@[simp] theorem State.putXl_grids (s : State) (k : Nat) (x : DieXl) : (s.putXl k x).grids = s.grids := rfl
@[simp] theorem State.putXl_cores (s : State) (k : Nat) (x : DieXl) : (s.putXl k x).cores = s.cores := rfl
@[simp] theorem State.putXl_segments (s : State) (k : Nat) (x : DieXl) : (s.putXl k x).segments = s.segments := rfl
@[simp] theorem State.putXl_handles (s : State) (k : Nat) (x : DieXl) : (s.putXl k x).handles = s.handles := rfl
@[simp] theorem State.putXl_queues (s : State) (k : Nat) (x : DieXl) : (s.putXl k x).queues = s.queues := rfl
@[simp] theorem State.putXl_saved (s : State) (k : Nat) (x : DieXl) : (s.putXl k x).saved = s.saved := rfl
@[simp] theorem State.putXl_served (s : State) (k : Nat) (x : DieXl) : (s.putXl k x).served = s.served := rfl
@[simp] theorem State.putXl_reserveQ (s : State) (k : Nat) (x : DieXl) : (s.putXl k x).reserveQ = s.reserveQ := rfl
@[simp] theorem State.putXl_reserveL1 (s : State) (k : Nat) (x : DieXl) : (s.putXl k x).reserveL1 = s.reserveL1 := rfl
@[simp] theorem State.putXl_failing (s : State) (k : Nat) (x : DieXl) : (s.putXl k x).failing = s.failing := rfl
@[simp] theorem State.putXl_deadQuartets (s : State) (k : Nat) (x : DieXl) : (s.putXl k x).deadQuartets = s.deadQuartets := rfl
@[simp] theorem State.putXl_leavingDies (s : State) (k : Nat) (x : DieXl) : (s.putXl k x).leavingDies = s.leavingDies := rfl
@[simp] theorem State.putXl_hbm (s : State) (k : Nat) (x : DieXl) : (s.putXl k x).hbm = s.hbm := rfl
@[simp] theorem State.putXl_poison (s : State) (k : Nat) (x : DieXl) : (s.putXl k x).poison = s.poison := rfl
@[simp] theorem State.putXl_l2 (s : State) (k : Nat) (x : DieXl) : (s.putXl k x).l2 = s.l2 := rfl
@[simp] theorem State.putXl_hostMem (s : State) (k : Nat) (x : DieXl) : (s.putXl k x).hostMem = s.hostMem := rfl
@[simp] theorem State.putXl_asids (s : State) (k : Nat) (x : DieXl) : (s.putXl k x).asids = s.asids := rfl
@[simp] theorem State.putXl_protBase (s : State) (k : Nat) (x : DieXl) : (s.putXl k x).protBase = s.protBase := rfl
@[simp] theorem State.putXl_protPages (s : State) (k : Nat) (x : DieXl) : (s.putXl k x).protPages = s.protPages := rfl
@[simp] theorem State.putXl_locked (s : State) (k : Nat) (x : DieXl) : (s.putXl k x).locked = s.locked := rfl
@[simp] theorem State.putXl_protUsed (s : State) (k : Nat) (x : DieXl) : (s.putXl k x).protUsed = s.protUsed := rfl
@[simp] theorem State.putXl_invals (s : State) (k : Nat) (x : DieXl) : (s.putXl k x).invals = s.invals := rfl
@[simp] theorem State.putXl_dieXl (s : State) (k : Nat) (x : DieXl) : (s.putXl k x).dieXl = spSet DieXl.reset s.dieXl k x := rfl
@[simp] theorem State.putXl_atc (s : State) (k : Nat) (x : DieXl) : (s.putXl k x).atc = s.atc := rfl
@[simp] theorem State.putXl_refusedHost (s : State) (k : Nat) (x : DieXl) : (s.putXl k x).refusedHost = s.refusedHost := rfl
@[simp] theorem State.putXl_hostIn (s : State) (k : Nat) (x : DieXl) : (s.putXl k x).hostIn = s.hostIn := rfl
@[simp] theorem State.putXl_atsReqs (s : State) (k : Nat) (x : DieXl) : (s.putXl k x).atsReqs = s.atsReqs := rfl
@[simp] theorem State.putXl_atsBy16 (s : State) (k : Nat) (x : DieXl) : (s.putXl k x).atsBy16 = s.atsBy16 := rfl
@[simp] theorem State.putXl_members (s : State) (k : Nat) (x : DieXl) : (s.putXl k x).members = s.members := rfl
@[simp] theorem State.putXl_flights (s : State) (k : Nat) (x : DieXl) : (s.putXl k x).flights = s.flights := rfl
@[simp] theorem State.putXl_reqs (s : State) (k : Nat) (x : DieXl) : (s.putXl k x).reqs = s.reqs := rfl
@[simp] theorem State.putXl_resends (s : State) (k : Nat) (x : DieXl) : (s.putXl k x).resends = s.resends := rfl
@[simp] theorem State.putXl_links (s : State) (k : Nat) (x : DieXl) : (s.putXl k x).links = s.links := rfl
@[simp] theorem State.putXl_routes (s : State) (k : Nat) (x : DieXl) : (s.putXl k x).routes = s.routes := rfl
@[simp] theorem State.putXl_delays (s : State) (k : Nat) (x : DieXl) : (s.putXl k x).delays = s.delays := rfl
@[simp] theorem State.putXl_checks (s : State) (k : Nat) (x : DieXl) : (s.putXl k x).checks = s.checks := rfl
@[simp] theorem State.putXl_corrected (s : State) (k : Nat) (x : DieXl) : (s.putXl k x).corrected = s.corrected := rfl
@[simp] theorem State.putXl_seenView (s : State) (k : Nat) (x : DieXl) : (s.putXl k x).seenView = s.seenView := rfl
@[simp] theorem State.putXl_seenLow (s : State) (k : Nat) (x : DieXl) : (s.putXl k x).seenLow = s.seenLow := rfl
@[simp] theorem State.putXl_notices (s : State) (k : Nat) (x : DieXl) : (s.putXl k x).notices = s.notices := rfl
@[simp] theorem State.putXl_lastReq (s : State) (k : Nat) (x : DieXl) : (s.putXl k x).lastReq = s.lastReq := rfl
@[simp] theorem State.putXl_unanswered (s : State) (k : Nat) (x : DieXl) : (s.putXl k x).unanswered = s.unanswered := rfl
@[simp] theorem State.putXl_resync (s : State) (k : Nat) (x : DieXl) : (s.putXl k x).resync = s.resync := rfl
@[simp] theorem State.putXl_remap (s : State) (k : Nat) (x : DieXl) : (s.putXl k x).remap = s.remap := rfl
@[simp] theorem State.putXl_spares (s : State) (k : Nat) (x : DieXl) : (s.putXl k x).spares = s.spares := rfl
@[simp] theorem State.putXl_homeModes (s : State) (k : Nat) (x : DieXl) : (s.putXl k x).homeModes = s.homeModes := rfl
@[simp] theorem State.putXl_pcie (s : State) (k : Nat) (x : DieXl) : (s.putXl k x).pcie = s.pcie := rfl
@[simp] theorem State.putXl_pcieUp (s : State) (k : Nat) (x : DieXl) : (s.putXl k x).pcieUp = s.pcieUp := rfl
@[simp] theorem State.putXl_fns (s : State) (k : Nat) (x : DieXl) : (s.putXl k x).fns = s.fns := rfl
@[simp] theorem State.putXl_pri (s : State) (k : Nat) (x : DieXl) : (s.putXl k x).pri = s.pri := rfl
@[simp] theorem State.putXl_windows (s : State) (k : Nat) (x : DieXl) : (s.putXl k x).windows = s.windows := rfl
@[simp] theorem State.putXl_imports (s : State) (k : Nat) (x : DieXl) : (s.putXl k x).imports = s.imports := rfl
@[simp] theorem State.putXl_unreachable (s : State) (k : Nat) (x : DieXl) : (s.putXl k x).unreachable = s.unreachable := rfl
@[simp] theorem State.putXl_remoteReply (s : State) (k : Nat) (x : DieXl) : (s.putXl k x).remoteReply = s.remoteReply := rfl
@[simp] theorem State.putXl_remoteBad (s : State) (k : Nat) (x : DieXl) : (s.putXl k x).remoteBad = s.remoteBad := rfl
@[simp] theorem State.putXl_gander (s : State) (k : Nat) (x : DieXl) : (s.putXl k x).gander = s.gander := rfl
@[simp] theorem State.putXl_up (s : State) (k : Nat) (x : DieXl) : (s.putXl k x).up = s.up := rfl

@[simp] theorem State.putFn_clock (s : State) (k : Nat) (x : Fn) : (s.putFn k x).clock = s.clock := rfl
@[simp] theorem State.putFn_seq (s : State) (k : Nat) (x : Fn) : (s.putFn k x).seq = s.seq := rfl
@[simp] theorem State.putFn_fresh (s : State) (k : Nat) (x : Fn) : (s.putFn k x).fresh = s.fresh := rfl
@[simp] theorem State.putFn_freeCtr (s : State) (k : Nat) (x : Fn) : (s.putFn k x).freeCtr = s.freeCtr := rfl
@[simp] theorem State.putFn_agenda (s : State) (k : Nat) (x : Fn) : (s.putFn k x).agenda = s.agenda := rfl
@[simp] theorem State.putFn_cur (s : State) (k : Nat) (x : Fn) : (s.putFn k x).cur = s.cur := rfl
@[simp] theorem State.putFn_idle (s : State) (k : Nat) (x : Fn) : (s.putFn k x).idle = s.idle := rfl
@[simp] theorem State.putFn_gangs (s : State) (k : Nat) (x : Fn) : (s.putFn k x).gangs = s.gangs := rfl
@[simp] theorem State.putFn_cohorts (s : State) (k : Nat) (x : Fn) : (s.putFn k x).cohorts = s.cohorts := rfl
@[simp] theorem State.putFn_grids (s : State) (k : Nat) (x : Fn) : (s.putFn k x).grids = s.grids := rfl
@[simp] theorem State.putFn_cores (s : State) (k : Nat) (x : Fn) : (s.putFn k x).cores = s.cores := rfl
@[simp] theorem State.putFn_segments (s : State) (k : Nat) (x : Fn) : (s.putFn k x).segments = s.segments := rfl
@[simp] theorem State.putFn_handles (s : State) (k : Nat) (x : Fn) : (s.putFn k x).handles = s.handles := rfl
@[simp] theorem State.putFn_queues (s : State) (k : Nat) (x : Fn) : (s.putFn k x).queues = s.queues := rfl
@[simp] theorem State.putFn_saved (s : State) (k : Nat) (x : Fn) : (s.putFn k x).saved = s.saved := rfl
@[simp] theorem State.putFn_served (s : State) (k : Nat) (x : Fn) : (s.putFn k x).served = s.served := rfl
@[simp] theorem State.putFn_reserveQ (s : State) (k : Nat) (x : Fn) : (s.putFn k x).reserveQ = s.reserveQ := rfl
@[simp] theorem State.putFn_reserveL1 (s : State) (k : Nat) (x : Fn) : (s.putFn k x).reserveL1 = s.reserveL1 := rfl
@[simp] theorem State.putFn_failing (s : State) (k : Nat) (x : Fn) : (s.putFn k x).failing = s.failing := rfl
@[simp] theorem State.putFn_deadQuartets (s : State) (k : Nat) (x : Fn) : (s.putFn k x).deadQuartets = s.deadQuartets := rfl
@[simp] theorem State.putFn_leavingDies (s : State) (k : Nat) (x : Fn) : (s.putFn k x).leavingDies = s.leavingDies := rfl
@[simp] theorem State.putFn_hbm (s : State) (k : Nat) (x : Fn) : (s.putFn k x).hbm = s.hbm := rfl
@[simp] theorem State.putFn_poison (s : State) (k : Nat) (x : Fn) : (s.putFn k x).poison = s.poison := rfl
@[simp] theorem State.putFn_l2 (s : State) (k : Nat) (x : Fn) : (s.putFn k x).l2 = s.l2 := rfl
@[simp] theorem State.putFn_hostMem (s : State) (k : Nat) (x : Fn) : (s.putFn k x).hostMem = s.hostMem := rfl
@[simp] theorem State.putFn_asids (s : State) (k : Nat) (x : Fn) : (s.putFn k x).asids = s.asids := rfl
@[simp] theorem State.putFn_protBase (s : State) (k : Nat) (x : Fn) : (s.putFn k x).protBase = s.protBase := rfl
@[simp] theorem State.putFn_protPages (s : State) (k : Nat) (x : Fn) : (s.putFn k x).protPages = s.protPages := rfl
@[simp] theorem State.putFn_locked (s : State) (k : Nat) (x : Fn) : (s.putFn k x).locked = s.locked := rfl
@[simp] theorem State.putFn_protUsed (s : State) (k : Nat) (x : Fn) : (s.putFn k x).protUsed = s.protUsed := rfl
@[simp] theorem State.putFn_invals (s : State) (k : Nat) (x : Fn) : (s.putFn k x).invals = s.invals := rfl
@[simp] theorem State.putFn_dieXl (s : State) (k : Nat) (x : Fn) : (s.putFn k x).dieXl = s.dieXl := rfl
@[simp] theorem State.putFn_atc (s : State) (k : Nat) (x : Fn) : (s.putFn k x).atc = s.atc := rfl
@[simp] theorem State.putFn_refusedHost (s : State) (k : Nat) (x : Fn) : (s.putFn k x).refusedHost = s.refusedHost := rfl
@[simp] theorem State.putFn_hostIn (s : State) (k : Nat) (x : Fn) : (s.putFn k x).hostIn = s.hostIn := rfl
@[simp] theorem State.putFn_atsReqs (s : State) (k : Nat) (x : Fn) : (s.putFn k x).atsReqs = s.atsReqs := rfl
@[simp] theorem State.putFn_atsBy16 (s : State) (k : Nat) (x : Fn) : (s.putFn k x).atsBy16 = s.atsBy16 := rfl
@[simp] theorem State.putFn_members (s : State) (k : Nat) (x : Fn) : (s.putFn k x).members = s.members := rfl
@[simp] theorem State.putFn_flights (s : State) (k : Nat) (x : Fn) : (s.putFn k x).flights = s.flights := rfl
@[simp] theorem State.putFn_reqs (s : State) (k : Nat) (x : Fn) : (s.putFn k x).reqs = s.reqs := rfl
@[simp] theorem State.putFn_resends (s : State) (k : Nat) (x : Fn) : (s.putFn k x).resends = s.resends := rfl
@[simp] theorem State.putFn_links (s : State) (k : Nat) (x : Fn) : (s.putFn k x).links = s.links := rfl
@[simp] theorem State.putFn_routes (s : State) (k : Nat) (x : Fn) : (s.putFn k x).routes = s.routes := rfl
@[simp] theorem State.putFn_delays (s : State) (k : Nat) (x : Fn) : (s.putFn k x).delays = s.delays := rfl
@[simp] theorem State.putFn_checks (s : State) (k : Nat) (x : Fn) : (s.putFn k x).checks = s.checks := rfl
@[simp] theorem State.putFn_corrected (s : State) (k : Nat) (x : Fn) : (s.putFn k x).corrected = s.corrected := rfl
@[simp] theorem State.putFn_seenView (s : State) (k : Nat) (x : Fn) : (s.putFn k x).seenView = s.seenView := rfl
@[simp] theorem State.putFn_seenLow (s : State) (k : Nat) (x : Fn) : (s.putFn k x).seenLow = s.seenLow := rfl
@[simp] theorem State.putFn_notices (s : State) (k : Nat) (x : Fn) : (s.putFn k x).notices = s.notices := rfl
@[simp] theorem State.putFn_lastReq (s : State) (k : Nat) (x : Fn) : (s.putFn k x).lastReq = s.lastReq := rfl
@[simp] theorem State.putFn_unanswered (s : State) (k : Nat) (x : Fn) : (s.putFn k x).unanswered = s.unanswered := rfl
@[simp] theorem State.putFn_resync (s : State) (k : Nat) (x : Fn) : (s.putFn k x).resync = s.resync := rfl
@[simp] theorem State.putFn_remap (s : State) (k : Nat) (x : Fn) : (s.putFn k x).remap = s.remap := rfl
@[simp] theorem State.putFn_spares (s : State) (k : Nat) (x : Fn) : (s.putFn k x).spares = s.spares := rfl
@[simp] theorem State.putFn_homeModes (s : State) (k : Nat) (x : Fn) : (s.putFn k x).homeModes = s.homeModes := rfl
@[simp] theorem State.putFn_pcie (s : State) (k : Nat) (x : Fn) : (s.putFn k x).pcie = s.pcie := rfl
@[simp] theorem State.putFn_pcieUp (s : State) (k : Nat) (x : Fn) : (s.putFn k x).pcieUp = s.pcieUp := rfl
@[simp] theorem State.putFn_fns (s : State) (k : Nat) (x : Fn) : (s.putFn k x).fns = spSet Fn.reset s.fns k x := rfl
@[simp] theorem State.putFn_pri (s : State) (k : Nat) (x : Fn) : (s.putFn k x).pri = s.pri := rfl
@[simp] theorem State.putFn_windows (s : State) (k : Nat) (x : Fn) : (s.putFn k x).windows = s.windows := rfl
@[simp] theorem State.putFn_imports (s : State) (k : Nat) (x : Fn) : (s.putFn k x).imports = s.imports := rfl
@[simp] theorem State.putFn_unreachable (s : State) (k : Nat) (x : Fn) : (s.putFn k x).unreachable = s.unreachable := rfl
@[simp] theorem State.putFn_remoteReply (s : State) (k : Nat) (x : Fn) : (s.putFn k x).remoteReply = s.remoteReply := rfl
@[simp] theorem State.putFn_remoteBad (s : State) (k : Nat) (x : Fn) : (s.putFn k x).remoteBad = s.remoteBad := rfl
@[simp] theorem State.putFn_gander (s : State) (k : Nat) (x : Fn) : (s.putFn k x).gander = s.gander := rfl
@[simp] theorem State.putFn_up (s : State) (k : Nat) (x : Fn) : (s.putFn k x).up = s.up := rfl

@[simp] theorem State.putCore_clock (s : State) (d c : Nat) (x : Core) : (s.putCore d c x).clock = s.clock := rfl
@[simp] theorem State.putCore_seq (s : State) (d c : Nat) (x : Core) : (s.putCore d c x).seq = s.seq := rfl
@[simp] theorem State.putCore_fresh (s : State) (d c : Nat) (x : Core) : (s.putCore d c x).fresh = s.fresh := rfl
@[simp] theorem State.putCore_freeCtr (s : State) (d c : Nat) (x : Core) : (s.putCore d c x).freeCtr = s.freeCtr := rfl
@[simp] theorem State.putCore_agenda (s : State) (d c : Nat) (x : Core) : (s.putCore d c x).agenda = s.agenda := rfl
@[simp] theorem State.putCore_cur (s : State) (d c : Nat) (x : Core) : (s.putCore d c x).cur = s.cur := rfl
@[simp] theorem State.putCore_idle (s : State) (d c : Nat) (x : Core) : (s.putCore d c x).idle = s.idle := rfl
@[simp] theorem State.putCore_gangs (s : State) (d c : Nat) (x : Core) : (s.putCore d c x).gangs = s.gangs := rfl
@[simp] theorem State.putCore_cohorts (s : State) (d c : Nat) (x : Core) : (s.putCore d c x).cohorts = s.cohorts := rfl
@[simp] theorem State.putCore_grids (s : State) (d c : Nat) (x : Core) : (s.putCore d c x).grids = s.grids := rfl
@[simp] theorem State.putCore_cores (s : State) (d c : Nat) (x : Core) : (s.putCore d c x).cores = spSet Core.reset s.cores (coreKey d c) x := rfl
@[simp] theorem State.putCore_segments (s : State) (d c : Nat) (x : Core) : (s.putCore d c x).segments = s.segments := rfl
@[simp] theorem State.putCore_handles (s : State) (d c : Nat) (x : Core) : (s.putCore d c x).handles = s.handles := rfl
@[simp] theorem State.putCore_queues (s : State) (d c : Nat) (x : Core) : (s.putCore d c x).queues = s.queues := rfl
@[simp] theorem State.putCore_saved (s : State) (d c : Nat) (x : Core) : (s.putCore d c x).saved = s.saved := rfl
@[simp] theorem State.putCore_served (s : State) (d c : Nat) (x : Core) : (s.putCore d c x).served = s.served := rfl
@[simp] theorem State.putCore_reserveQ (s : State) (d c : Nat) (x : Core) : (s.putCore d c x).reserveQ = s.reserveQ := rfl
@[simp] theorem State.putCore_reserveL1 (s : State) (d c : Nat) (x : Core) : (s.putCore d c x).reserveL1 = s.reserveL1 := rfl
@[simp] theorem State.putCore_failing (s : State) (d c : Nat) (x : Core) : (s.putCore d c x).failing = s.failing := rfl
@[simp] theorem State.putCore_deadQuartets (s : State) (d c : Nat) (x : Core) : (s.putCore d c x).deadQuartets = s.deadQuartets := rfl
@[simp] theorem State.putCore_leavingDies (s : State) (d c : Nat) (x : Core) : (s.putCore d c x).leavingDies = s.leavingDies := rfl
@[simp] theorem State.putCore_hbm (s : State) (d c : Nat) (x : Core) : (s.putCore d c x).hbm = s.hbm := rfl
@[simp] theorem State.putCore_poison (s : State) (d c : Nat) (x : Core) : (s.putCore d c x).poison = s.poison := rfl
@[simp] theorem State.putCore_l2 (s : State) (d c : Nat) (x : Core) : (s.putCore d c x).l2 = s.l2 := rfl
@[simp] theorem State.putCore_hostMem (s : State) (d c : Nat) (x : Core) : (s.putCore d c x).hostMem = s.hostMem := rfl
@[simp] theorem State.putCore_asids (s : State) (d c : Nat) (x : Core) : (s.putCore d c x).asids = s.asids := rfl
@[simp] theorem State.putCore_protBase (s : State) (d c : Nat) (x : Core) : (s.putCore d c x).protBase = s.protBase := rfl
@[simp] theorem State.putCore_protPages (s : State) (d c : Nat) (x : Core) : (s.putCore d c x).protPages = s.protPages := rfl
@[simp] theorem State.putCore_locked (s : State) (d c : Nat) (x : Core) : (s.putCore d c x).locked = s.locked := rfl
@[simp] theorem State.putCore_protUsed (s : State) (d c : Nat) (x : Core) : (s.putCore d c x).protUsed = s.protUsed := rfl
@[simp] theorem State.putCore_invals (s : State) (d c : Nat) (x : Core) : (s.putCore d c x).invals = s.invals := rfl
@[simp] theorem State.putCore_dieXl (s : State) (d c : Nat) (x : Core) : (s.putCore d c x).dieXl = s.dieXl := rfl
@[simp] theorem State.putCore_atc (s : State) (d c : Nat) (x : Core) : (s.putCore d c x).atc = s.atc := rfl
@[simp] theorem State.putCore_refusedHost (s : State) (d c : Nat) (x : Core) : (s.putCore d c x).refusedHost = s.refusedHost := rfl
@[simp] theorem State.putCore_hostIn (s : State) (d c : Nat) (x : Core) : (s.putCore d c x).hostIn = s.hostIn := rfl
@[simp] theorem State.putCore_atsReqs (s : State) (d c : Nat) (x : Core) : (s.putCore d c x).atsReqs = s.atsReqs := rfl
@[simp] theorem State.putCore_atsBy16 (s : State) (d c : Nat) (x : Core) : (s.putCore d c x).atsBy16 = s.atsBy16 := rfl
@[simp] theorem State.putCore_members (s : State) (d c : Nat) (x : Core) : (s.putCore d c x).members = s.members := rfl
@[simp] theorem State.putCore_flights (s : State) (d c : Nat) (x : Core) : (s.putCore d c x).flights = s.flights := rfl
@[simp] theorem State.putCore_reqs (s : State) (d c : Nat) (x : Core) : (s.putCore d c x).reqs = s.reqs := rfl
@[simp] theorem State.putCore_resends (s : State) (d c : Nat) (x : Core) : (s.putCore d c x).resends = s.resends := rfl
@[simp] theorem State.putCore_links (s : State) (d c : Nat) (x : Core) : (s.putCore d c x).links = s.links := rfl
@[simp] theorem State.putCore_routes (s : State) (d c : Nat) (x : Core) : (s.putCore d c x).routes = s.routes := rfl
@[simp] theorem State.putCore_delays (s : State) (d c : Nat) (x : Core) : (s.putCore d c x).delays = s.delays := rfl
@[simp] theorem State.putCore_checks (s : State) (d c : Nat) (x : Core) : (s.putCore d c x).checks = s.checks := rfl
@[simp] theorem State.putCore_corrected (s : State) (d c : Nat) (x : Core) : (s.putCore d c x).corrected = s.corrected := rfl
@[simp] theorem State.putCore_seenView (s : State) (d c : Nat) (x : Core) : (s.putCore d c x).seenView = s.seenView := rfl
@[simp] theorem State.putCore_seenLow (s : State) (d c : Nat) (x : Core) : (s.putCore d c x).seenLow = s.seenLow := rfl
@[simp] theorem State.putCore_notices (s : State) (d c : Nat) (x : Core) : (s.putCore d c x).notices = s.notices := rfl
@[simp] theorem State.putCore_lastReq (s : State) (d c : Nat) (x : Core) : (s.putCore d c x).lastReq = s.lastReq := rfl
@[simp] theorem State.putCore_unanswered (s : State) (d c : Nat) (x : Core) : (s.putCore d c x).unanswered = s.unanswered := rfl
@[simp] theorem State.putCore_resync (s : State) (d c : Nat) (x : Core) : (s.putCore d c x).resync = s.resync := rfl
@[simp] theorem State.putCore_remap (s : State) (d c : Nat) (x : Core) : (s.putCore d c x).remap = s.remap := rfl
@[simp] theorem State.putCore_spares (s : State) (d c : Nat) (x : Core) : (s.putCore d c x).spares = s.spares := rfl
@[simp] theorem State.putCore_homeModes (s : State) (d c : Nat) (x : Core) : (s.putCore d c x).homeModes = s.homeModes := rfl
@[simp] theorem State.putCore_pcie (s : State) (d c : Nat) (x : Core) : (s.putCore d c x).pcie = s.pcie := rfl
@[simp] theorem State.putCore_pcieUp (s : State) (d c : Nat) (x : Core) : (s.putCore d c x).pcieUp = s.pcieUp := rfl
@[simp] theorem State.putCore_fns (s : State) (d c : Nat) (x : Core) : (s.putCore d c x).fns = s.fns := rfl
@[simp] theorem State.putCore_pri (s : State) (d c : Nat) (x : Core) : (s.putCore d c x).pri = s.pri := rfl
@[simp] theorem State.putCore_windows (s : State) (d c : Nat) (x : Core) : (s.putCore d c x).windows = s.windows := rfl
@[simp] theorem State.putCore_imports (s : State) (d c : Nat) (x : Core) : (s.putCore d c x).imports = s.imports := rfl
@[simp] theorem State.putCore_unreachable (s : State) (d c : Nat) (x : Core) : (s.putCore d c x).unreachable = s.unreachable := rfl
@[simp] theorem State.putCore_remoteReply (s : State) (d c : Nat) (x : Core) : (s.putCore d c x).remoteReply = s.remoteReply := rfl
@[simp] theorem State.putCore_remoteBad (s : State) (d c : Nat) (x : Core) : (s.putCore d c x).remoteBad = s.remoteBad := rfl
@[simp] theorem State.putCore_gander (s : State) (d c : Nat) (x : Core) : (s.putCore d c x).gander = s.gander := rfl
@[simp] theorem State.putCore_up (s : State) (d c : Nat) (x : Core) : (s.putCore d c x).up = s.up := rfl

@[simp] theorem State.naming_clock (s : State) (gi pi : Nat) : (s.naming gi pi).clock = s.clock := rfl
@[simp] theorem State.naming_seq (s : State) (gi pi : Nat) : (s.naming gi pi).seq = s.seq := rfl
@[simp] theorem State.naming_fresh (s : State) (gi pi : Nat) : (s.naming gi pi).fresh = s.fresh := rfl
@[simp] theorem State.naming_freeCtr (s : State) (gi pi : Nat) : (s.naming gi pi).freeCtr = s.freeCtr := rfl
@[simp] theorem State.naming_agenda (s : State) (gi pi : Nat) : (s.naming gi pi).agenda = s.agenda := rfl
@[simp] theorem State.naming_cur (s : State) (gi pi : Nat) : (s.naming gi pi).cur = some (gi, pi) := rfl
@[simp] theorem State.naming_idle (s : State) (gi pi : Nat) : (s.naming gi pi).idle = s.idle := rfl
@[simp] theorem State.naming_gangs (s : State) (gi pi : Nat) : (s.naming gi pi).gangs = s.gangs := rfl
@[simp] theorem State.naming_cohorts (s : State) (gi pi : Nat) : (s.naming gi pi).cohorts = s.cohorts := rfl
@[simp] theorem State.naming_grids (s : State) (gi pi : Nat) : (s.naming gi pi).grids = s.grids := rfl
@[simp] theorem State.naming_cores (s : State) (gi pi : Nat) : (s.naming gi pi).cores = s.cores := rfl
@[simp] theorem State.naming_segments (s : State) (gi pi : Nat) : (s.naming gi pi).segments = s.segments := rfl
@[simp] theorem State.naming_handles (s : State) (gi pi : Nat) : (s.naming gi pi).handles = s.handles := rfl
@[simp] theorem State.naming_queues (s : State) (gi pi : Nat) : (s.naming gi pi).queues = s.queues := rfl
@[simp] theorem State.naming_saved (s : State) (gi pi : Nat) : (s.naming gi pi).saved = s.saved := rfl
@[simp] theorem State.naming_served (s : State) (gi pi : Nat) : (s.naming gi pi).served = s.served := rfl
@[simp] theorem State.naming_reserveQ (s : State) (gi pi : Nat) : (s.naming gi pi).reserveQ = s.reserveQ := rfl
@[simp] theorem State.naming_reserveL1 (s : State) (gi pi : Nat) : (s.naming gi pi).reserveL1 = s.reserveL1 := rfl
@[simp] theorem State.naming_failing (s : State) (gi pi : Nat) : (s.naming gi pi).failing = s.failing := rfl
@[simp] theorem State.naming_deadQuartets (s : State) (gi pi : Nat) : (s.naming gi pi).deadQuartets = s.deadQuartets := rfl
@[simp] theorem State.naming_leavingDies (s : State) (gi pi : Nat) : (s.naming gi pi).leavingDies = s.leavingDies := rfl
@[simp] theorem State.naming_hbm (s : State) (gi pi : Nat) : (s.naming gi pi).hbm = s.hbm := rfl
@[simp] theorem State.naming_poison (s : State) (gi pi : Nat) : (s.naming gi pi).poison = s.poison := rfl
@[simp] theorem State.naming_l2 (s : State) (gi pi : Nat) : (s.naming gi pi).l2 = s.l2 := rfl
@[simp] theorem State.naming_hostMem (s : State) (gi pi : Nat) : (s.naming gi pi).hostMem = s.hostMem := rfl
@[simp] theorem State.naming_asids (s : State) (gi pi : Nat) : (s.naming gi pi).asids = s.asids := rfl
@[simp] theorem State.naming_protBase (s : State) (gi pi : Nat) : (s.naming gi pi).protBase = s.protBase := rfl
@[simp] theorem State.naming_protPages (s : State) (gi pi : Nat) : (s.naming gi pi).protPages = s.protPages := rfl
@[simp] theorem State.naming_locked (s : State) (gi pi : Nat) : (s.naming gi pi).locked = s.locked := rfl
@[simp] theorem State.naming_protUsed (s : State) (gi pi : Nat) : (s.naming gi pi).protUsed = s.protUsed := rfl
@[simp] theorem State.naming_invals (s : State) (gi pi : Nat) : (s.naming gi pi).invals = s.invals := rfl
@[simp] theorem State.naming_dieXl (s : State) (gi pi : Nat) : (s.naming gi pi).dieXl = s.dieXl := rfl
@[simp] theorem State.naming_atc (s : State) (gi pi : Nat) : (s.naming gi pi).atc = s.atc := rfl
@[simp] theorem State.naming_refusedHost (s : State) (gi pi : Nat) : (s.naming gi pi).refusedHost = s.refusedHost := rfl
@[simp] theorem State.naming_hostIn (s : State) (gi pi : Nat) : (s.naming gi pi).hostIn = s.hostIn := rfl
@[simp] theorem State.naming_atsReqs (s : State) (gi pi : Nat) : (s.naming gi pi).atsReqs = s.atsReqs := rfl
@[simp] theorem State.naming_atsBy16 (s : State) (gi pi : Nat) : (s.naming gi pi).atsBy16 = s.atsBy16 := rfl
@[simp] theorem State.naming_members (s : State) (gi pi : Nat) : (s.naming gi pi).members = s.members := rfl
@[simp] theorem State.naming_flights (s : State) (gi pi : Nat) : (s.naming gi pi).flights = s.flights := rfl
@[simp] theorem State.naming_reqs (s : State) (gi pi : Nat) : (s.naming gi pi).reqs = s.reqs := rfl
@[simp] theorem State.naming_resends (s : State) (gi pi : Nat) : (s.naming gi pi).resends = s.resends := rfl
@[simp] theorem State.naming_links (s : State) (gi pi : Nat) : (s.naming gi pi).links = s.links := rfl
@[simp] theorem State.naming_routes (s : State) (gi pi : Nat) : (s.naming gi pi).routes = s.routes := rfl
@[simp] theorem State.naming_delays (s : State) (gi pi : Nat) : (s.naming gi pi).delays = s.delays := rfl
@[simp] theorem State.naming_checks (s : State) (gi pi : Nat) : (s.naming gi pi).checks = s.checks := rfl
@[simp] theorem State.naming_corrected (s : State) (gi pi : Nat) : (s.naming gi pi).corrected = s.corrected := rfl
@[simp] theorem State.naming_seenView (s : State) (gi pi : Nat) : (s.naming gi pi).seenView = s.seenView := rfl
@[simp] theorem State.naming_seenLow (s : State) (gi pi : Nat) : (s.naming gi pi).seenLow = s.seenLow := rfl
@[simp] theorem State.naming_notices (s : State) (gi pi : Nat) : (s.naming gi pi).notices = s.notices := rfl
@[simp] theorem State.naming_lastReq (s : State) (gi pi : Nat) : (s.naming gi pi).lastReq = s.lastReq := rfl
@[simp] theorem State.naming_unanswered (s : State) (gi pi : Nat) : (s.naming gi pi).unanswered = s.unanswered := rfl
@[simp] theorem State.naming_resync (s : State) (gi pi : Nat) : (s.naming gi pi).resync = s.resync := rfl
@[simp] theorem State.naming_remap (s : State) (gi pi : Nat) : (s.naming gi pi).remap = s.remap := rfl
@[simp] theorem State.naming_spares (s : State) (gi pi : Nat) : (s.naming gi pi).spares = s.spares := rfl
@[simp] theorem State.naming_homeModes (s : State) (gi pi : Nat) : (s.naming gi pi).homeModes = s.homeModes := rfl
@[simp] theorem State.naming_pcie (s : State) (gi pi : Nat) : (s.naming gi pi).pcie = s.pcie := rfl
@[simp] theorem State.naming_pcieUp (s : State) (gi pi : Nat) : (s.naming gi pi).pcieUp = s.pcieUp := rfl
@[simp] theorem State.naming_fns (s : State) (gi pi : Nat) : (s.naming gi pi).fns = s.fns := rfl
@[simp] theorem State.naming_pri (s : State) (gi pi : Nat) : (s.naming gi pi).pri = s.pri := rfl
@[simp] theorem State.naming_windows (s : State) (gi pi : Nat) : (s.naming gi pi).windows = s.windows := rfl
@[simp] theorem State.naming_imports (s : State) (gi pi : Nat) : (s.naming gi pi).imports = s.imports := rfl
@[simp] theorem State.naming_unreachable (s : State) (gi pi : Nat) : (s.naming gi pi).unreachable = s.unreachable := rfl
@[simp] theorem State.naming_remoteReply (s : State) (gi pi : Nat) : (s.naming gi pi).remoteReply = s.remoteReply := rfl
@[simp] theorem State.naming_remoteBad (s : State) (gi pi : Nat) : (s.naming gi pi).remoteBad = s.remoteBad := rfl
@[simp] theorem State.naming_gander (s : State) (gi pi : Nat) : (s.naming gi pi).gander = s.gander := rfl
@[simp] theorem State.naming_up (s : State) (gi pi : Nat) : (s.naming gi pi).up = s.up := rfl

@[simp] theorem setS_gangid (g : Gang) (r : Nat) (x : Word) : (setS g r x).gangid = g.gangid := rfl
@[simp] theorem setS_cohort (g : Gang) (r : Nat) (x : Word) : (setS g r x).cohort = g.cohort := rfl
@[simp] theorem setS_grid (g : Gang) (r : Nat) (x : Word) : (setS g r x).grid = g.grid := rfl
@[simp] theorem setS_die (g : Gang) (r : Nat) (x : Word) : (setS g r x).die = g.die := rfl
@[simp] theorem setS_core (g : Gang) (r : Nat) (x : Word) : (setS g r x).core = g.core := rfl
@[simp] theorem setS_index (g : Gang) (r : Nat) (x : Word) : (setS g r x).index = g.index := rfl
@[simp] theorem setS_kd (g : Gang) (r : Nat) (x : Word) : (setS g r x).kd = g.kd := rfl
@[simp] theorem setS_params (g : Gang) (r : Nat) (x : Word) : (setS g r x).params = g.params := rfl
@[simp] theorem setS_cidx (g : Gang) (r : Nat) (x : Word) : (setS g r x).cidx = g.cidx := rfl
@[simp] theorem setS_cidy (g : Gang) (r : Nat) (x : Word) : (setS g r x).cidy = g.cidy := rfl
@[simp] theorem setS_cidz (g : Gang) (r : Nat) (x : Word) : (setS g r x).cidz = g.cidz := rfl
@[simp] theorem setS_ncidx (g : Gang) (r : Nat) (x : Word) : (setS g r x).ncidx = g.ncidx := rfl
@[simp] theorem setS_ncidy (g : Gang) (r : Nat) (x : Word) : (setS g r x).ncidy = g.ncidy := rfl
@[simp] theorem setS_ncidz (g : Gang) (r : Nat) (x : Word) : (setS g r x).ncidz = g.ncidz := rfl
@[simp] theorem setS_v (g : Gang) (r : Nat) (x : Word) : (setS g r x).v = g.v := rfl
@[simp] theorem setS_vpoison (g : Gang) (r : Nat) (x : Word) : (setS g r x).vpoison = g.vpoison := rfl
@[simp] theorem setS_s (g : Gang) (r : Nat) (x : Word) : (setS g r x).s = spSet 0 g.s r x := rfl
@[simp] theorem setS_p (g : Gang) (r : Nat) (x : Word) : (setS g r x).p = g.p := rfl
@[simp] theorem setS_paths (g : Gang) (r : Nat) (x : Word) : (setS g r x).paths = g.paths := rfl
@[simp] theorem setS_stack (g : Gang) (r : Nat) (x : Word) : (setS g r x).stack = g.stack := rfl
@[simp] theorem setS_exited (g : Gang) (r : Nat) (x : Word) : (setS g r x).exited = g.exited := rfl
@[simp] theorem setS_round (g : Gang) (r : Nat) (x : Word) : (setS g r x).round = g.round := rfl
@[simp] theorem setS_fpstat (g : Gang) (r : Nat) (x : Word) : (setS g r x).fpstat = g.fpstat := rfl
@[simp] theorem setS_xlctl (g : Gang) (r : Nat) (x : Word) : (setS g r x).xlctl = g.xlctl := rfl
@[simp] theorem setS_capctl (g : Gang) (r : Nat) (x : Word) : (setS g r x).capctl = g.capctl := rfl
@[simp] theorem setS_capstat (g : Gang) (r : Nat) (x : Word) : (setS g r x).capstat = g.capstat := rfl
@[simp] theorem setS_tcause (g : Gang) (r : Nat) (x : Word) : (setS g r x).tcause = g.tcause := rfl
@[simp] theorem setS_tpc (g : Gang) (r : Nat) (x : Word) : (setS g r x).tpc = g.tpc := rfl
@[simp] theorem setS_taddr (g : Gang) (r : Nat) (x : Word) : (setS g r x).taddr = g.taddr := rfl
@[simp] theorem setS_tlanes (g : Gang) (r : Nat) (x : Word) : (setS g r x).tlanes = g.tlanes := rfl
@[simp] theorem setS_tinfo (g : Gang) (r : Nat) (x : Word) : (setS g r x).tinfo = g.tinfo := rfl
@[simp] theorem setS_handler (g : Gang) (r : Nat) (x : Word) : (setS g r x).handler = g.handler := rfl
@[simp] theorem setS_head (g : Gang) (r : Nat) (x : Word) : (setS g r x).head = g.head := rfl
@[simp] theorem setS_count (g : Gang) (r : Nat) (x : Word) : (setS g r x).count = g.count := rfl
@[simp] theorem setS_frontAt (g : Gang) (r : Nat) (x : Word) : (setS g r x).frontAt = g.frontAt := rfl
@[simp] theorem setS_tokens (g : Gang) (r : Nat) (x : Word) : (setS g r x).tokens = g.tokens := rfl
@[simp] theorem setS_mregs (g : Gang) (r : Nat) (x : Word) : (setS g r x).mregs = g.mregs := rfl
@[simp] theorem setS_tiles (g : Gang) (r : Nat) (x : Word) : (setS g r x).tiles = g.tiles := rfl
@[simp] theorem setS_phys (g : Gang) (r : Nat) (x : Word) : (setS g r x).phys = g.phys := rfl
@[simp] theorem setS_areas (g : Gang) (r : Nat) (x : Word) : (setS g r x).areas = g.areas := rfl
@[simp] theorem setS_spos (g : Gang) (r : Nat) (x : Word) : (setS g r x).spos = g.spos := rfl
@[simp] theorem setS_outst (g : Gang) (r : Nat) (x : Word) : (setS g r x).outst = g.outst := rfl
@[simp] theorem setS_xc (g : Gang) (r : Nat) (x : Word) : (setS g r x).xc = g.xc := rfl
@[simp] theorem setS_parks (g : Gang) (r : Nat) (x : Word) : (setS g r x).parks = g.parks := rfl
@[simp] theorem setS_ops (g : Gang) (r : Nat) (x : Word) : (setS g r x).ops = g.ops := rfl
@[simp] theorem setS_storeGate (g : Gang) (r : Nat) (x : Word) : (setS g r x).storeGate = g.storeGate := rfl
@[simp] theorem setS_hostWrites (g : Gang) (r : Nat) (x : Word) : (setS g r x).hostWrites = g.hostWrites := rfl
@[simp] theorem setS_sysGate (g : Gang) (r : Nat) (x : Word) : (setS g r x).sysGate = g.sysGate := rfl
@[simp] theorem setS_sysRead (g : Gang) (r : Nat) (x : Word) : (setS g r x).sysRead = g.sysRead := rfl
@[simp] theorem setS_engineHost (g : Gang) (r : Nat) (x : Word) : (setS g r x).engineHost = g.engineHost := rfl
@[simp] theorem setS_pending (g : Gang) (r : Nat) (x : Word) : (setS g r x).pending = g.pending := rfl
@[simp] theorem setS_stopped (g : Gang) (r : Nat) (x : Word) : (setS g r x).stopped = g.stopped := rfl
@[simp] theorem setS_paused (g : Gang) (r : Nat) (x : Word) : (setS g r x).paused = g.paused := rfl
@[simp] theorem setS_nextPath (g : Gang) (r : Nat) (x : Word) : (setS g r x).nextPath = g.nextPath := rfl
@[simp] theorem setS_readySince (g : Gang) (r : Nat) (x : Word) : (setS g r x).readySince = g.readySince := rfl
@[simp] theorem setS_urgent (g : Gang) (r : Nat) (x : Word) : (setS g r x).urgent = g.urgent := rfl
@[simp] theorem setS_block (g : Gang) (r : Nat) (x : Word) : (setS g r x).block = g.block := rfl
@[simp] theorem setS_granules (g : Gang) (r : Nat) (x : Word) : (setS g r x).granules = g.granules := rfl
@[simp] theorem setS_rot (g : Gang) (r : Nat) (x : Word) : (setS g r x).rot = g.rot := rfl
@[simp] theorem setS_held (g : Gang) (r : Nat) (x : Word) : (setS g r x).held = g.held := rfl
@[simp] theorem setS_engaged (g : Gang) (r : Nat) (x : Word) : (setS g r x).engaged = g.engaged := rfl
@[simp] theorem setS_fetching (g : Gang) (r : Nat) (x : Word) : (setS g r x).fetching = g.fetching := rfl

@[simp] theorem setV_gangid (g : Gang) (r l : Nat) (x : Word) : (setV g r l x).gangid = g.gangid := rfl
@[simp] theorem setV_cohort (g : Gang) (r l : Nat) (x : Word) : (setV g r l x).cohort = g.cohort := rfl
@[simp] theorem setV_grid (g : Gang) (r l : Nat) (x : Word) : (setV g r l x).grid = g.grid := rfl
@[simp] theorem setV_die (g : Gang) (r l : Nat) (x : Word) : (setV g r l x).die = g.die := rfl
@[simp] theorem setV_core (g : Gang) (r l : Nat) (x : Word) : (setV g r l x).core = g.core := rfl
@[simp] theorem setV_index (g : Gang) (r l : Nat) (x : Word) : (setV g r l x).index = g.index := rfl
@[simp] theorem setV_kd (g : Gang) (r l : Nat) (x : Word) : (setV g r l x).kd = g.kd := rfl
@[simp] theorem setV_params (g : Gang) (r l : Nat) (x : Word) : (setV g r l x).params = g.params := rfl
@[simp] theorem setV_cidx (g : Gang) (r l : Nat) (x : Word) : (setV g r l x).cidx = g.cidx := rfl
@[simp] theorem setV_cidy (g : Gang) (r l : Nat) (x : Word) : (setV g r l x).cidy = g.cidy := rfl
@[simp] theorem setV_cidz (g : Gang) (r l : Nat) (x : Word) : (setV g r l x).cidz = g.cidz := rfl
@[simp] theorem setV_ncidx (g : Gang) (r l : Nat) (x : Word) : (setV g r l x).ncidx = g.ncidx := rfl
@[simp] theorem setV_ncidy (g : Gang) (r l : Nat) (x : Word) : (setV g r l x).ncidy = g.ncidy := rfl
@[simp] theorem setV_ncidz (g : Gang) (r l : Nat) (x : Word) : (setV g r l x).ncidz = g.ncidz := rfl
@[simp] theorem setV_v (g : Gang) (r l : Nat) (x : Word) : (setV g r l x).v = spSet 0 g.v (64 * r + l) x := rfl
@[simp] theorem setV_vpoison (g : Gang) (r l : Nat) (x : Word) : (setV g r l x).vpoison = setDel g.vpoison (64 * r + l) := rfl
@[simp] theorem setV_s (g : Gang) (r l : Nat) (x : Word) : (setV g r l x).s = g.s := rfl
@[simp] theorem setV_p (g : Gang) (r l : Nat) (x : Word) : (setV g r l x).p = g.p := rfl
@[simp] theorem setV_paths (g : Gang) (r l : Nat) (x : Word) : (setV g r l x).paths = g.paths := rfl
@[simp] theorem setV_stack (g : Gang) (r l : Nat) (x : Word) : (setV g r l x).stack = g.stack := rfl
@[simp] theorem setV_exited (g : Gang) (r l : Nat) (x : Word) : (setV g r l x).exited = g.exited := rfl
@[simp] theorem setV_round (g : Gang) (r l : Nat) (x : Word) : (setV g r l x).round = g.round := rfl
@[simp] theorem setV_fpstat (g : Gang) (r l : Nat) (x : Word) : (setV g r l x).fpstat = g.fpstat := rfl
@[simp] theorem setV_xlctl (g : Gang) (r l : Nat) (x : Word) : (setV g r l x).xlctl = g.xlctl := rfl
@[simp] theorem setV_capctl (g : Gang) (r l : Nat) (x : Word) : (setV g r l x).capctl = g.capctl := rfl
@[simp] theorem setV_capstat (g : Gang) (r l : Nat) (x : Word) : (setV g r l x).capstat = g.capstat := rfl
@[simp] theorem setV_tcause (g : Gang) (r l : Nat) (x : Word) : (setV g r l x).tcause = g.tcause := rfl
@[simp] theorem setV_tpc (g : Gang) (r l : Nat) (x : Word) : (setV g r l x).tpc = g.tpc := rfl
@[simp] theorem setV_taddr (g : Gang) (r l : Nat) (x : Word) : (setV g r l x).taddr = g.taddr := rfl
@[simp] theorem setV_tlanes (g : Gang) (r l : Nat) (x : Word) : (setV g r l x).tlanes = g.tlanes := rfl
@[simp] theorem setV_tinfo (g : Gang) (r l : Nat) (x : Word) : (setV g r l x).tinfo = g.tinfo := rfl
@[simp] theorem setV_handler (g : Gang) (r l : Nat) (x : Word) : (setV g r l x).handler = g.handler := rfl
@[simp] theorem setV_head (g : Gang) (r l : Nat) (x : Word) : (setV g r l x).head = g.head := rfl
@[simp] theorem setV_count (g : Gang) (r l : Nat) (x : Word) : (setV g r l x).count = g.count := rfl
@[simp] theorem setV_frontAt (g : Gang) (r l : Nat) (x : Word) : (setV g r l x).frontAt = g.frontAt := rfl
@[simp] theorem setV_tokens (g : Gang) (r l : Nat) (x : Word) : (setV g r l x).tokens = g.tokens := rfl
@[simp] theorem setV_mregs (g : Gang) (r l : Nat) (x : Word) : (setV g r l x).mregs = g.mregs := rfl
@[simp] theorem setV_tiles (g : Gang) (r l : Nat) (x : Word) : (setV g r l x).tiles = g.tiles := rfl
@[simp] theorem setV_phys (g : Gang) (r l : Nat) (x : Word) : (setV g r l x).phys = g.phys := rfl
@[simp] theorem setV_areas (g : Gang) (r l : Nat) (x : Word) : (setV g r l x).areas = g.areas := rfl
@[simp] theorem setV_spos (g : Gang) (r l : Nat) (x : Word) : (setV g r l x).spos = g.spos := rfl
@[simp] theorem setV_outst (g : Gang) (r l : Nat) (x : Word) : (setV g r l x).outst = g.outst := rfl
@[simp] theorem setV_xc (g : Gang) (r l : Nat) (x : Word) : (setV g r l x).xc = g.xc := rfl
@[simp] theorem setV_parks (g : Gang) (r l : Nat) (x : Word) : (setV g r l x).parks = g.parks := rfl
@[simp] theorem setV_ops (g : Gang) (r l : Nat) (x : Word) : (setV g r l x).ops = g.ops := rfl
@[simp] theorem setV_storeGate (g : Gang) (r l : Nat) (x : Word) : (setV g r l x).storeGate = g.storeGate := rfl
@[simp] theorem setV_hostWrites (g : Gang) (r l : Nat) (x : Word) : (setV g r l x).hostWrites = g.hostWrites := rfl
@[simp] theorem setV_sysGate (g : Gang) (r l : Nat) (x : Word) : (setV g r l x).sysGate = g.sysGate := rfl
@[simp] theorem setV_sysRead (g : Gang) (r l : Nat) (x : Word) : (setV g r l x).sysRead = g.sysRead := rfl
@[simp] theorem setV_engineHost (g : Gang) (r l : Nat) (x : Word) : (setV g r l x).engineHost = g.engineHost := rfl
@[simp] theorem setV_pending (g : Gang) (r l : Nat) (x : Word) : (setV g r l x).pending = g.pending := rfl
@[simp] theorem setV_stopped (g : Gang) (r l : Nat) (x : Word) : (setV g r l x).stopped = g.stopped := rfl
@[simp] theorem setV_paused (g : Gang) (r l : Nat) (x : Word) : (setV g r l x).paused = g.paused := rfl
@[simp] theorem setV_nextPath (g : Gang) (r l : Nat) (x : Word) : (setV g r l x).nextPath = g.nextPath := rfl
@[simp] theorem setV_readySince (g : Gang) (r l : Nat) (x : Word) : (setV g r l x).readySince = g.readySince := rfl
@[simp] theorem setV_urgent (g : Gang) (r l : Nat) (x : Word) : (setV g r l x).urgent = g.urgent := rfl
@[simp] theorem setV_block (g : Gang) (r l : Nat) (x : Word) : (setV g r l x).block = g.block := rfl
@[simp] theorem setV_granules (g : Gang) (r l : Nat) (x : Word) : (setV g r l x).granules = g.granules := rfl
@[simp] theorem setV_rot (g : Gang) (r l : Nat) (x : Word) : (setV g r l x).rot = g.rot := rfl
@[simp] theorem setV_held (g : Gang) (r l : Nat) (x : Word) : (setV g r l x).held = g.held := rfl
@[simp] theorem setV_engaged (g : Gang) (r l : Nat) (x : Word) : (setV g r l x).engaged = g.engaged := rfl
@[simp] theorem setV_fetching (g : Gang) (r l : Nat) (x : Word) : (setV g r l x).fetching = g.fetching := rfl

@[simp] theorem raiseFlags_gangid (g : Gang) (f : FFlags) : (raiseFlags g f).gangid = g.gangid := rfl
@[simp] theorem raiseFlags_cohort (g : Gang) (f : FFlags) : (raiseFlags g f).cohort = g.cohort := rfl
@[simp] theorem raiseFlags_grid (g : Gang) (f : FFlags) : (raiseFlags g f).grid = g.grid := rfl
@[simp] theorem raiseFlags_die (g : Gang) (f : FFlags) : (raiseFlags g f).die = g.die := rfl
@[simp] theorem raiseFlags_core (g : Gang) (f : FFlags) : (raiseFlags g f).core = g.core := rfl
@[simp] theorem raiseFlags_index (g : Gang) (f : FFlags) : (raiseFlags g f).index = g.index := rfl
@[simp] theorem raiseFlags_kd (g : Gang) (f : FFlags) : (raiseFlags g f).kd = g.kd := rfl
@[simp] theorem raiseFlags_params (g : Gang) (f : FFlags) : (raiseFlags g f).params = g.params := rfl
@[simp] theorem raiseFlags_cidx (g : Gang) (f : FFlags) : (raiseFlags g f).cidx = g.cidx := rfl
@[simp] theorem raiseFlags_cidy (g : Gang) (f : FFlags) : (raiseFlags g f).cidy = g.cidy := rfl
@[simp] theorem raiseFlags_cidz (g : Gang) (f : FFlags) : (raiseFlags g f).cidz = g.cidz := rfl
@[simp] theorem raiseFlags_ncidx (g : Gang) (f : FFlags) : (raiseFlags g f).ncidx = g.ncidx := rfl
@[simp] theorem raiseFlags_ncidy (g : Gang) (f : FFlags) : (raiseFlags g f).ncidy = g.ncidy := rfl
@[simp] theorem raiseFlags_ncidz (g : Gang) (f : FFlags) : (raiseFlags g f).ncidz = g.ncidz := rfl
@[simp] theorem raiseFlags_v (g : Gang) (f : FFlags) : (raiseFlags g f).v = g.v := rfl
@[simp] theorem raiseFlags_vpoison (g : Gang) (f : FFlags) : (raiseFlags g f).vpoison = g.vpoison := rfl
@[simp] theorem raiseFlags_s (g : Gang) (f : FFlags) : (raiseFlags g f).s = g.s := rfl
@[simp] theorem raiseFlags_p (g : Gang) (f : FFlags) : (raiseFlags g f).p = g.p := rfl
@[simp] theorem raiseFlags_paths (g : Gang) (f : FFlags) : (raiseFlags g f).paths = g.paths := rfl
@[simp] theorem raiseFlags_stack (g : Gang) (f : FFlags) : (raiseFlags g f).stack = g.stack := rfl
@[simp] theorem raiseFlags_exited (g : Gang) (f : FFlags) : (raiseFlags g f).exited = g.exited := rfl
@[simp] theorem raiseFlags_round (g : Gang) (f : FFlags) : (raiseFlags g f).round = g.round := rfl
@[simp] theorem raiseFlags_fpstat (g : Gang) (f : FFlags) : (raiseFlags g f).fpstat = g.fpstat ||| f.setWidth 32 := rfl
@[simp] theorem raiseFlags_xlctl (g : Gang) (f : FFlags) : (raiseFlags g f).xlctl = g.xlctl := rfl
@[simp] theorem raiseFlags_capctl (g : Gang) (f : FFlags) : (raiseFlags g f).capctl = g.capctl := rfl
@[simp] theorem raiseFlags_capstat (g : Gang) (f : FFlags) : (raiseFlags g f).capstat = g.capstat := rfl
@[simp] theorem raiseFlags_tcause (g : Gang) (f : FFlags) : (raiseFlags g f).tcause = g.tcause := rfl
@[simp] theorem raiseFlags_tpc (g : Gang) (f : FFlags) : (raiseFlags g f).tpc = g.tpc := rfl
@[simp] theorem raiseFlags_taddr (g : Gang) (f : FFlags) : (raiseFlags g f).taddr = g.taddr := rfl
@[simp] theorem raiseFlags_tlanes (g : Gang) (f : FFlags) : (raiseFlags g f).tlanes = g.tlanes := rfl
@[simp] theorem raiseFlags_tinfo (g : Gang) (f : FFlags) : (raiseFlags g f).tinfo = g.tinfo := rfl
@[simp] theorem raiseFlags_handler (g : Gang) (f : FFlags) : (raiseFlags g f).handler = g.handler := rfl
@[simp] theorem raiseFlags_head (g : Gang) (f : FFlags) : (raiseFlags g f).head = g.head := rfl
@[simp] theorem raiseFlags_count (g : Gang) (f : FFlags) : (raiseFlags g f).count = g.count := rfl
@[simp] theorem raiseFlags_frontAt (g : Gang) (f : FFlags) : (raiseFlags g f).frontAt = g.frontAt := rfl
@[simp] theorem raiseFlags_tokens (g : Gang) (f : FFlags) : (raiseFlags g f).tokens = g.tokens := rfl
@[simp] theorem raiseFlags_mregs (g : Gang) (f : FFlags) : (raiseFlags g f).mregs = g.mregs := rfl
@[simp] theorem raiseFlags_tiles (g : Gang) (f : FFlags) : (raiseFlags g f).tiles = g.tiles := rfl
@[simp] theorem raiseFlags_phys (g : Gang) (f : FFlags) : (raiseFlags g f).phys = g.phys := rfl
@[simp] theorem raiseFlags_areas (g : Gang) (f : FFlags) : (raiseFlags g f).areas = g.areas := rfl
@[simp] theorem raiseFlags_spos (g : Gang) (f : FFlags) : (raiseFlags g f).spos = g.spos := rfl
@[simp] theorem raiseFlags_outst (g : Gang) (f : FFlags) : (raiseFlags g f).outst = g.outst := rfl
@[simp] theorem raiseFlags_xc (g : Gang) (f : FFlags) : (raiseFlags g f).xc = g.xc := rfl
@[simp] theorem raiseFlags_parks (g : Gang) (f : FFlags) : (raiseFlags g f).parks = g.parks := rfl
@[simp] theorem raiseFlags_ops (g : Gang) (f : FFlags) : (raiseFlags g f).ops = g.ops := rfl
@[simp] theorem raiseFlags_storeGate (g : Gang) (f : FFlags) : (raiseFlags g f).storeGate = g.storeGate := rfl
@[simp] theorem raiseFlags_hostWrites (g : Gang) (f : FFlags) : (raiseFlags g f).hostWrites = g.hostWrites := rfl
@[simp] theorem raiseFlags_sysGate (g : Gang) (f : FFlags) : (raiseFlags g f).sysGate = g.sysGate := rfl
@[simp] theorem raiseFlags_sysRead (g : Gang) (f : FFlags) : (raiseFlags g f).sysRead = g.sysRead := rfl
@[simp] theorem raiseFlags_engineHost (g : Gang) (f : FFlags) : (raiseFlags g f).engineHost = g.engineHost := rfl
@[simp] theorem raiseFlags_pending (g : Gang) (f : FFlags) : (raiseFlags g f).pending = g.pending := rfl
@[simp] theorem raiseFlags_stopped (g : Gang) (f : FFlags) : (raiseFlags g f).stopped = g.stopped := rfl
@[simp] theorem raiseFlags_paused (g : Gang) (f : FFlags) : (raiseFlags g f).paused = g.paused := rfl
@[simp] theorem raiseFlags_nextPath (g : Gang) (f : FFlags) : (raiseFlags g f).nextPath = g.nextPath := rfl
@[simp] theorem raiseFlags_readySince (g : Gang) (f : FFlags) : (raiseFlags g f).readySince = g.readySince := rfl
@[simp] theorem raiseFlags_urgent (g : Gang) (f : FFlags) : (raiseFlags g f).urgent = g.urgent := rfl
@[simp] theorem raiseFlags_block (g : Gang) (f : FFlags) : (raiseFlags g f).block = g.block := rfl
@[simp] theorem raiseFlags_granules (g : Gang) (f : FFlags) : (raiseFlags g f).granules = g.granules := rfl
@[simp] theorem raiseFlags_rot (g : Gang) (f : FFlags) : (raiseFlags g f).rot = g.rot := rfl
@[simp] theorem raiseFlags_held (g : Gang) (f : FFlags) : (raiseFlags g f).held = g.held := rfl
@[simp] theorem raiseFlags_engaged (g : Gang) (f : FFlags) : (raiseFlags g f).engaged = g.engaged := rfl
@[simp] theorem raiseFlags_fetching (g : Gang) (f : FFlags) : (raiseFlags g f).fetching = g.fetching := rfl

@[simp] theorem setMiss_gangid (g : Gang) : (setMiss g).gangid = g.gangid := rfl
@[simp] theorem setMiss_cohort (g : Gang) : (setMiss g).cohort = g.cohort := rfl
@[simp] theorem setMiss_grid (g : Gang) : (setMiss g).grid = g.grid := rfl
@[simp] theorem setMiss_die (g : Gang) : (setMiss g).die = g.die := rfl
@[simp] theorem setMiss_core (g : Gang) : (setMiss g).core = g.core := rfl
@[simp] theorem setMiss_index (g : Gang) : (setMiss g).index = g.index := rfl
@[simp] theorem setMiss_kd (g : Gang) : (setMiss g).kd = g.kd := rfl
@[simp] theorem setMiss_params (g : Gang) : (setMiss g).params = g.params := rfl
@[simp] theorem setMiss_cidx (g : Gang) : (setMiss g).cidx = g.cidx := rfl
@[simp] theorem setMiss_cidy (g : Gang) : (setMiss g).cidy = g.cidy := rfl
@[simp] theorem setMiss_cidz (g : Gang) : (setMiss g).cidz = g.cidz := rfl
@[simp] theorem setMiss_ncidx (g : Gang) : (setMiss g).ncidx = g.ncidx := rfl
@[simp] theorem setMiss_ncidy (g : Gang) : (setMiss g).ncidy = g.ncidy := rfl
@[simp] theorem setMiss_ncidz (g : Gang) : (setMiss g).ncidz = g.ncidz := rfl
@[simp] theorem setMiss_v (g : Gang) : (setMiss g).v = g.v := rfl
@[simp] theorem setMiss_vpoison (g : Gang) : (setMiss g).vpoison = g.vpoison := rfl
@[simp] theorem setMiss_s (g : Gang) : (setMiss g).s = g.s := rfl
@[simp] theorem setMiss_p (g : Gang) : (setMiss g).p = g.p := rfl
@[simp] theorem setMiss_paths (g : Gang) : (setMiss g).paths = g.paths := rfl
@[simp] theorem setMiss_stack (g : Gang) : (setMiss g).stack = g.stack := rfl
@[simp] theorem setMiss_exited (g : Gang) : (setMiss g).exited = g.exited := rfl
@[simp] theorem setMiss_round (g : Gang) : (setMiss g).round = g.round := rfl
@[simp] theorem setMiss_fpstat (g : Gang) : (setMiss g).fpstat = g.fpstat := rfl
@[simp] theorem setMiss_xlctl (g : Gang) : (setMiss g).xlctl = g.xlctl ||| 1 := rfl
@[simp] theorem setMiss_capctl (g : Gang) : (setMiss g).capctl = g.capctl := rfl
@[simp] theorem setMiss_capstat (g : Gang) : (setMiss g).capstat = g.capstat := rfl
@[simp] theorem setMiss_tcause (g : Gang) : (setMiss g).tcause = g.tcause := rfl
@[simp] theorem setMiss_tpc (g : Gang) : (setMiss g).tpc = g.tpc := rfl
@[simp] theorem setMiss_taddr (g : Gang) : (setMiss g).taddr = g.taddr := rfl
@[simp] theorem setMiss_tlanes (g : Gang) : (setMiss g).tlanes = g.tlanes := rfl
@[simp] theorem setMiss_tinfo (g : Gang) : (setMiss g).tinfo = g.tinfo := rfl
@[simp] theorem setMiss_handler (g : Gang) : (setMiss g).handler = g.handler := rfl
@[simp] theorem setMiss_head (g : Gang) : (setMiss g).head = g.head := rfl
@[simp] theorem setMiss_count (g : Gang) : (setMiss g).count = g.count := rfl
@[simp] theorem setMiss_frontAt (g : Gang) : (setMiss g).frontAt = g.frontAt := rfl
@[simp] theorem setMiss_tokens (g : Gang) : (setMiss g).tokens = g.tokens := rfl
@[simp] theorem setMiss_mregs (g : Gang) : (setMiss g).mregs = g.mregs := rfl
@[simp] theorem setMiss_tiles (g : Gang) : (setMiss g).tiles = g.tiles := rfl
@[simp] theorem setMiss_phys (g : Gang) : (setMiss g).phys = g.phys := rfl
@[simp] theorem setMiss_areas (g : Gang) : (setMiss g).areas = g.areas := rfl
@[simp] theorem setMiss_spos (g : Gang) : (setMiss g).spos = g.spos := rfl
@[simp] theorem setMiss_outst (g : Gang) : (setMiss g).outst = g.outst := rfl
@[simp] theorem setMiss_xc (g : Gang) : (setMiss g).xc = g.xc := rfl
@[simp] theorem setMiss_parks (g : Gang) : (setMiss g).parks = g.parks := rfl
@[simp] theorem setMiss_ops (g : Gang) : (setMiss g).ops = g.ops := rfl
@[simp] theorem setMiss_storeGate (g : Gang) : (setMiss g).storeGate = g.storeGate := rfl
@[simp] theorem setMiss_hostWrites (g : Gang) : (setMiss g).hostWrites = g.hostWrites := rfl
@[simp] theorem setMiss_sysGate (g : Gang) : (setMiss g).sysGate = g.sysGate := rfl
@[simp] theorem setMiss_sysRead (g : Gang) : (setMiss g).sysRead = g.sysRead := rfl
@[simp] theorem setMiss_engineHost (g : Gang) : (setMiss g).engineHost = g.engineHost := rfl
@[simp] theorem setMiss_pending (g : Gang) : (setMiss g).pending = g.pending := rfl
@[simp] theorem setMiss_stopped (g : Gang) : (setMiss g).stopped = g.stopped := rfl
@[simp] theorem setMiss_paused (g : Gang) : (setMiss g).paused = g.paused := rfl
@[simp] theorem setMiss_nextPath (g : Gang) : (setMiss g).nextPath = g.nextPath := rfl
@[simp] theorem setMiss_readySince (g : Gang) : (setMiss g).readySince = g.readySince := rfl
@[simp] theorem setMiss_urgent (g : Gang) : (setMiss g).urgent = g.urgent := rfl
@[simp] theorem setMiss_block (g : Gang) : (setMiss g).block = g.block := rfl
@[simp] theorem setMiss_granules (g : Gang) : (setMiss g).granules = g.granules := rfl
@[simp] theorem setMiss_rot (g : Gang) : (setMiss g).rot = g.rot := rfl
@[simp] theorem setMiss_held (g : Gang) : (setMiss g).held = g.held := rfl
@[simp] theorem setMiss_engaged (g : Gang) : (setMiss g).engaged = g.engaged := rfl
@[simp] theorem setMiss_fetching (g : Gang) : (setMiss g).fetching = g.fetching := rfl

@[simp] theorem settle_gangid (g : Gang) (now : Nat) : (settle g now).gangid = g.gangid := rfl
@[simp] theorem settle_cohort (g : Gang) (now : Nat) : (settle g now).cohort = g.cohort := rfl
@[simp] theorem settle_grid (g : Gang) (now : Nat) : (settle g now).grid = g.grid := rfl
@[simp] theorem settle_die (g : Gang) (now : Nat) : (settle g now).die = g.die := rfl
@[simp] theorem settle_core (g : Gang) (now : Nat) : (settle g now).core = g.core := rfl
@[simp] theorem settle_index (g : Gang) (now : Nat) : (settle g now).index = g.index := rfl
@[simp] theorem settle_kd (g : Gang) (now : Nat) : (settle g now).kd = g.kd := rfl
@[simp] theorem settle_params (g : Gang) (now : Nat) : (settle g now).params = g.params := rfl
@[simp] theorem settle_cidx (g : Gang) (now : Nat) : (settle g now).cidx = g.cidx := rfl
@[simp] theorem settle_cidy (g : Gang) (now : Nat) : (settle g now).cidy = g.cidy := rfl
@[simp] theorem settle_cidz (g : Gang) (now : Nat) : (settle g now).cidz = g.cidz := rfl
@[simp] theorem settle_ncidx (g : Gang) (now : Nat) : (settle g now).ncidx = g.ncidx := rfl
@[simp] theorem settle_ncidy (g : Gang) (now : Nat) : (settle g now).ncidy = g.ncidy := rfl
@[simp] theorem settle_ncidz (g : Gang) (now : Nat) : (settle g now).ncidz = g.ncidz := rfl
@[simp] theorem settle_v (g : Gang) (now : Nat) : (settle g now).v = g.v := rfl
@[simp] theorem settle_vpoison (g : Gang) (now : Nat) : (settle g now).vpoison = g.vpoison := rfl
@[simp] theorem settle_s (g : Gang) (now : Nat) : (settle g now).s = g.s := rfl
@[simp] theorem settle_p (g : Gang) (now : Nat) : (settle g now).p = g.p := rfl
@[simp] theorem settle_paths (g : Gang) (now : Nat) : (settle g now).paths = (settled g.handler g.exited now g.paths g.stack).1 := rfl
@[simp] theorem settle_stack (g : Gang) (now : Nat) : (settle g now).stack = (settled g.handler g.exited now g.paths g.stack).2 := rfl
@[simp] theorem settle_exited (g : Gang) (now : Nat) : (settle g now).exited = g.exited := rfl
@[simp] theorem settle_round (g : Gang) (now : Nat) : (settle g now).round = g.round := rfl
@[simp] theorem settle_fpstat (g : Gang) (now : Nat) : (settle g now).fpstat = g.fpstat := rfl
@[simp] theorem settle_xlctl (g : Gang) (now : Nat) : (settle g now).xlctl = g.xlctl := rfl
@[simp] theorem settle_capctl (g : Gang) (now : Nat) : (settle g now).capctl = g.capctl := rfl
@[simp] theorem settle_capstat (g : Gang) (now : Nat) : (settle g now).capstat = g.capstat := rfl
@[simp] theorem settle_tcause (g : Gang) (now : Nat) : (settle g now).tcause = g.tcause := rfl
@[simp] theorem settle_tpc (g : Gang) (now : Nat) : (settle g now).tpc = g.tpc := rfl
@[simp] theorem settle_taddr (g : Gang) (now : Nat) : (settle g now).taddr = g.taddr := rfl
@[simp] theorem settle_tlanes (g : Gang) (now : Nat) : (settle g now).tlanes = g.tlanes := rfl
@[simp] theorem settle_tinfo (g : Gang) (now : Nat) : (settle g now).tinfo = g.tinfo := rfl
@[simp] theorem settle_handler (g : Gang) (now : Nat) : (settle g now).handler = g.handler := rfl
@[simp] theorem settle_head (g : Gang) (now : Nat) : (settle g now).head = g.head := rfl
@[simp] theorem settle_count (g : Gang) (now : Nat) : (settle g now).count = g.count := rfl
@[simp] theorem settle_frontAt (g : Gang) (now : Nat) : (settle g now).frontAt = g.frontAt := rfl
@[simp] theorem settle_tokens (g : Gang) (now : Nat) : (settle g now).tokens = g.tokens := rfl
@[simp] theorem settle_mregs (g : Gang) (now : Nat) : (settle g now).mregs = g.mregs := rfl
@[simp] theorem settle_tiles (g : Gang) (now : Nat) : (settle g now).tiles = g.tiles := rfl
@[simp] theorem settle_phys (g : Gang) (now : Nat) : (settle g now).phys = g.phys := rfl
@[simp] theorem settle_areas (g : Gang) (now : Nat) : (settle g now).areas = g.areas := rfl
@[simp] theorem settle_spos (g : Gang) (now : Nat) : (settle g now).spos = g.spos := rfl
@[simp] theorem settle_outst (g : Gang) (now : Nat) : (settle g now).outst = g.outst := rfl
@[simp] theorem settle_xc (g : Gang) (now : Nat) : (settle g now).xc = g.xc := rfl
@[simp] theorem settle_parks (g : Gang) (now : Nat) : (settle g now).parks = g.parks := rfl
@[simp] theorem settle_ops (g : Gang) (now : Nat) : (settle g now).ops = g.ops := rfl
@[simp] theorem settle_storeGate (g : Gang) (now : Nat) : (settle g now).storeGate = g.storeGate := rfl
@[simp] theorem settle_hostWrites (g : Gang) (now : Nat) : (settle g now).hostWrites = g.hostWrites := rfl
@[simp] theorem settle_sysGate (g : Gang) (now : Nat) : (settle g now).sysGate = g.sysGate := rfl
@[simp] theorem settle_sysRead (g : Gang) (now : Nat) : (settle g now).sysRead = g.sysRead := rfl
@[simp] theorem settle_engineHost (g : Gang) (now : Nat) : (settle g now).engineHost = g.engineHost := rfl
@[simp] theorem settle_pending (g : Gang) (now : Nat) : (settle g now).pending = g.pending := rfl
@[simp] theorem settle_stopped (g : Gang) (now : Nat) : (settle g now).stopped = g.stopped := rfl
@[simp] theorem settle_paused (g : Gang) (now : Nat) : (settle g now).paused = g.paused := rfl
@[simp] theorem settle_nextPath (g : Gang) (now : Nat) : (settle g now).nextPath = g.nextPath := rfl
@[simp] theorem settle_readySince (g : Gang) (now : Nat) : (settle g now).readySince = g.readySince := rfl
@[simp] theorem settle_urgent (g : Gang) (now : Nat) : (settle g now).urgent = g.urgent := rfl
@[simp] theorem settle_block (g : Gang) (now : Nat) : (settle g now).block = g.block := rfl
@[simp] theorem settle_granules (g : Gang) (now : Nat) : (settle g now).granules = g.granules := rfl
@[simp] theorem settle_rot (g : Gang) (now : Nat) : (settle g now).rot = g.rot := rfl
@[simp] theorem settle_held (g : Gang) (now : Nat) : (settle g now).held = g.held := rfl
@[simp] theorem settle_engaged (g : Gang) (now : Nat) : (settle g now).engaged = g.engaged := rfl
@[simp] theorem settle_fetching (g : Gang) (now : Nat) : (settle g now).fetching = g.fetching := rfl

@[simp] theorem waitPath_gangid (g : Gang) (i : Nat) (st : PathSt) : (waitPath g i st).gangid = g.gangid := rfl
@[simp] theorem waitPath_cohort (g : Gang) (i : Nat) (st : PathSt) : (waitPath g i st).cohort = g.cohort := rfl
@[simp] theorem waitPath_grid (g : Gang) (i : Nat) (st : PathSt) : (waitPath g i st).grid = g.grid := rfl
@[simp] theorem waitPath_die (g : Gang) (i : Nat) (st : PathSt) : (waitPath g i st).die = g.die := rfl
@[simp] theorem waitPath_core (g : Gang) (i : Nat) (st : PathSt) : (waitPath g i st).core = g.core := rfl
@[simp] theorem waitPath_index (g : Gang) (i : Nat) (st : PathSt) : (waitPath g i st).index = g.index := rfl
@[simp] theorem waitPath_kd (g : Gang) (i : Nat) (st : PathSt) : (waitPath g i st).kd = g.kd := rfl
@[simp] theorem waitPath_params (g : Gang) (i : Nat) (st : PathSt) : (waitPath g i st).params = g.params := rfl
@[simp] theorem waitPath_cidx (g : Gang) (i : Nat) (st : PathSt) : (waitPath g i st).cidx = g.cidx := rfl
@[simp] theorem waitPath_cidy (g : Gang) (i : Nat) (st : PathSt) : (waitPath g i st).cidy = g.cidy := rfl
@[simp] theorem waitPath_cidz (g : Gang) (i : Nat) (st : PathSt) : (waitPath g i st).cidz = g.cidz := rfl
@[simp] theorem waitPath_ncidx (g : Gang) (i : Nat) (st : PathSt) : (waitPath g i st).ncidx = g.ncidx := rfl
@[simp] theorem waitPath_ncidy (g : Gang) (i : Nat) (st : PathSt) : (waitPath g i st).ncidy = g.ncidy := rfl
@[simp] theorem waitPath_ncidz (g : Gang) (i : Nat) (st : PathSt) : (waitPath g i st).ncidz = g.ncidz := rfl
@[simp] theorem waitPath_v (g : Gang) (i : Nat) (st : PathSt) : (waitPath g i st).v = g.v := rfl
@[simp] theorem waitPath_vpoison (g : Gang) (i : Nat) (st : PathSt) : (waitPath g i st).vpoison = g.vpoison := rfl
@[simp] theorem waitPath_s (g : Gang) (i : Nat) (st : PathSt) : (waitPath g i st).s = g.s := rfl
@[simp] theorem waitPath_p (g : Gang) (i : Nat) (st : PathSt) : (waitPath g i st).p = g.p := rfl
@[simp] theorem waitPath_paths (g : Gang) (i : Nat) (st : PathSt) : (waitPath g i st).paths = mapPath g.paths i (fun p => { p with st := st }) := rfl
@[simp] theorem waitPath_stack (g : Gang) (i : Nat) (st : PathSt) : (waitPath g i st).stack = g.stack := rfl
@[simp] theorem waitPath_exited (g : Gang) (i : Nat) (st : PathSt) : (waitPath g i st).exited = g.exited := rfl
@[simp] theorem waitPath_round (g : Gang) (i : Nat) (st : PathSt) : (waitPath g i st).round = g.round := rfl
@[simp] theorem waitPath_fpstat (g : Gang) (i : Nat) (st : PathSt) : (waitPath g i st).fpstat = g.fpstat := rfl
@[simp] theorem waitPath_xlctl (g : Gang) (i : Nat) (st : PathSt) : (waitPath g i st).xlctl = g.xlctl := rfl
@[simp] theorem waitPath_capctl (g : Gang) (i : Nat) (st : PathSt) : (waitPath g i st).capctl = g.capctl := rfl
@[simp] theorem waitPath_capstat (g : Gang) (i : Nat) (st : PathSt) : (waitPath g i st).capstat = g.capstat := rfl
@[simp] theorem waitPath_tcause (g : Gang) (i : Nat) (st : PathSt) : (waitPath g i st).tcause = g.tcause := rfl
@[simp] theorem waitPath_tpc (g : Gang) (i : Nat) (st : PathSt) : (waitPath g i st).tpc = g.tpc := rfl
@[simp] theorem waitPath_taddr (g : Gang) (i : Nat) (st : PathSt) : (waitPath g i st).taddr = g.taddr := rfl
@[simp] theorem waitPath_tlanes (g : Gang) (i : Nat) (st : PathSt) : (waitPath g i st).tlanes = g.tlanes := rfl
@[simp] theorem waitPath_tinfo (g : Gang) (i : Nat) (st : PathSt) : (waitPath g i st).tinfo = g.tinfo := rfl
@[simp] theorem waitPath_handler (g : Gang) (i : Nat) (st : PathSt) : (waitPath g i st).handler = g.handler := rfl
@[simp] theorem waitPath_head (g : Gang) (i : Nat) (st : PathSt) : (waitPath g i st).head = g.head := rfl
@[simp] theorem waitPath_count (g : Gang) (i : Nat) (st : PathSt) : (waitPath g i st).count = g.count := rfl
@[simp] theorem waitPath_frontAt (g : Gang) (i : Nat) (st : PathSt) : (waitPath g i st).frontAt = g.frontAt := rfl
@[simp] theorem waitPath_tokens (g : Gang) (i : Nat) (st : PathSt) : (waitPath g i st).tokens = g.tokens := rfl
@[simp] theorem waitPath_mregs (g : Gang) (i : Nat) (st : PathSt) : (waitPath g i st).mregs = g.mregs := rfl
@[simp] theorem waitPath_tiles (g : Gang) (i : Nat) (st : PathSt) : (waitPath g i st).tiles = g.tiles := rfl
@[simp] theorem waitPath_phys (g : Gang) (i : Nat) (st : PathSt) : (waitPath g i st).phys = g.phys := rfl
@[simp] theorem waitPath_areas (g : Gang) (i : Nat) (st : PathSt) : (waitPath g i st).areas = g.areas := rfl
@[simp] theorem waitPath_spos (g : Gang) (i : Nat) (st : PathSt) : (waitPath g i st).spos = g.spos := rfl
@[simp] theorem waitPath_outst (g : Gang) (i : Nat) (st : PathSt) : (waitPath g i st).outst = g.outst := rfl
@[simp] theorem waitPath_xc (g : Gang) (i : Nat) (st : PathSt) : (waitPath g i st).xc = g.xc := rfl
@[simp] theorem waitPath_parks (g : Gang) (i : Nat) (st : PathSt) : (waitPath g i st).parks = g.parks := rfl
@[simp] theorem waitPath_ops (g : Gang) (i : Nat) (st : PathSt) : (waitPath g i st).ops = g.ops := rfl
@[simp] theorem waitPath_storeGate (g : Gang) (i : Nat) (st : PathSt) : (waitPath g i st).storeGate = g.storeGate := rfl
@[simp] theorem waitPath_hostWrites (g : Gang) (i : Nat) (st : PathSt) : (waitPath g i st).hostWrites = g.hostWrites := rfl
@[simp] theorem waitPath_sysGate (g : Gang) (i : Nat) (st : PathSt) : (waitPath g i st).sysGate = g.sysGate := rfl
@[simp] theorem waitPath_sysRead (g : Gang) (i : Nat) (st : PathSt) : (waitPath g i st).sysRead = g.sysRead := rfl
@[simp] theorem waitPath_engineHost (g : Gang) (i : Nat) (st : PathSt) : (waitPath g i st).engineHost = g.engineHost := rfl
@[simp] theorem waitPath_pending (g : Gang) (i : Nat) (st : PathSt) : (waitPath g i st).pending = g.pending := rfl
@[simp] theorem waitPath_stopped (g : Gang) (i : Nat) (st : PathSt) : (waitPath g i st).stopped = g.stopped := rfl
@[simp] theorem waitPath_paused (g : Gang) (i : Nat) (st : PathSt) : (waitPath g i st).paused = g.paused := rfl
@[simp] theorem waitPath_nextPath (g : Gang) (i : Nat) (st : PathSt) : (waitPath g i st).nextPath = g.nextPath := rfl
@[simp] theorem waitPath_readySince (g : Gang) (i : Nat) (st : PathSt) : (waitPath g i st).readySince = g.readySince := rfl
@[simp] theorem waitPath_urgent (g : Gang) (i : Nat) (st : PathSt) : (waitPath g i st).urgent = g.urgent := rfl
@[simp] theorem waitPath_block (g : Gang) (i : Nat) (st : PathSt) : (waitPath g i st).block = g.block := rfl
@[simp] theorem waitPath_granules (g : Gang) (i : Nat) (st : PathSt) : (waitPath g i st).granules = g.granules := rfl
@[simp] theorem waitPath_rot (g : Gang) (i : Nat) (st : PathSt) : (waitPath g i st).rot = g.rot := rfl
@[simp] theorem waitPath_held (g : Gang) (i : Nat) (st : PathSt) : (waitPath g i st).held = g.held := rfl
@[simp] theorem waitPath_engaged (g : Gang) (i : Nat) (st : PathSt) : (waitPath g i st).engaged = g.engaged := rfl
@[simp] theorem waitPath_fetching (g : Gang) (i : Nat) (st : PathSt) : (waitPath g i st).fetching = g.fetching := rfl

end Sys2Proof.Machine
end

