-- ==== Sys2Proof/Laws/Gang.lean ====
section
/-! SUPPORT. What writing registers and predicates does to a gang. -/

namespace Sys2Proof.Machine

@[simp] theorem Gang.withV_withV (g : Gang) (a c : List (Nat × Word)) (b d : List Nat) : (g.withV a b).withV c d = g.withV c d := rfl
@[simp] theorem Gang.withV_v (g : Gang) (a : List (Nat × Word)) (b : List Nat) : (g.withV a b).v = a := rfl

theorem getV_setV (g : Gang) (h : spOk 0 g.v = true) (r l : Nat) (x : Word) (q k : Nat) (hl : l < 64) (hk : k < 64) :
    getV (setV g r l x) q k = if q = r ∧ k = l then x else getV g q k := by
  unfold getV
  rw [setV_v]
  split
  · obtain ⟨rfl, rfl⟩ := ‹_›
    exact spGet_spSet_same 0 _ _ h
  · exact spGet_spSet_ne 0 _ (by omega) h

theorem mem_setDel (m : List Nat) (a b : Nat) : (setDel m a).contains b = (m.contains b && b != a) := by
  simp [setDel, List.contains_eq_mem, bne]
  by_cases h : b = a <;> simp [h]

theorem spOk_setV (g : Gang) (h : spOk 0 g.v = true) (r l : Nat) (x : Word) : spOk 0 (setV g r l x).v = true :=
  spOk_spSet 0 _ _ h

/-- One lane of a write. -/
theorem writeV_one (g : Gang) (h : spOk 0 g.v = true) (ty : Ty) (d : Field10) (l : Nat) (hl : l < 64) (x : DWord) :
    spOk 0 (writeV g ty d l x).v = true ∧ writeV g ty d l x = g.withV (writeV g ty d l x).v (writeV g ty d l x).vpoison ∧
    (∀ r k, k < 64 → getV (writeV g ty d l x) r k =
      if k = l ∧ r = d.toNat then x.extractLsb' 0 32
      else if k = l ∧ isWide ty = true ∧ r = d.toNat + 1 then x.extractLsb' 32 32 else getV g r k) ∧
    (∀ r k, k < 64 → (writeV g ty d l x).vpoison.contains (64 * r + k) =
      (g.vpoison.contains (64 * r + k) && !(k == l && (r == d.toNat || (isWide ty && r == d.toNat + 1))))) := by
  have hs : (x.setWidth 32 : Word) = x.extractLsb' 0 32 := by
    apply BitVec.eq_of_getLsbD_eq; intro i hi; simp [hi]
  unfold writeV
  split
  next hw =>
    refine ⟨spOk_setV _ (spOk_setV g h ..) .., rfl, fun r k hk => ?_, fun r k hk => ?_⟩
    · simp only [setVV]
      rw [getV_setV _ (spOk_setV g h ..) _ _ _ _ _ hl hk, getV_setV g h _ _ _ _ _ hl hk]
      by_cases h1 : k = l <;> by_cases h2 : r = d.toNat <;> by_cases h3 : r = d.toNat + 1 <;> simp_all <;> omega
    · simp only [setVV, setV_vpoison, mem_setDel, bne]
      have e1 : (64 * r + k == 64 * d.toNat + l) = (k == l && r == d.toNat) := by
        rw [Bool.eq_iff_iff]; simp; omega
      have e2 : (64 * r + k == 64 * (d.toNat + 1) + l) = (k == l && r == d.toNat + 1) := by
        rw [Bool.eq_iff_iff]; simp; omega
      rw [e1, e2, hw]
      cases (k == l) <;> cases (r == d.toNat) <;> cases (r == d.toNat + 1) <;> simp
  next hw =>
    refine ⟨spOk_setV g h .., rfl, fun r k hk => ?_, fun r k hk => ?_⟩
    · rw [getV_setV g h _ _ _ _ _ hl hk, hs]
      by_cases h1 : k = l <;> by_cases h2 : r = d.toNat <;> simp_all
    · simp only [setV_vpoison, mem_setDel, bne]
      have e1 : (64 * r + k == 64 * d.toNat + l) = (k == l && r == d.toNat) := by
        rw [Bool.eq_iff_iff]; simp; omega
      rw [e1]
      cases (k == l) <;> cases (r == d.toNat) <;> simp [hw]

theorem lanes_write (ty : Ty) (d : Field10) (x : Nat → DWord) (ls : List Nat) (hls : ∀ l ∈ ls, l < 64) (g : Gang)
    (h : spOk 0 g.v = true) :
    let g' := ls.foldl (fun acc l => writeV acc ty d l (x l)) g
    spOk 0 g'.v = true ∧ g' = g.withV g'.v g'.vpoison ∧
    (∀ r k, k < 64 → getV g' r k =
      if k ∈ ls ∧ r = d.toNat then (x k).extractLsb' 0 32
      else if k ∈ ls ∧ isWide ty = true ∧ r = d.toNat + 1 then (x k).extractLsb' 32 32 else getV g r k) ∧
    (∀ r k, k < 64 → g'.vpoison.contains (64 * r + k) =
      (g.vpoison.contains (64 * r + k) && !(decide (k ∈ ls) && (r == d.toNat || (isWide ty && r == d.toNat + 1))))) := by
  induction ls generalizing g with
  | nil => exact ⟨h, rfl, by simp, by simp⟩
  | cons a t ih =>
    obtain ⟨h1, h2, h3, h4⟩ := writeV_one g h ty d a (hls a (by simp)) (x a)
    obtain ⟨i1, i2, i3, i4⟩ := ih (fun l hl => hls l (by simp [hl])) (writeV g ty d a (x a)) h1
    refine ⟨i1, ?_, fun r k hk => ?_, fun r k hk => ?_⟩
    · exact i2.trans (by unfold writeV; split <;> rfl)
    · rw [List.foldl_cons, i3 r k hk, h3 r k hk]
      simp only [List.mem_cons]
      by_cases e : k = a
      · subst e
        by_cases f : k ∈ t <;> simp only [f, if_true, true_and, or_true, or_false, false_and, if_false]
        split
        · rfl
        · split <;> rfl
      · by_cases f : k ∈ t <;> simp only [e, f, if_true, true_and, or_true, or_false, false_and, if_false, false_or]
    · rw [List.foldl_cons, i4 r k hk, h4 r k hk]
      have m1 : decide (k ∈ a :: t) = ((k == a) || decide (k ∈ t)) := by rw [Bool.eq_iff_iff]; simp
      rw [m1]
      generalize (r == d.toNat || (isWide ty && r == d.toNat + 1)) = q
      cases (k == a) <;> cases (decide (k ∈ t)) <;> cases q <;> simp

theorem mem_lanesOf (m : LaneMask) (l : Nat) : l ∈ lanesOf m ↔ l < 64 ∧ m.getLsbD l = true := by
  simp [lanesOf]

/-- Writing lanes writes exactly them. -/
theorem writeLanes_wrote (g : Gang) (h : spOk 0 g.v = true) (ty : Ty) (d : Field10) (m : LaneMask) (x : Nat → DWord) :
    WroteV g (writeLanes g ty d m x) ty d m x := by
  obtain ⟨_, h2, h3, h4⟩ := lanes_write ty d x (lanesOf m) (fun l hl => ((mem_lanesOf m l).1 hl).1) g h
  refine ⟨h2, fun r l hl => (h3 r l hl).trans ?_, fun r l hl => (h4 r l hl).trans ?_⟩
  · simp [mem_lanesOf, hl]
  · simp [mem_lanesOf, hl]

theorem spOk_writeLanes (g : Gang) (h : spOk 0 g.v = true) (ty : Ty) (d : Field10) (m : LaneMask) (x : Nat → DWord) :
    spOk 0 (writeLanes g ty d m x).v = true :=
  (lanes_write ty d x (lanesOf m) (fun l hl => ((mem_lanesOf m l).1 hl).1) g h).1

/-- A 32-bit write is a write of any 32-bit type. -/
theorem writeLanes32_eq (g : Gang) (d : Field10) (m : LaneMask) (x : Nat → Word) :
    writeLanes32 g d m x = writeLanes g .i32 d m (fun l => (x l).setWidth 64) := by
  unfold writeLanes32 writeLanes forLanes
  congr 1
  funext acc l
  simp [writeV, isWide]

/-- A uniform write. -/
theorem writeS_wrote (g : Gang) (h : spOk 0 g.s = true) (ty : Ty) (d : Field10) (x : DWord) :
    WroteS g (writeS g ty d x) ty d x := by
  have hs : (x.setWidth 32 : Word) = x.extractLsb' 0 32 := by
    apply BitVec.eq_of_getLsbD_eq; intro i hi; simp [hi]
  unfold writeS
  split
  next hw =>
    refine ⟨rfl, fun r => ?_⟩
    simp only [setSS, getS, setS_s]
    by_cases h1 : r = d.toNat
    · subst h1
      rw [spGet_spSet_ne 0 _ (by omega) (spOk_spSet 0 _ _ h), spGet_spSet_same 0 _ _ h]; simp
    · by_cases h2 : r = d.toNat + 1
      · subst h2
        rw [spGet_spSet_same 0 _ _ (spOk_spSet 0 _ _ h)]; simp [hw]
      · rw [spGet_spSet_ne 0 _ h2 (spOk_spSet 0 _ _ h), spGet_spSet_ne 0 _ h1 h]; simp [h1, h2]
  next hw =>
    refine ⟨rfl, fun r => ?_⟩
    simp only [getS, setS_s]
    by_cases h1 : r = d.toNat
    · subst h1
      rw [spGet_spSet_same 0 _ _ h, hs]; simp
    · rw [spGet_spSet_ne 0 _ h1 h]; simp [h1, hw]

/-- A predicate write. -/
theorem setPred_wrote (g : Gang) (h : spOk 0 g.p = true) (n : BitVec 4) (m y : LaneMask) :
    WroteP g (setPred g n m y) n m (fun l => y.getLsbD l) := by
  unfold setPred
  split
  next h0 => exact ⟨rfl, fun k l _ => by simp [h0]⟩
  next h0 =>
    refine ⟨rfl, fun k l hl => ?_⟩
    unfold getPred
    by_cases hk : k = n
    · subst hk
      rw [if_neg h0, if_neg h0, spGet_spSet_same 0 _ _ h]
      have hm : m.getLsbD l = m[l] := BitVec.getLsbD_eq_getElem hl
      cases e : m[l] <;> simp [hm, e, hl, h0] <;> intro k0 <;> exact absurd k0 h0
    · have : k.toNat ≠ n.toNat := fun e => hk (BitVec.eq_of_toNat_eq e)
      rw [spGet_spSet_ne 0 _ this h]
      simp [hk]

theorem maskWhere_getLsbD (f : Nat → Bool) (l : Nat) (hl : l < 64) : (maskWhere f).getLsbD l = f l := by
  suffices H : ∀ n, n ≤ 64 → ∀ i, ((List.range n).foldl (fun acc l => if f l then acc + 2 ^ l else acc) 0).testBit i = (decide (i < n) && f i) ∧
      (List.range n).foldl (fun acc l => if f l then acc + 2 ^ l else acc) 0 < 2 ^ n by
    have := (H 64 le_rfl l).1
    simp only [maskWhere, BitVec.getLsbD_ofNat, this, hl, decide_true, Bool.true_and]
  intro n
  induction n with
  | zero => intro _ i; simp
  | succ n ih =>
    intro hn i
    have hi := ih (by omega) i
    have hb := (ih (by omega) 0).2
    rw [List.range_succ, List.foldl_append]
    simp only [List.foldl_cons, List.foldl_nil]
    split
    next hf =>
      constructor
      · have e := Nat.two_pow_add_eq_or_of_lt hb 1
        rw [Nat.mul_one] at e
        rw [Nat.add_comm, e, Nat.testBit_or, hi.1, Nat.testBit_two_pow]
        by_cases u : i = n
        · subst u; simp [hf]
        · have a : (decide (i < n + 1)) = decide (i < n) := by simp; omega
          have b : decide (n = i) = false := by simp; omega
          rw [a, b, Bool.false_or]
      · rw [Nat.pow_succ]; omega
    next hf =>
      constructor
      · rw [hi.1]
        by_cases e : i = n
        · subst e; simp [hf]
        · have : (decide (i < n + 1)) = decide (i < n) := by simp; omega
          rw [this]
      · rw [Nat.pow_succ]; omega

end Sys2Proof.Machine
end

