-- ==== Sys2Proof/Laws/Ops.lean ====
section
/-! SUPPORT. What the shared frames of an issuing instruction answer. -/

namespace Sys2Proof.Machine

/-- The checks passed: the instruction runs. -/
theorem issueChecked_run {s : State} {i : Instr} {gi : Nat} {g : Gang} {p : Path} {vr : List Nat} {extra : Kernel → Bool}
    (h : Issues s i gi g p vr) (he : extra g.kd = true) (k : Nat → Gang → Path → Out) :
    issueChecked i vr extra s k = k gi g p := by
  have hv : vr.all (fun r => decide (r < g.kd.regs)) = true := List.all_eq_true.2 fun r hr => decide_eq_true (h.exist r hr)
  simp [issueChecked, h.issuing, h.wf, h.free, he, hv]

/-- A reserved encoding, or a register past the kernel's, is ILLOP before any guard (R19, R65, R66). -/
theorem issueChecked_illop {s : State} {i : Instr} {gi : Nat} {g : Gang} {p : Path} {vr : List Nat} {extra : Kernel → Bool}
    (h : s.issuing = some (gi, g, p)) (hb : (i.wf && vr.all (fun r => decide (r < g.kd.regs)) && extra g.kd) = false)
    (k : Nat → Gang → Path → Out) : issueChecked i vr extra s k = .next (s.trap gi g p (illop p)) := by
  unfold issueChecked
  rw [h]
  simp only [hb]
  rfl

/-- Only a machine in which nothing issues stops here. -/
theorem issueChecked_none {s : State} {i : Instr} {vr : List Nat} {extra : Kernel → Bool} (h : s.issuing = none)
    (k : Nat → Gang → Path → Out) : issueChecked i vr extra s k = .fault .noIssuingPath := by
  simp [issueChecked, h]

theorem maskWhere_eq_zero {f : Nat → Bool} (h : ∀ l, l < 64 → f l = false) : maskWhere f = 0 := by
  apply BitVec.eq_of_getLsbD_eq
  intro i hi
  rw [maskWhere_getLsbD f i hi, h i hi]; simp

/-- No poison is read from unpoisoned registers (R369). -/
theorem poisonedRead_none {g : Gang} {m : LaneMask} {rd : List Nat} (h : Unpoisoned g m rd) : poisonedRead g m rd = none := by
  induction rd with
  | nil => rfl
  | cons r rs ih =>
    have hz : maskWhere (fun l => m.getLsbD l && g.vpoison.contains (64 * r + l)) = 0 := maskWhere_eq_zero fun l hl => by
      cases hm : m.getLsbD l
      · rfl
      · rw [h r (by simp) l hl hm]; rfl
    unfold poisonedRead
    simp only [hz]
    exact ih fun q hq => h q (by simp [hq])

theorem unpoisoned_nil (g : Gang) (m : LaneMask) : Unpoisoned g m [] := nofun

/-- A scalar instruction whose checks pass. -/
theorem scalarInstr_run {s : State} {i : Instr} {gi : Nat} {g : Gang} {p : Path} (h : Issues s i gi g p []) (gd : Guard) (f : Gang → Gang) :
    scalarInstr i gd s f = .next (pastInstr s gi p (instrBytes i) (if guardLanes g p gd = 0 then g else f g)) := by
  unfold scalarInstr
  rw [issueChecked_run h rfl]
  rfl

/-- A vector instruction whose checks pass and whose sources are not poisoned. -/
theorem vectorInstr_run {s : State} {i : Instr} {gi : Nat} {g : Gang} {p : Path} {rd wr : List Nat} (h : Issues s i gi g p (rd ++ wr))
    (gd : Guard) (hc : Unpoisoned g (guardLanes g p gd) rd) (f : Gang → Path → LaneMask → GRes) :
    vectorInstr i gd rd wr s f = finish s gi g p (instrBytes i) (f g p (guardLanes g p gd)) := by
  unfold vectorInstr
  rw [issueChecked_run h rfl]
  simp only [poisonedRead_none hc]

/-- A poisoned source raises POISON naming the first such register and its lanes (R359, R360, R369). -/
theorem vectorInstr_poison {s : State} {i : Instr} {gi : Nat} {g : Gang} {p : Path} {rd wr : List Nat} (h : Issues s i gi g p (rd ++ wr))
    (gd : Guard) {r : Nat} {hit : LaneMask} (hc : poisonedRead g (guardLanes g p gd) rd = some (r, hit)) (f : Gang → Path → LaneMask → GRes) :
    vectorInstr i gd rd wr s f = .next (s.trap gi g p (regPoison p r hit)) := by
  unfold vectorInstr
  rw [issueChecked_run h rfl]
  simp only [hc]
  rfl

/-- An instruction taken once for the path whose checks pass. -/
theorem pathInstr_run {s : State} {i : Instr} {gi : Nat} {g : Gang} {p : Path} {vr : List Nat} {extra : Kernel → Bool}
    (h : Issues s i gi g p vr) (he : extra g.kd = true) (gd : Guard) (f : Gang → Path → GRes) :
    pathInstr i gd vr extra s f = finish s gi g p (instrBytes i) (if guardLanes g p gd = 0 then .ok g else f g p) := by
  unfold pathInstr
  rw [issueChecked_run h he]

end Sys2Proof.Machine
end

