-- ==== Sys2Proof/Laws/PerInstr.lean ====
section
/-! SUPPORT. One lemma per instruction: the decoder reads back the fields that the encoder writes. An event has no fields. -/

set_option linter.unusedSimpArgs false

namespace Sys2Proof.Laws.Encodes

-- One proof at a time: proofs that wait on one another side by side exhaust the checker's threads.
set_option Elab.async false

/-- The fields of a well-formed instruction decode to it. -/
def Statement (i : Instr) : Prop :=
  ∀ f w, encodeFields i = some (f, w) → i.wf = true → decodeFields f (w.getD 0) = some i

theorem sadd g ty d a b : Statement (.sadd g ty d a b) := by
  rintro f w ⟨⟩ hw
  simp [decodeFields, decodeMap, decodeMaj00, need, Fields.guard, hw, Fields.imm, Fields.disp, Fields.ma2, Fields.na, Fields.mem]

theorem ssub g ty d a b : Statement (.ssub g ty d a b) := by
  rintro f w ⟨⟩ hw
  simp [decodeFields, decodeMap, decodeMaj00, need, Fields.guard, hw, Fields.imm, Fields.disp, Fields.ma2, Fields.na, Fields.mem]

theorem smul g ty d a b : Statement (.smul g ty d a b) := by
  rintro f w ⟨⟩ hw
  simp [decodeFields, decodeMap, decodeMaj00, need, Fields.guard, hw, Fields.imm, Fields.disp, Fields.ma2, Fields.na, Fields.mem]

theorem smulh g ty d a b : Statement (.smulh g ty d a b) := by
  rintro f w ⟨⟩ hw
  simp [decodeFields, decodeMap, decodeMaj00, need, Fields.guard, hw, Fields.imm, Fields.disp, Fields.ma2, Fields.na, Fields.mem]

theorem sand g ty d a b : Statement (.sand g ty d a b) := by
  rintro f w ⟨⟩ hw
  simp [decodeFields, decodeMap, decodeMaj00, need, Fields.guard, hw, Fields.imm, Fields.disp, Fields.ma2, Fields.na, Fields.mem]

theorem sor g ty d a b : Statement (.sor g ty d a b) := by
  rintro f w ⟨⟩ hw
  simp [decodeFields, decodeMap, decodeMaj00, need, Fields.guard, hw, Fields.imm, Fields.disp, Fields.ma2, Fields.na, Fields.mem]

theorem sxor g ty d a b : Statement (.sxor g ty d a b) := by
  rintro f w ⟨⟩ hw
  simp [decodeFields, decodeMap, decodeMaj00, need, Fields.guard, hw, Fields.imm, Fields.disp, Fields.ma2, Fields.na, Fields.mem]

theorem sshl g ty d a b : Statement (.sshl g ty d a b) := by
  rintro f w ⟨⟩ hw
  simp [decodeFields, decodeMap, decodeMaj00, need, Fields.guard, hw, Fields.imm, Fields.disp, Fields.ma2, Fields.na, Fields.mem]

theorem sshr g ty d a b : Statement (.sshr g ty d a b) := by
  rintro f w ⟨⟩ hw
  simp [decodeFields, decodeMap, decodeMaj00, need, Fields.guard, hw, Fields.imm, Fields.disp, Fields.ma2, Fields.na, Fields.mem]

theorem ssra g ty d a b : Statement (.ssra g ty d a b) := by
  rintro f w ⟨⟩ hw
  simp [decodeFields, decodeMap, decodeMaj00, need, Fields.guard, hw, Fields.imm, Fields.disp, Fields.ma2, Fields.na, Fields.mem]

theorem smin g ty d a b : Statement (.smin g ty d a b) := by
  rintro f w ⟨⟩ hw
  simp [decodeFields, decodeMap, decodeMaj00, need, Fields.guard, hw, Fields.imm, Fields.disp, Fields.ma2, Fields.na, Fields.mem]

theorem smax g ty d a b : Statement (.smax g ty d a b) := by
  rintro f w ⟨⟩ hw
  simp [decodeFields, decodeMap, decodeMaj00, need, Fields.guard, hw, Fields.imm, Fields.disp, Fields.ma2, Fields.na, Fields.mem]

theorem smov g ty d a : Statement (.smov g ty d a) := by
  rintro f w ⟨⟩ hw
  simp [decodeFields, decodeMap, decodeMaj00, need, Fields.guard, hw, Fields.imm, Fields.disp, Fields.ma2, Fields.na, Fields.mem]

theorem scmp g ty c d a b : Statement (.scmp g ty c d a b) := by
  rintro f w ⟨⟩ hw
  simp [decodeFields, decodeMap, decodeMaj00, need, Fields.guard, hw, Fields.imm, Fields.disp, Fields.ma2, Fields.na, Fields.mem]

theorem ssel g ty d a b c : Statement (.ssel g ty d a b c) := by
  rintro f w ⟨⟩ hw
  simp [decodeFields, decodeMap, decodeMaj00, need, Fields.guard, hw, Fields.imm, Fields.disp, Fields.ma2, Fields.na, Fields.mem]

theorem saddImm g ty d a imm : Statement (.saddImm g ty d a imm) := by
  rintro f w ⟨⟩ hw
  simp [decodeFields, decodeMap, decodeMaj01, need, Fields.guard, hw, Fields.imm, Fields.disp, Fields.ma2, Fields.na, Fields.mem]

theorem ssubImm g ty d a imm : Statement (.ssubImm g ty d a imm) := by
  rintro f w ⟨⟩ hw
  simp [decodeFields, decodeMap, decodeMaj01, need, Fields.guard, hw, Fields.imm, Fields.disp, Fields.ma2, Fields.na, Fields.mem]

theorem smulImm g ty d a imm : Statement (.smulImm g ty d a imm) := by
  rintro f w ⟨⟩ hw
  simp [decodeFields, decodeMap, decodeMaj01, need, Fields.guard, hw, Fields.imm, Fields.disp, Fields.ma2, Fields.na, Fields.mem]

theorem smulhImm g ty d a imm : Statement (.smulhImm g ty d a imm) := by
  rintro f w ⟨⟩ hw
  simp [decodeFields, decodeMap, decodeMaj01, need, Fields.guard, hw, Fields.imm, Fields.disp, Fields.ma2, Fields.na, Fields.mem]

theorem sandImm g ty d a imm : Statement (.sandImm g ty d a imm) := by
  rintro f w ⟨⟩ hw
  simp [decodeFields, decodeMap, decodeMaj01, need, Fields.guard, hw, Fields.imm, Fields.disp, Fields.ma2, Fields.na, Fields.mem]

theorem sorImm g ty d a imm : Statement (.sorImm g ty d a imm) := by
  rintro f w ⟨⟩ hw
  simp [decodeFields, decodeMap, decodeMaj01, need, Fields.guard, hw, Fields.imm, Fields.disp, Fields.ma2, Fields.na, Fields.mem]

theorem sxorImm g ty d a imm : Statement (.sxorImm g ty d a imm) := by
  rintro f w ⟨⟩ hw
  simp [decodeFields, decodeMap, decodeMaj01, need, Fields.guard, hw, Fields.imm, Fields.disp, Fields.ma2, Fields.na, Fields.mem]

theorem sshlImm g ty d a imm : Statement (.sshlImm g ty d a imm) := by
  rintro f w ⟨⟩ hw
  simp [decodeFields, decodeMap, decodeMaj01, need, Fields.guard, hw, Fields.imm, Fields.disp, Fields.ma2, Fields.na, Fields.mem]

theorem sshrImm g ty d a imm : Statement (.sshrImm g ty d a imm) := by
  rintro f w ⟨⟩ hw
  simp [decodeFields, decodeMap, decodeMaj01, need, Fields.guard, hw, Fields.imm, Fields.disp, Fields.ma2, Fields.na, Fields.mem]

theorem ssraImm g ty d a imm : Statement (.ssraImm g ty d a imm) := by
  rintro f w ⟨⟩ hw
  simp [decodeFields, decodeMap, decodeMaj01, need, Fields.guard, hw, Fields.imm, Fields.disp, Fields.ma2, Fields.na, Fields.mem]

theorem sminImm g ty d a imm : Statement (.sminImm g ty d a imm) := by
  rintro f w ⟨⟩ hw
  simp [decodeFields, decodeMap, decodeMaj01, need, Fields.guard, hw, Fields.imm, Fields.disp, Fields.ma2, Fields.na, Fields.mem]

theorem smaxImm g ty d a imm : Statement (.smaxImm g ty d a imm) := by
  rintro f w ⟨⟩ hw
  simp [decodeFields, decodeMap, decodeMaj01, need, Fields.guard, hw, Fields.imm, Fields.disp, Fields.ma2, Fields.na, Fields.mem]

theorem scmpImm g ty c d a imm : Statement (.scmpImm g ty c d a imm) := by
  rintro f w ⟨⟩ hw
  simp [decodeFields, decodeMap, decodeMaj01, need, Fields.guard, hw, Fields.imm, Fields.disp, Fields.ma2, Fields.na, Fields.mem]

theorem sliShort g d imm : Statement (.sliShort g d imm) := by
  rintro f w ⟨⟩ hw
  simp [decodeFields, decodeMap, decodeMaj02, need, Fields.guard, hw, Fields.imm, Fields.disp, Fields.ma2, Fields.na, Fields.mem]

theorem sldArg g ty d imm : Statement (.sldArg g ty d imm) := by
  rintro f w ⟨⟩ hw
  simp [decodeFields, decodeMap, decodeMaj02, need, Fields.guard, hw, Fields.imm, Fields.disp, Fields.ma2, Fields.na, Fields.mem]

theorem sliLong g d k : Statement (.sliLong g d k) := by
  rintro f w ⟨⟩ hw
  simp [decodeFields, decodeMap, decodeMaj0F, need, Fields.guard, hw, Fields.imm, Fields.disp, Fields.ma2, Fields.na, Fields.mem, k_low, k_high]

theorem slih g d k : Statement (.slih g d k) := by
  rintro f w ⟨⟩ hw
  simp [decodeFields, decodeMap, decodeMaj0F, need, Fields.guard, hw, Fields.imm, Fields.disp, Fields.ma2, Fields.na, Fields.mem, k_low, k_high]

theorem iliLong g d k : Statement (.iliLong g d k) := by
  rintro f w ⟨⟩ hw
  simp [decodeFields, decodeMap, decodeMaj0F, need, Fields.guard, hw, Fields.imm, Fields.disp, Fields.ma2, Fields.na, Fields.mem, k_low, k_high]

theorem iliB64 g d k : Statement (.iliB64 g d k) := by
  rintro f w ⟨⟩ hw
  simp [decodeFields, decodeMap, decodeMaj0F, need, Fields.guard, hw, Fields.imm, Fields.disp, Fields.ma2, Fields.na, Fields.mem, k_low, k_high]

theorem iliShort g d imm : Statement (.iliShort g d imm) := by
  rintro f w ⟨⟩ hw
  simp [decodeFields, decodeMap, decodeMaj25, need, Fields.guard, hw, Fields.imm, Fields.disp, Fields.ma2, Fields.na, Fields.mem]

theorem jmp g disp : Statement (.jmp g disp) := by
  rintro f w ⟨⟩ hw
  simp [decodeFields, decodeMap, decodeMaj10, need, Fields.guard, hw, Fields.imm, Fields.disp, Fields.ma2, Fields.na, Fields.mem]

theorem bru g a disp : Statement (.bru g a disp) := by
  rintro f w ⟨⟩ hw
  simp [decodeFields, decodeMap, decodeMaj10, need, Fields.guard, hw, Fields.imm, Fields.disp, Fields.ma2, Fields.na, Fields.mem]

theorem call g a disp : Statement (.call g a disp) := by
  rintro f w ⟨⟩ hw
  simp [decodeFields, decodeMap, decodeMaj10, need, Fields.guard, hw, Fields.imm, Fields.disp, Fields.ma2, Fields.na, Fields.mem]

theorem lpb g a disp : Statement (.lpb g a disp) := by
  rintro f w ⟨⟩ hw
  simp [decodeFields, decodeMap, decodeMaj10, need, Fields.guard, hw, Fields.imm, Fields.disp, Fields.ma2, Fields.na, Fields.mem]

theorem brx g a : Statement (.brx g a) := by
  rintro f w ⟨⟩ hw
  simp [decodeFields, decodeMap, decodeMaj11, need, Fields.guard, hw, Fields.imm, Fields.disp, Fields.ma2, Fields.na, Fields.mem]

theorem callReg g d a : Statement (.callReg g d a) := by
  rintro f w ⟨⟩ hw
  simp [decodeFields, decodeMap, decodeMaj11, need, Fields.guard, hw, Fields.imm, Fields.disp, Fields.ma2, Fields.na, Fields.mem]

theorem ret g a : Statement (.ret g a) := by
  rintro f w ⟨⟩ hw
  simp [decodeFields, decodeMap, decodeMaj11, need, Fields.guard, hw, Fields.imm, Fields.disp, Fields.ma2, Fields.na, Fields.mem]

theorem exit g : Statement (.exit g) := by
  rintro f w ⟨⟩ hw
  simp [decodeFields, decodeMap, decodeMaj11, need, Fields.guard, hw, Fields.imm, Fields.disp, Fields.ma2, Fields.na, Fields.mem]

theorem yield g : Statement (.yield g) := by
  rintro f w ⟨⟩ hw
  simp [decodeFields, decodeMap, decodeMaj11, need, Fields.guard, hw, Fields.imm, Fields.disp, Fields.ma2, Fields.na, Fields.mem]

theorem nop g : Statement (.nop g) := by
  rintro f w ⟨⟩ hw
  simp [decodeFields, decodeMap, decodeMaj11, need, Fields.guard, hw, Fields.imm, Fields.disp, Fields.ma2, Fields.na, Fields.mem]

theorem brd g disp rej : Statement (.brd g disp rej) := by
  rintro f w ⟨⟩ hw
  simp [decodeFields, decodeMap, decodeMaj1C, need, Fields.guard, hw, Fields.imm, Fields.disp, Fields.ma2, Fields.na, Fields.mem, rej_low, rej_high]

theorem callFar g fd : Statement (.callFar g fd) := by
  rintro f w ⟨⟩ hw
  simp [decodeFields, decodeMap, decodeMaj1D, need, Fields.guard, hw, Fields.imm, Fields.disp, Fields.ma2, Fields.na, Fields.mem]

theorem iadd g ty d a b : Statement (.iadd g ty d a b) := by
  rintro f w ⟨⟩ hw
  simp [decodeFields, decodeMap, decodeMaj20, need, Fields.guard, hw, Fields.bu, Fields.xr, Fields.pd, Fields.ps, Fields.src, packX_bu, packX_xr, packX_pd, packX_ps, Fields.imm, Fields.disp, Fields.ma2, Fields.na, Fields.mem]

theorem isub g ty d a b : Statement (.isub g ty d a b) := by
  rintro f w ⟨⟩ hw
  simp [decodeFields, decodeMap, decodeMaj20, need, Fields.guard, hw, Fields.bu, Fields.xr, Fields.pd, Fields.ps, Fields.src, packX_bu, packX_xr, packX_pd, packX_ps, Fields.imm, Fields.disp, Fields.ma2, Fields.na, Fields.mem]

theorem iadds g ty d a b : Statement (.iadds g ty d a b) := by
  rintro f w ⟨⟩ hw
  simp [decodeFields, decodeMap, decodeMaj20, need, Fields.guard, hw, Fields.bu, Fields.xr, Fields.pd, Fields.ps, Fields.src, packX_bu, packX_xr, packX_pd, packX_ps, Fields.imm, Fields.disp, Fields.ma2, Fields.na, Fields.mem]

theorem imul g ty d a b : Statement (.imul g ty d a b) := by
  rintro f w ⟨⟩ hw
  simp [decodeFields, decodeMap, decodeMaj20, need, Fields.guard, hw, Fields.bu, Fields.xr, Fields.pd, Fields.ps, Fields.src, packX_bu, packX_xr, packX_pd, packX_ps, Fields.imm, Fields.disp, Fields.ma2, Fields.na, Fields.mem]

theorem imulh g ty d a b : Statement (.imulh g ty d a b) := by
  rintro f w ⟨⟩ hw
  simp [decodeFields, decodeMap, decodeMaj20, need, Fields.guard, hw, Fields.bu, Fields.xr, Fields.pd, Fields.ps, Fields.src, packX_bu, packX_xr, packX_pd, packX_ps, Fields.imm, Fields.disp, Fields.ma2, Fields.na, Fields.mem]

theorem imin g ty d a b : Statement (.imin g ty d a b) := by
  rintro f w ⟨⟩ hw
  simp [decodeFields, decodeMap, decodeMaj20, need, Fields.guard, hw, Fields.bu, Fields.xr, Fields.pd, Fields.ps, Fields.src, packX_bu, packX_xr, packX_pd, packX_ps, Fields.imm, Fields.disp, Fields.ma2, Fields.na, Fields.mem]

theorem imax g ty d a b : Statement (.imax g ty d a b) := by
  rintro f w ⟨⟩ hw
  simp [decodeFields, decodeMap, decodeMaj20, need, Fields.guard, hw, Fields.bu, Fields.xr, Fields.pd, Fields.ps, Fields.src, packX_bu, packX_xr, packX_pd, packX_ps, Fields.imm, Fields.disp, Fields.ma2, Fields.na, Fields.mem]

theorem iand g ty d a b : Statement (.iand g ty d a b) := by
  rintro f w ⟨⟩ hw
  simp [decodeFields, decodeMap, decodeMaj20, need, Fields.guard, hw, Fields.bu, Fields.xr, Fields.pd, Fields.ps, Fields.src, packX_bu, packX_xr, packX_pd, packX_ps, Fields.imm, Fields.disp, Fields.ma2, Fields.na, Fields.mem]

theorem ior g ty d a b : Statement (.ior g ty d a b) := by
  rintro f w ⟨⟩ hw
  simp [decodeFields, decodeMap, decodeMaj20, need, Fields.guard, hw, Fields.bu, Fields.xr, Fields.pd, Fields.ps, Fields.src, packX_bu, packX_xr, packX_pd, packX_ps, Fields.imm, Fields.disp, Fields.ma2, Fields.na, Fields.mem]

theorem ixor g ty d a b : Statement (.ixor g ty d a b) := by
  rintro f w ⟨⟩ hw
  simp [decodeFields, decodeMap, decodeMaj20, need, Fields.guard, hw, Fields.bu, Fields.xr, Fields.pd, Fields.ps, Fields.src, packX_bu, packX_xr, packX_pd, packX_ps, Fields.imm, Fields.disp, Fields.ma2, Fields.na, Fields.mem]

theorem ishl g ty d a b : Statement (.ishl g ty d a b) := by
  rintro f w ⟨⟩ hw
  simp [decodeFields, decodeMap, decodeMaj20, need, Fields.guard, hw, Fields.bu, Fields.xr, Fields.pd, Fields.ps, Fields.src, packX_bu, packX_xr, packX_pd, packX_ps, Fields.imm, Fields.disp, Fields.ma2, Fields.na, Fields.mem]

theorem ishr g ty d a b : Statement (.ishr g ty d a b) := by
  rintro f w ⟨⟩ hw
  simp [decodeFields, decodeMap, decodeMaj20, need, Fields.guard, hw, Fields.bu, Fields.xr, Fields.pd, Fields.ps, Fields.src, packX_bu, packX_xr, packX_pd, packX_ps, Fields.imm, Fields.disp, Fields.ma2, Fields.na, Fields.mem]

theorem isra g ty d a b : Statement (.isra g ty d a b) := by
  rintro f w ⟨⟩ hw
  simp [decodeFields, decodeMap, decodeMaj20, need, Fields.guard, hw, Fields.bu, Fields.xr, Fields.pd, Fields.ps, Fields.src, packX_bu, packX_xr, packX_pd, packX_ps, Fields.imm, Fields.disp, Fields.ma2, Fields.na, Fields.mem]

theorem irot g ty d a b : Statement (.irot g ty d a b) := by
  rintro f w ⟨⟩ hw
  simp [decodeFields, decodeMap, decodeMaj20, need, Fields.guard, hw, Fields.bu, Fields.xr, Fields.pd, Fields.ps, Fields.src, packX_bu, packX_xr, packX_pd, packX_ps, Fields.imm, Fields.disp, Fields.ma2, Fields.na, Fields.mem]

theorem icmp g ty c a b pd ps : Statement (.icmp g ty c a b pd ps) := by
  rintro f w ⟨⟩ hw
  simp [decodeFields, decodeMap, decodeMaj20, need, Fields.guard, hw, Fields.bu, Fields.xr, Fields.pd, Fields.ps, Fields.src, packX_bu, packX_xr, packX_pd, packX_ps, Fields.imm, Fields.disp, Fields.ma2, Fields.na, Fields.mem]

theorem isel g ty d a b ps : Statement (.isel g ty d a b ps) := by
  rintro f w ⟨⟩ hw
  simp [decodeFields, decodeMap, decodeMaj20, need, Fields.guard, hw, Fields.bu, Fields.xr, Fields.pd, Fields.ps, Fields.src, packX_bu, packX_xr, packX_pd, packX_ps, Fields.imm, Fields.disp, Fields.ma2, Fields.na, Fields.mem]

theorem iaddImm g ty d a imm : Statement (.iaddImm g ty d a imm) := by
  rintro f w ⟨⟩ hw
  simp [decodeFields, decodeMap, decodeMaj24, need, Fields.guard, hw, Fields.imm, Fields.disp, Fields.ma2, Fields.na, Fields.mem]

theorem isubImm g ty d a imm : Statement (.isubImm g ty d a imm) := by
  rintro f w ⟨⟩ hw
  simp [decodeFields, decodeMap, decodeMaj24, need, Fields.guard, hw, Fields.imm, Fields.disp, Fields.ma2, Fields.na, Fields.mem]

theorem iaddsImm g ty d a imm : Statement (.iaddsImm g ty d a imm) := by
  rintro f w ⟨⟩ hw
  simp [decodeFields, decodeMap, decodeMaj24, need, Fields.guard, hw, Fields.imm, Fields.disp, Fields.ma2, Fields.na, Fields.mem]

theorem imulImm g ty d a imm : Statement (.imulImm g ty d a imm) := by
  rintro f w ⟨⟩ hw
  simp [decodeFields, decodeMap, decodeMaj24, need, Fields.guard, hw, Fields.imm, Fields.disp, Fields.ma2, Fields.na, Fields.mem]

theorem imulhImm g ty d a imm : Statement (.imulhImm g ty d a imm) := by
  rintro f w ⟨⟩ hw
  simp [decodeFields, decodeMap, decodeMaj24, need, Fields.guard, hw, Fields.imm, Fields.disp, Fields.ma2, Fields.na, Fields.mem]

theorem iminImm g ty d a imm : Statement (.iminImm g ty d a imm) := by
  rintro f w ⟨⟩ hw
  simp [decodeFields, decodeMap, decodeMaj24, need, Fields.guard, hw, Fields.imm, Fields.disp, Fields.ma2, Fields.na, Fields.mem]

theorem imaxImm g ty d a imm : Statement (.imaxImm g ty d a imm) := by
  rintro f w ⟨⟩ hw
  simp [decodeFields, decodeMap, decodeMaj24, need, Fields.guard, hw, Fields.imm, Fields.disp, Fields.ma2, Fields.na, Fields.mem]

theorem iandImm g ty d a imm : Statement (.iandImm g ty d a imm) := by
  rintro f w ⟨⟩ hw
  simp [decodeFields, decodeMap, decodeMaj24, need, Fields.guard, hw, Fields.imm, Fields.disp, Fields.ma2, Fields.na, Fields.mem]

theorem iorImm g ty d a imm : Statement (.iorImm g ty d a imm) := by
  rintro f w ⟨⟩ hw
  simp [decodeFields, decodeMap, decodeMaj24, need, Fields.guard, hw, Fields.imm, Fields.disp, Fields.ma2, Fields.na, Fields.mem]

theorem ixorImm g ty d a imm : Statement (.ixorImm g ty d a imm) := by
  rintro f w ⟨⟩ hw
  simp [decodeFields, decodeMap, decodeMaj24, need, Fields.guard, hw, Fields.imm, Fields.disp, Fields.ma2, Fields.na, Fields.mem]

theorem ishlImm g ty d a imm : Statement (.ishlImm g ty d a imm) := by
  rintro f w ⟨⟩ hw
  simp [decodeFields, decodeMap, decodeMaj24, need, Fields.guard, hw, Fields.imm, Fields.disp, Fields.ma2, Fields.na, Fields.mem]

theorem ishrImm g ty d a imm : Statement (.ishrImm g ty d a imm) := by
  rintro f w ⟨⟩ hw
  simp [decodeFields, decodeMap, decodeMaj24, need, Fields.guard, hw, Fields.imm, Fields.disp, Fields.ma2, Fields.na, Fields.mem]

theorem israImm g ty d a imm : Statement (.israImm g ty d a imm) := by
  rintro f w ⟨⟩ hw
  simp [decodeFields, decodeMap, decodeMaj24, need, Fields.guard, hw, Fields.imm, Fields.disp, Fields.ma2, Fields.na, Fields.mem]

theorem irotImm g ty d a imm : Statement (.irotImm g ty d a imm) := by
  rintro f w ⟨⟩ hw
  simp [decodeFields, decodeMap, decodeMaj24, need, Fields.guard, hw, Fields.imm, Fields.disp, Fields.ma2, Fields.na, Fields.mem]

theorem iabs g ty d b : Statement (.iabs g ty d b) := by
  rintro f w ⟨⟩ hw
  simp [decodeFields, decodeMap, decodeMaj21, need, Fields.guard, hw, Fields.bu, Fields.xr, Fields.pd, Fields.ps, Fields.src, packX_bu, packX_xr, packX_pd, packX_ps, Fields.imm, Fields.disp, Fields.ma2, Fields.na, Fields.mem]

theorem ineg g ty d b : Statement (.ineg g ty d b) := by
  rintro f w ⟨⟩ hw
  simp [decodeFields, decodeMap, decodeMaj21, need, Fields.guard, hw, Fields.bu, Fields.xr, Fields.pd, Fields.ps, Fields.src, packX_bu, packX_xr, packX_pd, packX_ps, Fields.imm, Fields.disp, Fields.ma2, Fields.na, Fields.mem]

theorem inot g ty d b : Statement (.inot g ty d b) := by
  rintro f w ⟨⟩ hw
  simp [decodeFields, decodeMap, decodeMaj21, need, Fields.guard, hw, Fields.bu, Fields.xr, Fields.pd, Fields.ps, Fields.src, packX_bu, packX_xr, packX_pd, packX_ps, Fields.imm, Fields.disp, Fields.ma2, Fields.na, Fields.mem]

theorem ipopc g ty d b : Statement (.ipopc g ty d b) := by
  rintro f w ⟨⟩ hw
  simp [decodeFields, decodeMap, decodeMaj21, need, Fields.guard, hw, Fields.bu, Fields.xr, Fields.pd, Fields.ps, Fields.src, packX_bu, packX_xr, packX_pd, packX_ps, Fields.imm, Fields.disp, Fields.ma2, Fields.na, Fields.mem]

theorem iclz g ty d b : Statement (.iclz g ty d b) := by
  rintro f w ⟨⟩ hw
  simp [decodeFields, decodeMap, decodeMaj21, need, Fields.guard, hw, Fields.bu, Fields.xr, Fields.pd, Fields.ps, Fields.src, packX_bu, packX_xr, packX_pd, packX_ps, Fields.imm, Fields.disp, Fields.ma2, Fields.na, Fields.mem]

theorem ibrev g ty d b : Statement (.ibrev g ty d b) := by
  rintro f w ⟨⟩ hw
  simp [decodeFields, decodeMap, decodeMaj21, need, Fields.guard, hw, Fields.bu, Fields.xr, Fields.pd, Fields.ps, Fields.src, packX_bu, packX_xr, packX_pd, packX_ps, Fields.imm, Fields.disp, Fields.ma2, Fields.na, Fields.mem]

theorem imov g ty d b : Statement (.imov g ty d b) := by
  rintro f w ⟨⟩ hw
  simp [decodeFields, decodeMap, decodeMaj21, need, Fields.guard, hw, Fields.bu, Fields.xr, Fields.pd, Fields.ps, Fields.src, packX_bu, packX_xr, packX_pd, packX_ps, Fields.imm, Fields.disp, Fields.ma2, Fields.na, Fields.mem]

theorem imad g ty d a b c : Statement (.imad g ty d a b c) := by
  rintro f w ⟨⟩ hw
  simp [decodeFields, decodeMap, decodeMaj22, need, Fields.guard, hw, Fields.imm, Fields.disp, Fields.ma2, Fields.na, Fields.mem]

theorem ibfx g ty d a b c : Statement (.ibfx g ty d a b c) := by
  rintro f w ⟨⟩ hw
  simp [decodeFields, decodeMap, decodeMaj22, need, Fields.guard, hw, Fields.imm, Fields.disp, Fields.ma2, Fields.na, Fields.mem]

theorem ibfi g ty d a b c : Statement (.ibfi g ty d a b c) := by
  rintro f w ⟨⟩ hw
  simp [decodeFields, decodeMap, decodeMaj22, need, Fields.guard, hw, Fields.imm, Fields.disp, Fields.ma2, Fields.na, Fields.mem]

theorem idp4 g ty d a b c : Statement (.idp4 g ty d a b c) := by
  rintro f w ⟨⟩ hw
  simp [decodeFields, decodeMap, decodeMaj22, need, Fields.guard, hw, Fields.imm, Fields.disp, Fields.ma2, Fields.na, Fields.mem]

theorem iaddc g ty d a b pd ps : Statement (.iaddc g ty d a b pd ps) := by
  rintro f w ⟨⟩ hw
  simp [decodeFields, decodeMap, decodeMaj23, need, Fields.guard, hw, Fields.bu, Fields.xr, Fields.pd, Fields.ps, Fields.src, packX_bu, packX_xr, packX_pd, packX_ps, Fields.imm, Fields.disp, Fields.ma2, Fields.na, Fields.mem]

theorem isubb g ty d a b pd ps : Statement (.isubb g ty d a b pd ps) := by
  rintro f w ⟨⟩ hw
  simp [decodeFields, decodeMap, decodeMaj23, need, Fields.guard, hw, Fields.bu, Fields.xr, Fields.pd, Fields.ps, Fields.src, packX_bu, packX_xr, packX_pd, packX_ps, Fields.imm, Fields.disp, Fields.ma2, Fields.na, Fields.mem]

theorem iaddw g ty gw d a b pd : Statement (.iaddw g ty gw d a b pd) := by
  rintro f w ⟨⟩ hw
  simp [decodeFields, decodeMap, decodeMaj23, need, Fields.guard, hw, Fields.bu, Fields.xr, Fields.pd, Fields.ps, Fields.src, packX_bu, packX_xr, packX_pd, packX_ps, Fields.imm, Fields.disp, Fields.ma2, Fields.na, Fields.mem]

theorem fadd g ty rm d a b : Statement (.fadd g ty rm d a b) := by
  rintro f w ⟨⟩ hw
  simp [decodeFields, decodeMap, decodeMaj40, need, Fields.guard, hw, Fields.bu, Fields.xr, Fields.pd, Fields.ps, Fields.src, packX_bu, packX_xr, packX_pd, packX_ps, Fields.imm, Fields.disp, Fields.ma2, Fields.na, Fields.mem]

theorem fsub g ty rm d a b : Statement (.fsub g ty rm d a b) := by
  rintro f w ⟨⟩ hw
  simp [decodeFields, decodeMap, decodeMaj40, need, Fields.guard, hw, Fields.bu, Fields.xr, Fields.pd, Fields.ps, Fields.src, packX_bu, packX_xr, packX_pd, packX_ps, Fields.imm, Fields.disp, Fields.ma2, Fields.na, Fields.mem]

theorem fmul g ty rm d a b : Statement (.fmul g ty rm d a b) := by
  rintro f w ⟨⟩ hw
  simp [decodeFields, decodeMap, decodeMaj40, need, Fields.guard, hw, Fields.bu, Fields.xr, Fields.pd, Fields.ps, Fields.src, packX_bu, packX_xr, packX_pd, packX_ps, Fields.imm, Fields.disp, Fields.ma2, Fields.na, Fields.mem]

theorem fmin g ty d a b : Statement (.fmin g ty d a b) := by
  rintro f w ⟨⟩ hw
  simp [decodeFields, decodeMap, decodeMaj40, need, Fields.guard, hw, Fields.bu, Fields.xr, Fields.pd, Fields.ps, Fields.src, packX_bu, packX_xr, packX_pd, packX_ps, Fields.imm, Fields.disp, Fields.ma2, Fields.na, Fields.mem]

theorem fmax g ty d a b : Statement (.fmax g ty d a b) := by
  rintro f w ⟨⟩ hw
  simp [decodeFields, decodeMap, decodeMaj40, need, Fields.guard, hw, Fields.bu, Fields.xr, Fields.pd, Fields.ps, Fields.src, packX_bu, packX_xr, packX_pd, packX_ps, Fields.imm, Fields.disp, Fields.ma2, Fields.na, Fields.mem]

theorem fcmp g c a b pd ps : Statement (.fcmp g c a b pd ps) := by
  rintro f w ⟨⟩ hw
  simp [decodeFields, decodeMap, decodeMaj40, need, Fields.guard, hw, Fields.bu, Fields.xr, Fields.pd, Fields.ps, Fields.src, packX_bu, packX_xr, packX_pd, packX_ps, Fields.imm, Fields.disp, Fields.ma2, Fields.na, Fields.mem]

theorem fscale g rm d a b : Statement (.fscale g rm d a b) := by
  rintro f w ⟨⟩ hw
  simp [decodeFields, decodeMap, decodeMaj40, need, Fields.guard, hw, Fields.bu, Fields.xr, Fields.pd, Fields.ps, Fields.src, packX_bu, packX_xr, packX_pd, packX_ps, Fields.imm, Fields.disp, Fields.ma2, Fields.na, Fields.mem]

theorem fabs g ty d b : Statement (.fabs g ty d b) := by
  rintro f w ⟨⟩ hw
  simp [decodeFields, decodeMap, decodeMaj41, need, Fields.guard, hw, Fields.bu, Fields.xr, Fields.pd, Fields.ps, Fields.src, packX_bu, packX_xr, packX_pd, packX_ps, Fields.imm, Fields.disp, Fields.ma2, Fields.na, Fields.mem]

theorem fneg g ty d b : Statement (.fneg g ty d b) := by
  rintro f w ⟨⟩ hw
  simp [decodeFields, decodeMap, decodeMaj41, need, Fields.guard, hw, Fields.bu, Fields.xr, Fields.pd, Fields.ps, Fields.src, packX_bu, packX_xr, packX_pd, packX_ps, Fields.imm, Fields.disp, Fields.ma2, Fields.na, Fields.mem]

theorem fclass g d a b pd : Statement (.fclass g d a b pd) := by
  rintro f w ⟨⟩ hw
  simp [decodeFields, decodeMap, decodeMaj41, need, Fields.guard, hw, Fields.bu, Fields.xr, Fields.pd, Fields.ps, Fields.src, packX_bu, packX_xr, packX_pd, packX_ps, Fields.imm, Fields.disp, Fields.ma2, Fields.na, Fields.mem]

theorem frnd g rm d b : Statement (.frnd g rm d b) := by
  rintro f w ⟨⟩ hw
  simp [decodeFields, decodeMap, decodeMaj41, need, Fields.guard, hw, Fields.bu, Fields.xr, Fields.pd, Fields.ps, Fields.src, packX_bu, packX_xr, packX_pd, packX_ps, Fields.imm, Fields.disp, Fields.ma2, Fields.na, Fields.mem]

theorem fgetexp g d b : Statement (.fgetexp g d b) := by
  rintro f w ⟨⟩ hw
  simp [decodeFields, decodeMap, decodeMaj41, need, Fields.guard, hw, Fields.bu, Fields.xr, Fields.pd, Fields.ps, Fields.src, packX_bu, packX_xr, packX_pd, packX_ps, Fields.imm, Fields.disp, Fields.ma2, Fields.na, Fields.mem]

theorem fma g ty rm d a b c : Statement (.fma g ty rm d a b c) := by
  rintro f w ⟨⟩ hw
  simp [decodeFields, decodeMap, decodeMaj42, need, Fields.guard, hw, Fields.imm, Fields.disp, Fields.ma2, Fields.na, Fields.mem]

theorem fdot2 g ty rm d a b c : Statement (.fdot2 g ty rm d a b c) := by
  rintro f w ⟨⟩ hw
  simp [decodeFields, decodeMap, decodeMaj42, need, Fields.guard, hw, Fields.imm, Fields.disp, Fields.ma2, Fields.na, Fields.mem]

theorem fdot4 g ty rm d a b c : Statement (.fdot4 g ty rm d a b c) := by
  rintro f w ⟨⟩ hw
  simp [decodeFields, decodeMap, decodeMaj42, need, Fields.guard, hw, Fields.imm, Fields.disp, Fields.ma2, Fields.na, Fields.mem]

theorem cvt g ty ts rm d b : Statement (.cvt g ty ts rm d b) := by
  rintro f w ⟨⟩ hw
  simp [decodeFields, decodeMap, decodeMaj60, need, Fields.guard, hw, Fields.bu, Fields.xr, Fields.pd, Fields.ps, Fields.src, packX_bu, packX_xr, packX_pd, packX_ps, Fields.imm, Fields.disp, Fields.ma2, Fields.na, Fields.mem]

theorem cvtq g ty ts rm d a b : Statement (.cvtq g ty ts rm d a b) := by
  rintro f w ⟨⟩ hw
  simp [decodeFields, decodeMap, decodeMaj60, need, Fields.guard, hw, Fields.bu, Fields.xr, Fields.pd, Fields.ps, Fields.src, packX_bu, packX_xr, packX_pd, packX_ps, Fields.imm, Fields.disp, Fields.ma2, Fields.na, Fields.mem]

theorem cvtdq g ty ts rm d a b : Statement (.cvtdq g ty ts rm d a b) := by
  rintro f w ⟨⟩ hw
  simp [decodeFields, decodeMap, decodeMaj60, need, Fields.guard, hw, Fields.bu, Fields.xr, Fields.pd, Fields.ps, Fields.src, packX_bu, packX_xr, packX_pd, packX_ps, Fields.imm, Fields.disp, Fields.ma2, Fields.na, Fields.mem]

theorem pack g ty d a : Statement (.pack g ty d a) := by
  rintro f w ⟨⟩ hw
  simp [decodeFields, decodeMap, decodeMaj60, need, Fields.guard, hw, Fields.bu, Fields.xr, Fields.pd, Fields.ps, Fields.src, packX_bu, packX_xr, packX_pd, packX_ps, Fields.imm, Fields.disp, Fields.ma2, Fields.na, Fields.mem]

theorem unpk g ty d b : Statement (.unpk g ty d b) := by
  rintro f w ⟨⟩ hw
  simp [decodeFields, decodeMap, decodeMaj60, need, Fields.guard, hw, Fields.bu, Fields.xr, Fields.pd, Fields.ps, Fields.src, packX_bu, packX_xr, packX_pd, packX_ps, Fields.imm, Fields.disp, Fields.ma2, Fields.na, Fields.mem]

theorem fexp2 g d a : Statement (.fexp2 g d a) := by
  rintro f w ⟨⟩ hw
  simp [decodeFields, decodeMap, decodeMaj68, need, Fields.guard, hw, Fields.imm, Fields.disp, Fields.ma2, Fields.na, Fields.mem]

theorem flog2 g d a : Statement (.flog2 g d a) := by
  rintro f w ⟨⟩ hw
  simp [decodeFields, decodeMap, decodeMaj68, need, Fields.guard, hw, Fields.imm, Fields.disp, Fields.ma2, Fields.na, Fields.mem]

theorem frcp g d a : Statement (.frcp g d a) := by
  rintro f w ⟨⟩ hw
  simp [decodeFields, decodeMap, decodeMaj68, need, Fields.guard, hw, Fields.imm, Fields.disp, Fields.ma2, Fields.na, Fields.mem]

theorem frsqrt g d a : Statement (.frsqrt g d a) := by
  rintro f w ⟨⟩ hw
  simp [decodeFields, decodeMap, decodeMaj68, need, Fields.guard, hw, Fields.imm, Fields.disp, Fields.ma2, Fields.na, Fields.mem]

theorem fsqrt g d a : Statement (.fsqrt g d a) := by
  rintro f w ⟨⟩ hw
  simp [decodeFields, decodeMap, decodeMaj68, need, Fields.guard, hw, Fields.imm, Fields.disp, Fields.ma2, Fields.na, Fields.mem]

theorem fsin g d a : Statement (.fsin g d a) := by
  rintro f w ⟨⟩ hw
  simp [decodeFields, decodeMap, decodeMaj68, need, Fields.guard, hw, Fields.imm, Fields.disp, Fields.ma2, Fields.na, Fields.mem]

theorem fcos g d a : Statement (.fcos g d a) := by
  rintro f w ⟨⟩ hw
  simp [decodeFields, decodeMap, decodeMaj68, need, Fields.guard, hw, Fields.imm, Fields.disp, Fields.ma2, Fields.na, Fields.mem]

theorem ftanh g d a : Statement (.ftanh g d a) := by
  rintro f w ⟨⟩ hw
  simp [decodeFields, decodeMap, decodeMaj68, need, Fields.guard, hw, Fields.imm, Fields.disp, Fields.ma2, Fields.na, Fields.mem]

theorem fsigm g d a : Statement (.fsigm g d a) := by
  rintro f w ⟨⟩ hw
  simp [decodeFields, decodeMap, decodeMaj68, need, Fields.guard, hw, Fields.imm, Fields.disp, Fields.ma2, Fields.na, Fields.mem]

theorem ferf g d a : Statement (.ferf g d a) := by
  rintro f w ⟨⟩ hw
  simp [decodeFields, decodeMap, decodeMaj68, need, Fields.guard, hw, Fields.imm, Fields.disp, Fields.ma2, Fields.na, Fields.mem]

theorem rstat g rm d a b n : Statement (.rstat g rm d a b n) := by
  rintro f w ⟨⟩ hw
  simp [decodeFields, decodeMap, decodeMaj69, need, Fields.guard, hw, Fields.imm, Fields.disp, Fields.ma2, Fields.na, Fields.mem, id_low, id_high]

theorem vote g d a pd ps : Statement (.vote g d a pd ps) := by
  rintro f w ⟨⟩ hw
  simp [decodeFields, decodeMap, decodeMaj70, need, Fields.guard, hw, Fields.bu, Fields.xr, Fields.pd, Fields.ps, Fields.src, packX_bu, packX_xr, packX_pd, packX_ps, Fields.imm, Fields.disp, Fields.ma2, Fields.na, Fields.mem, flag3_high, flag3_low]

theorem shfl g ty d a b : Statement (.shfl g ty d a b) := by
  rintro f w ⟨⟩ hw
  simp [decodeFields, decodeMap, decodeMaj70, need, Fields.guard, hw, Fields.bu, Fields.xr, Fields.pd, Fields.ps, Fields.src, packX_bu, packX_xr, packX_pd, packX_ps, Fields.imm, Fields.disp, Fields.ma2, Fields.na, Fields.mem, flag3_high, flag3_low]

theorem xred g ty rm op ud d a b : Statement (.xred g ty rm op ud d a b) := by
  rintro f w ⟨⟩ hw
  simp [decodeFields, decodeMap, decodeMaj70, need, Fields.guard, hw, Fields.bu, Fields.xr, Fields.pd, Fields.ps, Fields.src, packX_bu, packX_xr, packX_pd, packX_ps, Fields.imm, Fields.disp, Fields.ma2, Fields.na, Fields.mem, flag3_high, flag3_low]

theorem xscan g ty rm op inc d a b : Statement (.xscan g ty rm op inc d a b) := by
  rintro f w ⟨⟩ hw
  simp [decodeFields, decodeMap, decodeMaj70, need, Fields.guard, hw, Fields.bu, Fields.xr, Fields.pd, Fields.ps, Fields.src, packX_bu, packX_xr, packX_pd, packX_ps, Fields.imm, Fields.disp, Fields.ma2, Fields.na, Fields.mem, flag3_high, flag3_low]

theorem xmatch g ty d a b : Statement (.xmatch g ty d a b) := by
  rintro f w ⟨⟩ hw
  simp [decodeFields, decodeMap, decodeMaj70, need, Fields.guard, hw, Fields.bu, Fields.xr, Fields.pd, Fields.ps, Fields.src, packX_bu, packX_xr, packX_pd, packX_ps, Fields.imm, Fields.disp, Fields.ma2, Fields.na, Fields.mem, flag3_high, flag3_low]

theorem xcomp g ty d a b pd ps : Statement (.xcomp g ty d a b pd ps) := by
  rintro f w ⟨⟩ hw
  simp [decodeFields, decodeMap, decodeMaj70, need, Fields.guard, hw, Fields.bu, Fields.xr, Fields.pd, Fields.ps, Fields.src, packX_bu, packX_xr, packX_pd, packX_ps, Fields.imm, Fields.disp, Fields.ma2, Fields.na, Fields.mem, flag3_high, flag3_low]

theorem xexp g ty d a b pd ps : Statement (.xexp g ty d a b pd ps) := by
  rintro f w ⟨⟩ hw
  simp [decodeFields, decodeMap, decodeMaj70, need, Fields.guard, hw, Fields.bu, Fields.xr, Fields.pd, Fields.ps, Fields.src, packX_bu, packX_xr, packX_pd, packX_ps, Fields.imm, Fields.disp, Fields.ma2, Fields.na, Fields.mem, flag3_high, flag3_low]

theorem ld g ty sp cau na d m : Statement (.ld g ty sp cau na d m) := by
  rintro f w ⟨⟩ hw
  simp [decodeFields, decodeMap, decodeMaj80, need, Fields.guard, hw, Fields.imm, Fields.disp, Fields.ma2, Fields.na, Fields.mem, ma_low, ma_high, mf_low, mf_vw, mf_na]

theorem st g ty sp blk na d m : Statement (.st g ty sp blk na d m) := by
  rintro f w ⟨⟩ hw
  simp [decodeFields, decodeMap, decodeMaj81, need, Fields.guard, hw, Fields.imm, Fields.disp, Fields.ma2, Fields.na, Fields.mem, ma_low, ma_high, mf_low, mf_vw, mf_na]

theorem ldb g sp na bl d m : Statement (.ldb g sp na bl d m) := by
  rintro f w ⟨⟩ hw
  simp [decodeFields, decodeMap, decodeMaj82, need, Fields.guard, hw, Fields.imm, Fields.disp, Fields.ma2, Fields.na, Fields.mem, ma0_low, ma0_high, mf_low, mf_vw, mf_na]

theorem stb g sp na bl d m : Statement (.stb g sp na bl d m) := by
  rintro f w ⟨⟩ hw
  simp [decodeFields, decodeMap, decodeMaj83, need, Fields.guard, hw, Fields.imm, Fields.disp, Fields.ma2, Fields.na, Fields.mem, ma0_low, ma0_high, mf_low, mf_vw, mf_na]

theorem atom g op ty sp d sb vi off : Statement (.atom g op ty sp d sb vi off) := by
  rintro f w ⟨⟩ hw
  simp [decodeFields, decodeMap, decodeMaj84, need, Fields.guard, hw, Fields.imm, Fields.disp, Fields.ma2, Fields.na, Fields.mem, ma0_low, ma0_high]

theorem fence g sem sc : Statement (.fence g sem sc) := by
  rintro f w ⟨⟩ hw
  simp [decodeFields, decodeMap, decodeMaj85, need, Fields.guard, hw, Fields.imm, Fields.disp, Fields.ma2, Fields.na, Fields.mem]

theorem cinvAll g : Statement (.cinvAll g) := by
  rintro f w ⟨⟩ hw
  simp [decodeFields, decodeMap, decodeMaj86, need, Fields.guard, hw, Fields.imm, Fields.disp, Fields.ma2, Fields.na, Fields.mem, mf0_low, mf0_vw, mf0_na]

theorem cinvLine g m : Statement (.cinvLine g m) := by
  rintro f w ⟨⟩ hw
  simp [decodeFields, decodeMap, decodeMaj86, need, Fields.guard, hw, Fields.imm, Fields.disp, Fields.ma2, Fields.na, Fields.mem, mf0_low, mf0_vw, mf0_na]

theorem cwb g m : Statement (.cwb g m) := by
  rintro f w ⟨⟩ hw
  simp [decodeFields, decodeMap, decodeMaj87, need, Fields.guard, hw, Fields.imm, Fields.disp, Fields.ma2, Fields.na, Fields.mem, mf0_low, mf0_vw, mf0_na]

theorem prf g m : Statement (.prf g m) := by
  rintro f w ⟨⟩ hw
  simp [decodeFields, decodeMap, decodeMaj88, need, Fields.guard, hw, Fields.imm, Fields.disp, Fields.ma2, Fields.na, Fields.mem, mf0_low, mf0_vw, mf0_na]

theorem prfL2 g m : Statement (.prfL2 g m) := by
  rintro f w ⟨⟩ hw
  simp [decodeFields, decodeMap, decodeMaj88, need, Fields.guard, hw, Fields.imm, Fields.disp, Fields.ma2, Fields.na, Fields.mem, mf0_low, mf0_vw, mf0_na]

theorem tld g d sb vi off : Statement (.tld g d sb vi off) := by
  rintro f w ⟨⟩ hw
  simp [decodeFields, decodeMap, decodeMaj89, need, Fields.guard, hw, Fields.imm, Fields.disp, Fields.ma2, Fields.na, Fields.mem]

theorem tldi g d sb vi off : Statement (.tldi g d sb vi off) := by
  rintro f w ⟨⟩ hw
  simp [decodeFields, decodeMap, decodeMaj8A, need, Fields.guard, hw, Fields.imm, Fields.disp, Fields.ma2, Fields.na, Fields.mem]

theorem oxip g ta tb a b acc mreg nk sp : Statement (.oxip g ta tb a b acc mreg nk sp) := by
  rintro f w ⟨⟩ hw
  simp [decodeFields, decodeMap, decodeMajA0, need, Fields.guard, hw, Fields.imm, Fields.disp, Fields.ma2, Fields.na, Fields.mem]

theorem oxop g ta tb a b acc nk cs : Statement (.oxop g ta tb a b acc nk cs) := by
  rintro f w ⟨⟩ hw
  simp [decodeFields, decodeMap, decodeMajA1, need, Fields.guard, hw, Fields.imm, Fields.disp, Fields.ma2, Fields.na, Fields.mem, flag1_high, flag1_low]

theorem oxrw g ta tb a b c acc nk cmp : Statement (.oxrw g ta tb a b c acc nk cmp) := by
  rintro f w ⟨⟩ hw
  simp [decodeFields, decodeMap, decodeMajA2, need, Fields.guard, hw, Fields.imm, Fields.disp, Fields.ma2, Fields.na, Fields.mem]

theorem accz g ty acc : Statement (.accz g ty acc) := by
  rintro f w ⟨⟩ hw
  simp [decodeFields, decodeMap, decodeMajA3, need, Fields.guard, hw, Fields.imm, Fields.disp, Fields.ma2, Fields.na, Fields.mem]

theorem accld g tb a acc : Statement (.accld g tb a acc) := by
  rintro f w ⟨⟩ hw
  simp [decodeFields, decodeMap, decodeMajA3, need, Fields.guard, hw, Fields.imm, Fields.disp, Fields.ma2, Fields.na, Fields.mem]

theorem accst g tb rm d a b c acc sc : Statement (.accst g tb rm d a b c acc sc) := by
  rintro f w ⟨⟩ hw
  simp [decodeFields, decodeMap, decodeMajA3, need, Fields.guard, hw, Fields.imm, Fields.disp, Fields.ma2, Fields.na, Fields.mem]

theorem accmv g acc acc2 : Statement (.accmv g acc acc2) := by
  rintro f w ⟨⟩ hw
  simp [decodeFields, decodeMap, decodeMajA3, need, Fields.guard, hw, Fields.imm, Fields.disp, Fields.ma2, Fields.na, Fields.mem]

theorem ldmeta g a mreg sp : Statement (.ldmeta g a mreg sp) := by
  rintro f w ⟨⟩ hw
  simp [decodeFields, decodeMap, decodeMajA3, need, Fields.guard, hw, Fields.imm, Fields.disp, Fields.ma2, Fields.na, Fields.mem]

theorem cp g a tok : Statement (.cp g a tok) := by
  rintro f w ⟨⟩ hw
  simp [decodeFields, decodeMap, decodeMajB0, need, Fields.guard, hw, Fields.imm, Fields.disp, Fields.ma2, Fields.na, Fields.mem, flag9_high, flag9_low]

theorem cpx g a tok : Statement (.cpx g a tok) := by
  rintro f w ⟨⟩ hw
  simp [decodeFields, decodeMap, decodeMajB0, need, Fields.guard, hw, Fields.imm, Fields.disp, Fields.ma2, Fields.na, Fields.mem, flag9_high, flag9_low]

theorem cpz g a tok : Statement (.cpz g a tok) := by
  rintro f w ⟨⟩ hw
  simp [decodeFields, decodeMap, decodeMajB0, need, Fields.guard, hw, Fields.imm, Fields.disp, Fields.ma2, Fields.na, Fields.mem, flag9_high, flag9_low]

theorem cpg g a b tok : Statement (.cpg g a b tok) := by
  rintro f w ⟨⟩ hw
  simp [decodeFields, decodeMap, decodeMajB0, need, Fields.guard, hw, Fields.imm, Fields.disp, Fields.ma2, Fields.na, Fields.mem, flag9_high, flag9_low]

theorem cps g a b tok : Statement (.cps g a b tok) := by
  rintro f w ⟨⟩ hw
  simp [decodeFields, decodeMap, decodeMajB0, need, Fields.guard, hw, Fields.imm, Fields.disp, Fields.ma2, Fields.na, Fields.mem, flag9_high, flag9_low]

theorem flsig g sc named tok tok2 : Statement (.flsig g sc named tok tok2) := by
  rintro f w ⟨⟩ hw
  simp [decodeFields, decodeMap, decodeMajB0, need, Fields.guard, hw, Fields.imm, Fields.disp, Fields.ma2, Fields.na, Fields.mem, flag9_high, flag9_low]

theorem tload g loc a tok : Statement (.tload g loc a tok) := by
  rintro f w ⟨⟩ hw
  simp [decodeFields, decodeMap, decodeMajB0, need, Fields.guard, hw, Fields.imm, Fields.disp, Fields.ma2, Fields.na, Fields.mem, flag9_high, flag9_low]

theorem twait g tok : Statement (.twait g tok) := by
  rintro f w ⟨⟩ hw
  simp [decodeFields, decodeMap, decodeMajB1, need, Fields.guard, hw, Fields.imm, Fields.disp, Fields.ma2, Fields.na, Fields.mem]

theorem tpoll g d tok : Statement (.tpoll g d tok) := by
  rintro f w ⟨⟩ hw
  simp [decodeFields, decodeMap, decodeMajB1, need, Fields.guard, hw, Fields.imm, Fields.disp, Fields.ma2, Fields.na, Fields.mem]

theorem bar g b : Statement (.bar g b) := by
  rintro f w ⟨⟩ hw
  simp [decodeFields, decodeMap, decodeMajC0, need, Fields.guard, hw, Fields.imm, Fields.disp, Fields.ma2, Fields.na, Fields.mem, id_low, id_high]

theorem bara g b : Statement (.bara g b) := by
  rintro f w ⟨⟩ hw
  simp [decodeFields, decodeMap, decodeMajC0, need, Fields.guard, hw, Fields.imm, Fields.disp, Fields.ma2, Fields.na, Fields.mem, id_low, id_high]

theorem barw g b : Statement (.barw g b) := by
  rintro f w ⟨⟩ hw
  simp [decodeFields, decodeMap, decodeMajC0, need, Fields.guard, hw, Fields.imm, Fields.disp, Fields.ma2, Fields.na, Fields.mem, id_low, id_high]

theorem sleep g n : Statement (.sleep g n) := by
  rintro f w ⟨⟩ hw
  simp [decodeFields, decodeMap, decodeMajC0, need, Fields.guard, hw, Fields.imm, Fields.disp, Fields.ma2, Fields.na, Fields.mem, id_low, id_high]

theorem lmark g imm : Statement (.lmark g imm) := by
  rintro f w ⟨⟩ hw
  simp [decodeFields, decodeMap, decodeMajD0, need, Fields.guard, hw, Fields.imm, Fields.disp, Fields.ma2, Fields.na, Fields.mem]

theorem capctl g imm : Statement (.capctl g imm) := by
  rintro f w ⟨⟩ hw
  simp [decodeFields, decodeMap, decodeMajD0, need, Fields.guard, hw, Fields.imm, Fields.disp, Fields.ma2, Fields.na, Fields.mem]

theorem capload g a imm : Statement (.capload g a imm) := by
  rintro f w ⟨⟩ hw
  simp [decodeFields, decodeMap, decodeMajD0, need, Fields.guard, hw, Fields.imm, Fields.disp, Fields.ma2, Fields.na, Fields.mem]

theorem capsave g d a imm : Statement (.capsave g d a imm) := by
  rintro f w ⟨⟩ hw
  simp [decodeFields, decodeMap, decodeMajD0, need, Fields.guard, hw, Fields.imm, Fields.disp, Fields.ma2, Fields.na, Fields.mem]

theorem capdrop g imm : Statement (.capdrop g imm) := by
  rintro f w ⟨⟩ hw
  simp [decodeFields, decodeMap, decodeMajD0, need, Fields.guard, hw, Fields.imm, Fields.disp, Fields.ma2, Fields.na, Fields.mem]

theorem trap g code : Statement (.trap g code) := by
  rintro f w ⟨⟩ hw
  simp [decodeFields, decodeMap, decodeMajE0, need, Fields.guard, hw, Fields.imm, Fields.disp, Fields.ma2, Fields.na, Fields.mem, code_imm, code_low, code_high, vec_low, vec_high]

theorem brk g code : Statement (.brk g code) := by
  rintro f w ⟨⟩ hw
  simp [decodeFields, decodeMap, decodeMajE0, need, Fields.guard, hw, Fields.imm, Fields.disp, Fields.ma2, Fields.na, Fields.mem, code_imm, code_low, code_high, vec_low, vec_high]

theorem eret g : Statement (.eret g) := by
  rintro f w ⟨⟩ hw
  simp [decodeFields, decodeMap, decodeMajE0, need, Fields.guard, hw, Fields.imm, Fields.disp, Fields.ma2, Fields.na, Fields.mem, code_imm, code_low, code_high, vec_low, vec_high]

theorem mfs g vec d reg : Statement (.mfs g vec d reg) := by
  rintro f w ⟨⟩ hw
  simp [decodeFields, decodeMap, decodeMajE0, need, Fields.guard, hw, Fields.imm, Fields.disp, Fields.ma2, Fields.na, Fields.mem, code_imm, code_low, code_high, vec_low, vec_high]

theorem mts g a reg : Statement (.mts g a reg) := by
  rintro f w ⟨⟩ hw
  simp [decodeFields, decodeMap, decodeMajE0, need, Fields.guard, hw, Fields.imm, Fields.disp, Fields.ma2, Fields.na, Fields.mem, code_imm, code_low, code_high, vec_low, vec_high]

theorem sleepEnd gang path : Statement (.sleepEnd gang path) := nofun

theorem gangUrgent gang : Statement (.gangUrgent gang) := nofun

theorem gangBlockRelease gang : Statement (.gangBlockRelease gang) := nofun

theorem cohortEnd cohort : Statement (.cohortEnd cohort) := nofun

theorem gridComplete grid : Statement (.gridComplete grid) := nofun

theorem placerDone core cells : Statement (.placerDone core cells) := nofun

theorem planeSwitch core : Statement (.planeSwitch core) := nofun

theorem cloverEnter core gang : Statement (.cloverEnter core gang) := nofun

theorem cellFire core cell : Statement (.cellFire core cell) := nofun

theorem memcellAccessReturn core cell : Statement (.memcellAccessReturn core cell) := nofun

theorem iterationRelease core gang : Statement (.iterationRelease core gang) := nofun

theorem drain core gang cause : Statement (.drain core gang cause) := nofun

theorem drainComplete core gang : Statement (.drainComplete core gang) := nofun

theorem compactionStart core grid moves : Statement (.compactionStart core grid moves) := nofun

theorem compactionMoveEnd core : Statement (.compactionMoveEnd core) := nofun

theorem cohortPlace grid : Statement (.cohortPlace grid) := nofun

theorem quartetReserve die grid : Statement (.quartetReserve die grid) := nofun

theorem l1SizeReserve die grid : Statement (.l1SizeReserve die grid) := nofun

theorem preemptDelayExpire grid : Statement (.preemptDelayExpire grid) := nofun

theorem queueSwapIn queue : Statement (.queueSwapIn queue) := nofun

theorem kick queue offset bytes value : Statement (.kick queue offset bytes value) := nofun

theorem fqrWrite fn value : Statement (.fqrWrite fn value) := nofun

theorem nopPacket queue : Statement (.nopPacket queue) := nofun

theorem launch queue : Statement (.launch queue) := nofun

theorem copy queue : Statement (.copy queue) := nofun

theorem wait queue : Statement (.wait queue) := nofun

theorem waitReread queue : Statement (.waitReread queue) := nofun

theorem signal queue : Statement (.signal queue) := nofun

theorem barrier queue : Statement (.barrier queue) := nofun

theorem caploadPacket queue : Statement (.caploadPacket queue) := nofun

theorem timestamp queue : Statement (.timestamp queue) := nofun

theorem bindAsid fn asid w0 w1 : Statement (.bindAsid fn asid w0 w1) := nofun

theorem verify fn asid va size descs unverified : Statement (.verify fn asid va size descs unverified) := nofun

theorem kernel fn segment index : Statement (.kernel fn segment index) := nofun

theorem queue fn q asid ring size prio save saveSize : Statement (.queue fn q asid ring size prio save saveSize) := nofun

theorem unqueue fn q : Statement (.unqueue fn q) := nofun

theorem restart fn q : Statement (.restart fn q) := nofun

theorem inval fn asid va size : Statement (.inval fn asid va size) := nofun

theorem preempt fn q : Statement (.preempt fn q) := nofun

theorem faultq fn va size : Statement (.faultq fn va size) := nofun

theorem respond fn record retry : Statement (.respond fn record retry) := nofun

theorem setdelay fn value : Statement (.setdelay fn value) := nofun

theorem ptwrite fn asid va entry : Statement (.ptwrite fn asid va entry) := nofun

theorem faultRecordWrite fn : Statement (.faultRecordWrite fn) := nofun

theorem rank2Supervisor gang : Statement (.rank2Supervisor gang) := nofun

theorem machineCheck die unit : Statement (.machineCheck die unit) := nofun

theorem softError target corrected : Statement (.softError target corrected) := nofun

theorem walkComplete die asid va : Statement (.walkComplete die asid va) := nofun

theorem atsCompletion asid va read write addr log2size : Statement (.atsCompletion asid va read write addr log2size) := nofun

theorem priResponse fn asid va code : Statement (.priResponse fn asid va code) := nofun

theorem atsInvalidate pasid va size : Statement (.atsInvalidate pasid va size) := nofun

theorem invalidationComplete id : Statement (.invalidationComplete id) := nofun

theorem oxEntryStart core entry : Statement (.oxEntryStart core entry) := nofun

theorem oxComplete core entry : Statement (.oxComplete core entry) := nofun

theorem copyCmdStart core cmd : Statement (.copyCmdStart core cmd) := nofun

theorem copyElement core cmd : Statement (.copyElement core cmd) := nofun

theorem copyCmdDone core cmd : Statement (.copyCmdDone core cmd) := nofun

theorem flsigComplete core cmd : Statement (.flsigComplete core cmd) := nofun

theorem tloadComplete core cmd : Statement (.tloadComplete core cmd) := nofun

theorem preemptRequest cohort : Statement (.preemptRequest cohort) := nofun

theorem contextSave cohort : Statement (.contextSave cohort) := nofun

theorem resume cohort : Statement (.resume cohort) := nofun

theorem coreRetire die core : Statement (.coreRetire die core) := nofun

theorem dieRetire die way : Statement (.dieRetire die way) := nofun

theorem powerEstimate die watts : Statement (.powerEstimate die watts) := nofun

theorem temperatureThreshold die celsius : Statement (.temperatureThreshold die celsius) := nofun

theorem laneRepair link module lane : Statement (.laneRepair link module lane) := nofun

theorem linkFail link : Statement (.linkFail link) := nofun

theorem linkReplay src dst : Statement (.linkReplay src dst) := nofun

theorem orderedWrite src dst : Statement (.orderedWrite src dst) := nofun

theorem atomic src dst : Statement (.atomic src dst) := nofun

theorem causalLoad src dst : Statement (.causalLoad src dst) := nofun

theorem plainLoad src dst : Statement (.plainLoad src dst) := nofun

theorem forwardedWrite src dst : Statement (.forwardedWrite src dst) := nofun

theorem bulkWrite src dst : Statement (.bulkWrite src dst) := nofun

theorem engineRead src dst : Statement (.engineRead src dst) := nofun

theorem flushMarker src dst : Statement (.flushMarker src dst) := nofun

theorem readResponse src dst : Statement (.readResponse src dst) := nofun

theorem atomicResponse src dst : Statement (.atomicResponse src dst) := nofun

theorem writeAcknowledgement src dst : Statement (.writeAcknowledgement src dst) := nofun

theorem flushReply src dst : Statement (.flushReply src dst) := nofun

theorem frontier src dst : Statement (.frontier src dst) := nofun

theorem frontierRequest src dst : Statement (.frontierRequest src dst) := nofun

theorem frontierIdleTimer src dst : Statement (.frontierIdleTimer src dst) := nofun

theorem holdRelease dst : Statement (.holdRelease dst) := nofun

theorem lossNotice dst lost : Statement (.lossNotice dst lost) := nofun

theorem memberLossTimeout member : Statement (.memberLossTimeout member) := nofun

theorem orderlyRemoval member : Statement (.orderlyRemoval member) := nofun

theorem resynchronisation remap readmit : Statement (.resynchronisation remap readmit) := nofun

theorem management src dst : Statement (.management src dst) := nofun

theorem hostWrite toHost addr data : Statement (.hostWrite toHost addr data) := nofun

theorem vetchXRemoteAccess package asid va op : Statement (.vetchXRemoteAccess package asid va op) := nofun

theorem readTelemetry die : Statement (.readTelemetry die) := nofun

theorem setPowerCap watts : Statement (.setPowerCap watts) := nofun

theorem retireRequest target : Statement (.retireRequest target) := nofun

theorem stageFirmware image : Statement (.stageFirmware image) := nofun

theorem attestation index nonce : Statement (.attestation index nonce) := nofun

theorem reset image tables failed : Statement (.reset image tables failed) := nofun

theorem pcieCompletion tag status : Statement (.pcieCompletion tag status) := nofun

theorem pcieLinkDown : Statement (.pcieLinkDown) := nofun

theorem priReenable fn : Statement (.priReenable fn) := nofun

theorem unreachablePackage package : Statement (.unreachablePackage package) := nofun

theorem localLoadReturn gang : Statement (.localLoadReturn gang) := nofun

end Sys2Proof.Laws.Encodes
end

