-- ==== Sys2Proof/Tests/Slice0.lean ====
section
/-! SUPPORT. Tests: what the well-formedness check refuses, worked encodings of the specification, single steps on a small state with values
worked out by hand from the rules, and a state and operands that meet the hypotheses of each statement. -/

namespace Sys2Proof.Tests

open Sys2Proof Sys2Proof.Machine Sys2Proof.Claim

-- One proof at a time: kernel evaluations that wait on one another side by side exhaust the checker's threads.
set_option Elab.async false

def al : Guard := ⟨0, false⟩

-- What WellFormed refuses

theorem test_wf_types : [Instr.sadd al .s8 1 2 3, .smul al .b64 2 4 6, .smulh al .i32 1 2 3, .scmp al .i32 .lt 1 2 3, .scmp al .s32 .un 1 2 3,
    .imul al .b64 2 4 ⟨false, 6⟩, .iadds al .i32 1 2 ⟨false, 3⟩, .irot al .s32 1 2 ⟨false, 3⟩, .iabs al .z32 1 ⟨false, 3⟩, .ipopc al .s32 1 ⟨false, 3⟩,
    .idp4 al .s32 1 2 3 4, .fma al .s32 .dyn 1 2 3 4, .fdot2 al .f8a .dyn 1 2 3 4, .fdot4 al .f16 .dyn 1 2 3 4, .cvt al .b64 .f32 .dyn 1 ⟨false, 2⟩,
    .cvtq al .f16 .f16 .dyn 1 2 ⟨false, 3⟩, .pack al .f32 1 2, .accz al .f16 0].all (fun i => !i.wf) = true := by decide

theorem test_wf_registers : [Instr.sadd al .i32 128 2 3, .sadd al .b64 1 2 4, .smov al .b64 2 3, .iand al .b64 1 2 ⟨false, 4⟩, .iadd al .i32 1 2 ⟨true, 128⟩,
    .isel al .b64 2 4 ⟨true, 3⟩ 0, .slih al 3 0, .iliB64 al 3 0, .call al 3 0, .brx al 3, .callReg al 2 129, .ret al 1, .bru al 128 0, .rstat al .dyn 3 4 5 0,
    .vote al 3 0x3FF 1 2, .xmatch al .b32 3 0x3FF ⟨false, 1⟩, .vote al 2 127 1 2].all (fun i => !i.wf) = true := by decide

theorem test_wf_modifiers : [Instr.sshlImm al .i32 1 2 32, .irotImm al .i32 1 2 0x80000, .sldArg al .i32 1 2, .sldArg al .b64 2 4, .iaddw al .i32 0 1 2 ⟨false, 3⟩ 0,
    .iaddw al .i32 5 1 2 ⟨false, 3⟩ 0, .callFar al 4, .xred al .s32 .dyn .add false 1 0x3FF ⟨false, 2⟩, .xred al .f32 .rz .max false 1 0x3FF ⟨false, 2⟩,
    .ld al .s4 .g false false 1 ⟨false, 4, 5, 0⟩, .ld al .b32 .s true false 1 ⟨false, 4, 5, 0⟩, .ld al .b32 .g false false 1 ⟨true, 4, 5, 0⟩,
    .ldb al .g false 3 0 ⟨false, 4, 5, 0⟩, .stb al .g false 1 4 ⟨false, 4, 5, 0⟩, .atom al .adds .i32 .g 2 4 5 0, .atom al .cas .i32 .g 3 4 5 0].all
    (fun i => !i.wf) = true := by decide

theorem test_wf_units : [Instr.oxip al .f16 .bf16 1 2 0 0 0 0, .oxip al .f16 .f16 1 2 0 1 0 0, .oxip al .f16 .f16 1 2 0 0 0 3, .oxip al .f16 .f16 1 2 0 9 15 1,
    .oxop al .f32 .f32 1 2 0 0 false, .oxrw al .f16 .f16 1 2 3 0 0 false, .oxrw al .f16 .f16 1 2 3 1 0 true, .accst al .f32 .rne 1 2 0 0 0 false,
    .accst al .f32 .rne 0x3FF 0x3FF 0 0 0 false, .accst al .f32 .rne 1 0x3FF 2 0 0 false, .ldmeta al 1 0 0, .cp al 128 0, .flsig al .pkg true 1 1, .flsig al .pkg false 1 2,
    .tload al false 3 0, .tpoll al 128 0, .capctl al 0x100, .capctl al 0x404, .capload al 3 0, .mfs al true 1 0x00D, .mfs al false 128 0, .mts al 1 0x015].all
    (fun i => !i.wf) = true := by decide

theorem test_reserved_bytes_refused : (decode (encodeBytes (.sadd al .s8 1 2 3))).isNone = true ∧ (decode (encodeBytes (.ret al 1))).isNone = true ∧
    (decode (wordToBytes 0xFF00000000000000)).isNone = true ∧ (decode (wordToBytes 0x1100000000006000)).isNone = true ∧
    (decode (wordToBytes 0x1100000000015000)).isNone = true ∧ (decode (wordToBytes 0x1C00000000030010)).isNone = true := by decide

-- Encodings that the specification works out

/-- R57: `?!p2 fma.f32 v10, v11, v12, v10`. -/
theorem test_word_fma : decodeTableWord 64 0x420280B0300A0B28 = some (.fma ⟨2, true⟩ .f32 .dyn 10 11 12 10) := by decide
/-- R57: its bytes in memory. -/
theorem test_bytes_fma : encodeBytes (.fma ⟨2, true⟩ .f32 .dyn 10 11 12 10) = [0x28, 0x0B, 0x0A, 0x30, 0xB0, 0x80, 0x02, 0x42] := by decide
/-- R58: `ld.g.b32 v7, [s4 + 0x4]`. -/
theorem test_word_ld : decodeTableWord 64 0x8001C04FFC010900 = some (.ld al .b32 .g false false 7 ⟨false, 4, 0x3FF, 1⟩) := by decide
/-- R58: `?p1 brd`. -/
theorem test_word_brd : decodeTableWord 128 0x00000014000000001C00000000030010 = some (.brd ⟨1, false⟩ 3 5) := by decide
theorem test_word_nop : decodeTableWord 64 0x1100000000005000 = some (.nop al) := by decide
theorem test_word_icmp : decodeTableWord 64 0x200000100A10E202 = some (.icmp al .z32 .lt 1 ⟨true, 2⟩ 1 0) := by decide
theorem test_word_lpb : decodeTableWord 64 0x10027FFFFFFD3000 = some (.lpb al 9 0x3FFFFFFD) := by decide
theorem test_word_bru : decodeTableWord 64 0x1003BFFFFFFD1000 = some (.bru al 14 0x3FFFFFFD) := by decide
theorem test_word_sli : decodeTableWord 128 0x00000000012345670F00400000000000 = some (.sliLong al 1 0x01234567) := by decide
theorem test_word_xred : decodeTableWord 64 0x70053FF020022B00 = some (.xred al .f32 .dyn .max false 20 0x3FF ⟨false, 8⟩) := by decide
theorem test_word_vote : decodeTableWord 64 0x7003BFF000210000 = some (.vote al 14 0x3FF 2 1) := by decide
theorem test_word_fcmp : decodeTableWord 64 0x400000A018205B01 = some (.fcmp al .ne 10 ⟨false, 6⟩ 2 0) := by decide
theorem test_word_rstat : decodeTableWord 64 0x690300A028000B00 = some (.rstat al .dyn 12 10 10 0) := by decide
theorem test_word_st : decodeTableWord 64 0x8100C04008000900 = some (.st al .b32 .g false false 3 ⟨false, 4, 2, 0⟩) := by decide
theorem test_word_stb : decodeTableWord 64 0x8301004004000900 = some (.stb al .g false 0 4 ⟨false, 4, 1, 0⟩) := by decide
theorem test_word_atom : decodeTableWord 64 0x8401804FFC100000 = some (.atom al .add .i32 .g 6 4 0x3FF 16) := by decide
theorem test_word_atom_or : decodeTableWord 64 0x840300A02C004940 = some (.atom ⟨4, false⟩ .or .b32 .g 12 10 11 0) := by decide
theorem test_word_ld_causal : decodeTableWord 64 0x8001010FFC000904 = some (.ld al .b32 .g true false 4 ⟨false, 16, 0x3FF, 0⟩) := by decide
theorem test_word_fence : decodeTableWord 64 0x8500000000001001 = some (.fence al .rel .coh) ∧ decodeTableWord 64 0x8500000000003003 = some (.fence al .sc .pkg) := by decide
theorem test_word_tld : decodeTableWord 64 0x8901402010000900 = some (.tld al 5 2 4 0) := by decide
theorem test_word_oxip : decodeTableWord 128 0x20F7000000000000A000004018000C00 = some (.oxip al .f16 .f16 4 6 2 0 15 1) := by decide
theorem test_word_oxrw : decodeTableWord 128 0x0007000000000000A20000A030000C00 = some (.oxrw al .f16 .f16 10 12 0 0 0 false) := by decide
theorem test_word_accst : decodeTableWord 128 0x0002D00000000000A3FFC060480A2001 = some (.accst al .f32 .rne 0x3FF 6 18 10 0 true) := by decide
theorem test_word_cp : decodeTableWord 128 0x3000000000000000B000008000000000 = some (.cp al 8 3) := by decide
theorem test_word_cpz : decodeTableWord 128 0x1000000000000000B000008000001000 = some (.cpz al 8 1) := by decide
theorem test_word_flsig : decodeTableWord 128 0x1600000000000000B000000000005000 = some (.flsig al .pkg false 1 0) := by decide
theorem test_word_twait : decodeTableWord 128 0x1000000000000000B100000000000000 = some (.twait al 1) := by decide
theorem test_word_bar : decodeTableWord 64 0xC000000000030000 = some (.bar al 3) := by decide
theorem test_word_lmark : decodeTableWord 64 0xD000000FFFFB0000 = some (.lmark al 0xFFFFB) := by decide
theorem test_word_capctl : decodeTableWord 64 0xD000000010031000 = some (.capctl al 0x1003) := by decide
theorem test_word_trap : decodeTableWord 64 0xE0000000002A0010 = some (.trap ⟨1, false⟩ 42) := by decide
theorem test_word_brk : decodeTableWord 64 0xE000000000051000 = some (.brk al 5) := by decide
theorem test_word_eret : decodeTableWord 64 0xE000000000002000 = some (.eret al) := by decide
theorem test_word_mfs : decodeTableWord 64 0xE000C00800203000 = some (.mfs al true 3 0x20) := by decide
theorem test_word_mts : decodeTableWord 64 0xE000003000104000 = some (.mts al 3 0x10) := by decide

-- A small state: one gang of 16 lanes on core 0 of die 0, issuing its only path at 0x10000

def g0 : Gang := newGang State.reset 0 loadedGrid 1 0 0 0 0 0 (List.range 16) [0] 0
def p0 : Path := ⟨0, 0x10000, lowLanes 16, .ready, 0, 1⟩
def base (g : Gang) : State :=
  { State.reset with gangs := [(2, g)], cohorts := [(1, loadedCohort 0 2)], grids := [(0, loadedGrid)], cur := some (2, 0) }

/-- A gang with vector registers v1, v2, v3 the same in each lane, and uniform registers s1 to s3. -/
def gv (a b c : Word) : Gang :=
  { g0 with
    v := spList ((List.range 16).map (fun l => (64 + l, a)) ++ (List.range 16).map (fun l => (128 + l, b)) ++ (List.range 16).map (fun l => (192 + l, c)))
    s := spList [(1, a), (2, b), (3, c)] }
where
  spList (l : List (Nat × Word)) : List (Nat × Word) := l.filter (fun x => x.2 ≠ 0)

def after (o : Out) : Option Gang :=
  match o with
  | .next s => s.gang 2
  | _ => none

/-- Lane 3 of register r; uniform register r; lane 3 of predicate n; the first path's PC: after one instruction. -/
def vAfter (i : Instr) (g : Gang) (r : Nat) : Option Word := (after (exec i (base g))).map (fun x => getV x r 3)
def sAfter (i : Instr) (g : Gang) (r : Nat) : Option Word := (after (exec i (base g))).map (fun x => getS x r)
def pAfter (i : Instr) (g : Gang) (n : BitVec 4) : Option Bool := (after (exec i (base g))).map (fun x => (getPred x n).getLsbD 3)
def fAfter (i : Instr) (g : Gang) : Option Word := (after (exec i (base g))).map (fun x => x.fpstat)
def pcAfter (i : Instr) (g : Gang) : Option DWord := (after (exec i (base g))).bind (fun x => x.paths.head?.map (·.pc))
def causeAfter (i : Instr) (g : Gang) : Option (Word × Word) :=
  (after (exec i (base g))).bind (fun x => x.pending.head?.map (fun t => (t.1.cause, t.1.info)))

-- Scalar and vector integers: sums wrap, signs extend, shifts past the width give their limit (R85 to R97)

theorem test_sadd_wraps : sAfter (.sadd al .i32 4 1 2) (gv 0xFFFFFFFF 2 0) 4 = some 1 := by decide
theorem test_smulh_signed : sAfter (.smulh al .s32 4 1 2) (gv 0xFFFFFFFE 3 0) 4 = some 0xFFFFFFFF := by decide
theorem test_ssra_past_width : sAfter (.ssra al .i32 4 1 2) (gv 0x80000000 40 0) 4 = some 0xFFFFFFFF := by decide
theorem test_smin_signed : sAfter (.smin al .s32 4 1 2) (gv 0xFFFFFFFF 1 0) 4 = some 0xFFFFFFFF := by decide
theorem test_scmp_unsigned : sAfter (.scmp al .z32 .lt 4 1 2) (gv 0xFFFFFFFF 1 0) 4 = some 0 := by decide
theorem test_saddImm_sign : sAfter (.saddImm al .i32 4 1 0xFFFFF) (gv 5 0 0) 4 = some 4 := by decide
theorem test_sliShort_sign : sAfter (.sliShort al 4 0x80000) (gv 0 0 0) 4 = some 0xFFF80000 := by decide
theorem test_iadds_clamps : vAfter (.iadds al .s32 4 1 ⟨false, 2⟩) (gv 0x7FFFFFFF 1 0) 4 = some 0x7FFFFFFF ∧
    fAfter (.iadds al .s32 4 1 ⟨false, 2⟩) (gv 0x7FFFFFFF 1 0) = some 0x20 := by decide
/-- R90: `imin.z32 v1, v2, -1` leaves v2 unchanged. -/
theorem test_iminImm_unsigned : vAfter (.iminImm al .z32 4 1 0xFFFFF) (gv 7 0 0) 4 = some 7 := by decide
theorem test_ishl_past_width : vAfter (.ishl al .i32 4 1 ⟨false, 2⟩) (gv 1 32 0) 4 = some 0 := by decide
theorem test_irot : vAfter (.irotImm al .i32 4 1 8) (gv 0x12345678 0 0) 4 = some 0x34567812 := by decide
theorem test_iabs_most_negative : vAfter (.iabs al .s32 4 ⟨false, 1⟩) (gv 0x80000000 0 0) 4 = some 0x80000000 := by decide
theorem test_iclz_ipopc : vAfter (.iclz al .i32 4 ⟨false, 1⟩) (gv 0x00010000 0 0) 4 = some 15 ∧
    vAfter (.ipopc al .i32 4 ⟨false, 1⟩) (gv 0xF000000F 0 0) 4 = some 8 := by decide
theorem test_ibfx_signed : vAfter (.ibfx al .s32 4 1 2 3) (gv 0x00000F00 8 4) 4 = some 0xFFFFFFFF := by decide
theorem test_ibfi : vAfter (.ibfi al .i32 1 2 3 3) (gv 0xFFFFFFFF 0 4) 1 = some 0xFFFFFF0F := by decide
theorem test_idp4_signed : vAfter (.idp4 al .s8 4 1 2 3) (gv 0x00FF0102 0x01020304 10) 4 = some 19 := by decide
theorem test_iaddc_carry : vAfter (.iaddc al .i32 4 1 ⟨false, 2⟩ 1 0) (gv 0xFFFFFFFF 0 0) 4 = some 0 ∧
    pAfter (.iaddc al .i32 4 1 ⟨false, 2⟩ 1 0) (gv 0xFFFFFFFF 0 0) 1 = some true := by decide
theorem test_isubb_borrow : vAfter (.isubb al .i32 4 1 ⟨false, 2⟩ 1 2) (gv 0 1 0) 4 = some 0xFFFFFFFF ∧
    pAfter (.isubb al .i32 4 1 ⟨false, 2⟩ 1 2) (gv 0 1 0) 1 = some true := by decide
theorem test_icmp_pd_p0 : pAfter (.icmp al .s32 .eq 1 ⟨false, 2⟩ 0 0) (gv 1 2 0) 0 = some true := by decide
theorem test_guard_writes_nothing : vAfter (.iadd ⟨1, false⟩ .i32 4 1 ⟨false, 2⟩) (gv 1 2 0) 4 = some 0 ∧
    pcAfter (.iadd ⟨1, false⟩ .i32 4 1 ⟨false, 2⟩) (gv 1 2 0) = some 0x10008 := by decide

-- Floats (R98 to R104, R158): IEEE 754 values worked by hand

theorem test_fadd : vAfter (.fadd al .f32 .rne 4 1 ⟨false, 2⟩) (gv 0x3F800000 0x40000000 0) 4 = some 0x40400000 := by decide
theorem test_fmul_overflow : vAfter (.fmul al .f32 .rne 4 1 ⟨false, 2⟩) (gv 0x7F7FFFFF 0x40000000 0) 4 = some 0x7F800000 ∧
    fAfter (.fmul al .f32 .rne 4 1 ⟨false, 2⟩) (gv 0x7F7FFFFF 0x40000000 0) = some 0x14 := by decide
theorem test_fma_exact : vAfter (.fma al .f32 .rne 4 1 2 3) (gv 0x3F800001 0x3F800001 0xBF800002) 4 = some 0x28800000 := by decide
theorem test_fadd_inf_minus_inf : vAfter (.fsub al .f32 .rne 4 1 ⟨false, 2⟩) (gv 0x7F800000 0x7F800000 0) 4 = some 0x7FC00000 ∧
    fAfter (.fsub al .f32 .rne 4 1 ⟨false, 2⟩) (gv 0x7F800000 0x7F800000 0) = some 1 := by decide
theorem test_fadd_ru : vAfter (.fadd al .f32 .ru 4 1 ⟨false, 2⟩) (gv 0x3F800000 0x00000001 0) 4 = some 0x3F800001 := by decide
theorem test_fclass_minus_zero : vAfter (.fclass al 4 1 ⟨false, 2⟩ 1) (gv 0x80000000 0x20 0) 4 = some 0x20 ∧
    pAfter (.fclass al 4 1 ⟨false, 2⟩ 1) (gv 0x80000000 0x20 0) 1 = some true := by decide
theorem test_cvt_f16 : vAfter (.cvt al .f16 .f32 .rne 4 ⟨false, 1⟩) (gv 0x3F800000 0 0) 4 = some 0x3C00 := by decide
theorem test_cvt_s32_clamps : vAfter (.cvt al .s32 .f32 .rz 4 ⟨false, 1⟩) (gv 0x4F800000 0 0) 4 = some 0x7FFFFFFF := by decide
theorem test_pack_low_bytes : vAfter (.pack al .z16 4 1) (gv 0xABCD1234 0xFFFF5678 0) 4 = some 0x56781234 := by decide
theorem test_frcp_zero : vAfter (.frcp al 4 1) (gv 0x80000000 0 0) 4 = some 0xFF800000 := by decide

-- Control flow and traps (R105 to R111, R359 to R374)

theorem test_jmp_back : pcAfter (.jmp al 0x3FFFFFFE) g0 = some 0xFFF0 := by decide
theorem test_lpb_wraps : sAfter (.lpb al 4 2) g0 4 = some 0xFFFFFFFF ∧ pcAfter (.lpb al 4 2) g0 = some 0x10010 := by decide
theorem test_call_links_next : vAfter (.call al 4 2) g0 4 = some 0x10008 ∧ pcAfter (.call al 4 2) g0 = some 0x10010 := by decide
theorem test_brx_misaligned : causeAfter (.brx al 2) { g0 with s := [(2, 0x10004)] } = some (0x03, 0) := by decide
theorem test_trap_code : causeAfter (.trap al 42) g0 = some (0x10, 42) ∧ causeAfter (.brk al 5) g0 = some (0x11, 5) := by decide
theorem test_eret_outside_handler : causeAfter (.eret al) g0 = some (0x02, 3) := by decide
theorem test_mts_read_only : causeAfter (.mts al 2 0x00D) g0 = some (0x02, 1) := by decide
theorem test_mts_trap_state : causeAfter (.mts al 2 0x020) g0 = some (0x02, 2) := by decide
/-- R46: MODE 7 is not taken. -/
theorem test_mts_round_keeps_mode : (after (exec (.mts al 1 0x010) (base { g0 with s := [(1, 7)], round := 2 }))).map (fun g => g.round) = some 2 := by decide
theorem test_mfs_core : sAfter (.mfs al false 4 0x00B) { g0 with core := 77 } 4 = some 77 := by decide
theorem test_reserved_encoding : causeAfter (.ret al 1) g0 = some (0x01, 0) := by decide
theorem test_past_regs_is_illop : causeAfter (.iliLong al 16 0) { g0 with kd := { loadedKernel with regs := 16 } } = some (0x01, 0) := by decide
theorem test_poison_names_register : causeAfter (.imov al .i32 4 ⟨false, 1⟩) { g0 with vpoison := [64 + 3] } = some (0x06, 0x10) := by decide
theorem test_exit_ends_lanes : (after (exec (.exit ⟨1, false⟩) (base { g0 with p := [(1, 0xFF)] }))).map (fun g => (g.exited, g.paths.map (·.mask))) =
    some (0xFF, [0xFF00]) := by decide
theorem test_brd_splits : (after (exec (.brd ⟨1, false⟩ 3 5) (base { g0 with p := [(1, 0xF)] }))).map (fun g => g.paths.map (fun p => (p.pc, p.mask))) =
    some [(0x10018, 0xF), (0x10010, 0xFFF0)] := by decide
theorem test_yield_and_nop : pcAfter (.yield al) g0 = some 0x10008 ∧ pcAfter (.nop al) g0 = some 0x10008 := by decide


-- Lanes with lanes (R138 to R148, R160, R161)

/-- F32 codes of 0 to 15. -/
def ratCode (n : Nat) : Word :=
  listGet 0 [0, 0x3F800000, 0x40000000, 0x40400000, 0x40800000, 0x40A00000, 0x40C00000, 0x40E00000, 0x41000000, 0x41100000, 0x41200000, 0x41300000,
    0x41400000, 0x41500000, 0x41600000, 0x41700000] n

/-- v1 holds the lane number plus one; p1 the lowest four lanes. -/
def gl : Gang := { g0 with v := (List.range 16).map (fun l => (64 + l, BitVec.ofNat 32 (l + 1))), p := [(1, 0xF)] }

theorem test_vote : sAfter (.vote al 2 0x3FF 2 1) gl 2 = some 0xF ∧ pAfter (.vote al 2 0x3FF 2 1) gl 2 = some true := by decide
theorem test_xred_sum : vAfter (.xred al .i32 .dyn .add false 4 0x3FF ⟨false, 1⟩) gl 4 = some 136 := by decide
theorem test_xscan_exclusive : vAfter (.xscan al .i32 .dyn .add false 4 0x3FF ⟨false, 1⟩) gl 4 = some 6 ∧
    vAfter (.xscan al .i32 .dyn .add true 4 0x3FF ⟨false, 1⟩) gl 4 = some 10 := by decide
theorem test_shfl : vAfter (.shfl al .b32 4 1 ⟨true, 1⟩) { gl with s := [(1, 9)] } 4 = some 10 := by decide
theorem test_xmatch : vAfter (.xmatch al .b32 4 0x3FF ⟨false, 1⟩) gl 4 = some 8 := by decide
theorem test_xcomp : vAfter (.xcomp al .b32 4 0x3FF ⟨false, 1⟩ 2 1) gl 4 = some 4 ∧ pAfter (.xcomp al .b32 4 0x3FF ⟨false, 1⟩ 2 1) gl 2 = some true := by decide
theorem test_iaddw_carries : vAfter (.iaddw al .i32 2 4 1 ⟨false, 2⟩ 1) (gv 0xFFFFFFFF 0 0) 4 = some 0xFFFFFFFF := by decide
set_option maxRecDepth 20000 in
/-- R161: sums about the pilot: 0 + 1 + … + 15 = 120, and their squares 1240. -/
theorem test_rstat : vAfter (.rstat al .rne 4 2 3 0) { g0 with v := (List.range 16).map (fun l => (128 + l, ratCode l)) |>.filter (·.2 ≠ 0) } 4 = some 0x42F00000 ∧
    vAfter (.rstat al .rne 4 2 3 0) { g0 with v := (List.range 16).map (fun l => (128 + l, ratCode l)) |>.filter (·.2 ≠ 0) } 5 = some 0x449B0000 := by decide

-- Local memory, tables, tokens, barriers, capture (R248 to R257, R165, R329 to R342, R150, R170)

/-- Core 0 with bytes in its local store. -/
def withMem (g : Gang) (m : List Host.Cell) : State := (base g).putCore 0 0 { Core.reset with mem := m }

def lane (g : Option Gang) (r l : Nat) : Option Word := g.map (fun x => getV x r l)
/-- Two steps of one load: issue and return. -/
def loaded (i : Instr) (g : Gang) (m : List Host.Cell) (r : Nat) : Option Word :=
  match exec i (withMem g m) with
  | .next s => match execLocalLoadReturn 2 s with
    | .next t => (t.gang 2).map (fun x => getV x r 3)
    | _ => none
  | _ => none

theorem test_ld_sign_extends : loaded (.ld al .s8 .s false false 4 ⟨false, 2, 0x3FF, 3⟩) { g0 with s := [(2, 0x10)] } [(0x13, 0x80)] 4 = some 0xFFFFFF80 := by decide
theorem test_ld_zero_extends : loaded (.ld al .z16 .s false false 4 ⟨false, 2, 0x3FF, 0⟩) { g0 with s := [(2, 0x10)] } [(0x10, 0x80), (0x11, 0xFF)] 4 = some 0xFF80 := by decide
theorem test_ld_misaligned : causeAfter (.ld al .b32 .s false false 4 ⟨false, 2, 0x3FF, 0⟩) { g0 with s := [(2, 0x12)] } = some (0x03, 0) := by decide
theorem test_ld_past_scratch : causeAfter (.ld al .b32 .s false false 4 ⟨false, 2, 0x3FF, 0⟩) { g0 with s := [(2, 0x10000)] } = some (0x05, 0x57) := by decide
/-- The bytes of core 0's local store after an instruction. -/
def memAfter (i : Instr) (g : Gang) (a n : Nat) : Option (List Byte) :=
  match exec i (withMem g []) with
  | .next s => some (localBytes (s.coreAt 0 0).mem a n)
  | _ => none
theorem test_st_highest_lane : memAfter (.st al .b32 .s false false 1 ⟨false, 2, 0x3FF, 0⟩) { gl with s := [(2, 0x20)] } 0x20 4 = some [16, 0, 0, 0] := by decide
theorem test_st_byte : memAfter (.st al .z8 .s false false 1 ⟨false, 2, 0x3FF, 1⟩) { gv 0x1234 0 0 with s := [(2, 0x20)] } 0x20 4 = some [0, 0x34, 0, 0] := by decide
theorem test_tpoll_free : sAfter (.tpoll al 4 3) g0 4 = some 0 := by decide
theorem test_twait_free : causeAfter (.twait al 3) g0 = some (0x0A, 3) := by decide
theorem test_bar_past_bars : causeAfter (.bar al 3) { g0 with kd := { loadedKernel with bars := 3 } } = some (0x09, 3) := by decide
theorem test_capctl : (after (exec (.capctl al 0x1003) (base g0))).map (·.capctl) = some 0x1003 := by decide
theorem test_tld_clamps : vAfter (.tld al 4 2 0x3FF 0) { g0 with s := [(2, 0xFFFFFFF0)] } 4 = some 0 := by decide
theorem test_accz_queues : ((match exec (.accz al .s32 3) (base g0) with | .next s => some ((s.coreAt 0 0).oxq.length) | _ => none)) = some 1 := by decide
theorem test_cp_token_busy : (after (exec (.cp al 2 3) (base { g0 with s := [(2, 0x40)] }))).map (fun g => (listGet Token.reset g.tokens 3).st == .busy) = some true := by decide
theorem test_cp_misaligned : causeAfter (.cp al 2 3) { g0 with s := [(2, 0x44)] } = some (0x03, 0) := by decide
theorem test_fence_acq_empties_l1 : (match exec (.fence al .acq .coh) ((base g0).putCore 0 0 { Core.reset with l1 := [(5, madeLine [] false)] }) with
    | .next s => some (s.coreAt 0 0).l1.length | _ => none) = some 0 := by decide

-- A state and operands that meet the hypotheses of each statement, clause by clause

/-- Gang `g` issues `i` in `base g`. -/
abbrev At (i : Instr) (g : Gang) (vr : List Nat) : Prop := Issues (base g) i 2 g p0 vr

theorem clean_of {g : Gang} (m : LaneMask) (rd : List Nat) (h : g.vpoison = []) : Unpoisoned g m rd := by
  intro r _ l _ _; rw [h]; rfl

/-- Operands of lanes and scalars, and predicate p1 in the lowest four lanes. -/
def gw : Gang := { gv 5 3 1 with p := [(1, 0xF)] }

theorem witness_ScalarResult : scalarValue gw (.sadd al .i32 4 1 2) = some (al, .i32, 4, 8) ∧ At (.sadd al .i32 4 1 2) gw [] ∧ spOk 0 gw.s = true :=
  ⟨rfl, ⟨rfl, rfl, by decide, rfl⟩, by decide⟩

theorem witness_LaneResult : (∃ x, laneValue gw (.iadd al .i32 4 1 ⟨false, 2⟩) = some (al, [1, 2], .i32, 4, x)) ∧
    (∃ x, triValue gw (.imad al .i32 4 1 2 3) = some (al, [1, 2, 3], 4, x)) ∧ At (.iadd al .i32 4 1 ⟨false, 2⟩) gw [1, 2, 4] ∧
    At (.imad al .i32 4 1 2 3) gw [1, 2, 3, 4] ∧ spOk 0 gw.v = true ∧ Unpoisoned gw (guardLanes gw p0 al) [1, 2, 3] :=
  ⟨⟨_, rfl⟩, ⟨_, rfl⟩, ⟨rfl, rfl, by decide, rfl⟩, ⟨rfl, rfl, by decide, rfl⟩, by decide, clean_of _ _ rfl⟩

theorem witness_SaturatingAdd : At (.iadds al .s32 4 1 ⟨false, 2⟩) (gv 0x7FFFFFFF 1 0) [1, 2, 4] ∧ At (.iaddsImm al .s32 4 1 0x7FFFF) (gv 0x7FFFFFFF 1 0) [1, 4] ∧
    (clampedSum .s32 0x7FFFFFFF 1).2 = true :=
  ⟨⟨rfl, rfl, by decide, rfl⟩, ⟨rfl, rfl, by decide, rfl⟩, by decide⟩

theorem witness_PredicateResult : At (.icmp al .s32 .lt 1 ⟨false, 2⟩ 2 1) gw [1, 2] ∧ At (.iaddc al .i32 4 1 ⟨false, 2⟩ 2 1) gw [1, 2, 4] ∧
    At (.isubb al .i32 4 1 ⟨false, 2⟩ 2 1) gw [1, 2, 4] ∧ spOk 0 gw.p = true ∧ Unpoisoned gw (guardLanes gw p0 al) [1, 2] :=
  ⟨⟨rfl, rfl, by decide, rfl⟩, ⟨rfl, rfl, by decide, rfl⟩, ⟨rfl, rfl, by decide, rfl⟩, by decide, clean_of _ _ rfl⟩

/-- With every lane present, and with lanes absent whose miss is not a trap. -/
theorem witness_WideAddResult : At (.iaddw al .i32 4 4 1 ⟨false, 2⟩ 2) gw [1, 2, 4] ∧ At (.iaddw ⟨1, false⟩ .i32 4 4 1 ⟨false, 2⟩ 2) gw [1, 2, 4] ∧
    guardLanes gw p0 ⟨1, false⟩ = 0xF ∧ gw.xlctl.getLsbD 1 = false ∧ At (.iaddw ⟨1, false⟩ .i32 4 4 1 ⟨false, 2⟩ 2) { gw with xlctl := 2 } [1, 2, 4] ∧
    (decide (5 < gw.kd.gangw) && !(0xF#64 : LaneMask).getLsbD 5 && (lanesOf 0xF).any (fun k => k / 2 ^ 4 == 5 / 2 ^ 4)) = true :=
  ⟨⟨rfl, rfl, by decide, rfl⟩, ⟨rfl, rfl, by decide, rfl⟩, by decide, by decide, ⟨rfl, rfl, by decide, rfl⟩, by decide⟩

theorem witness_FloatResult : (∃ x, floatValue gw (.fadd al .f32 .rne 4 1 ⟨false, 2⟩) = some (al, [1, 2], 4, x)) ∧
    At (.fadd al .f32 .rne 4 1 ⟨false, 2⟩) gw [1, 2, 4] := ⟨⟨_, rfl⟩, ⟨rfl, rfl, by decide, rfl⟩⟩

theorem witness_FloatPredicate : At (.fcmp al .lt 1 ⟨false, 2⟩ 2 1) gw [1, 2] ∧ At (.fclass al 4 1 ⟨false, 2⟩ 2) gw [1, 2, 4] ∧
    (∃ r : Nat → Bool, ∀ l, r l = true ↔ condX .lt (f32 gw (getV gw 1 l)) (f32 gw (readB32 gw ⟨false, 2⟩ l)) ∧ (getPred gw 1).getLsbD l = true) :=
  ⟨⟨rfl, rfl, by decide, rfl⟩, ⟨rfl, rfl, by decide, rfl⟩, ⟨fun l => @decide (condX .lt (f32 gw (getV gw 1 l)) (f32 gw (readB32 gw ⟨false, 2⟩ l)) ∧
    (getPred gw 1).getLsbD l = true) (Classical.propDecidable _), fun l => @decide_eq_true_iff _ (Classical.propDecidable _)⟩⟩

/-- Values that overflow and that do not, in F16 and in an 8-bit format; finite sources, NaN, infinity and zero; a negative normal number and a signalling NaN. -/
theorem witness_RoundingAndSpecials : (∀ L ∈ limits, L.F ∈ [fmtF32, fmtF16, fmtBF16, fmtF8A, fmtF8B]) ∧
    roundsUpTo .rne false 65504 65536 |ratOf false 65520 0| ∧ ¬ roundsUpTo .rz true 65504 65536 |ratOf true 65520 0| ∧ roundsUpTo .rd true 240 256 |ratOf true 241 0| ∧
    ¬ roundsUpTo .ro false 240 256 |ratOf false 241 0| ∧ FinOf fmtF32 false 0xBF800000 (true, -1) ∧ FinOf fmtF16 true 0x0001 (false, 0) ∧
    (decodeF fmtF32 false 0x7FC00000).1 = .nan ∧ (decodeF fmtF32 false 0xFF800000).1 = .inf true ∧ (decodeF fmtF32 false 0).1 = .fin false 0 (-149) ∧
    (241 : ℚ) > 240 ∧ isNaN 0x7F800001 = true ∧ isNaN 0xBF800000 = false ∧ (0xBF800000 : Word).getLsbD 31 = true ∧ (0xBF800000 : Word).extractLsb' 23 8 ≠ 0 :=
  ⟨by simp [limits], by norm_num [roundsUpTo, ratOf], by norm_num [roundsUpTo, ratOf], by norm_num [roundsUpTo, ratOf], by norm_num [roundsUpTo, ratOf],
   ⟨2 ^ 23, -23, by decide, by norm_num [ratOf]⟩, ⟨0, -24, by decide, by norm_num [ratOf]⟩, by decide, by decide, by decide, by norm_num, by decide, by decide, by decide, by decide⟩

theorem witness_PackUnpack : At (.pack al .z16 4 1) gw [1, 2, 4] ∧ At (.unpk al .s8 4 ⟨false, 1⟩) gw [1, 4, 5, 6, 7] ∧ spOk 0 gw.v = true :=
  ⟨⟨rfl, rfl, by decide, rfl⟩, ⟨rfl, rfl, by decide, rfl⟩, by decide⟩

/-- Rows of finite elements, with a NaN, and with an infinity. -/
theorem witness_RowStatistics : (let m := guardLanes gw p0 al
    let el (g : Gang) (k l : Nat) : XReal := (decodeF fmtF32 (ftzOn g) (getV g k l).toNat).1
    let row (g : Gang) : List XReal := (List.range 2).flatMap fun j => (lanesOf m).map fun l => el g (1 + j) l
    (∀ x ∈ el gw 3 (lowestLane m) :: row gw, isFinite x = true) ∧ XReal.nan ∈ row (gv 0x7FC00000 3 1) ∧
    XReal.nan ∉ row (gv 5 0xFF800000 1) ∧ XReal.inf true ∈ row (gv 5 0xFF800000 1)) ∧
    At (.rstat al .rne 4 1 3 1) gw [1, 2, 3, 4, 5] ∧ guardLanes gw p0 al ≠ 0 ∧ guardLanes gw p0 ⟨15, false⟩ = 0 ∧
    At (.rstat ⟨15, false⟩ .rne 4 1 3 1) gw [1, 2, 3, 4, 5] := ⟨by decide, ⟨rfl, rfl, by decide, rfl⟩, by decide, by decide, ⟨rfl, rfl, by decide, rfl⟩⟩

theorem witness_TransferTaken : guardLanes gw p0 al ≠ 0 ∧ At (.jmp al 3) gw [] ∧ At (.bru al 1 3) gw [] ∧ At (.lpb al 3 5) gw [] ∧ At (.call al 4 3) gw [4, 5] ∧
    At (.callFar al 64) gw [0, 1] ∧ getS gw 3 = 1 ∧ getS gw 9 = 0 :=
  ⟨by decide, ⟨rfl, rfl, by decide, rfl⟩, ⟨rfl, rfl, by decide, rfl⟩, ⟨rfl, rfl, by decide, rfl⟩, ⟨rfl, rfl, by decide, rfl⟩, ⟨rfl, rfl, by decide, rfl⟩,
    by decide, by decide⟩

/-- A kernel with 4096 bytes of code at 0x10000, every word of it the start of an instruction. -/
def codeState (g : Gang) : State := { base g with segments := [⟨1, 0x10000, 512, true, [], 0, []⟩] }
def gt : Gang := { g0 with s := [(2, 0x10040), (4, 0x10044), (6, 0x20000)], v := [(128, 0x10048)] }

theorem witness_RegisterTransfer : guardLanes gt p0 al ≠ 0 ∧ Issues (codeState gt) (.brx al 2) 2 gt p0 [] ∧ Issues (codeState gt) (.callReg al 8 2) 2 gt p0 [8, 9] ∧
    Issues (codeState gt) (.ret al 2) 2 gt p0 [2, 3] ∧ TargetOk (codeState gt) gt (getSS gt 2) ∧ TargetOk (codeState gt) gt (getVV gt 2 (lowestLane p0.mask)) ∧
    ¬ TargetOk (codeState gt) gt (getSS gt 4) ∧ ¬ TargetOk (codeState gt) gt (getSS gt 6) :=
  ⟨by decide, ⟨rfl, rfl, by decide, rfl⟩, ⟨rfl, rfl, by decide, rfl⟩, ⟨rfl, rfl, by decide, rfl⟩, by unfold TargetOk; decide, by unfold TargetOk; decide,
    by unfold TargetOk; decide, by unfold TargetOk; decide⟩

theorem witness_TransferGuarded : guardLanes gw p0 ⟨15, false⟩ = 0 ∧ At (.nop al) gw [] ∧ At (.jmp ⟨15, false⟩ 3) gw [] ∧ At (.ret ⟨15, false⟩ 2) gw [2, 3] ∧
    At (.callFar ⟨15, false⟩ 64) gw [0, 1] ∧ At (.sleep ⟨15, false⟩ 9) gw [] :=
  ⟨by decide, ⟨rfl, rfl, by decide, rfl⟩, ⟨rfl, rfl, by decide, rfl⟩, ⟨rfl, rfl, by decide, rfl⟩, ⟨rfl, rfl, by decide, rfl⟩, ⟨rfl, rfl, by decide, rfl⟩⟩

theorem current_p0 (g : Gang) (hp : g.paths = [p0]) (he : g.exited = 0) (hn : g.nextPath = 1) : Current g p0 :=
  ⟨by rw [hp]; rfl, rfl, by decide, by rw [hp]; exact List.pairwise_singleton _ _, by rw [hp]; exact List.pairwise_singleton _ _,
   by rw [hp]; exact List.pairwise_singleton _ _, by rw [he]; decide, by decide, by rw [hp, hn]; decide⟩

/-- One path of every lane within an entry whose rejoin is `a`. -/
def ge (a : DWord) : Gang := { gw with stack := [⟨a, 0xFFFF⟩] }

theorem only_p0 {g : Gang} (hp : g.paths = [p0]) {q : Machine.Path} (hq : q ∈ g.paths) : q = p0 := by rw [hp] at hq; exact List.mem_singleton.1 hq
theorem rest_p0 (g : Gang) (hp : g.paths = [p0]) : OthersRest g p0 := fun _ hq hne => absurd (congrArg Machine.Path.id (only_p0 hp hq)) hne
theorem paths_ok (g : Gang) (hp : g.paths = [p0]) (he : g.exited = 0) (hn : g.nextPath = 1) : PathsOk g :=
  ⟨by rw [hp]; exact List.pairwise_singleton _ _, by rw [hp]; exact List.pairwise_singleton _ _, by rw [hp]; exact List.pairwise_singleton _ _,
   by intro q hq; rw [only_p0 hp hq, he, hn]; decide⟩
theorem still_out (a : DWord) : ∀ e ∈ entries (ge a), StillOut (ge a) (ge a).paths e := by
  intro e he
  rw [List.mem_singleton.1 (show e ∈ [_] from he)]
  exact ⟨p0, List.mem_cons_self, by show p0.mask &&& 0xFFFF &&& ~~~gw.exited ≠ 0; decide, .inl (by decide)⟩
theorem last_in (g : Gang) (a : DWord) (live : LaneMask) (hl : live ≠ 0) (hh : g.handler = none) (hs : g.stack = [⟨a, 0xFFFF⟩]) (hp : g.paths = [p0]) :
    LastIn g p0 ⟨a, 0xFFFF⟩ [] live :=
  ⟨hh, hs, (by show p0.mask &&& ~~~0xFFFF#64 = 0; decide), fun _ hq hne => absurd (congrArg Machine.Path.id (only_p0 hp hq)) hne, fun l _ h => .inr ⟨p0, by rw [hp]; exact List.mem_singleton.2 rfl, h⟩, hl,
   by intro x hx; cases hx⟩

/-- Lanes on both sides, with an entry on the stack; none on the F side; a full stack; and parts of a path that split it. -/
theorem witness_Diverge : PathsOk gw ∧ findPath gw.paths 0 = some p0 ∧ 0xF#64 &&& ~~~p0.mask = 0 ∧ (0xF#64 &&& 0xFFF0#64 : LaneMask) = 0 ∧ 0xF#64 ||| 0xFFF0#64 = p0.mask ∧
    At (.brd ⟨1, false⟩ 3 5) (ge 0x20000) [] ∧ guardLanes gw p0 ⟨1, false⟩ = 0xF ∧ p0.mask &&& ~~~(guardLanes gw p0 ⟨1, false⟩) ≠ 0 ∧
    p0.mask &&& ~~~(guardLanes gw p0 al) = 0 ∧ At (.brd al 3 5) gw [] ∧ Current (ge 0x20000) p0 ∧ OthersRest (ge 0x20000) p0 ∧
    (∀ e ∈ entries (ge 0x20000), StillOut (ge 0x20000) (ge 0x20000).paths e) ∧ (ge 0x20000).stack.length < 32 ∧ (ge 0x20000).handler = none ∧
    dispOf p0 5 ≠ dispOf p0 3 ∧ dispOf p0 5 ≠ p0.pc + 16 ∧ 32 ≤ ({ gw with stack := copies 32 ⟨0, 0⟩ } : Gang).stack.length :=
  ⟨paths_ok _ rfl rfl rfl, rfl, by decide, by decide, by decide, ⟨rfl, rfl, by decide, rfl⟩, by decide, by decide, by decide, ⟨rfl, rfl, by decide, rfl⟩,
   current_p0 _ rfl rfl rfl, rest_p0 _ rfl, still_out _, by decide, rfl, by decide, by decide, by decide⟩

/-- A path that sleeps since CLOCK 0 for five cycles, on no slice. -/
def ps : Path := { p0 with st := .sleep 0 5, onSl := 0 }
def gs : Gang := { g0 with paths := [ps] }

/-- Two paths share the one slice: the first has it, the second waits for it. -/
def pa : Path := { p0 with mask := 0xFF }
def pb : Path := { p0 with id := 1, pc := 0x10040, mask := 0xFF00, onSl := 0 }
def gy : Gang := { g0 with paths := [pa, pb], nextPath := 2 }

/-- The same within an entry whose rejoin is `a`. -/
def gye (a : DWord) : Gang := { gy with stack := [⟨a, 0xFFFF⟩] }

theorem inner (a : DWord) (m : LaneMask) (h : (0xFFFF &&& m != 0) = true) : innermost (entries (gye a)) m = some ⟨a, 0xFFFF⟩ := List.find?_cons_of_pos h
theorem rest_pa (a : DWord) (h : a ≠ 0x10040) : OthersRest (gye a) pa := by
  intro q hq hne _ e he
  rcases List.mem_cons.1 (show q ∈ [pa, pb] from hq) with rfl | h1
  · exact absurd rfl hne
  · rw [List.mem_singleton.1 h1] at he ⊢
    rw [inner a _ (by decide)] at he
    cases he
    exact h
theorem pb_out (a : DWord) (ps : List Machine.Path) (h : pb ∈ ps) : ∀ e ∈ entries (gye a), StillOut (gye a) ps e := by
  intro e he
  rw [List.mem_singleton.1 (show e ∈ [_] from he)]
  exact ⟨pb, h, by show pb.mask &&& 0xFFFF &&& ~~~gy.exited ≠ 0; decide, .inl (by decide)⟩
theorem goes_on (a : DWord) (h : a ≠ 0x10040) (h2 : a ≠ 0x10008) : GoesOn (gye a) pa 0x10008 :=
  ⟨rest_pa a h, fun e he => by rw [inner a _ (by decide)] at he; cases he; exact h2, pb_out _ _ (List.mem_cons_of_mem _ List.mem_cons_self)⟩
theorem stops_at : StopsAt (gye 0x10008) pa 0x10008 :=
  ⟨rest_pa _ (by decide), ⟨⟨0x10008, 0xFFFF⟩, inner _ _ (by decide), rfl⟩, pb_out _ _ (List.mem_filter.2 ⟨List.mem_cons_of_mem _ List.mem_cons_self, by decide⟩)⟩
theorem current_pa (a : DWord) : Current (gye a) pa :=
  ⟨rfl, rfl, by decide, by show gy.paths.Pairwise _; decide, by show gy.paths.Pairwise _; decide, by show gy.paths.Pairwise _; decide, by show pa.mask &&& gy.exited = 0; decide, by decide,
   by show ∀ q ∈ gy.paths, q.id < gy.nextPath; decide⟩

/-- Two paths within an entry: the first goes on, or stops at the rejoin; and one alone in its entry, which it completes. -/
theorem witness_Handover : Issues (base (gye 0x20000)) (.yield al) 2 (gye 0x20000) pa [] ∧ Issues (base (gye 0x20000)) (.sleep al 0) 2 (gye 0x20000) pa [] ∧
    Issues (base (gye 0x20000)) (.sleep al 7) 2 (gye 0x20000) pa [] ∧ guardLanes (gye 0x20000) pa al ≠ 0 ∧ Current (gye 0x20000) pa ∧ GoesOn (gye 0x20000) pa (pa.pc + 8) ∧
    Current (gye 0x10008) pa ∧ StopsAt (gye 0x10008) pa (pa.pc + 8) ∧ gy.paths = [pa, pb] ∧ pb.st = .ready ∧ pb.onSl = 0 ∧ gy.handler = none ∧ pa.onSl = slicesOf pa.mask ∧
    LastIn (ge 0x10008) p0 ⟨0x10008, 0xFFFF⟩ [] (0xFFFF &&& ~~~gw.exited) :=
  ⟨⟨rfl, rfl, by decide, rfl⟩, ⟨rfl, rfl, by decide, rfl⟩, ⟨rfl, rfl, by decide, rfl⟩, by decide, current_pa _, goes_on _ (by decide) (by decide), current_pa _, stops_at,
    rfl, rfl, rfl, rfl, by decide, last_in _ _ _ (by decide) rfl rfl rfl⟩

theorem witness_PathScheduling : Current gw p0 ∧ At (.yield al) gw [] ∧ At (.sleep al 0) gw [] ∧ At (.sleep al 7) gw [] ∧
    (base gs).gang 2 = some gs ∧ findPath gs.paths ps.id = some ps ∧ ((base gs).clock - 0).toNat < 5 ∧
    5 ≤ (({ base gs with clock := 5 } : State).clock - 0).toNat ∧ GoesOn gs ps ps.pc :=
  ⟨current_p0 gw rfl rfl rfl, ⟨rfl, rfl, by decide, rfl⟩, ⟨rfl, rfl, by decide, rfl⟩, ⟨rfl, rfl, by decide, rfl⟩, rfl, rfl, by decide, by decide,
   ⟨fun q hq hne => absurd (congrArg Machine.Path.id (List.mem_singleton.1 (show q ∈ [ps] from hq))) hne, (by intro e he; cases he), (by intro e he; cases he)⟩⟩

theorem witness_ExitResult : At (.exit ⟨1, false⟩) gw [] ∧ guardLanes gw p0 ⟨1, false⟩ ≠ 0 ∧ gw.paths = [p0] ∧ At (.exit al) (ge 0x10008) [] ∧ guardLanes (ge 0x10008) p0 al = p0.mask ∧
    LastIn (ge 0x10008) p0 ⟨0x10008, 0xFFFF⟩ [] 1 ∧ Issues (base (gye 0x20000)) (.exit al) 2 (gye 0x20000) pa [] ∧ guardLanes (gye 0x20000) pa al = pa.mask ∧
    OthersRest (gye 0x20000) pa ∧ (∀ e ∈ (gye 0x20000).stack, StillOut (gye 0x20000) [pb] e) ∧ pb.mask ≠ 0 ∧ p0 ∈ gw.paths ∧
    gy.paths.Pairwise (fun a b => a.mask &&& b.mask = 0) ∧ gy.paths.Pairwise (fun a b => a.id ≠ b.id) :=
  ⟨⟨rfl, rfl, by decide, rfl⟩, by decide, rfl, ⟨rfl, rfl, by decide, rfl⟩, by decide, last_in _ _ _ (by decide) rfl rfl rfl, ⟨rfl, rfl, by decide, rfl⟩, by decide,
   rest_pa _ (by decide), pb_out _ _ List.mem_cons_self, by decide, List.mem_cons_self, by decide, by decide⟩

/-- The cohort's threads have all arrived at barrier 3; or only the first. -/
def arrived (n : Nat) : Cohort := { loadedCohort 0 2 with arrivals := (List.range n).map (fun t => (16 * t + 3, 1)) }
def barState (g : Gang) (n : Nat) : State := { base g with cohorts := [(1, arrived n)] }

/-- A path that waits at barrier 3; an operation of another path. -/
def gb : Gang := { gw with paths := [{ p0 with st := .bar 3, onSl := 0 }] }
def op7 : MemOp := ⟨.nop al, 7, 0, 0, [], [], [1], [], 0, [], [], 0, 0, 0, 0, 0, 0, 0, [], 0⟩
def completed : Cohort := { loadedCohort 0 2 with arrivals := (List.range 16).map (fun t => (16 * t + 3, 2)) }

theorem witness_Barriers : guardLanes gw p0 al ≠ 0 ∧ (3#4).toNat < gw.kd.bars ∧ (base gw).cohort gw.cohort = some (loadedCohort 0 2) ∧ At (.bar al 3) gw [] ∧
    At (.bara al 3) gw [] ∧ Issues (barState gw 16) (.barw al 3) 2 gw p0 [] ∧ undelivered gw = false ∧ oxWrites (base gw) 2 gw = false ∧
    (∀ l, l < 64 → p0.mask.getLsbD l = true → arrivalOf (loadedCohort 0 2) gw l 3 ≠ 1) ∧ (∀ l, l < 64 → p0.mask.getLsbD l = true → arrivalOf (arrived 16) gw l 3 ≠ 0) ∧
    arrivalOf (arrived 16) gw 4 3 = 1 ∧ arrivalOf (loadedCohort 0 2) gw 4 3 = 0 ∧ (∀ l, l < 64 → p0.mask.getLsbD l = true → arrivalOf completed gw l 3 = 2) ∧
    barrierOpen (arrived 16) 3 = true ∧ barrierComplete (barState gw 16) (arrived 16) 3 = true ∧
    (∃ gi ∈ (arrived 1).gangs, ∃ g, (barState gw 1).gang gi = some g ∧ ∃ l, l < g.kd.gangw ∧ l < 64 ∧ g.exited.getLsbD l = false ∧ arrivalOf (arrived 1) g l 3 ≠ 1) ∧
    At (.bar al 3) { gw with kd := { loadedKernel with bars := 3 } } [] ∧ At (.bar al 3) { gw with ops := [op7] } [] ∧ op7.path ≠ p0.id ∧
    2 ∈ (arrived 16).gangs ∧ (barState gb 16).gang 2 = some gb ∧ gb.cohort = 1 ∧ gb.ops = [] ∧ spOk Core.reset (barState gb 16).cores = true ∧
    (∃ q ∈ gb.paths, waitsAt q 3 = true) ∧ barrierComplete (barState gb 16) (arrived 16) 3 = true ∧ (∀ k, (k, 1) ∈ completed.arrivals → k % 16 ≠ 3) ∧
    PathsOk gb ∧ (∀ e ∈ entries gb, StillOut gb gb.paths e) :=
  ⟨by decide, by decide, rfl, ⟨rfl, rfl, by decide, rfl⟩, ⟨rfl, rfl, by decide, rfl⟩, ⟨rfl, rfl, by decide, rfl⟩, by decide, by decide, by decide, by decide,
    by decide, by decide, by decide, by decide, by decide, ⟨2, by decide, gw, rfl, 15, by decide, by decide, by decide, by decide⟩, ⟨rfl, rfl, by decide, rfl⟩,
    ⟨rfl, rfl, by decide, rfl⟩, by decide, by decide, rfl, rfl, rfl, rfl, ⟨_, List.mem_cons_self, by decide⟩, by decide,
    (by intro k hk; simp [completed] at hk), ⟨by decide, by decide, by decide, by decide⟩, (by intro e he; cases he)⟩

/-- A gang whose kernel has a handler at byte 0x200 of its code; and one that is in it. -/
def gh : Gang := { gw with kd := { loadedKernel with handler := some 0x200 } }
def gin : Gang := { gh with handler := some ⟨p0.mask, 0⟩, tpc := 0x10040 }

theorem witness_TrapEntry : findPath gh.paths p0.id = some p0 ∧ gh.paths.Pairwise (fun a b => a.id ≠ b.id) ∧ gh.kd.handler = some 0x200 ∧ gh.handler = none ∧
    gw.kd.handler = none ∧ gin.handler.isSome = true := ⟨rfl, by decide, rfl, rfl, rfl, rfl⟩

/-- A reserved encoding; and a kernel that declares fewer registers, accumulators, metadata registers and tokens than the instruction names. -/
def gfew : Gang := { gw with kd := { loadedKernel with regs := 64, acc := 2, nmeta := 1, tokens := 3 } }
theorem witness_ReservedEncodingTraps : (encodeFields (.ret al 1)).isSome = true ∧ (Instr.ret al 1).wf = false ∧ (base gw).issuing = some (2, gw, p0) ∧
    (base gfew).issuing = some (2, gfew, p0) ∧ (∃ r ∈ namedRegs (.iadd al .i32 64 1 ⟨false, 2⟩), gfew.kd.regs ≤ r) ∧ (∃ a ∈ namedAccs (.accz al .f32 2), gfew.kd.acc ≤ a) ∧
    (∃ m ∈ namedMetas (.ldmeta al 1 1 1), gfew.kd.nmeta ≤ m) ∧ (∃ t ∈ namedToks (.twait al 3), gfew.kd.tokens ≤ t) ∧ (Instr.twait al 3).wf = true :=
  ⟨rfl, rfl, rfl, rfl, by decide, by decide, by decide, by decide, rfl⟩

theorem witness_PoisonedSourceTraps : let g := { gw with vpoison := [64 * 2 + 15] }
    (∃ x, laneValue g (.iadd al .i32 4 1 ⟨false, 2⟩) = some (al, [1] ++ 2 :: [], .i32, 4, x)) ∧ At (.iadd al .i32 4 1 ⟨false, 2⟩) g [1, 2, 4] ∧
    Unpoisoned g (guardLanes g p0 al) [1] ∧ (∃ l, l < 64 ∧ (guardLanes g p0 al).getLsbD l = true ∧ g.vpoison.contains (64 * 2 + l) = true) :=
  ⟨⟨_, rfl⟩, ⟨rfl, rfl, by decide, rfl⟩, by unfold Unpoisoned; decide, ⟨15, by decide, by decide, by decide⟩⟩

theorem witness_SoftwareTrap : At (.trap al 42) gw [] ∧ At (.brk ⟨15, false⟩ 5) gw [] := ⟨⟨rfl, rfl, by decide, rfl⟩, ⟨rfl, rfl, by decide, rfl⟩⟩

theorem witness_ReturnFromTrap : Issues (codeState gin) (.eret al) 2 gin p0 [] ∧ guardLanes gin p0 al ≠ 0 ∧ Current gin p0 ∧
    gin.handler = some ⟨p0.mask, gin.stack.length⟩ ∧ TargetOk (codeState gin) gin gin.tpc ∧ GoesOn { gin with handler := none } p0 gin.tpc ∧
    LastIn { gin with handler := none, stack := [⟨gin.tpc, 0xFFFF⟩] } p0 ⟨gin.tpc, 0xFFFF⟩ [] 0xFFFF :=
  ⟨⟨rfl, rfl, by decide, rfl⟩, by decide, current_p0 gin rfl rfl rfl, rfl, by unfold TargetOk; decide, ⟨rest_p0 _ rfl, (by intro e he; cases he), (by intro e he; cases he)⟩,
   last_in _ _ _ (by decide) rfl rfl rfl⟩

theorem witness_PrivilegeTraps : At (.eret al) gw [] ∧ gw.handler = none ∧ At (.eret al) { gin with handler := some ⟨0xFF, 0⟩ } [] ∧ p0.mask ≠ 0xFF ∧
    At (.mts al 2 0x00D) gw [] ∧ At (.mts al 2 0x020) gw [] ∧ At (.mts al 2 0x024) gw [] ∧ At (.mts al 2 0x000) gw [] :=
  ⟨⟨rfl, rfl, by decide, rfl⟩, rfl, ⟨rfl, rfl, by decide, rfl⟩, by decide, ⟨rfl, rfl, by decide, rfl⟩, ⟨rfl, rfl, by decide, rfl⟩, ⟨rfl, rfl, by decide, rfl⟩,
    ⟨rfl, rfl, by decide, rfl⟩⟩

theorem witness_SystemRead : (∀ l, ((0x001#10 : Field10).toNat, (fun _ => 0 : Nat → DWord) l) ∈ sysTable (base gw) gw l) ∧ drainPending (base gw) 2 gw = false ∧
    At (.mfs al true 4 0x001) gw [4] ∧ At (.mfs al false 4 0x001) gw [] ∧ guardLanes gw p0 al ≠ 0 :=
  ⟨fun l => by simp [sysTable, gw, gv, g0, newGang], by decide, ⟨rfl, rfl, by decide, rfl⟩, ⟨rfl, rfl, by decide, rfl⟩, by decide⟩

theorem witness_SystemWrite : At (.mts al 2 0x010) gw [] ∧ At (.mts al 2 0x011) gw [] ∧ At (.mts al 2 0x014) gw [] ∧ At (.mts al 2 0x020) gin [] ∧
    At (.mts al 2 0x023) gin [] ∧ gin.handler.isSome = true ∧ drainPending (base gw) 2 gw = false ∧ NoAtomic gw :=
  ⟨⟨rfl, rfl, by decide, rfl⟩, ⟨rfl, rfl, by decide, rfl⟩, ⟨rfl, rfl, by decide, rfl⟩, ⟨rfl, rfl, by decide, rfl⟩, ⟨rfl, rfl, by decide, rfl⟩, rfl, by decide, (by intro o ho; cases ho)⟩

/-- With XLEN set. -/
def gmiss : Gang := { gw with xlctl := 2 }

/-- All lanes present; a lane absent with XLEN clear; and with XLEN set. -/
theorem witness_VoteShuffle : At (.vote al 2 0x3FF 2 1) gw [] ∧ wouldTrap gw 0x3FF (guardLanes gw p0 al) = false ∧ At (.shfl al .b32 4 1 ⟨false, 2⟩) gw [1, 2, 4] ∧
    At (.shfl ⟨1, false⟩ .b32 4 1 ⟨false, 1⟩) { gw with xlctl := 2 } [1, 4] ∧ (guardLanes gw p0 ⟨1, false⟩).getLsbD 5 = false ∧
    (readB32 gw ⟨false, 1⟩ 0).toNat = 5 ∧ At (.vote ⟨1, false⟩ 2 0x3FF 2 1) gmiss [] ∧ wouldTrap gmiss 0x3FF (guardLanes gmiss p0 ⟨1, false⟩) = true ∧
    guardLanes gmiss p0 ⟨1, false⟩ ≠ 0 := ⟨⟨rfl, rfl, by decide, rfl⟩, by decide, ⟨rfl, rfl, by decide, rfl⟩, ⟨rfl, rfl, by decide, rfl⟩, by decide, by decide,
    ⟨rfl, rfl, by decide, rfl⟩, by decide, by decide⟩

theorem witness_ReductionResult : guardLanes gw p0 al ≠ 0 ∧ wouldTrap gw 0x3FF (guardLanes gw p0 al) = false ∧ At (.xred al .f32 .rne .add false 4 0x3FF ⟨false, 1⟩) gw [1, 4] ∧
    At (.xred al .s32 .dyn .min true 4 0x3FF ⟨false, 1⟩) gw [1] ∧ At (.xscan al .i32 .dyn .add true 4 0x3FF ⟨false, 1⟩) gw [1, 4] ∧
    At (.xred ⟨1, false⟩ .f32 .rne .add false 4 0x3FF ⟨false, 1⟩) gmiss [1, 4] ∧ At (.xscan ⟨1, false⟩ .i32 .dyn .add true 4 0x3FF ⟨false, 1⟩) gmiss [1, 4] :=
  ⟨by decide, by decide, ⟨rfl, rfl, by decide, rfl⟩, ⟨rfl, rfl, by decide, rfl⟩, ⟨rfl, rfl, by decide, rfl⟩, ⟨rfl, rfl, by decide, rfl⟩, ⟨rfl, rfl, by decide, rfl⟩⟩

theorem witness_MoveResult : At (.xmatch al .b32 4 0x3FF ⟨false, 1⟩) gw [1, 4, 5] ∧ At (.xcomp al .b32 4 0x3FF ⟨false, 1⟩ 2 1) gw [1, 4] ∧
    At (.xexp al .b32 4 0x3FF ⟨false, 1⟩ 2 1) gw [1, 4] ∧ wouldTrap gw 0x3FF (guardLanes gw p0 al) = false ∧
    At (.xmatch ⟨1, false⟩ .b32 4 0x3FF ⟨false, 1⟩) gmiss [1, 4, 5] ∧ At (.xcomp ⟨1, false⟩ .b32 4 0x3FF ⟨false, 1⟩ 2 1) gmiss [1, 4] :=
  ⟨⟨rfl, rfl, by decide, rfl⟩, ⟨rfl, rfl, by decide, rfl⟩, ⟨rfl, rfl, by decide, rfl⟩, by decide, ⟨rfl, rfl, by decide, rfl⟩, ⟨rfl, rfl, by decide, rfl⟩⟩

-- Local memory: the last word of the area; past it; and not aligned

def memOf (b n : Nat) : MemAddr := ⟨false, BitVec.ofNat 10 b, 0x3FF, BitVec.ofNat 10 n⟩
def gm (a : Word) : Gang := { gw with s := [(2, a), (3, 1)] }

theorem local_ok (i : Nat) (h : i = 4 ∨ i = 64) : LocalOk (base (gm 0xFFC0)) 2 (gm 0xFFC0) p0 .s (memOf 2 0) i (guardLanes gw p0 al) := by
  rcases h with rfl | rfl <;> exact ⟨by decide, (by intro o ho; cases ho), by decide, by decide, by decide, by decide, by decide⟩
theorem local_clean (i : Nat) (h : i = 4 ∨ i = 64) : LocalClean (base (gm 0xFFC0)) (gm 0xFFC0) .s (memOf 2 0) i (guardLanes gw p0 al) := by
  unfold LocalClean; rcases h with rfl | rfl <;> decide
theorem cores_ok (g : Gang) : CoresOk (base g) := ⟨rfl, fun _ _ => rfl⟩

/-- A word, and a block of 16 words that ends where the area ends. -/
theorem witness_LocalLoad : Current (gm 0xFFC0) p0 ∧ spOk 0 (gm 0xFFC0).v = true ∧ At (.ld al .b32 .s false false 4 (memOf 2 0)) (gm 0xFFC0) [4] ∧
    At (.ldb al .s false 2 16 (memOf 2 0)) (gm 0xFFC0) (vrange 16 16) ∧ accessSize .b32 = 4 ∧ blockSize 2 = 64 ∧
    (gm 0xFFC0).kd.scratch = 0xFFC0 + 64 :=
  ⟨current_p0 _ rfl rfl rfl, by decide, ⟨rfl, rfl, by decide, rfl⟩, ⟨rfl, rfl, by decide, rfl⟩, rfl, rfl, rfl⟩

theorem witness_LocalStore : gateOpen (base (gm 0xFFC0)) (gm 0xFFC0) = true ∧ At (.st al .b32 .s false false 1 (memOf 2 0)) (gm 0xFFC0) [1] ∧
    At (.stb al .s false 2 16 (memOf 2 0)) (gm 0xFFC0) (vrange 16 16) ∧ Unpoisoned (gm 0xFFC0) (guardLanes gw p0 al) (vrange 16 16) :=
  ⟨by decide, ⟨rfl, rfl, by decide, rfl⟩, ⟨rfl, rfl, by decide, rfl⟩, clean_of _ _ rfl⟩

theorem witness_LocalAtomic : At (.atom al .add .i32 .s 1 2 0x3FF 0) (gm 0xFFC0) (atomRegs .add .i32 1) ∧
    Unpoisoned (gm 0xFFC0) (guardLanes gw p0 al) (atomRegs .add .i32 1) := ⟨⟨rfl, rfl, by decide, rfl⟩, clean_of _ _ rfl⟩

/-- Offset 0x10000 is the first past the area, 0x10002 is not aligned. -/
theorem witness_AccessTraps : (let i : Instr := .ld al .b32 .s false false 4 (memOf 2 0)
    let a : Access := ⟨al, .s, memOf 2 0, 4, [], [4], true, false⟩
    accessOf i = some a ∧ At i (gm 0x10000) [4] ∧ (lanesOf (guardLanes gw p0 al)).any (fun l => (a.addr (gm 0x10000) l).toNat % 4 != 0) = false ∧
    localBound (gm 0x10000) .s < (a.addr (gm 0x10000) 0).toNat + 4 ∧ localBound (gm 0xFFFC) .s = (a.addr (gm 0xFFFC) 0).toNat + 4 ∧
    (a.addr (gm 0x10002) 0).toNat % 4 ≠ 0) ∧
    At (.st ⟨15, false⟩ .b32 .g false false 1 (memOf 2 0)) gw [1] ∧ guardLanes gw p0 ⟨15, false⟩ = 0 :=
  ⟨⟨rfl, ⟨rfl, rfl, by decide, rfl⟩, by decide, by decide, by decide, by decide⟩, ⟨rfl, rfl, by decide, rfl⟩, by decide⟩

-- Global memory: a page of device memory in the TLB of the core

def tlbE : TlbEntry := ⟨1, 0x40000, 12, 0x7000F, 0⟩
def gG : Gang := { gw with s := [(2, 0x40FC0), (3, 0)] }
def lineL : L1Line := madeLine (5 :: copies 63 0) false
/-- The line is in the L1, or not. -/
def devState (g : Gang) (hit : Bool) : State :=
  (base g).putCore 0 0 { Core.reset with l1tlb := [tlbE], l1 := if hit then [(0x1C3F, lineL)] else [] }
def places0 (n : Nat) : List (Nat × Nat) := (List.range n).map (fun l => (l, 0x70FC0))
def xls0 (n : Nat) : List (Nat × Xl) := (List.range n).map (fun l => (l, .leaf 0x70000 0x7000F 0))

theorem ready_of {a : XRes × Xc × State} {r : XRes} (h : a.1 = r) : a = (r, a.2.1, a.2.2) := by rw [← h]

theorem global_ready (i : Instr) (a : Access) (hit : Bool) (ha : accessOf i = some a) (hi : Issues (devState gG hit) i 2 gG p0 (a.rd ++ a.wr))
    (hg : a.sp = .g) (hgd : guardLanes gG p0 a.gd ≠ 0) (hal : ∀ l ∈ lanesOf (guardLanes gG p0 a.gd), (a.addr gG l).toNat % a.size = 0)
    (hr : (translateLanes (devState gG hit) gG a.reads a.writes (a.lanes gG p0)).1 = .ready (places0 16) (xls0 16))
    (hp : ∀ y ∈ places0 16, y.2 % a.size = 0) :
    GlobalReady (devState gG hit) i 2 gG p0 a (places0 16) (xls0 16) (translateLanes (devState gG hit) gG a.reads a.writes (a.lanes gG p0)).2.1
      (translateLanes (devState gG hit) gG a.reads a.writes (a.lanes gG p0)).2.2 :=
  ⟨ha, hi, hg, (by intro o ho; cases ho), hgd, clean_of _ _ rfl, hal, ready_of hr, hp⟩

def ldI : Instr := .ld al .b32 .g false false 4 (memOf 2 0)
def ldA : Access := ⟨al, .g, memOf 2 0, 4, [], [4], true, false⟩
def ldbI : Instr := .ldb al .g false 2 16 (memOf 2 0)
def ldbA : Access := ⟨al, .g, memOf 2 0, 64, [], vrange 16 16, true, false⟩

set_option maxRecDepth 20000 in
theorem witness_GlobalLoad :
    (∀ hit, ∃ x s1, GlobalReady (devState gG hit) ldI 2 gG p0 ldA (places0 16) (xls0 16) x s1) ∧
    (∀ hit, ∃ x s1, GlobalReady (devState gG hit) ldbI 2 gG p0 ldbA (places0 16) (xls0 16) x s1) ∧ Current gG p0 ∧ spOk 0 gG.v = true ∧ gG.outst = [] ∧
    l1Line ((devState gG true).coreAt 0 0) (0x70FC0 / 64) = some lineL ∧ lineL.poison = false ∧ l1Line ((devState gG false).coreAt 0 0) (0x70FC0 / 64) = none ∧
    (targetOf (devState gG false) 0 true 0x70FC0 (.leaf 0x70000 0x7000F 0)).dst ≠ none ∧ (targetOf (devState gG false) 0 true 0x70FC0 (.leaf 0x70000 0x7000F 0)).remote = false :=
  ⟨fun hit => ⟨_, _, global_ready _ _ hit rfl ⟨rfl, rfl, by decide, by cases hit <;> rfl⟩ rfl (by decide) (by decide) (by cases hit <;> decide) (by decide)⟩,
   fun hit => ⟨_, _, global_ready _ _ hit rfl ⟨rfl, rfl, by decide, by cases hit <;> rfl⟩ rfl (by decide) (by decide) (by cases hit <;> decide) (by decide)⟩,
   current_p0 _ rfl rfl rfl, by decide, rfl, by decide +kernel, rfl, by decide, by decide, by decide⟩

def stI : Instr := .st al .b32 .g true false 1 (memOf 2 0)
def stA : Access := ⟨al, .g, memOf 2 0, 4, [1], [], false, true⟩
def atI : Instr := .atom al .add .i32 .g 1 2 0x3FF 0
def atA : Access := ⟨al, .g, memOf 2 0, 4, atomRegs .add .i32 1, [], true, true⟩
def clI : Instr := .ld al .b32 .g true false 4 (memOf 2 0)
/-- Another path's causal load is on its way. -/
def gBusy : Gang := { gG with ops := [{ op7 with instr := clI }] }
def theTarget (load : Bool) : Target := targetOf (devState gG false) 0 load 0x70FC0 (.leaf 0x70000 0x7000F 0)

theorem one_line (load : Bool) (s1 : State) (h1 : targetOf s1 0 load 0x70FC0 (.leaf 0x70000 0x7000F 0) = theTarget load) (hf : spOk [] s1.flights = true) :
    OneLine s1 gG (places0 16) (xls0 16) load 0x1C3F ((theTarget load).dst.getD 0) (theTarget load) (.leaf 0x70000 0x7000F 0) :=
  ⟨by decide, ⟨(0, 0x70FC0), rfl, rfl, h1.symm, trivial⟩, by cases load <;> decide, by cases load <;> decide, (by intro o ho; cases ho), hf⟩

set_option maxRecDepth 20000 in
theorem witness_GlobalRequest :
    (∃ x s1, GlobalReady (devState gG false) stI 2 gG p0 stA (places0 16) (xls0 16) x s1 ∧ gateOpen s1 gG = true ∧
      OneLine s1 gG (places0 16) (xls0 16) false 0x1C3F ((theTarget false).dst.getD 0) (theTarget false) (.leaf 0x70000 0x7000F 0) ∧ ∃ b, storeOf gG stI = some (true, b)) ∧
    (∃ x s1, GlobalReady (devState gG false) atI 2 gG p0 atA (places0 16) (xls0 16) x s1 ∧ gateOpen s1 gG = true ∧
      OneLine s1 gG (places0 16) (xls0 16) false 0x1C3F ((theTarget false).dst.getD 0) (theTarget false) (.leaf 0x70000 0x7000F 0) ∧
      maySend s1 0 ((theTarget false).dst.getD 0) true = true ∧ (theTarget false).dst.getD 0 ≠ 16) ∧
    (∃ x s1, GlobalReady (devState gG false) clI 2 gG p0 ldA (places0 16) (xls0 16) x s1 ∧ gateOpen s1 gG = true ∧
      OneLine s1 gG (places0 16) (xls0 16) true 0x1C3F ((theTarget true).dst.getD 0) (theTarget true) (.leaf 0x70000 0x7000F 0) ∧
      maySend s1 0 ((theTarget true).dst.getD 0) false = true) ∧
    CausalDone gG p0 ∧ gG.ops = [] ∧ storeOf gG (.st al .b32 .g false false 1 (memOf 2 0)) ≠ none ∧ hostAtomic .add .i32 = true ∧
    (∃ x s1, GlobalReady (devState gBusy false) clI 2 gBusy p0 ldA (places0 16) (xls0 16) x s1 ∧ gateOpen s1 gBusy = true) ∧
    (∃ x s1, GlobalReady (devState gBusy false) atI 2 gBusy p0 atA (places0 16) (xls0 16) x s1 ∧ gateOpen s1 gBusy = true) ∧
    (∃ o ∈ gBusy.ops, o.path ≠ p0.id ∧ returnsCausally o.instr = true) :=
  ⟨⟨_, _, global_ready _ _ false rfl ⟨rfl, rfl, by decide, rfl⟩ rfl (by decide) (by decide) (by decide) (by decide), by decide, one_line _ _ (by decide) (by decide), _, rfl⟩,
   ⟨_, _, global_ready _ _ false rfl ⟨rfl, rfl, by decide, rfl⟩ rfl (by decide) (by decide) (by decide) (by decide), by decide, one_line _ _ (by decide) (by decide), by decide, by decide⟩,
   ⟨_, _, global_ready _ _ false rfl ⟨rfl, rfl, by decide, rfl⟩ rfl (by decide) (by decide) (by decide) (by decide), by decide, one_line _ _ (by decide) (by decide), by decide⟩,
   (by intro o ho; cases ho), rfl, by decide, by decide,
   ⟨_, _, ⟨rfl, ⟨rfl, rfl, by decide, rfl⟩, rfl, by unfold NoOp; decide, by decide, clean_of _ _ rfl, by decide, ready_of (by decide), by decide⟩, by decide⟩,
   ⟨_, _, ⟨rfl, ⟨rfl, rfl, by decide, rfl⟩, rfl, by unfold NoOp; decide, by decide, clean_of _ _ rfl, by decide, ready_of (by decide), by decide⟩, by decide⟩,
   ⟨_, List.mem_cons_self, by decide, rfl⟩⟩

/-- A core whose table holds 1, 3, a NaN and an infinity, and whether the cohort owns it; an index of whole and of fractional places. -/
def tabState (g : Gang) : State :=
  (base g).putCore 0 0 { Core.reset with tableOwner := some 1, mem := [(0x3E002, 0x80), (0x3E003, 0x3F), (0x3E006, 0x40), (0x3E007, 0x40), (0x3E00A, 0xC0), (0x3E00B, 0x7F)] }
def gTab (i : Word) : Gang := { gv 5 3 i with s := [] }

theorem witness_TableIndex : (∀ i ∈ [(0 : Word), 0x8000, 0x18000], Issues (tabState (gTab i)) (.tldi al 4 2 3 0) 2 (gTab i) p0 [3, 4] ∧
      Unpoisoned (gTab i) (guardLanes (gTab i) p0 al) [3] ∧ spOk 0 (gTab i).v = true) ∧
    (let c := (tabState gw).coreAt 0 0
     let entry (n : Nat) : Word := BitVec.ofNat 32 (natLE ((List.range 4).map (fun k => localByte c.mem (0x3E000 + 0x1000 * c.bank + 4 * n + k))))
     (∀ n, poisonedAt c.mpoison (0x3E000 + 0x1000 * c.bank + 4 * n) 4 = false) ∧ isFinite (decodeF fmtF32 false (entry 0).toNat).1 = true ∧
       isFinite (decodeF fmtF32 false (entry 1).toNat).1 = true ∧ 0x7F800000 < (entry 2 &&& 0x7FFFFFFF).toNat ∧
       (0x8000 : Int) / 2 ^ 16 = 0 ∧ ((0x8000 : Int) % 2 ^ 16).toNat ≠ 0 ∧ (0x18000 : Int) / 2 ^ 16 = 1) :=
  ⟨by intro i hi
      fin_cases hi <;> exact ⟨⟨rfl, rfl, by decide, rfl⟩, clean_of _ _ rfl, by decide⟩,
   fun n => by rfl, by decide, by decide, by decide, by decide, by decide, by decide⟩

/-- A cohort that owns the table and one that does not. -/
theorem witness_TableLookup : At (.tld al 4 2 3 0) gw [3, 4] ∧ At (.tldi al 4 2 3 0) gw [3, 4] ∧ spOk 0 gw.v = true ∧ ((base gw).coreAt 0 0).mpoison = [] ∧
    ((base gw).coreAt 0 0).tableOwner ≠ some gw.cohort ∧
    Issues ((base gw).putCore 0 0 { Core.reset with tableOwner := some 1 }) (.tld al 4 2 3 0) 2 gw p0 [3, 4] ∧ gw.cohort = 1 :=
  ⟨⟨rfl, rfl, by decide, rfl⟩, ⟨rfl, rfl, by decide, rfl⟩, by decide, rfl, by decide, ⟨rfl, rfl, by decide, rfl⟩, rfl⟩

/-- Each kind of fence, with nothing and with an ordered write outstanding; the cache instructions on a page in the TLB. -/
theorem witness_FenceCache : (∀ sem, At (.fence al sem .sys) gw []) ∧ guardLanes gw p0 al ≠ 0 ∧ undelivered gw = false ∧ hostIssued (base gw) gw = true ∧
    undelivered { gw with outst := [⟨1, 8, 0, 0xF, false, false, 0, 0, 0, 0⟩] } = true ∧ gw.sysRead = none ∧ look (base gw).pcie 5 = none ∧
    hostIssued (base gw) { gw with hostWrites := [7] } = true ∧ hostIssued { base gw with pcie := [(7, .write hostBase [])] } { gw with hostWrites := [7] } = false ∧
    look ({ base gw with pcie := [(5, .zeroRead)] } : State).pcie 5 = some .zeroRead ∧ gw.ops = [] ∧ (∃ o ∈ ({ gw with ops := [op7] } : Gang).ops, o.path ≠ p0.id) ∧ guardLanes gw p0 ⟨15, false⟩ = 0 ∧
    Issues (devState gG false) (.prf ⟨15, false⟩ (memOf 2 0)) 2 gG p0 [] ∧ At (.cinvAll al) gw [] ∧
    (∃ ls x s1, softPlaces (devState gG false) gG (lineAddrs gG (memOf 2 0) (guardLanes gG p0 al)) = (some ls, x, s1) ∧ spOk Core.reset s1.cores = true ∧
      (∀ y ∈ ls, y = (0x1C3F, .leaf 0x70000 0x7000F 0)) ∧ ls ≠ [] ∧ l1Line (s1.coreAt 0 0) 0x1C3F = none ∧ (targetOf s1 0 true (64 * 0x1C3F) (.leaf 0x70000 0x7000F 0)).dst ≠ none ∧
      homeMode s1 (homeOf (64 * 0x1C3F)) ≠ .degraded ∧ s1.l2 = []) ∧
    (∃ places xls x s1, translateLanes (devState gG false) gG true false (lineAddrs gG (memOf 2 0) (guardLanes gG p0 al)) = (.ready places xls, x, s1) ∧
      (∀ y ∈ places, y.2 / 64 = 0x1C3F) ∧ places ≠ [] ∧ ∀ y ∈ xls, y.2 = .leaf 0x70000 0x7000F 0) ∧
    Current gG p0 ∧ NoOp gG p0 ∧ opTrap p0 { op7 with instr := .cwb al (memOf 2 0) } = none ∧
    homeServes (devState gG false) (homeOf (64 * 0x1C3F)) = true ∧ pteDup (0x7000F : DWord) = false ∧
    Issues (devState gG false) (.cinvLine al (memOf 2 0)) 2 gG p0 [] ∧ Issues (devState gG false) (.cwb al (memOf 2 0)) 2 gG p0 [] ∧
    Issues (devState gG false) (.prf al (memOf 2 0)) 2 gG p0 [] ∧ Issues (devState gG false) (.prfL2 al (memOf 2 0)) 2 gG p0 [] :=
  ⟨fun sem => ⟨rfl, by cases sem <;> rfl, by decide, rfl⟩, by decide, by decide, by decide, by decide, rfl, rfl, by decide, by decide, rfl, rfl, ⟨op7, by decide, by decide⟩, by decide, ⟨rfl, rfl, by decide, rfl⟩,
   ⟨rfl, rfl, by decide, rfl⟩, ⟨_, _, _, rfl, by decide, by decide, by decide, by decide, by decide, by decide, rfl⟩, ⟨_, _, _, _, rfl, by decide, by decide, by decide⟩,
   current_p0 _ rfl rfl rfl, (by intro o ho; cases ho), rfl, by decide, by decide, ⟨rfl, rfl, by decide, rfl⟩, ⟨rfl, rfl, by decide, rfl⟩, ⟨rfl, rfl, by decide, rfl⟩, ⟨rfl, rfl, by decide, rfl⟩⟩

set_option maxRecDepth 20000

-- The matrix engine and the copy engine

def stateOf (o : Out) (s : State) : State := match o with | .next t => t | _ => s

/-- v1 of an instruction with metadata register 0, K 16 and 2:4 structure; metadata of another mode; and metadata still to be loaded. -/
def oxI (sp : BitVec 2) : Instr := .oxip al .s8 .s8 1 1 2 0 15 sp
def gO (a : Word) : Gang := { gw with s := [(1, a)] }
def fullQueue (n : Nat) : State :=
  (base (gO 0)).putCore 0 0 { Core.reset with
    oxq := (List.range n).map (fun k => ⟨k + 1, 2, .ldmeta al 1 0 1, 0, 0, 0, [], 0, 0xFFFF, none, 0⟩) }

theorem witness_OxIssue : (∃ f, oxForm (gO 0) (oxI 0) = some f ∧ (∀ t ∈ f.tiles, t.toNat < 16) ∧ (∀ m ∈ f.mregs, m < 16) ∧ (∀ o ∈ f.ops, o.1 % 64 = 0) ∧
      (∀ o ∈ f.ops, o.1 + o.2 ≤ (gO 0).kd.scratch) ∧ f.metas = [] ∧ f.vr = []) ∧ At (oxI 0) (gO 0) [] ∧
    (∃ f, oxForm (gO 0) (oxI 1) = some f ∧ f.metas ≠ [] ∧ listGet Meta.reset (gO 0).mregs (f.metas.getD 0 0) = Meta.reset ∧ Meta.reset.mode = 0 ∧ Meta.reset.poison = 0) ∧
    At (oxI 1) (gO 0) [] ∧ (∃ e ∈ ((fullQueue 1).coreAt 0 0).oxq, e.gang = 2 ∧ loadsMeta e 0 = true) ∧
    (∃ f o, oxForm (gO 4) (oxI 0) = some f ∧ o ∈ f.ops ∧ o.1 % 64 ≠ 0) ∧ (∃ f o, oxForm (gO 0xFFC0) (oxI 0) = some f ∧ o ∈ f.ops ∧ 65536 < o.1 + o.2) ∧
    ((fullQueue 8).coreAt 0 0).oxq.length = 8 ∧ ((fullQueue 7).coreAt 0 0).oxq.length = 7 :=
  ⟨⟨_, rfl, by decide, by decide, by decide, by decide, rfl, rfl⟩, ⟨rfl, rfl, by decide, rfl⟩, ⟨_, rfl, by decide, rfl, rfl, rfl⟩, ⟨rfl, rfl, by decide, rfl⟩,
   by decide, ⟨_, _, rfl, List.mem_cons_self, by decide⟩, ⟨_, _, rfl, List.mem_cons_self, by decide⟩, by decide, by decide⟩

def oxOne (i : Instr) (st : Bool) : State :=
  (base gw).putCore 0 0 { Core.reset with oxq := [⟨1, 2, i, 0, 64, 0, [], 0, 0xFFFF, if st then some ([], []) else none, 0⟩,
    ⟨3, 2, .accz al .s32 3, 0, 0, 0, [], 0, 0xFFFF, none, 0⟩] }

/-- Each kind of entry, waiting and started on the local store as it still stands; a younger entry that shares its tile. -/
theorem witness_OxQueue : (∀ i ∈ [Instr.accz al .s32 3, .accmv al 3 15, .accld al .f32 1 3, .ldmeta al 1 15 1, oxI 0, .oxop al .s8 .s8 1 1 2 15 false],
      ((oxOne i true).coreAt 0 0).oxq.find? (fun x => x.id == 1) = some ⟨1, 2, i, 0, 64, 0, [], 0, 0xFFFF, some ([], []), 0⟩ ∧ i.wf = true ∧
      ((oxOne i false).coreAt 0 0).oxq.Pairwise (fun x y => x.id < y.id) ∧ (∀ x ∈ ((oxOne i false).coreAt 0 0).oxq, x.started = none)) ∧
    spOk Core.reset (oxOne (oxI 0) true).cores = true ∧ ((oxOne (oxI 0) true).coreAt 0 0).mem = [] ∧ (oxOne (oxI 0) true).gang 2 = some gw ∧
    15 < gw.tiles.length ∧ 15 < gw.mregs.length ∧
    (∃ n ∈ tilesNamed ⟨1, 2, .accz al .s32 3, 0, 64, 0, [], 0, 0xFFFF, none, 0⟩, n ∈ tilesNamed ⟨3, 2, .accz al .s32 3, 0, 0, 0, [], 0, 0xFFFF, none, 0⟩) := by decide

def gTok (st : TokSt) (cmd : Nat) : Gang := { gw with s := [(1, 0x40), (2, 0x44), (3, 0x10000)], tokens := listSet gw.tokens 15 { Token.reset with st := st, cmd := cmd } }
def cmdQueue (n : Nat) : State :=
  let one := (((stateOf (exec (.cp al 1 3) (base (gTok .free 0))) (base gw)).coreAt 0 0).copyq)
  (base (gTok .free 0)).putCore 0 0 { Core.reset with copyq := (List.range n).flatMap (fun _ => one) }

/-- A token in each state; offsets that are right, not aligned, and past the area; poison; fifteen and sixteen commands in the queue. -/
theorem witness_CommandIssue : (∀ st, ∃ f, cmdForm (gTok st 0) (.cp al 1 15) = some f ∧ f.tok.toNat < 16 ∧ (∀ n ∈ f.more, n < 16) ∧ (token (gTok st 0) f.tok).st = st ∧
      (∀ x ∈ f.aligns, x.1.toNat % x.2 = 0) ∧ (∀ x ∈ f.bounds, x.1.toNat + x.2 ≤ (gTok st 0).kd.scratch)) ∧ (∀ st, At (.cp al 1 15) (gTok st 0) []) ∧
    (∃ f, cmdForm (gTok .free 0) (.cp al 2 15) = some f ∧ ∃ x ∈ f.aligns, x.1.toNat % x.2 ≠ 0) ∧
    (∃ f, cmdForm (gTok .free 0) (.cp al 3 15) = some f ∧ ∃ x ∈ f.bounds, 65536 < x.1.toNat + x.2) ∧
    areaBase (gTok .free 0) + 0x40 ≤ 8 * 15 ∧ 8 * 15 < areaBase (gTok .free 0) + 0x40 + 64 ∧ ((cmdQueue 15).coreAt 0 0).copyq.length = 15 ∧
    ((cmdQueue 16).coreAt 0 0).copyq.length = 16 ∧ At (.flsig al .pkg true 1 15) (gTok .busy 0) [] ∧ At (.flsig al .sys false 1 0) (gTok .busy 0) [] :=
  ⟨fun st => ⟨_, rfl, by cases st <;> decide, by cases st <;> decide, by cases st <;> decide, by cases st <;> decide, by cases st <;> decide⟩,
   fun st => ⟨by cases st <;> rfl, rfl, by cases st <;> decide, by cases st <;> rfl⟩, ⟨_, rfl, _, List.mem_cons_self, by decide⟩, ⟨_, rfl, _, List.mem_cons_self, by decide⟩, by decide,
   by decide, by decide, by decide, ⟨rfl, rfl, by decide, rfl⟩, ⟨rfl, rfl, by decide, rfl⟩⟩

/-- Each state of the token, after a copy, a `flsig` and a `tload`. -/
theorem witness_TokenWait : (15#4).toNat < gw.kd.tokens ∧ guardLanes gw p0 al ≠ 0 ∧ (∀ st, At (.twait al 15) (gTok st 0) [] ∧ At (.tpoll al 4 15) (gTok st 0) []) ∧
    (∀ st, (token (gTok st 5) 15).st = st) ∧ (token (gTok .done 6) 15).cmd = 6 ∧ Current (gTok .busy 0) p0 ∧ OthersRest (gTok .busy 0) p0 ∧ entries (gTok .busy 0) = [] ∧
    At (.twait ⟨15, false⟩ 15) gw [] ∧ spOk 0 (gTok .done 0).s = true :=
  ⟨by decide, by decide, fun st => ⟨⟨by cases st <;> rfl, rfl, by cases st <;> decide, by cases st <;> rfl⟩, ⟨by cases st <;> rfl, rfl, by cases st <;> decide, by cases st <;> rfl⟩⟩,
   fun st => by cases st <;> decide, by decide, current_p0 _ rfl rfl rfl, rest_p0 _ rfl, rfl, ⟨rfl, rfl, by decide, rfl⟩, by decide⟩

/-- A copy of 4-byte elements within scratch, from its issue on: waiting, active, started, one element staged. -/
def cmdState (i : Instr) : State := stateOf (exec i ((base { gw with s := [(1, 0x40)] }).putCore 0 0 { Core.reset with
  mem := [(0x41, 0x01), (0x49, 0x02), (0x50, 0x05), (0x51, 0x02), (0x54, 0x01), (0x58, 0x01), (0x5C, 0x01)] })) (base gw)
/-- R64, R388: `cpz` has minor code 1 and `cpx` 2. -/
theorem test_minor_codes : [Instr.cpz al 1 15, .cpx al 1 15].map (fun i => ((cmdState i).gang 2).map (fun g => (listGet Token.reset g.tokens 15).cmd)) = [some 1, some 2] := by
  decide +kernel

def theCmd (s : State) : Option CopyCmd := (s.coreAt 0 0).copyq.head?
def editCmd (s : State) (f : CopyCmd → CopyCmd) : State := s.putCore 0 0 { s.coreAt 0 0 with copyq := (s.coreAt 0 0).copyq.map f }
def running (i : Instr) : State := editCmd (cmdState i) (fun c => { c with active := true, started := true, before := [], oxBefore := [] })

/-- The cohort is being saved. -/
def stopped (s : State) : State := { s with cohorts := [(1, { loadedCohort 0 2 with stopping := true })] }

theorem witness_CommandLife : (∃ c, theCmd (cmdState (.cp al 1 15)) = some c ∧ c.active = false ∧ c.started = false ∧ c.park = none ∧ c.fault = none ∧ c.limit = 65536 ∧
      ctlSsp c.desc.ctl = 1 ∧ ctlDsp c.desc.ctl = 1 ∧ 2 ^ ctlEsz c.desc.ctl = 4 ∧ elemCount c = 1 ∧ descRefused c = false ∧ c.rn = 0 ∧ c.stage = []) ∧
    (∃ c, theCmd (running (.cp al 1 15)) = some c ∧ c.started = true ∧ c.active = true ∧ c.writes = [] ∧ c.tok < 16 ∧
      (∃ g, (running (.cp al 1 15)).gang c.gang = some g ∧ (listGet Token.reset g.tokens c.tok).st = .busy ∧ (listGet Token.reset g.tokens c.tok).id = c.id ∧ g.paths ≠ []) ∧
      (elemSrc c 0 0).toNat = 256 ∧ (elemDst c 0 0).toNat = 512) ∧
    (∃ c, theCmd (running (.tload al true 1 15)) = some c ∧ isTload c.instr = true ∧ c.fault = none) ∧
    (∃ c, theCmd (running (.flsig al .pkg false 1 0)) = some c ∧ isFlsig c.instr = true ∧ c.fault = none ∧ c.bulk = []) ∧
    (∃ c, theCmd (running (.cp al 1 15)) = some c ∧ Unstopped (running (.cp al 1 15)) c) ∧ (∃ c, theCmd (stopped (running (.cp al 1 15))) = some c ∧ StoppedCmd (stopped (running (.cp al 1 15))) c) ∧
    (∃ pre c post, ((cmdQueue 2).coreAt 0 0).copyq = pre ++ c :: post ∧ pre ≠ [] ∧ (∃ x ∈ pre, x.active = false)) ∧
    spOk Core.reset (running (.cp al 1 15)).cores = true ∧ spOk 0 ((running (.cp al 1 15)).coreAt 0 0).mem = true :=
  ⟨⟨_, rfl, by decide⟩, ⟨_, rfl, by decide, by decide, by decide, by decide, ⟨_, rfl, by decide⟩, by decide⟩, ⟨_, rfl, by decide⟩, ⟨_, rfl, by decide⟩,
   ⟨_, rfl, fun g h hg hh => by cases hg; cases hh; rfl⟩, ⟨_, rfl, _, _, _, rfl, rfl, rfl, rfl, rfl, rfl⟩, ⟨[_], _, [], rfl, by simp, _, List.mem_cons_self, rfl⟩, by decide, by decide⟩

theorem test_copy_moves : (do
    let s1 := stateOf (execCopyCmdStart 0 1 (cmdState (.cp al 1 15))) (base gw)
    let s2 := stateOf (execCopyCmdStart 0 1 s1) (base gw)
    let s3 := s2.putCore 0 0 { s2.coreAt 0 0 with mem := (s2.coreAt 0 0).mem ++ [(0x101, 0xAB)] }
    let s4 := stateOf (execCopyElement 0 1 s3) (base gw)
    let s5 := stateOf (execCopyElement 0 1 s4) (base gw)
    return (localBytes (s5.coreAt 0 0).mem 0x200 4, localBytes (s5.coreAt 0 0).mem 0x1FC 4)) = some ([0, 0xAB, 0, 0], [0, 0, 0, 0]) := by decide

/-- A copy on its way, its source or destination in global memory or scratch, one element staged or none, with the page 0x40 in the TLB. -/
def going (i : Instr) (d : CopyDesc → CopyDesc) (st : List (Nat × Staged)) : State :=
  let s := editCmd (running i) (fun c => { c with desc := d c.desc, stage := st })
  s.putCore 0 0 { s.coreAt 0 0 with l1tlb := [tlbE] }
def cmdOf (s : State) : CopyCmd := (s.coreAt 0 0).copyq.headD ⟨0, 0, 0, .nop al, 0, 0, 0, 0, 0, ⟨0, 0, 0, 0, 0, 0, 0, 0, 0, 0⟩, 0, 0, false, false, [], [], 0, 0, [], [], [], [], none, 0, Xc.empty, none, none, [], [], false, [], []⟩
def globalDesc (a : DWord) (d : CopyDesc) : CopyDesc := { d with src := a, dst := a, ctl := 0x200 }
theorem moves (i : Instr) (d : CopyDesc → CopyDesc) (st : List (Nat × Staged)) (h : spOk Core.reset (going i d st).cores = true ∧
    ((going i d st).coreAt 0 0).copyq.find? (fun x => x.id == (cmdOf (going i d st)).id) = some (cmdOf (going i d st)) ∧ (cmdOf (going i d st)).active = true ∧
    (cmdOf (going i d st)).started = true ∧ (cmdOf (going i d st)).fault = none ∧ (cmdOf (going i d st)).park = none ∧ (going i d st).cohorts = [(1, loadedCohort 0 2)]) :
    Moves (going i d st) 0 (cmdOf (going i d st)) :=
  ⟨⟨h.1, h.2.1⟩, h.2.2.1, h.2.2.2.1, h.2.2.2.2.1, h.2.2.2.2.2.1, fun g c _ hc => by
    have hh : look [(1, loadedCohort 0 2)] g.cohort = some c := h.2.2.2.2.2.2 ▸ hc
    simp only [look] at hh
    split at hh
    · cases hh; rfl
    · cases hh⟩

/-- Each kind of command; a page that is there, one that is not, and an address that is none; elements of a `cpz` that are and are not zero. -/
theorem witness_CommandElements : (∀ i ∈ [Instr.cp al 1 15, .cpg al 1 1 15, .cps al 1 1 15, .cpx al 1 15, .cpz al 1 15, .tload al true 1 15], ∀ st ∈ [[], [(0, Staged.bytes (copies 4 1) 0)], [(0, .fault 5 0)]],
      Moves (going i id st) 0 (cmdOf (going i id st))) ∧ Visits (cmdOf (going (.cp al 1 15) id [])) 0 0 0 0 ∧
    (let s := going (.cp al 1 15) (globalDesc 0x40FC0) []; let c := cmdOf s; let x := cmdTranslate s 0 c true false (elemSrc c 0 0)
     srcLocal c = false ∧ x.1 = .ok 0x70FC0 (.leaf 0x70000 0x7000F 0) ∧ (targetOf x.2.2 0 true 0x70FC0 (.leaf 0x70000 0x7000F 0)).remote = false ∧
       (targetOf x.2.2 0 true 0x70FC0 (.leaf 0x70000 0x7000F 0)).dst ≠ none ∧ (targetOf x.2.2 0 false 0x70FC0 (.leaf 0x70000 0x7000F 0)).dst ≠ none ∧ ctlDsp c.desc.ctl ≠ 1 ∧ c.writes = []) ∧
    (let s := going (.cp al 1 15) (globalDesc 0x50000) []; (cmdTranslate s 0 (cmdOf s) true false 0x50000).1 = .wait) ∧
    (let s := going (.cp al 1 15) (globalDesc 0x50000) []; (cmdTranslate s 0 (cmdOf s) true false 0x8000000000000000).1 = .fault 3) ∧
    (let c := cmdOf (going (.cpz al 1 15) (fun d => { d with ctl := 0x1A005, n0 := 2, n1 := 1, n2 := 1, ds1 := 64 }) [])
     zOut c 0 0 0 7 (zeroCode (tyOfCode (c.desc.ctl.toNat / 4096 % 16)) 7) = [(7, 0)] ∧
     zOut c 1 0 1 0 (zeroCode (tyOfCode (c.desc.ctl.toNat / 4096 % 16)) 0) = [(0xFFFF0000, 2), (0xFFFE0000, 2)]) := by
  refine ⟨?_, ⟨by decide, by decide, by decide⟩, ?_⟩
  · intro i hi st hst
    fin_cases hi <;> fin_cases hst <;> exact moves _ _ _ (by decide +kernel)
  · decide +kernel

-- Loop capture: the loop `lpb s4, .` in a verified segment, and the one cell that runs it

def lpbW : Nat := natLE (encodeBytes (.lpb al 4 0))
def sLoop : State := { State.reset.withFetchWord 64 lpbW with cur := some (3, 0), agenda := [] }
def gLoop : Gang := (sLoop.gang 3).getD g0
def idleCell : DWord × DWord := (0xFF0000FFFFFFFFFF, 0x000FF00000000000)
def cellsL : List (DWord × DWord) := idleCell :: (0x000510FF80FFFFFF, 0x000FF00000000000) :: copies 62 idleCell
def slotL : Slot := ⟨0x10000, 1, [BitVec.ofNat 64 lpbW], cellsL, [0xC0470100], false, false, 0⟩
def withCore (f : Core → Core) (g : Gang) : State := (sLoop.putCore 0 0 (f (sLoop.coreAt 0 0))).putGang 3 g
def reqL : PlacerReq := ⟨3, 1, 0x10000, some 0x10000⟩
def sPlacer : State := withCore (fun c => { c with placer := some reqL }) gLoop
/-- The gang arrives at a placed loop; it has entered; the first iteration has ended with every lane gone; and a drain has begun. -/
def sArrive : State := withCore (fun c => { c with plane := some slotL }) { gLoop with capctl := 0x1003, s := [(4, 2)] }
def sIn : State := stateOf (execCloverEnter 0 3 sArrive) sArrive
def streamL : Stream := ((sIn.coreAt 0 0).streams.head?).getD (newStream 3 gLoop p0 slotL)
def fire (s : State) : State := putStream s 0 (endIteration (fireControl gLoop ((streamOf s 0 3).getD streamL) 0 0 (.lpb al 4 0)))
def sOver : State := fire (fire sIn)
def sReleased : State := stateOf (execIterationRelease 0 3 (stateOf (execIterationRelease 0 3 sOver) sOver)) sOver

def sDrained : State := stateOf (execDrain 0 3 .capdrop (putStream sIn 0 { streamL with trigger := some .capdrop })) sIn

/-- A `capload` that has read the header of the image of the loop, the whole of it, or nothing. -/
def ldImage (n phase : Nat) : MemOp :=
  let b := imageBytes slotL
  let ad := (List.range ((n + 7) / 8)).map (fun i => (i, BitVec.ofNat 64 (8 * i)))
  { newOp (.capload al 2 0) p0 0xFFFF ad ((List.range ((n + 7) / 8)).map (fun i => (i, 8 * i))) 0 with
    phase := phase, got := (List.range ((n + 63) / 64)).map (fun k => ⟨k, (b.drop (64 * k)).take 64, none, none⟩) }

theorem witness_CaptureControl : Issues sLoop (.capctl al 0x1003) 3 gLoop p0 [] ∧ Issues sLoop (.lmark al 0) 3 gLoop p0 [] ∧ Issues sLoop (.capdrop al 0) 3 gLoop p0 [] ∧
    Issues sLoop (.capsave al 8 2 0) 3 gLoop p0 [] ∧ Issues sLoop (.capload al 2 0) 3 gLoop p0 [] ∧ guardLanes gLoop p0 al ≠ 0 ∧ gLoop.ops = [] ∧
    (getSS gLoop 2).toNat % 8 = 0 ∧ (getSS { gLoop with s := [(2, 4)] } 2).toNat % 8 ≠ 0 ∧ capEn (BitVec.ofNat 32 0x1003) = true ∧ capEn gLoop.capctl = false ∧
    (∀ x ∈ (sLoop.coreAt 0 0).slots, x = none) ∧ (sLoop.coreAt 0 0).streams = [] ∧ (sIn.coreAt 0 0).streams = [streamL] ∧ streamL.head = 0x10000 ∧
    (let r := translateLanes (devState gG false) gG false true (pieces 0x40FC0 8)
     r.1 = .ready [(0, 0x70FC0)] [(0, .leaf 0x70000 0x7000F 0)] ∧ gateOpen r.2.2 gG = true ∧
       (targetOf r.2.2 0 false (64 * (0x70FC0 / 64)) (.leaf 0x70000 0x7000F 0)).dst ≠ none) ∧
    gLoop.stopped = false ∧ ({ gLoop with stopped := true } : Gang).stopped = true := by
  and_intros
  all_goals first | exact ⟨rfl, rfl, by decide +kernel, rfl⟩ | decide +kernel

/-- Its header gives the size of the rest; the whole of it passes and takes a slot; and an image that is not one fails. -/
theorem witness_CaptureImage : (let op := ldImage 32 0; op.waits = [] ∧ op.unsent = [] ∧ loadTrap p0 op = none ∧ op.phase ≠ 1 ∧ 32 < imageField (rangeBytes op) 6 2) ∧
    (let op := ldImage (imageBytes slotL).length 1; op.waits = [] ∧ loadTrap p0 op = none ∧ rangeBytes op = imageBytes slotL) ∧
    ((revalidate sLoop 0 0 1 loadedKernel 0x10000 (imageBytes slotL)).bind (placeSlot (sLoop.coreAt 0 0))).isSome = true ∧
    revalidate sLoop 0 0 1 loadedKernel 0x10000 (copies 32 0) = none ∧
    placeSlot { sLoop.coreAt 0 0 with plane := some { slotL with head := 0x20000 }, slots := [some { slotL with head := 0x20000 }] } slotL = none := by decide +kernel

theorem witness_PlacerDone : (sPlacer.coreAt 0 0).placer = some reqL ∧ placerBody sPlacer 0 reqL = (some [BitVec.ofNat 64 lpbW], false) ∧
    sPlacer.gang 3 = some gLoop ∧ placedOk gLoop.kd (decodeRun 112 0 [BitVec.ofNat 64 lpbW]) cellsL [0xC0470100] = true ∧
    bodySize (decodeRun 112 0 [BitVec.ofNat 64 lpbW]) = 8 ∧ none ∈ (sPlacer.coreAt 0 0).slots ∧ (∀ x ∈ (sPlacer.coreAt 0 0).slots, x = none) ∧
    (placerBody sPlacer 0 ⟨3, 1, 0x10000, some 0x20000⟩).2 = false ∧ (placerBody sPlacer 0 ⟨3, 1, 0x20000, some 0x20000⟩).2 = true := by decide +kernel

/-- The gang's path at the head with capture enabled: the plane holds the loop, a slot holds it, or the plane is loading it for another; and the
path waits while the plane loads. -/
def gCap (st : PathSt) : Gang := { gLoop with capctl := 0x1003, s := [(4, 2)], paths := gLoop.paths.map (fun p => { p with st := st, onSl := if st = .ready then p.onSl else 0 }) }
def sHead (plane slot shadow : Option Slot) (st : PathSt) : State :=
  { withCore (fun c => { c with plane := plane, slots := slot :: c.slots.tail, shadow := shadow.map (fun x => (x, 4, 0)) }) (gCap st) with clock := 64 }
theorem may_stream : MayStream (gCap .ready) p0 slotL := ⟨by decide +kernel, rfl, by decide +kernel, by decide +kernel, Or.inl rfl⟩

theorem witness_PlaneEvents : (gCap .ready).paths = [p0] ∧ (gCap .ready).ops = [] ∧ (gCap .ready).parks = [] ∧ (gCap .ready).paused = false ∧ (gCap .ready).stopped = false ∧
    ((sHead (some slotL) none none .ready).gang 3 = some (gCap .ready) ∧ ((sHead (some slotL) none none .ready).coreAt 0 0).streams = [] ∧
      ((sHead (some slotL) none none .ready).coreAt 0 0).oxq = [] ∧ sliceCount p0.mask ≤ admits slotL) ∧
    (((sHead none (some slotL) none .ready).coreAt 0 0).slots.find? (keyed p0.pc 1) = some (some slotL) ∧ ((sHead none (some slotL) none .ready).coreAt 0 0).shadow = none) ∧
    (((sHead none none (some slotL) .ready).coreAt 0 0).shadow = some (slotL, 4, 0) ∧ ((sHead none none (some slotL) .ready).coreAt 0 0).plane = none) ∧
    (let s := sHead none none (some slotL) .planeWait
     s.gangs = [(3, gCap .planeWait)] ∧ 64 ≤ (s.clock - 0).toNat ∧ (({ s with clock := 63 } : State).clock - 0).toNat < 64 ∧ (s.coreAt 0 0).streams = [] ∧ (s.coreAt 0 0).oxq = [] ∧
       (gCap .planeWait).paths.map (fun p => (p.st, p.pc, p.mask)) = [(.planeWait, slotL.head, 0xFFFF)]) ∧
    keyed 0x10000 1 (none : Option Slot) = false ∧ keyed 0x10000 1 (some { slotL with head := 0x20000 }) = false ∧ slotL.loaded = false ∧
    ((sHead (some { slotL with head := 0x20000 }) (some slotL) none .ready).coreAt 0 0).slots.find? (keyed p0.pc 1) = some (some slotL) ∧
    ((sHead (some { slotL with head := 0x20000 }) none (some slotL) .ready).coreAt 0 0).shadow = some (slotL, 4, 0) ∧
    (∀ e ∈ (sHead none none (some slotL) .ready).gangs, ∀ q ∈ e.2.paths, q.st ≠ .planeWait) ∧ spOk Core.reset (sHead (some slotL) (some slotL) (some slotL) .ready).cores = true := by
  decide +kernel

def aHeld (n : Nat) : HeldStore := ⟨n, 0, 0x10000, false, [(0, 0x40)], [(0, 0x40)], 4, [(0x40, 1)], []⟩
/-- Another body in the same array: two sums in a row, and the branch; and a load of the cell that has returned. -/
def stAlu : Stream := { streamL with body := [(0, .iadd al .i32 4 1 ⟨false, 2⟩), (8, .iadd al .i32 5 4 ⟨false, 2⟩), (16, .lpb al 4 0x3FFFFFFE)] }
/-- With 32 lanes the first sum has fired for the four quarters of the first slice. -/
def stWide : Stream := { stAlu with live := lowLanes 32, entered := lowLanes 32, part := (List.range 4).map (fun q => (0, q)) }
def stLoad : Stream := { streamL with loads := [⟨9, 0, 0, false, newOp (.ld al .b32 .s false false 4 (memOf 2 0)) p0 0xFFFF [] [] 0, [], [], false⟩] }

theorem witness_CloverEvents : (∃ g, Streams sIn 0 3 streamL g) ∧ streamL.draining = false ∧ streamL.held = [] ∧ streamL.ends = [] ∧ streamL.live ≠ 0 ∧
    (∀ h ∈ [aHeld streamL.boundary], streamL.boundary ≤ h.iter) ∧ homeless sIn gLoop { streamL with held := [aHeld 0] } 0 = false ∧
    cellIndex (sIn.coreAt 0 0) 1 = some 0 ∧ keyed streamL.head streamL.asid (sIn.coreAt 0 0).plane = true ∧ canFire streamL 0 = true ∧
    canFire { streamL with fired := [0] } 0 = false ∧ streamL.body.map (fun x => kindOf x.2) = [5] ∧
    (streamOf sOver 0 3).any (fun st => !st.ends.isEmpty && st.live == 0) = true ∧
    (streamOf sReleased 0 3).any (fun st => st.ends.isEmpty && st.live == 0 && st.path == 0) = true ∧
    (sReleased.gang 3).any (fun g => g.paths.map (·.id) == [0] && g.stack.isEmpty && g.handler.isNone) = true ∧
    (streamOf sDrained 0 3).any (fun st => st.draining && st.loads.isEmpty && st.relLive != 0 && st.fall != st.head && st.trigger == some .capdrop) = true ∧
    (sDrained.gang 3).any (fun g => g.paths.map (·.id) == [0] && g.stack.isEmpty && g.nextPath != 0 && g.exited == 0) = true ∧
    drainDue { streamL with trigger := some .preempt } = some .preempt := by
  refine ⟨⟨_, by decide +kernel, rfl, rfl, rfl⟩, ?_⟩
  decide +kernel

theorem witness_CellEvents : canFire stAlu 0 = true ∧ nextQuarter stAlu 0 0 = some 0 ∧ isElement (.iadd al .i32 4 1 ⟨false, 2⟩) = true ∧
    (nextQuarter stWide 0 0 = some 4 ∧ 4 ≤ (onEdge stWide 0 1).length) ∧ nextQuarter { stAlu with jumps := [(0xFFFF, 0, 16)] } 8 1 = none ∧
    canFire { stAlu with jumps := [(0xFFFF, 0, 16)], fired := [0] } 1 = true ∧ kindOf (.iadd al .i32 4 1 ⟨false, 2⟩) ≠ 5 ∧ kindOf (.iadd al .i32 4 1 ⟨false, 2⟩) ≠ 3 ∧
    (∃ s1 g1, cellRun (.iadd al .i32 4 1 ⟨false, 2⟩) { sIn with freeCtr := sIn.freeCtr + 1, gangs := [(0, cellGang gLoop stAlu 0 (activeAt stAlu 0 &&& quarterMask 0))], cur := some (0, 0) } = .next s1 ∧
      s1.gang 0 = some g1 ∧ g1.pending = []) ∧
    (∃ x, stLoad.loads = [x] ∧ x.idx = 0 ∧ x.done = false ∧ x.op.waits = [] ∧ x.op.unsent = []) ∧ stLoad.draining = false :=
  ⟨by decide +kernel, by decide +kernel, by decide, by decide +kernel, by decide +kernel, by decide +kernel, by decide, by decide, ⟨_, _, rfl, rfl, rfl⟩, ⟨_, rfl, rfl, rfl, rfl, rfl⟩, rfl⟩

/-- R180: two turns of `lpb s4, .` with s4 = 2 leave 0 in s4, and the gang goes on at the fall-through. -/
theorem test_loop_runs : ((stateOf (execIterationRelease 0 3 sReleased) sReleased).gang 3).bind (fun g => g.paths.head?.map (fun p => (getS g 4, p.pc, p.st))) =
    some (0, 0x10008, .ready) := by decide +kernel

-- The dispatcher: one quartet in service on die 0, and a grid of two cohorts

def kdS : Kernel := { loadedKernel with acc := 0, scratch := 0 }
def grid2 : Grid := { loadedGrid with kd := kdS, nx := 2, waitFrom := some 0 }
def coh (core l1 : Nat) (gs : List Nat) : Cohort := { loadedCohort 0 2 with core := core, gangs := gs, kd := { kdS with l1 := l1 }, scratchBytes := 0 }
def dm2 : Demand := ⟨0, kdS, [0], false⟩
def disp (gs : List (Nat × Gang)) (cs : List (Nat × Cohort)) (clock : DWord) : State :=
  { State.reset with gangs := gs, cohorts := cs, grids := [(0, grid2)], clock := clock, spares := (List.range 63).map (fun q => (q + 1, 0)) }
/-- The cores but the first of the quartet have cohorts of another `.l1`; four blocks of 64 granules stand apart on the first. -/
def apart : State := disp ((List.range 4).map (fun i => (i + 2, { g0 with block := 128 * i, granules := 64, phys := [] })))
  [(1, coh 0 32 [2, 3, 4, 5]), (11, coh 1 64 []), (12, coh 2 64 []), (13, coh 3 64 [])] 0
def full : State := disp [] [(10, coh 0 64 []), (11, coh 1 64 []), (12, coh 2 64 []), (13, coh 3 64 [])] 4096
def kdQ : Kernel := { kdS with gangw := 64, cx := 1024, cy := 4 }
def gridQ : Grid := { grid2 with kd := kdQ }
def moving (clock : DWord) : State :=
  { apart with clock := clock }.putCore 0 0 { Core.reset with compact := some ⟨0, none, 0, false, none, [(2, 64), (4, 192)], some 0⟩ }

theorem witness_GridEvents : (base g0).gang 2 = some g0 ∧ g0.readySince = some 0 ∧ ((55 : DWord) - 0).toNat < 56 ∧ 56 ≤ ((56 : DWord) - 0).toNat ∧
    (let e : Gang := { g0 with paths := [] }
     CohortQuiet (base e) 1 ∧ e.ops = [] ∧ (∀ x ∈ ((base e).coreAt 0 0).oxq, x.gang ≠ 2) ∧ (base e).cohort 1 = some (loadedCohort 0 2) ∧ (base e).grid 0 = some loadedGrid) ∧
    gridOver (base g0) 0 loadedGrid = false ∧ gridOver { base g0 with cohorts := [] } 0 { loadedGrid with finished := 1 } = true ∧ loadedGrid.abandoned = false ∧
    loadedGrid.zero = none ∧ look (base g0).pcie 7 = none := by
  unfold CohortQuiet
  decide +kernel

theorem next_of {s : State} (gr : Grid) (dm : Demand) (h : s.grid 0 = some gr ∧ nextDemand s 0 gr = some (none, dm) ∧ waitsForRoom s 0 gr = true ∧ itsTurn s 0 gr = true) :
    Next s 0 gr none dm := ⟨h.1, h.2.1, h.2.2.1, h.2.2.2⟩

/-- A cohort for which there is no room, one for which there is, and one for which two blocks must come together. -/
theorem witness_DispatchEvents : (Next full 0 grid2 none dm2 ∧ findSpot full grid2 dm2 = none) ∧
    (Next (disp [] [] 0) 0 grid2 none dm2 ∧ findSpot (disp [] [] 0) grid2 dm2 = some (.now 0) ∧ (planAll (disp [] [] 0) dm2 0).isSome = true) ∧
    (Next apart 0 grid2 none dm2 ∧ findSpot apart grid2 dm2 = some (.compact 0) ∧ movesOk apart dm2 0 [(3, 64)] = true ∧ spOk Core.reset apart.cores = true ∧
      ∃ g, apart.gang 3 = some g ∧ movable g = true ∧ blockQuiet apart 3 g = true ∧ movable { g with paths := [{ p0 with st := .parked }] } = false ∧
        blockQuiet apart 3 { g with ops := [newOp (.nop al) p0 0 [] [] 0] } = false) ∧
    ((moving 127).coreAt 0 0).compact = some ⟨0, none, 0, false, none, [(2, 64), (4, 192)], some 0⟩ ∧ ((moving 127).clock - 0).toNat < 2 * 64 ∧ 2 * 64 ≤ ((moving 128).clock - 0).toNat :=
  ⟨⟨next_of _ _ (by decide +kernel), by decide +kernel⟩, ⟨next_of _ _ (by decide +kernel), by decide +kernel⟩,
    ⟨next_of _ _ (by decide +kernel), by decide +kernel, by decide +kernel, by decide +kernel, ⟨_, rfl, by decide +kernel⟩⟩, by decide +kernel⟩

theorem witness_Reservations : needsQuartet kdQ = true ∧ nextDemand full 0 gridQ = some (none, ⟨0, kdQ, List.range 64, false⟩) ∧ placeable full 0 gridQ = none ∧
    waitsForRoom full 0 gridQ = true ∧ 0 ∈ dieOrder full gridQ ∧ waited full gridQ = 4096 ∧ full.reserveQ = [] ∧ full.reserveL1 = [] ∧
    leastLoaded full ⟨0, kdQ, List.range 64, false⟩ ((firstCores ⟨0, kdQ, List.range 64, false⟩ 0).filter
      (fun j => (coresOf ⟨0, kdQ, List.range 64, false⟩ j).all (coreOpen full ⟨0, kdQ, List.range 64, false⟩))) = some 0 ∧
    (∀ j ∈ firstCores dm2 0, planAll full dm2 j = none) ∧ waitsForRoom full 0 grid2 = true ∧
    leastLoaded full dm2 ((firstCores dm2 0).filter (fun j => coreOpen full dm2 j && (cohortsOn full j).any (fun e => e.2.kd.l1 != dm2.kd.l1))) = some 0 := by
  decide +kernel

/-- A grid of a queue of high priority waits for a cohort of a lower one. -/
def aQueue (prio : Nat) : Queue :=
  { fn := 0, asid := 1, ring := 0x40000, size := 64, prio := prio, engine := 0, save := 0x40000, saveSize := 4096, widx := 0, ridx := 0, failidx := 0, err := 0, halt := false, reg := true,
    res := true, leaving := false, lastStart := 0, kicked := none, pend := [], launches := 0, images := [] }
def rivals (delay : Word) (clock : DWord) : State :=
  { full with
    grids := [(0, { loadedGrid with kd := { kdS with l1 := 64 } }), (1, { grid2 with queue := 1, waitFrom := some 0 })]
    cohorts := full.cohorts.map (fun e => if e.1 = 10 then e else (e.1, { e.2 with asked := true, askedBy := some 7 }))
    queues := [(0, { aQueue 1 with saveSize := 0x100000 }), (1, aQueue 5)], fns := spSet Fn.reset [] 0 { Fn.reset with delay := delay }, clock := clock }

theorem witness_PreemptDelay : (nextDemand (rivals 1 3600) 1 { grid2 with queue := 1, waitFrom := some 0 }).isSome = true ∧
    placeable (rivals 1 3600) 1 { grid2 with queue := 1, waitFrom := some 0 } = none ∧ (∀ e ∈ (rivals 1 3600).cohorts, e.2.asked = false ∨ e.2.askedBy ≠ some 1) ∧
    waitsForRoom (rivals 1 3600) 1 { grid2 with queue := 1, waitFrom := some 0 } = true ∧
    victims (rivals 1 3600) { grid2 with queue := 1, waitFrom := some 0 } = [(10, coh 0 64 [])] ∧
    waited (rivals 1 3600) { grid2 with queue := 1, waitFrom := some 0 } = 3600 * 1 ∧ 3600 * 1 < waited (rivals 1 3601) { grid2 with queue := 1, waitFrom := some 0 } ∧
    ((rivals 0xFFFFFFFF 3601).fn 0).delay = 0xFFFFFFFF := by decide +kernel

/-- Tables of one page on each level, and three pages of device memory from 0x40000 on. -/
def tables : List Host.Cell :=
  [(0x1000, 0x01), (0x1001, 0x20), (0x2000, 0x01), (0x2001, 0x30), (0x3000, 0x01), (0x3001, 0x40), (0x4000, 0x01), (0x4001, 0x50),
   (0x5200, 0x0F), (0x5202, 0x07), (0x5208, 0x0F), (0x5209, 0x10), (0x520A, 0x07), (0x5210, 0x0F), (0x5211, 0x20), (0x5212, 0x07)]
def kdT : Kernel := { kdS with cx := 0, regs := 16, nmeta := 0, tokens := 0, bars := 0 }
def gridT : Grid := { loadedGrid with kd := kdT }
def cohT (asked stopping : Bool) : Cohort := { coh 0 32 [2] with kd := kdT, asked := asked, stopping := stopping }
def saving (gs : List (Nat × Gang)) (asked stopping : Bool) (size : Nat) (abandoned : Bool) : State :=
  { State.reset with
    gangs := gs, cohorts := [(1, cohT asked stopping)], grids := [(0, { gridT with abandoned := abandoned })]
    queues := [(0, { aQueue 0 with saveSize := size })], asids := [(1, (1, 0x1000))], hbm := tables, fresh := 9 }
def gT : Gang := { newGang State.reset 0 gridT 1 0 0 0 0 0 [] [0] 0 with stopped := true }
/-- The only gang of the cohort has ended, so that its record is a stub. -/
def sv0 : State := saving [] true true 0x10000 false
def block0 : List Byte := contextBlock sv0 (cohT true true) gridT
def saved : State := stateOf (execContextSave 1 sv0) State.reset

theorem witness_Preemption : (saving [(2, gT)] false false 0x10000 false).cohort 1 = some (cohT false false) ∧
    cohortAtPoint (saving [(2, gT)] true true 0x10000 false) 1 (cohT true true) = true ∧
    cohortAtPoint (saving [(2, { gT with outst := [⟨1, 8, 0, 0xF, false, false, 0, 0, 0, 0⟩] })] true true 0x10000 false) 1 (cohT true true) = false ∧
    firstRoom 0x10000 (roomTaken sv0 0 (aQueue 0)) (roomFor block0.length) = some 0 ∧ firstRoom 64 (roomTaken sv0 0 (aQueue 0)) (roomFor block0.length) = none ∧
    (writeBlock 0 1 (block0.length / 64 + 1) sv0 0x80000 block0 matches .failed) = true ∧ roomPromised sv0 0 (some 1) = [] ∧ roomTaken sv0 0 (aQueue 0) = [] ∧
    roomFor block0.length ≤ 4096 := by decide +kernel

/-- The block is written; a line of it waits where another page maps it duplex and a forward of that line awaits the partner. -/
theorem witness_Saved : (writeBlock 0 1 (block0.length / 64 + 1) sv0 0x40000 block0 matches .done _) = true ∧
    (writeBlock 0 1 (block0.length / 64 + 1) ({ sv0 with hbm := tables ++ [(0x5300, 0x4F), (0x5302, 0x07)] }.putMember 15 { sv0.member 15 with lineHolds := [⟨5, 0x1C00, []⟩] }) 0x40000 block0 matches .wait) = true := by decide +kernel

theorem witness_Resumed : saved.saved.map (fun x => (x.1, x.2.number, x.2.live)) = [(9, 0, [])] ∧ saved.cohorts.length = 0 ∧
    demandOf saved 0 gridT (some 9) = some ⟨0, kdT, [], false⟩ ∧ resumePlace saved 0 gridT 9 ⟨0, kdT, [], false⟩ = some 0 ∧
    (planAll saved ⟨0, kdT, [], false⟩ 0).isSome = true ∧ resumePlace { saved with saved := [] } 0 gridT 9 ⟨0, kdT, [], false⟩ = none := by decide +kernel

/-- The place that a compaction has made for the saved cohort. -/
theorem witness_ResumedCompact : resumePlace (saved.putCore 0 5 { Core.reset with compact := some ⟨0, some 9, 1, false, none, [], none⟩ }) 0 gridT 9 ⟨0, kdT, [], false⟩ = some 5 := by
  decide +kernel

theorem witness_Block : (match look saved.saved 9 with
     | some sv => (match readBlock saved 1 sv with | .bytes b _ => blockFits b kdT sv | _ => false)
     | none => false) = true := by decide +kernel

-- User queues and the driver: the ring stands at VA 0x40000, which is PA 0x70000

def cellsAt (a : Nat) (ws : List DWord) : List Host.Cell :=
  ((List.range (8 * ws.length)).map (fun i => (a + i, BitVec.ofNat 8 ((listGet 0 ws (i / 8)).toNat / 256 ^ (i % 8))))).filter (fun c => c.2 ≠ 0)
def qs (ws : List DWord) (pend : List QPkt) : State :=
  { State.reset with
    queues := [(0, { aQueue 0 with widx := 1, pend := pend })], asids := [(1, (1, 0x1000))], hbm := tables ++ cellsAt 0x70000 ws, handles := [(1, ⟨0, 1, { kdS with paramSize := 0 }, []⟩)]
    protBase := 0x100000, protPages := 16 }
def pkt (ws : List DWord) : QPkt := ⟨0, ws, none, 0, [], [], none, false⟩
/-- The packet starts, of a type. -/
def starts (ws : List DWord) (ty : Nat) : Bool :=
  match fetchPkt (qs ws []) ((qs ws []).queues.headD (0, aQueue 0)).2 with
  | .words got s1 => got == ws && mayStartPkt (qs ws []) ((qs ws []).queues.headD (0, aQueue 0)).2 && !pktReserved (pkt ws) &&
      (sigOk s1 (aQueue 0) (pkt ws) matches .ok true) && pktType (pkt ws) == ty
  | _ => false
def nopWs : List DWord := [BitVec.ofNat 64 (natLE (encodeBytes (.nop al)))]

theorem ok_of {q : QXl} {a : Nat} {x : Xl} (h : (match q with | .ok p y => decide (p = a ∧ y = x) | _ => false) = true) : q = .ok a x := by
  cases q <;> simp_all

/-- VA 0x41000 is a plain place of device memory. -/
theorem plain_place : Plain16 (qs [] []) 1 0x41000 false 0x71000 (.leaf 0x71000 0x7100F 0) :=
  ⟨ok_of (by decide +kernel), by decide, by decide, ⟨homeOf 0x71000, by decide, by decide +kernel, by decide +kernel⟩, by decide +kernel⟩

/-- VA 0x44000 is in host memory; die 16 has not asked for the page, waits for it, or has been refused it. -/
def asked16 (l : List ((Nat × Nat) × Bool)) : State := { qs [] [] with asids := [(1, (3, 0x1000))], hbm := tables ++ [(0x5220, 0x2F)], atsBy16 := l }
theorem witness_HostPage : (∀ l, HostPage (asked16 l) 1 0x44000 true true) ∧ (∀ b, ¬ Asked16 (asked16 []) 1 0x44000 b) ∧ ∀ b, Asked16 (asked16 [((1, 0x44), b)]) 1 0x44000 b :=
  ⟨fun l => ⟨by decide, rfl, 0x2F, 0, (by decide +kernel : (walkPage (asked16 []) 16 1 0x44).1 = .leaf 0x2F 0), (by decide +kernel : xlOfLeaf (asked16 []) 1 0x44 0x2F 0 = none), by decide⟩,
   fun b h => absurd h (by unfold Asked16; cases b <;> decide), fun b => by cases b <;> rfl⟩

theorem witness_QueuePackets : starts [0, 0, 0, 0, 0, 0, 0, 0] 0 = true ∧ starts [3, 0x41000, 7, 0, 0, 0, 0, 0] 3 = true ∧ starts [4, 0x41004, 7, 0, 0, 0, 0, 0] 4 = true ∧
    starts [5, 0, 0, 0, 0, 0, 0, 0] 5 = true ∧ starts [2, 0x41000, 0x42000, 64, 0, 0, 0, 0] 2 = true ∧ starts [7, 0x41000, 0, 0, 0, 0, 0, 0] 7 = true ∧
    starts [0x100000001, 0, 0, 0, 0, 0, 0, 0] 1 = true ∧ starts [0x100000006, 0x41000, 0, 0, 0, 0, 0, 0] 6 = true ∧
    look (qs [] []).handles 1 = some ⟨0, 1, { kdS with paramSize := 0 }, []⟩ ∧ look (qs [] []).handles 2 = none ∧ spOk 0 (qs [] []).hbm = true ∧
    (read16 (qs [7] []) 0x70000 8 (.leaf 0x70000 0x7000F 0) matches .bytes _ _) = true ∧
    (aQueue 0).widx.toNat ≤ (64 : DWord).toNat ∧ (64 : DWord).toNat ≤ (aQueue 0).ridx.toNat + (aQueue 0).size ∧ (aQueue 0).ridx.toNat + (aQueue 0).size < (65 : DWord).toNat ∧
    (qs [] []).hostIn = [] ∧ ({ qs [] [] with hostIn := [.kick 0 1] } : State).hostIn ≠ [] := by decide +kernel

/-- The loop stands at VA 0x10000, in a page of code. -/
def sCode : State :=
  { qs [] [] with
    protBase := 0x5000
    hbm := tables.take 8 ++ [(0x5080, 0x17), (0x5082, 0x10)] ++ tables.drop 8 ++ cellsAt loadedPa [BitVec.ofNat 64 lpbW] }
/-- Whether an image read at VA 0x41000 passes the checks. -/
def imagePasses (s : State) : Option Bool :=
  match readRange16 1 3 s 0x41000 32 [] with
  | .bytes hd s2 => (match readRange16 1 1026 s2 0x41000 (imageField hd 6 2) [] with
    | .bytes b s3 => some (revalidate s3 16 0 1 loadedKernel 0x10000 b).isSome
    | _ => none)
  | _ => none
/-- An image of zeros is read and does not pass; that of the loop does. -/
theorem witness_CaploadPacket : imagePasses sCode = some false ∧ (revalidate sCode 16 0 1 loadedKernel 0x10000 (imageBytes slotL)).isSome = true := by decide +kernel

/-- A queue that was kicked, alone; behind another of its engine; and with every engine full. -/
def kicked (engine n : Nat) : Queue := { aQueue 0 with res := false, engine := engine, kicked := some n }
def engines (n : Nat) : State := { State.reset with queues := (70000, kicked 3 5) :: (List.range n).map (fun i => (i, { aQueue 0 with engine := i / 64 })) }
theorem witness_QueueSwapIn : (engines 64).queue 70000 = some (kicked 3 5) ∧ (∀ e ∈ (engines 64).queues, e.1 ≠ 70000 → e.2.kicked = none) ∧
    (engineResidents (engines 64) 1).length < 64 ∧ (∀ j < 1, 64 ≤ (engineResidents (engines 64) j).length) ∧
    (∀ m < 16, 64 ≤ (engineResidents (engines 1024) m).length) ∧ (∀ e ∈ engineResidents (engines 1024) 3, ((engines 1024).clock - e.2.lastStart).toNat < 230400) ∧
    (let s : State := { State.reset with queues := [(1, kicked 3 4), (2, kicked 3 5)] }; ∃ e ∈ s.queues, e.2.engine = 3 ∧ e.1 ≠ 2 ∧ ∃ b, e.2.kicked = some b ∧ b < 5) := by
  refine ⟨rfl, ?_, ?_, ?_, ?_, ?_, ⟨(1, kicked 3 4), List.mem_cons_self, rfl, by decide, 4, rfl, by decide⟩⟩ <;> decide +kernel

theorem witness_QueueHead : Head (qs [] [pkt [5, 0, 0, 0, 0, 0, 0, 0]]) 0 { aQueue 0 with widx := 1, pend := [pkt [5, 0, 0, 0, 0, 0, 0, 0]] } (pkt [5, 0, 0, 0, 0, 0, 0, 0]) [] 5 :=
  ⟨rfl, rfl, by decide, by decide, by decide⟩

/-- R439: a SIGNAL of 7 at VA 0x41000, which is PA 0x71000. -/
theorem test_signal_writes : (let ws : List DWord := [4, 0x41000, 7, 0, 0, 0, 0, 0]
    placeBytes (stateOf (execSignal 0 (qs ws [pkt ws])) State.reset) 0x71000 8) = [7, 0, 0, 0, 0, 0, 0, 0] := by decide +kernel
/-- R439: a LAUNCH of extents 2, 1 and 1. -/
theorem test_launch_makes_grid : (let ws : List DWord := [0x100000001, 1, 0, 0, 0, 0, 0, 0]
    (stateOf (execLaunch 0 (qs ws [])) State.reset).grids.map (fun x => (x.2.nx, x.2.ny, x.2.nz))) = [(2, 1, 1)] := by decide +kernel

/-- Before and after bring-up; good and bad fields; a segment that passes and one that fails. -/
theorem witness_DriverCommands : MayCommand (qs [] []) 0 ∧ MayCommand (qs [] []) 31 ∧ ¬ MayCommand (qs [] []) 32 ∧ ({ qs [] [] with up := false } : State).up = false ∧
    spOk Fn.reset (qs [] []).fns = true ∧ spOk (0, 0) (qs [] []).asids = true ∧ asidValid (qs [] []) 1 = true ∧ asidFn (qs [] []) 1 = 0 ∧ asidValid (qs [] []) 4095 = false ∧
    ownsAsid (qs [] []) 0 1 = true ∧ ownsAsid (qs [] []) 1 1 = false ∧ (1 : DWord) &&& 0xFFFFFFF0000000FC = 0 ∧ (0x1000 : DWord) &&& 0xFFFFFF8000000FFF = 0 ∧
    segWords (qs nopWs []) 1 0x40000 (8 / 8) = some nopWs ∧ (verifySegment nopWs []).status = 0 ∧ (verifySegment [0xFF00000000000000] []).status ≠ 0 ∧
    (passSegment (qs nopWs []) 0 1 0x40000 8 [] false (verifySegment nopWs [])).1 = 0 ∧ (passSegment (qs nopWs []) 0 1 0x40000 8 [] false (verifySegment nopWs [])).2.isSome = true ∧
    isPow2In 64 6 20 = true ∧ isPow2In 0x100000 6 20 = true ∧ isPow2In 32 6 20 = false ∧ (qs [] []).queue 7 = none ∧ (qs [] []).queue 0 = some { aQueue 0 with widx := 1 } ∧
    isPow2In 3 0 32 = false ∧ isPow2In 1 0 32 = true ∧ tableAt (qs [] []) 1 (pageOf 0x40000) 0 4 (asidRoot (qs [] []) 1) = some 0x5000 ∧
    isProtected (qs [] []) 0x5000 = false ∧ isProtected { qs [] [] with protBase := 0x5000 } 0x5000 = true ∧
    mapsSegment (qs [] []) 1 (pageOf 0x40000) (hbmWord (qs [] []) (0x5000 + 8 * (pageOf 0x40000 % 512))) = false ∧
    mapsSegment (codeState g0) 1 0x10 0 = true := by
  refine ⟨⟨rfl, by decide⟩, ⟨rfl, by decide⟩, fun h => absurd h.2 (by decide), ?_⟩
  decide +kernel

-- Packets between members

/-- A packet, of 64 zero bytes where its operation carries data, the lowest of them written, with its line check. -/
def sealed (p : Packet) : Packet := { p with check := packetCheck p }
def pk (op : POp) (src dst : Nat) : Packet := sealed { blankPacket State.reset op src dst with data := if (opShape (opCode op)).any (fun x => x.2.2 != 0) then copies 64 0 else [], ben := 1, tag := 5 }
def fl (p : Packet) : State := { State.reset with flights := [(flightKey p.src p.dst (chanOf p.op), [p])] }

theorem arrives (p : Packet) (hp : pairOpen (fl p) p.src p.dst = true ∧ memberGone (fl p) p.dst = false) : Arrives (fl p) p.op p.src p.dst p [] :=
  ⟨by simp [fl, spGet], rfl, rfl, rfl, hp.1, hp.2, by simp [fl, spOk, spOkFrom]⟩

theorem members17 (f : List (Nat × List Packet)) (r : List Req) : Members17 { State.reset with flights := f, reqs := r } :=
  (by unfold Members17; decide : Members17 State.reset)

theorem comes (p : Packet) (hp : pairOpen (fl p) p.src p.dst = true ∧ memberGone (fl p) p.dst = false) (hd : 8 ≤ p.dst ∧ p.dst < 16 ∧ p.src < 17 ∧ p.src ≠ p.dst)
    (hn : NoDefect ((fl p).member p.dst) p) (h0 : p.src ∉ ((fl p).member p.dst).removed) (h1 : ∀ q ∈ ((fl p).member p.dst).holds, q.src ≠ p.src)
    (h2 : Passes ((fl p).member p.dst) p.dst (whole ((fl p).member p.dst) p)) (h3 : p.dup = false) (h4 : p.stamp.length = 17)
    (h5 : isDuplex (fl p) (p.addr.toNat / 64) = false) :
    Comes (fl p) p.op p.src p.dst p [] := ⟨arrives p hp, hd, members17 _ _, hn, h0, h1, h2, h3, h4, fun h => absurd (h5.symm.trans h) (by decide)⟩

/-- Each stamped operation to each end of the homes; a defect; a stamp ahead of VIEW. -/
theorem witness_HomeArrivals : (∀ op ∈ [POp.orderedWrite, .forwardedWrite, .causalLoad, .atomic], ∀ d ∈ [8, 15], Comes (fl (pk op 0 d)) op 0 d (pk op 0 d) []) ∧
    (∀ op ∈ [POp.plainLoad, .engineRead, .bulkWrite, .flushMarker, .management], Arrives (fl (pk op 0 8)) op 0 8 (pk op 0 8) []) ∧
    (let p : Packet := { pk .orderedWrite 0 8 with gen := true }; Arrives (fl p) .orderedWrite 0 8 p [] ∧ ¬ NoDefect ((fl p).member 8) p) ∧
    (let p : Packet := { pk .orderedWrite 0 8 with stamp := listSet (copies 17 0) 16 1 }
     Arrives (fl p) .orderedWrite 0 8 p [] ∧ NoDefect ((fl p).member 8) p ∧ ¬ Passes ((fl p).member 8) 8 (whole ((fl p).member 8) p)) ∧
    State.reset.memoryOk = true ∧ (fl (pk .atomic 0 8)).poison.contains 0 = false ∧ 56 % accessSize .b64 = 0 ∧
    HasPlace (fl (pk .atomic 0 8)) (pk .atomic 0 8) ∧ ¬ HasPlace (fl (pk .atomic 0 16)) (pk .atomic 0 16) ∧ HoldRoom Member.reset 0 ∧
    ¬ HoldRoom { Member.reset with holds := copies 32 (pk .orderedWrite 0 8) } 0 ∧
    (let m := { Member.reset with holds := [pk .orderedWrite 0 8] }; firstFree (raiseViews m) 8 (holdFree State.reset 8) [] (raiseViews m).holds = some (pk .orderedWrite 0 8)) := by
  refine ⟨?_, ?_, ⟨arrives _ (by decide +kernel), by unfold NoDefect; decide +kernel⟩, ⟨arrives _ (by decide +kernel), by unfold NoDefect; decide +kernel, by unfold Passes; decide +kernel⟩, by decide, by decide, by decide, by unfold HasPlace; decide +kernel,
    by unfold HasPlace; decide +kernel, by unfold HoldRoom; decide +kernel, by unfold HoldRoom; decide +kernel, by decide +kernel⟩
  · intro op hop d hd
    fin_cases hop <;> fin_cases hd <;>
      exact comes _ (by decide +kernel) (by decide +kernel) (by unfold NoDefect; decide +kernel) (by decide +kernel) (by decide +kernel) (by unfold Passes; decide +kernel) rfl rfl (by decide +kernel)
  · intro op hop
    fin_cases hop <;> exact arrives _ (by decide +kernel)

/-- Alone in the write queue; behind a packet of another member; and behind one of its own. -/
theorem witness_MayPerform : (∀ op ∈ [POp.plainLoad, .engineRead, .bulkWrite, .flushMarker], MayPerform (fl (pk op 0 8)) 8 [] (pk op 0 8)) ∧
    MayPerform (fl (pk .bulkWrite 0 8)) 8 [pk .bulkWrite 3 8] (pk .bulkWrite 0 8) ∧ ¬ MayPerform (fl (pk .bulkWrite 0 8)) 8 [pk .engineRead 0 8] (pk .bulkWrite 0 8) := by
  unfold MayPerform
  decide +kernel

/-- A write that lands; one whose check fails; one to a page under a write lock; one to a duplex page, whose partner can take the forward; a home that
still holds a write. -/
theorem witness_Lands : Lands (fl (pk .orderedWrite 0 8)) (pk .orderedWrite 0 8) ∧
    (let p : Packet := { pk .orderedWrite 0 8 with check := 0 }; p.check ≠ packetCheck p) ∧
    writeBarred { fl (pk .orderedWrite 0 8) with locked := [0] } (pk .orderedWrite 0 8).addr.toNat = true ∧
    (let p : Packet := { pk .bulkWrite 0 8 with dup := true }
     p.check = packetCheck p ∧ homeServes (fl p) (homeOf (partnerOf p.addr.toNat)) = true ∧ maySend (fl p) 8 (homeOf (partnerOf p.addr.toNat)) true = true) ∧
    allDelivered (State.reset.member 8) = true ∧ allDelivered { State.reset.member 8 with holds := [pk .orderedWrite 0 8] } = false ∧
    0 ∈ ({ Member.reset with removed := [0] } : Member).removed :=
  ⟨⟨by decide +kernel, by decide +kernel, by decide +kernel⟩, by decide +kernel⟩

/-- R229, R422: a write of one byte is merged at its home, and the home's LAST for the source becomes its counter. -/
theorem test_write_delivered : (let p : Packet := sealed { pk .orderedWrite 0 8 with data := listSet (copies 64 0) 0 7, stamp := listSet (copies 17 0) 0 1 }
    (fun t : State => (placeByte t 0, nth32 (t.member 8).last 0, (spGet [] t.flights (flightKey 8 0 1)).map (·.op))) (stateOf (execOrderedWrite 0 8 (fl p)) State.reset)) =
    (7, 1, [.writeAck]) := by decide +kernel

-- Replies

def withReq (s : State) (p : Packet) (who : Who) : State := { s with flights := (fl p).flights, reqs := [⟨5, p.dst, p.src, none, false, who, none⟩] }

theorem replies (s : State) (p : Packet) (who : Who) (ht : p.tag = 5)
    (hp : pairOpen (withReq s p who) p.src p.dst = true ∧ memberGone (withReq s p who) p.dst = false)
    (hg : NoDefect ((withReq s p who).member p.dst) p) (hl : p.loan = 0) :
    Replies (withReq s p who) p.op p.src p.dst p [] ⟨5, p.dst, p.src, none, false, who, none⟩ :=
  ⟨⟨by simp [withReq, fl, spGet], rfl, rfl, rfl, hp.1, hp.2, by simp [withReq, fl, spOk, spOkFrom]⟩, hg, by simp [withReq, ht], hl⟩

def opOf (i : Instr) : MemOp := { newOp i p0 0xFFFF ((List.range 16).map (fun l => (l, 0x40FC0))) (places0 16) 0 with waits := [5] }
def gOp (i : Instr) : Gang := { gG with ops := [opOf i], paths := [{ p0 with st := .mem }] }

theorem last_line (i : Instr) (s : State) (hs : s.gang 2 = some (gOp i)) : LastLine s 2 (gOp i) (opOf i) { p0 with st := .mem } 5 0x1C3F :=
  ⟨hs, rfl, ⟨rfl, by intro q hq; rw [List.mem_singleton.1 (show q ∈ [_] from hq)]; decide⟩, rfl, rfl, rfl, rfl, ⟨rfl, rfl, rfl, rfl, rfl, rfl⟩, by
    show ∀ l ∈ lanesOf 0xFFFF, ∃ a, look (places0 16) l = some a ∧ a / 64 = 0x1C3F
    intro l hl
    have h : ∀ l ∈ lanesOf (0xFFFF : LaneMask), look (places0 16) l = some 0x70FC0 := by decide
    exact ⟨_, h l hl, by decide⟩, by
    show ((List.range 16).map (fun l => (l, (0x40FC0 : DWord)))).map (·.1) = lanesOf 0xFFFF; decide, by show spOk 0 gG.v = true; decide⟩

/-- A store of the gang that the ack answers. -/
def gStore : Gang := { g0 with outst := [⟨5, 8, 0, 0xF, false, false, 0x10000, 0xF, 0x40FC0, 0⟩] }
/-- A copy that waits for a read. -/
def reading : State := editCmd (running (.cp al 1 15)) (fun c => { c with reads := [(5, 0, 0)] })

/-- A load, an atomic, a store, a write that is forwarded, an engine's read and write, and a flush; frontiers between members. -/
theorem witness_RepliesAndFrontiers :
    (Replies (withReq (base (gOp ldI)) (pk .readResponse 8 0) (.load 2 0 0x1C3F true 0)) .readResponse 8 0 (pk .readResponse 8 0) [] ⟨5, 0, 8, none, false, .load 2 0 0x1C3F true 0, none⟩ ∧
      LastLine (withReq (base (gOp ldI)) (pk .readResponse 8 0) (.load 2 0 0x1C3F true 0)) 2 (gOp ldI) (opOf ldI) { p0 with st := .mem } 5 0x1C3F) ∧
    (Replies (withReq (base (gOp atI)) (pk .atomicResponse 8 0) (.atomic 2 0 0x1C3F)) .atomicResponse 8 0 (pk .atomicResponse 8 0) [] ⟨5, 0, 8, none, false, .atomic 2 0 0x1C3F, none⟩ ∧
      LastLine (withReq (base (gOp atI)) (pk .atomicResponse 8 0) (.atomic 2 0 0x1C3F)) 2 (gOp atI) (opOf atI) { p0 with st := .mem } 5 0x1C3F) ∧
    (∀ who ∈ [Who.store 2, .forward 0 (some (pk .writeAck 8 0)), .engineWrite 0 0 1], ∀ b, Replies (withReq (base gStore) { pk .writeAck 8 0 with refused := b } who) .writeAck 8 0
      { pk .writeAck 8 0 with refused := b } [] ⟨5, 0, 8, none, false, who, none⟩) ∧ gStore.outst.find? (fun o => o.tag == 5) = gStore.outst.head? ∧
    (∃ x, Queued (withReq reading (pk .readResponse 8 0) (.engineRead 0 0 x.id 0)) (256 * 0 + 0) x ∧ x.reads.find? (fun y => y.1 == 5) = some (5, 0, 0) ∧
      Replies (withReq reading (pk .readResponse 8 0) (.engineRead 0 0 x.id 0)) .readResponse 8 0 (pk .readResponse 8 0) [] ⟨5, 0, 8, none, false, .engineRead 0 0 x.id 0, none⟩) ∧
    Replies (withReq (base g0) (pk .flushReply 8 0) (.flush 0 0 1)) .flushReply 8 0 (pk .flushReply 8 0) [] ⟨5, 0, 8, none, false, .flush 0 0 1, none⟩ ∧
    (∀ d ∈ [0, 15], Arrives (fl (pk .frontier 16 d)) .frontier 16 d (pk .frontier 16 d) [] ∧ Arrives (fl (pk .frontierRequest 16 d)) .frontierRequest 16 d (pk .frontierRequest 16 d) []) ∧
    (pk .frontier 16 0).chain = low16 (nth32 (State.reset.member 0).last 16) ∧ ({ pk .frontier 16 0 with chain := 1 } : Packet).chain ≠ low16 (nth32 (State.reset.member 0).last 16) ∧
    461 ≤ ((461 : DWord) - listGet 0 (State.reset.member 0).lastD 16).toNat ∧ ((460 : DWord) - listGet 0 (State.reset.member 0).lastD 16).toNat < 461 := by
  refine ⟨⟨replies _ _ _ rfl (by decide +kernel) (by unfold NoDefect; decide +kernel) rfl, last_line _ _ rfl⟩, ⟨replies _ _ _ rfl (by decide +kernel) (by unfold NoDefect; decide +kernel) rfl, last_line _ _ rfl⟩, ?_, rfl,
    ⟨(theCmd reading).get (by decide +kernel), ⟨?_, ?_⟩, ?_, replies _ _ _ rfl (by decide +kernel) (by unfold NoDefect; decide +kernel) rfl⟩,
    replies _ _ _ rfl (by decide +kernel) (by unfold NoDefect; decide +kernel) rfl, ?_, by decide, by decide, by decide, by decide⟩
  · intro who hw b
    fin_cases hw <;> cases b <;> exact replies _ _ _ rfl (by decide +kernel) (by unfold NoDefect; decide +kernel) rfl
  iterate 3 decide +kernel
  · intro d hd
    fin_cases hd <;> exact ⟨arrives _ (by decide +kernel), arrives _ (by decide +kernel)⟩

-- Translation, faults, loss, the package

def gX : Gang := { g0 with xc := ⟨[], [0x40]⟩ }
/-- A walk of VA 0x40000 with its tables; of a page that is not there. -/
def walking (page : Nat) (g : Gang) : State :=
  { base g with asids := [(1, (3, 0x1000))], hbm := tables, dieXl := [(0, { DieXl.reset with walks := [(1, page)] })] }
def tOf (k : Nat) : Nat := listGet 0 [0x5000, 0x4000, 0x3000, 0x2000, 0x1000] k
def parkedG (pri : Bool) : Gang :=
  { g0 with paths := [{ p0 with st := .parked }], parks := [⟨0x40, pri, 0, 0xFFFF, 0x40FC0, none, none⟩] }
def aFault : TrapInfo := ⟨0x05, 0x10000, 0x40FC0, 0xFFFF, 0x11⟩

theorem witness_Translation : (∃ e, Tables (walking 0x40 gX) 1 0x40 0 tOf e ∧ pteV (e 0) = true ∧ pteLeaf (e 0) = true ∧ malformed (walking 0x40 gX) (e 0) 0 0x5000 = false ∧ pteHost (e 0) = false) ∧
    (∃ e, Tables (walking 0x50 { g0 with xc := ⟨[], [0x50]⟩ }) 1 0x50 0 tOf e ∧ pteV (e 0) = false) ∧ Walks (walking 0x40 gX) 0 1 0x40 2 gX ∧
    Walks (walking 0x50 { g0 with xc := ⟨[], [0x50]⟩ }) 0 1 0x50 2 { g0 with xc := ⟨[], [0x50]⟩ } ∧
    ((1, 0x40) ∈ ({ walking 0x40 gX with atsReqs := [(1, 0x40)] } : State).atsReqs ∧ gX.kd.asid = 1 ∧ 0x40 ∈ gX.xc.wants) ∧
    (let s : State := { walking 0x40 (parkedG true) with pri := [⟨0, 1, 0x40, true⟩] }
     ParkedOn s 2 (parkedG true) { p0 with st := .parked } ⟨0x40, true, 0, 0xFFFF, 0x40FC0, none, none⟩ ∧ asidFn s 1 = 0 ∧ spOk Fn.reset s.fns = true) ∧
    asidValid (walking 0x40 gX) 1 = true ∧ asidPasid (walking 0x40 gX) 1 = 0 ∧ spOk DieXl.reset (walking 0x40 gX).dieXl = true ∧
    holdsTranslated { walking 0x40 g0 with invals := [⟨1, 1, [5], none⟩] } 1 = false := by
  refine ⟨⟨fun k => hbmWord (walking 0x40 gX) (tOf k + 8 * (0x40 / 2 ^ (9 * k) % 512)), ⟨by decide, fun _ _ _ => rfl, ?_, ?_⟩, by decide +kernel, by decide +kernel, by decide +kernel, by decide +kernel⟩,
    ⟨fun k => hbmWord (walking 0x50 { g0 with xc := ⟨[], [0x50]⟩ }) (tOf k + 8 * (0x50 / 2 ^ (9 * k) % 512)), ⟨by decide, fun _ _ _ => rfl, ?_, ?_⟩, by decide +kernel⟩,
    ⟨by decide, by decide, rfl, by decide, by decide⟩, ⟨by decide, by decide, rfl, by decide, by decide⟩, by decide, ⟨⟨rfl, rfl, rfl, by decide, by decide⟩, by decide, by decide⟩, by decide, by decide, by decide, by decide⟩
  all_goals
    intro k h1 h2
    have hk : k = 0 ∨ k = 1 ∨ k = 2 ∨ k = 3 ∨ k = 4 := by omega
    rcases hk with rfl | rfl | rfl | rfl | rfl <;> first | omega | decide +kernel

/-- R235: the translated address of VA 0x40FC0 under a leaf at 0x70000 is 0x70FC0. -/
theorem test_translate : ((walkPage (walking 0x40 gX) 0 1 0x40).1 matches .leaf 0x7000F 0) = true := by decide +kernel

def faulted (g : Gang) : State := { base { g with pending := [(aFault, none)] } with asids := [(1, (1, 0x1000))] }
def aRecord : FaultRec := ⟨1, 1, 1, 0, 0, 0, 0, 0, 0x40000, noTrap, none⟩
def ringed (size : Nat) (fqw : DWord) : State :=
  { State.reset with fns := spSet Fn.reset [] 0 { Fn.reset with ring := 0x1000, size := size, fqw := fqw, records := [aRecord] } }
def failing1 : State := { State.reset with failing := [5], deadQuartets := [5] }

/-- The page at PA 0x70000 is a duplex page. -/
def dupState : State := { walking 0x40 g0 with hbm := tables.map (fun c => if c.1 = 0x5200 then (c.1, 0x4F) else c) }

/-- No quartet but 5 is valid on die 0, and no spare is free. -/
def alone : State := { failing1 with deadQuartets := [5, 64, 65, 66, 67], spares := ((List.range 64).filter (· != 5)).map (fun q => (q, 0)) }

theorem witness_FaultRecords : (faulted g0).gang 2 = some { g0 with pending := [(aFault, none)] } ∧ gangEnded g0 = false ∧
    (let e : Gang := { g0 with paths := [], pending := [({ aFault with cause := cENGINE }, none)] }; gangEnded e = true) ∧ spOk Fn.reset (faulted g0).fns = true ∧
    ((ringed 1 0).fn 0).records = [aRecord] ∧ ((0 : DWord) - 0).toNat < 1 ∧ ((ringed 1 1).fn 0).size ≤ (((ringed 1 1).fn 0).fqw - ((ringed 1 1).fn 0).fqr).toNat ∧
    (ringed 1 0).pcieUp = true ∧ pcieQuiet (ringed 1 0) = true ∧ pcieQuiet { ringed 1 0 with pcie := [(4, .write hostBase [])] } = false ∧ (ringed 1 0).memoryOk = true :=
  ⟨rfl, by decide +kernel⟩

theorem witness_FaultsAndRetirement : (8, 3) ∈ ({ State.reset with checks := [(8, 3), (0, 3), (16, 4)] } : State).checks ∧ homeMode State.reset 8 = .live ∧
    State.reset.remap.length = 16 ∧ State.reset.homeModes.length = 8 ∧ isDuplex State.reset 0 = false ∧ quartetValid State.reset 0 5 = true ∧ quartetValid State.reset 7 63 = true ∧
    standsOn (loadedCohort 0 2) 0 0 = true ∧ (aQueue 0).engine = 32 - 32 ∧
    (freeSpare failing1 0).isSome = true ∧ freeSpare { failing1 with deadQuartets := [5, 64, 65, 66, 67] } 0 = none ∧ topQuartet failing1 0 5 = 63 ∧
    64 * 0 + 63 ∈ ({ failing1 with failing := [5, 63] } : State).failing ∧ freeSpare alone 0 = none ∧ topQuartet alone 0 5 = 5 ∧ 64 * 0 + 5 ∈ alone.failing ∧
    128 * 0 + quartetPhys failing1 0 5 ∈ failing1.deadQuartets ∧ (7 : Nat) ∉ (State.reset.member 16).removed ∧ isDuplex dupState 0x1C00 = true ∧
    firstWrite (fl (pk .orderedWrite 0 8)) 0 8 = some (flightKey 0 8 0, pk .orderedWrite 0 8) ∧ (pk .orderedWrite 0 8).resent = false ∧
    firstWrite (fl { pk .bulkWrite 0 8 with resent := true }) 0 8 = some (flightKey 0 8 2, { pk .bulkWrite 0 8 with resent := true }) ∧
    homeServes dupState (homeOf (partnerOf (64 * 0x1C00))) = true ∧ dupState.poison.contains (partnerOf (64 * 0x1C00) / 64) = false := by decide +kernel

/-- A duplex line whose partner's copy is poisoned, and one whose partner's is not; a die whose RET is clear; a gang for which a shadow plane is loaded. -/
theorem witness_LatestCopy : OnlyCopy { dupState with poison := [partnerOf (64 * 0x1C00) / 64] } 0x1C00 ∧ ¬ OnlyCopy dupState 0x1C00 ∧ ¬ Ret State.reset 7 ∧ (16, 7) ∉ State.reset.notices ∧
    (let s := withCore (fun c => { c with shadow := some (slotL, 3, 0) }) gLoop
     (s.coreAt 0 0).shadow = some (slotL, 3, 0) ∧ s.gang 3 = some gLoop ∧ gangEnded gLoop = false ∧ spOk Core.reset s.cores = true) := by
  unfold OnlyCopy Ret
  decide +kernel

/-- R443: a page record, in a ring of one entry. -/
theorem test_record_layout : (let t := stateOf (execFaultRecordWrite 0 (ringed 1 0)) State.reset
    (placeBytes t (hostBase + 0x1000) 8, natLE (placeBytes t (hostBase + 0x1018) 8), (t.fn 0).fqw)) = ([1, 0, 1, 0, 1, 0, 0, 0], 0x40000, 1) := by decide +kernel

/-- A cohort is being placed on quartet 5 of die 0. -/
theorem witness_PlacingOnQuartet : (let s : State := failing1.putCore 0 21 { Core.reset with compact := some ⟨0, none, 1, false, none, [], none⟩ }
    placingOn s 0 (fun c => c / 4 == 5) = true ∧ placingOn s 0 (fun _ => true) = true ∧ (freeSpare s 0).isSome = true ∧ 64 * 0 + 5 ∈ s.failing) ∧
    placingOn failing1 0 (fun c => c / 4 == 5) = false := by decide +kernel

/-- Die 8 holds a causal load of die 3 whose stamp names a write of die 2, which is lost. -/
def heldLoad : Packet := { blankPacket State.reset .causalLoad 3 8 with tag := 5, stamp := listSet (copies 17 0) 2 4 }
def lossPk : Packet := { blankPacket State.reset .lossNotice 16 8 with addr := 2 }
def losing : State := { State.reset.putMember 8 { Member.reset with holds := [heldLoad] } with notices := [(8, 2), (16, 2)], flights := [(flightKey 16 8 3, [lossPk])] }
theorem witness_LossReleases : Noticed losing 8 2 (taken losing .lossNotice 16 8 []) ∧ Noticed losing 16 2 losing ∧ Members17 losing ∧ (losing.member 8).holds = [heldLoad] ∧
    dependsOn (losing.member 8) 2 heldLoad = true ∧ losing.reqs = [] ∧ (losing.member 8).fwds = [] ∧ 3 ∈ ((State.reset.putMember 3 { Member.reset with removed := [3] }).member 3).removed :=
  ⟨⟨by decide, Or.inr ⟨by decide, lossPk, [], ⟨by decide +kernel, rfl, rfl, rfl, by decide +kernel, by decide +kernel, by decide⟩, by unfold NoDefect; decide +kernel, rfl, rfl⟩⟩,
    ⟨by decide, Or.inl ⟨rfl, rfl⟩⟩, by unfold Members17; decide +kernel, by decide +kernel⟩

/-- R429: the load answers with CST and no data. -/
theorem test_loss_releases : ((spGet [] (stateOf (execLossNotice 8 2 losing) State.reset).flights (flightKey 8 3 1)).map (fun p => (p.tag, p.cst, p.data))) =
    [(5, some 2, [])] := by decide +kernel

/-- A request that nothing answered for 1887437 cycles, and one cycle less; a link that is cut off; a notice; a die that leaves; members that go quiet, one of them on the
controller's word. -/
theorem witness_LossAndResynchronisation : (Members17 State.reset ∧
      Members17 { State.reset with members := State.reset.members.map (fun m => { m with quiet := true }) }) ∧
    (let p : Packet := blankPacket State.reset .resyncControl 16 3
     let s : State := { fl p with resync := some ([], []) }
     Arrives s .resyncControl 16 3 p [] ∧ NoDefect (s.member 3) p) ∧
    lossDue { State.reset with unanswered := [(32 * 16 + 3, 0)], clock := 1887437 } 3 = true ∧
    lossDue { State.reset with unanswered := [(32 * 16 + 3, 0)], clock := 1887436 } 3 = false ∧ placeReached { State.reset with links := State.reset.links.map (fun k => { k with failed := true }) } 0 = false ∧
    lossDue { State.reset with unanswered := [(32 * 5 + 9, 0)], clock := 1887437 } 9 = true ∧
    (3, 0) ∈ ({ State.reset with notices := [(3, 0)] } : State).notices ∧ (State.reset.member 3).holds = [] ∧ State.reset.remap.length = 16 ∧
    homeServes { State.reset with homeModes := listSet State.reset.homeModes 1 .lost } 9 = false ∧
    (3, RetireWay.orderly) ∈ ({ State.reset with leavingDies := [(3, .orderly)] } : State).leavingDies ∧ (State.reset.member 3).quiet = false ∧
    (let s : State := { State.reset with members := State.reset.members.map (fun m => { m with quiet := true }) }
     (∀ j, j < 17 → (s.member j).quiet = true) ∧ quietDown s = true ∧ spOk Core.reset s.cores = true) := by
  refine ⟨by unfold Members17; decide, ⟨⟨by decide +kernel, rfl, rfl, rfl, by decide +kernel, by decide +kernel, by decide +kernel⟩, by unfold NoDefect; decide +kernel⟩, ?_⟩
  decide +kernel

def image1 : FirmwareImage := ⟨0, copies 32 1, copies 32 0, copies 2420 2⟩

/-- An image whose signature is good, if that is what the check says of it; and one of a revoked key. -/
theorem signed1 (h : Config.signatureValid (copies 32 1) (copies 2420 2) (copies 32 0) = true) : Signed Gander.reset image1 :=
  ⟨by decide, by decide +kernel, ⟨0, by decide, by decide, by decide⟩, h, by decide⟩
theorem not_signed : ¬ Signed { Gander.reset with revoked := copies 4 true } image1 := by
  rintro ⟨_, _, ⟨k, hk, _, h⟩, _⟩
  have hk : k = 0 ∨ k = 1 ∨ k = 2 ∨ k = 3 := by change k < 4 at hk; omega
  rcases hk with rfl | rfl | rfl | rfl <;> exact absurd h (by decide)

theorem witness_PackageControl : State.reset.gander.levels.length = 8 ∧ State.reset.gander.celsius.length = 17 ∧ State.reset.gander.watts.length = 8 ∧ State.reset.links.length = 24 ∧
    (linkAt State.reset 23).lanes.length = 32 ∧ look ({ State.reset with pcie := [(4, .write hostBase [(hostBase, 7)]), (5, .zeroRead)] } : State).pcie 5 = some .zeroRead ∧
    State.reset.memoryOk = true ∧ State.reset.pcieUp = true ∧ [((hostBase : Nat), (7 : Byte)), (hostBase + 1, 8)].Pairwise (fun x y => x.1 ≠ y.1) ∧ spOk [] State.reset.flights = true ∧
    ({ State.reset with locked := [0x40] } : State).locked.contains (0x40FFF / 4096) = true ∧ isProtected State.reset 0x40000 = false ∧ State.reset.hostIn = [] ∧
    homeServes State.reset (homeOf 0x7FFFFFFFC0) = true ∧ inlineOk State.reset 16 (homeOf 0x7FFFFFFFC0) (State.reset.member 16).cv true = true ∧
    lineBusy State.reset (homeOf 0x7FFFFFFFC0) (0x7FFFFFFFC0 / 64) = false ∧ isDuplex State.reset (0x7FFFFFFFC0 / 64) = false ∧
    (let s : State := { qs [] [] with imports := [(2, 1)] }
     (2, 1) ∈ s.imports ∧ asidValid s 1 = true ∧ (qXl s 1 0x80000 true false matches .bad) = true ∧
     (match qXl s 1 0x41000 true true with
      | .ok place xl => (match read16 s (place / 64 * 64) 64 xl with
          | .bytes b s1 => decide (b.length = 64) && (write16 s1 1 place xl (copies 4 1)).isSome
          | _ => false)
      | _ => false) = true) ∧
    quartetValid State.reset 7 (255 / 4) = true ∧ State.reset.gander.running < 2 ∧ State.reset.gander.slots.length = 2 ∧ (copies 32 (0 : Byte)).length = 32 := by decide +kernel

def aWindow : Window := { fn := 31, slot := 255, asid := 4095, base := 2 ^ 27 - 1, gib := 1, package := 1023, remote := 4095 }
/-- The widest window and import, with an older one in the slot; and a turn of the host. -/
theorem witness_HostActs : aWindow.fn < 32 ∧ aWindow.slot < 256 ∧ aWindow.asid < 4096 ∧ aWindow.package < 1024 ∧ aWindow.remote < 4096 ∧ aWindow.base + aWindow.gib ≤ 2 ^ 27 ∧
    State.reset.up = true ∧ (hostAct (.putWindow aWindow) { State.reset with windows := [{ aWindow with package := 5 }] }).windows = [aWindow] ∧
    (hostAct (.clearWindow 31 255) { State.reset with windows := [aWindow] }).windows = [] ∧
    (hostAct (.dropImport 1023 4095) (hostAct (.addImport 1023 4095) State.reset)).imports = [] ∧
    ({ State.reset with agenda := [.host (.putWindow aWindow)] } : State).agenda = .host (.putWindow aWindow) :: [] := by decide +kernel

/-- A bring-up that succeeds, and those that its protected region, its HBM or its links stop. -/
theorem witness_BringUp : ComesUp ⟨0x100000, 16, [], [3], true⟩ ∧ ¬ ComesUp ⟨0x100001, 16, [], [], true⟩ ∧ ¬ ComesUp ⟨0, 0, [], [], false⟩ ∧
    ¬ ComesUp ⟨0, 0, [], List.range 24, true⟩ ∧ trainedLinks ⟨0, 0, [], [], true⟩ = State.reset.links := by
  unfold ComesUp
  decide +kernel

/-- Another package writes and reads a plain place. -/
theorem plain_import : Plain16 { qs [] [] with imports := [(2, 1)] } 1 0x41000 false 0x71000 (.leaf 0x71000 0x7100F 0) :=
  ⟨ok_of (by decide +kernel), by decide, by decide, ⟨homeOf 0x71000, by decide, by decide +kernel, by decide +kernel⟩, by decide +kernel⟩

theorem witness_RemoteRead : (let s : State := { qs [] [] with imports := [(2, 1)] }
    (match qXl s 1 0x41000 true false with
    | .ok place xl => (match plainRead16 s place 64 xl with | .bytes _ _ => true | _ => false)
    | _ => false)) = true := by decide +kernel

/-- R407: at 114 degrees nothing is reported, and at 115 a machine check. -/
theorem test_machine_check_at_115 : ((stateOf (execTemperatureThreshold 7 114 State.reset) State.reset).checks, (stateOf (execTemperatureThreshold 7 115 State.reset) State.reset).checks) =
    ([], [(7, 5)]) := by decide +kernel

/-- R404: with physical quartet 4 of die 3 found bad at bring-up, logical quartet 4 is on the first spare. -/
theorem test_bringup_spare : ((List.range 6).map (quartetPhys (bringQuartets State.reset [(3, 4)]) 3), quartetValid (bringQuartets State.reset [(3, 4)]) 3 4) =
    ([0, 1, 2, 3, 64, 5], true) := by decide +kernel

-- Encoding, reset, and the step

theorem witness_DecodeEncode : (encodeFields (.oxip al .f16 .f16 4 6 2 0 15 1)).isSome = true ∧ (Instr.oxip al .f16 .f16 4 6 2 0 15 1).wf = true ∧
    decode (wordToBytes 0x1100000000005000 ++ [1, 2]) = some (.nop al, [1, 2]) := by decide

def s1nop : State := State.reset.withFetchWord 64 0x1100000000005000
def sBad : State := State.reset.withFetchWord 64 0xFF00000000000000
/-- The gang of the word has waited for 255 cycles, and nothing is on the agenda. -/
def sDue : State := { s1nop with agenda := [], clock := 255, gangs := s1nop.gangs.map (fun e => (e.1, { e.2 with readySince := some 0 })) }

/-- The turn, the gang, and what it fetches: the word that was placed, or one that no instruction has. -/
theorem witness_StepRunsDecoded : s1nop.agenda = [.issue 3 0] ∧ (∃ g p, s1nop.gang 3 = some g ∧ findPath g.paths 0 = some p ∧ p.pc = 0x10000 ∧ Issuing { s1nop with agenda := [] } 3 g p ∧
      Fetches s1nop g p ⟨1, 0x10000, 12, loadedLeaf, 0⟩ loadedPa 0x1100000000005000 0 ∧ lsuRival s1nop g (.nop al) = none) ∧ decodeWords 0x1100000000005000 0 = some (.nop al) ∧
    (∃ g p, sBad.gang 3 = some g ∧ findPath g.paths 0 = some p ∧ Issuing { sBad with agenda := [] } 3 g p ∧
      Fetches sBad g p ⟨1, 0x10000, 12, loadedLeaf, 0⟩ loadedPa 0xFF00000000000000 0) ∧ decodeWords 0xFF00000000000000 0 = none ∧
    ({ State.reset with agenda := [.event (.setPowerCap 1200)] } : State).agenda = .event (.setPowerCap 1200) :: [] ∧ isEvent (.setPowerCap 1200) = true := by
  refine ⟨rfl, ⟨_, _, rfl, rfl, rfl, ⟨by decide +kernel, Or.inl (by decide)⟩, ?_, by decide +kernel⟩, by decide, ⟨_, _, rfl, rfl, ⟨by decide +kernel, Or.inl (by decide)⟩, ?_⟩, by decide, rfl, rfl⟩
  · exact ⟨by decide, rfl, by decide, by decide, by decide, by decide, by decide, by decide +kernel, by decide +kernel, by decide +kernel⟩
  · exact ⟨by decide, rfl, by decide, by decide, by decide, by decide, by decide, by decide +kernel, by decide +kernel, by decide +kernel⟩

theorem witness_DueTurn : sDue.agenda = [] ∧ (dueTurns sDue).isEmpty = false ∧ (∀ e ∈ sDue.gangs, e.2.readySince.isSome = true ∧ waitOf sDue.clock e.2 ≤ 255) ∧
    wasHeld g0 g0 p0 (.nop al) = true ∧ wasHeld g0 (advance g0 0 8 0) p0 (.nop al) = false ∧ spOk Core.reset s1nop.cores = true := by decide +kernel

/-- One step of each: the PC goes past the word; and ILLOP at a word of no instruction, which with no handler waits for rank 2. -/
theorem test_step_nop : (match step s1nop with | .next t => (t.gang 3).bind (fun g => g.paths.head?.map (·.pc)) | _ => none) = some 0x10008 := by decide +kernel
theorem test_step_illop : (match step sBad with | .next t => (t.gang 3).bind (fun g => g.pending.head?.map (fun x => (x.1.cause, x.1.pc))) | _ => none) = some (0x01, 0x10000) := by decide +kernel
theorem witness_StepKeepsMemory : s1nop.memoryOk = true ∧ Inv s1nop ∧ (match step s1nop with | .next t => t.memoryOk | _ => false) = true := by
  refine ⟨by decide +kernel, ⟨by decide +kernel, by decide +kernel, by decide +kernel, by decide +kernel, by decide +kernel, by decide +kernel,
    by unfold Members17; decide +kernel, by unfold NamesOk; decide +kernel, by unfold RegsOk; decide +kernel⟩, by decide +kernel⟩

/-- A memory cell of the array wants the load/store unit when a gang that is not urgent issues a load. -/
theorem witness_LoadStoreTurn : lsuRival (putStream sIn 0 { streamL with body := [(0, .ld al .b32 .s false false 4 (memOf 2 0)), (8, .lpb al 4 0x3FFFFFFF)] }) gLoop
    (.ld al .b32 .s false false 4 (memOf 2 0)) = some 1 := by decide +kernel

end Sys2Proof.Tests
end

section
/-! PROOFS. What an ITERATION_RELEASE gives a stream, and a sound state whose next step leaves the invariant by it. -/

namespace Sys2Proof.Machine

open Sys2Proof.Claim

/-- A stream whose oldest ended iteration has been released (R187). -/
def releasedStream (st : Stream) (e : IterEnd) (r : List IterEnd) : Stream :=
  { st with ends := r, boundary := e.iter + 1, rel := { e.regs with fpstat := 0 }, relLive := e.live }

/-- With no store held, the release of an iteration that has ended makes the registers it ended with the stream's release copy (R187). -/
theorem execIterationRelease_of_ended {k gi : Nat} {s : State} {g : Gang} {st : Stream} {e : IterEnd} {r : List IterEnd}
    (hst : (s.coreAt (keyDie k) (keyCore k)).streams.find? (fun x => x.gang == gi) = some st) (hg : s.gang gi = some g)
    (hheld : st.held = []) (hdrain : st.draining = false) (hends : st.ends = e :: r) :
    execIterationRelease k gi s =
      .next (putStream (s.putGang gi { g with fpstat := g.fpstat ||| e.regs.fpstat }) k (releasedStream st e r)) := by
  have hhome : homeless s g st e.iter = false := by simp [homeless, hheld]
  simp [execIterationRelease, hst, hg, hheld, hdrain, hends, hhome, commitAll, releasedStream]

/-- A step whose turn is an ITERATION_RELEASE runs it. -/
theorem step_of_iterationRelease {k gi : Nat} {s : State} {r : List Turn} (h : s.agenda = .event (.iterationRelease k gi) :: r) :
    step s = ticked (execIterationRelease k gi { s with agenda := r }) := by
  have hevent : isEvent (.iterationRelease k gi) = true := rfl
  simp only [step, takeTurn, h, runTurn, hevent, if_true, exec]

/-- The end of an iteration whose registers list a lane with the value that an unlisted lane has: they are not in canonical form. -/
def unsoundEnd : IterEnd := ⟨0, ⟨[(0, 0)], [], [], [], 0⟩, 1⟩

/-- A gang as it is placed, and its stream: the registers of the iteration being computed and the release copy are canonical, and one iteration
has ended. -/
def placedGang : Gang := newGang State.reset 0 loadedGrid 1 0 0 0 0 0 (List.range 16) [0] 0
def endedStream : Stream :=
  { newStream 0 placedGang ⟨0, 0x10000, 1, .streaming, 0, 1⟩ ⟨0x10000, 1, [], [], [], false, false, 0⟩ with ends := [unsoundEnd] }

/-- The state after reset with that gang and stream on core 0; the release of the ended iteration is next. -/
def endedState : State :=
  { State.reset with
    agenda := [.event (.iterationRelease 0 0)]
    gangs := [(0, placedGang)]
    cores := [(0, { Core.reset with streams := [endedStream] })] }

/-- The invariant does not see the registers of an iteration that awaits its release. -/
theorem inv_endedState : Inv endedState where
  memory := rfl
  cores := by decide +kernel
  flights := rfl
  dies := rfl
  fns := rfl
  asids := rfl
  members := by unfold Members17; decide +kernel
  gangs := by unfold NamesOk; decide +kernel
  units := by unfold RegsOk; decide +kernel

/-- The step releases the iteration. -/
theorem step_endedState : ∃ t, step endedState = .next t ∧
    t.cores = [(0, { Core.reset with streams := [releasedStream endedStream unsoundEnd []] })] := by
  rw [step_of_iterationRelease (k := 0) (gi := 0) rfl, execIterationRelease_of_ended (g := placedGang) (st := endedStream) rfl rfl rfl rfl rfl]
  exact ⟨_, rfl, by decide +kernel⟩

/-- The release copy it leaves is not in canonical form. -/
theorem not_regsOk_released : ¬ RegsOk (releasedStream endedStream unsoundEnd []).rel := by
  unfold RegsOk
  decide

/-- Refutes O60: the invariant asks canonical registers of `work` and `rel` of a stream, but nothing of `ends`, the registers of iterations that
await their release; ITERATION_RELEASE (R187) makes them the release copy `rel`. In `endedState` the step does so with registers that list a lane at
zero: the invariant holds before it, and not after. -/
theorem not_stepKeepsMemory : ¬ Obligations.StepKeepsMemory := by
  unfold Obligations.StepKeepsMemory
  intro ⟨_, _, keeps⟩
  obtain ⟨t, hstep, hcores⟩ := step_endedState
  have hunits := (keeps endedState t inv_endedState hstep).units
  simp only [hcores, List.mem_singleton, forall_eq] at hunits
  obtain ⟨_, _, hrel⟩ := hunits
  exact not_regsOk_released hrel

end Sys2Proof.Machine
end

section
/-! PROOFS. An outcome that is a next state; what the shared parts of the instructions' meanings answer is one. -/

namespace Sys2Proof.Machine

/-- The outcome is a next state. -/
def Goes (o : Out) : Prop := ∃ t, o = .next t

@[simp] theorem goes_next (t : State) : Goes (.next t) := ⟨t, rfl⟩

theorem Goes.ite {c : Prop} [Decidable c] {a b : Out} (ha : Goes a) (hb : Goes b) : Goes (if c then a else b) := by
  split <;> assumption

-- Frames of instructions

@[simp] theorem goes_finish (s : State) (gi : Nat) (g : Gang) (p : Path) (n : DWord) (r : GRes) : Goes (finish s gi g p n r) := by
  cases r <;> simp [finish]

@[simp] theorem goes_memTrap (s : State) (gi : Nat) (g : Gang) (p : Path) (t : TrapInfo) : Goes (memTrap s gi g p t) := goes_next _

theorem goes_withPlaces (s : State) (gi : Nat) (g : Gang) (p : Path) (rd wr : Bool) (as : List (Nat × DWord))
    {k : State → Gang → List (Nat × Nat) → List (Nat × Xl) → Out} (hk : ∀ s1 g1 pl xl, Goes (k s1 g1 pl xl)) :
    Goes (withPlaces s gi g p rd wr as k) := by
  fun_cases withPlaces s gi g p rd wr as k <;> simp [hk]

theorem goes_withRange (s : State) (gi : Nat) (g : Gang) (p : Path) (rd wr : Bool) (as : List (Nat × DWord))
    {k : State → Gang → List (Nat × Nat) → List (Nat × Xl) → Out} (hk : ∀ s1 g1 pl xl, Goes (k s1 g1 pl xl)) :
    Goes (withRange s gi g p rd wr as k) := by
  fun_cases withRange s gi g p rd wr as k <;> simp [hk]

@[simp] theorem goes_loadGlobal (i : Instr) (cau : Bool) (size gi : Nat) (g : Gang) (p : Path) (m : LaneMask) (as : List (Nat × DWord)) (s : State) :
    Goes (loadGlobal i cau size gi g p m as s) :=
  goes_withPlaces _ _ _ _ _ _ _ fun s1 g1 pl xl => by dsimp only; split <;> simp

@[simp] theorem goes_loadLocal (i : Instr) (sp : Space) (size gi : Nat) (g : Gang) (p : Path) (m : LaneMask) (as : List (Nat × DWord)) (s : State) :
    Goes (loadLocal i sp size gi g p m as s) := by
  fun_cases loadLocal i sp size gi g p m as s <;> simp

@[simp] theorem goes_storeGlobal (i : Instr) (blk : Bool) (size : Nat) (bytes : Nat → List Byte) (gi : Nat) (g : Gang) (p : Path) (m : LaneMask)
    (as : List (Nat × DWord)) (s : State) : Goes (storeGlobal i blk size bytes gi g p m as s) :=
  goes_withPlaces _ _ _ _ _ _ _ fun s1 g1 pl xl => by
    dsimp only
    split
    · simp
    · split <;> simp [homelessStore]

@[simp] theorem goes_storeLocalLanes (sp : Space) (size : Nat) (bytes : Nat → List Byte) (gi : Nat) (g : Gang) (p : Path)
    (as : List (Nat × DWord)) (s : State) : Goes (storeLocalLanes sp size bytes gi g p as s) := by
  fun_cases storeLocalLanes sp size bytes gi g p as s <;> simp

@[simp] theorem goes_atomGlobal (i : Instr) (op : AtomOp) (ty : Ty) (d : Field10) (gi : Nat) (g : Gang) (p : Path) (m : LaneMask)
    (as : List (Nat × DWord)) (s : State) : Goes (atomGlobal i op ty d gi g p m as s) :=
  goes_withPlaces _ _ _ _ _ _ _ fun s1 g1 pl xl => by
    dsimp only
    split
    · simp
    · split
      · simp
      · split <;> simp

@[simp] theorem goes_atomLocal (i : Instr) (sp : Space) (op : AtomOp) (ty : Ty) (d : Field10) (gi : Nat) (g : Gang) (p : Path) (m : LaneMask)
    (as : List (Nat × DWord)) (s : State) : Goes (atomLocal i sp op ty d gi g p m as s) := by
  fun_cases atomLocal i sp op ty d gi g p m as s <;> simp

@[simp] theorem goes_readRange (i : Instr) (phase gi : Nat) (g : Gang) (p : Path) (as : List (Nat × DWord)) (s : State) :
    Goes (readRange i phase gi g p as s) :=
  goes_withRange _ _ _ _ _ _ _ fun s1 g1 pl xl => by dsimp only; split <;> simp

@[simp] theorem goes_placeImage (s : State) (gi : Nat) (g : Gang) (p : Path) (head : DWord) (b : List Byte) : Goes (placeImage s gi g p head b) := by
  unfold placeImage
  split
  · exact goes_finish ..
  · split <;> exact goes_finish ..

theorem goes_arriveAt (b : BitVec 4) (st : Option PathSt) (s : State) (gi : Nat) (g : Gang) (p : Path) (c : Cohort) :
    Goes (arriveAt b st s gi g p c) := by
  fun_cases arriveAt b st s gi g p c <;> simp

end Sys2Proof.Machine
end

section
/-! PROOFS. Every event answers a next state: its meaning is a tree of tests with a next state at each leaf. -/

namespace Sys2Proof.Machine

theorem goes_arriveStamped (op : POp) (src dst : Nat) (s : State) : Goes (arriveStamped op src dst s) := by
  fun_cases arriveStamped op src dst s <;> simp

theorem goes_arriveQueued (op : POp) (src dst : Nat) (s : State) : Goes (arriveQueued op src dst s) := by
  fun_cases arriveQueued op src dst s <;> simp

theorem goes_withResponse (op : POp) (src dst : Nat) (s : State) (k : State → Req → Packet → State) : Goes (withResponse op src dst s k) := by
  fun_cases withResponse op src dst s k <;> simp

theorem goes_command (fn code : Nat) (s : State) (f : DWord × DWord × State) : Goes (command fn code s f) := by
  fun_cases command fn code s f <;> simp

theorem goes_startPkt (s : State) (k : Nat) (q : Queue) (kind : Nat) (f : State → Queue → QPkt → Started) : Goes (startPkt s k q kind f) := by
  fun_cases startPkt s k q kind f <;> simp

theorem Goes.packetEnded {o : Out} (h : Goes o) (k : Nat) : Goes (packetEnded k o) := by
  obtain ⟨t, rfl⟩ := h
  exact goes_next _

/-- A packet event goes on when what a packet under way does goes on. -/
theorem goes_packetEvent (k kind : Nat) (s : State) {going : State → Queue → QPkt → Option Out} (f : State → Queue → QPkt → Started)
    (hg : ∀ s1 q p, ∀ o ∈ going s1 q p, Goes o) : Goes (packetEvent k kind s going f) := by
  unfold packetEvent
  split
  · simp
  · apply Goes.packetEnded
    split
    · simp
    · split
      · split
        · exact hg _ _ _ _ ‹_›
        · exact goes_startPkt ..
      · exact goes_startPkt ..

-- Ox queue, barriers and sleep

@[simp] theorem goes_execOxEntryStart (core entry : Nat) (s : State) : Goes (execOxEntryStart core entry s) := by
  fun_cases execOxEntryStart core entry s <;> simp
@[simp] theorem goes_execOxComplete (core entry : Nat) (s : State) : Goes (execOxComplete core entry s) := by
  fun_cases execOxComplete core entry s <;> simp
@[simp] theorem goes_execWaitEnd (gi b : Nat) (s : State) : Goes (execWaitEnd gi b s) := by
  fun_cases execWaitEnd gi b s <;> simp
@[simp] theorem goes_execSleepEnd (gang path : Nat) (s : State) : Goes (execSleepEnd gang path s) := by
  fun_cases execSleepEnd gang path s <;> simp

-- Homes and the fabric

@[simp] theorem goes_execOrderedWrite (src dst : Nat) (s : State) : Goes (execOrderedWrite src dst s) := goes_arriveStamped ..
@[simp] theorem goes_execAtomic (src dst : Nat) (s : State) : Goes (execAtomic src dst s) := goes_arriveStamped ..
@[simp] theorem goes_execCausalLoad (src dst : Nat) (s : State) : Goes (execCausalLoad src dst s) := goes_arriveStamped ..
@[simp] theorem goes_execForwardedWrite (src dst : Nat) (s : State) : Goes (execForwardedWrite src dst s) := goes_arriveStamped ..
@[simp] theorem goes_execPlainLoad (src dst : Nat) (s : State) : Goes (execPlainLoad src dst s) := by
  fun_cases execPlainLoad src dst s <;> simp
@[simp] theorem goes_execBulkWrite (src dst : Nat) (s : State) : Goes (execBulkWrite src dst s) := goes_arriveQueued ..
@[simp] theorem goes_execEngineRead (src dst : Nat) (s : State) : Goes (execEngineRead src dst s) := goes_arriveQueued ..
@[simp] theorem goes_execFlushMarker (src dst : Nat) (s : State) : Goes (execFlushMarker src dst s) := goes_arriveQueued ..
@[simp] theorem goes_driveHome (j : Nat) (s : State) : Goes (driveHome j s) := by
  fun_cases driveHome j s <;> simp
@[simp] theorem goes_execHoldRelease (dst : Nat) (s : State) : Goes (execHoldRelease dst s) := by
  fun_cases execHoldRelease dst s <;> simp
@[simp] theorem goes_execFrontier (src dst : Nat) (s : State) : Goes (execFrontier src dst s) := by
  fun_cases execFrontier src dst s <;> simp
@[simp] theorem goes_execFrontierRequest (src dst : Nat) (s : State) : Goes (execFrontierRequest src dst s) := by
  fun_cases execFrontierRequest src dst s <;> simp
@[simp] theorem goes_execFrontierIdleTimer (src dst : Nat) (s : State) : Goes (execFrontierIdleTimer src dst s) := by
  fun_cases execFrontierIdleTimer src dst s <;> simp
@[simp] theorem goes_execManagement (src dst : Nat) (s : State) : Goes (execManagement src dst s) := by
  fun_cases execManagement src dst s <;> simp
@[simp] theorem goes_execLinkReplay (src dst : Nat) (s : State) : Goes (execLinkReplay src dst s) := by
  fun_cases execLinkReplay src dst s <;> simp

-- Translation

@[simp] theorem goes_execWalkComplete (die asid : Nat) (va : DWord) (s : State) : Goes (execWalkComplete die asid va s) := by
  fun_cases execWalkComplete die asid va s <;> simp
@[simp] theorem goes_execAtsCompletion (asid : Nat) (va : DWord) (read write : Bool) (addr : DWord) (log2size : Nat) (s : State) : Goes (execAtsCompletion asid va read write addr log2size s) := by
  fun_cases execAtsCompletion asid va read write addr log2size s <;> simp
@[simp] theorem goes_execPriResponse (fn asid : Nat) (va : DWord) (code : Nat) (s : State) : Goes (execPriResponse fn asid va code s) := by
  fun_cases execPriResponse fn asid va code s <;> simp
@[simp] theorem goes_execPriReenable (fn : Nat) (s : State) : Goes (execPriReenable fn s) := goes_next _

-- Local accesses

@[simp] theorem goes_execLocalLoadReturn (gang : Nat) (s : State) : Goes (execLocalLoadReturn gang s) := by
  fun_cases execLocalLoadReturn gang s <;> simp

-- The copy engine

@[simp] theorem goes_execCopyElement (core cmd : Nat) (s : State) : Goes (execCopyElement core cmd s) := by
  fun_cases execCopyElement core cmd s <;> simp
@[simp] theorem goes_execCopyCmdStart (core cmd : Nat) (s : State) : Goes (execCopyCmdStart core cmd s) := by
  fun_cases execCopyCmdStart core cmd s <;> simp
@[simp] theorem goes_execCopyCmdDone (core cmd : Nat) (s : State) : Goes (execCopyCmdDone core cmd s) := by
  fun_cases execCopyCmdDone core cmd s <;> simp
@[simp] theorem goes_execTloadComplete (core cmd : Nat) (s : State) : Goes (execTloadComplete core cmd s) := by
  fun_cases execTloadComplete core cmd s <;> simp
@[simp] theorem goes_execFlsigComplete (core cmd : Nat) (s : State) : Goes (execFlsigComplete core cmd s) := by
  fun_cases execFlsigComplete core cmd s <;> simp

-- The Clover array

@[simp] theorem goes_execPlacerDone (core : Nat) (cells : Option (List (DWord × DWord) × List Word)) (s : State) : Goes (execPlacerDone core cells s) := by
  fun_cases execPlacerDone core cells s <;> simp
@[simp] theorem goes_execCloverEnter (core gang : Nat) (s : State) : Goes (execCloverEnter core gang s) := by
  fun_cases execCloverEnter core gang s <;> simp
@[simp] theorem goes_execPlaneSwitch (core : Nat) (s : State) : Goes (execPlaneSwitch core s) := by
  fun_cases execPlaneSwitch core s <;> simp
@[simp] theorem goes_execCellFire (core cell : Nat) (s : State) : Goes (execCellFire core cell s) := by
  fun_cases execCellFire core cell s <;> simp
@[simp] theorem goes_execMemcellAccessReturn (core cell : Nat) (s : State) : Goes (execMemcellAccessReturn core cell s) := by
  fun_cases execMemcellAccessReturn core cell s <;> simp
@[simp] theorem goes_execIterationRelease (core gang : Nat) (s : State) : Goes (execIterationRelease core gang s) := by
  fun_cases execIterationRelease core gang s <;> simp
@[simp] theorem goes_execDrain (core gang : Nat) (cause : DrainCause) (s : State) : Goes (execDrain core gang cause s) := by
  fun_cases execDrain core gang cause s <;> simp
@[simp] theorem goes_execDrainComplete (core gang : Nat) (s : State) : Goes (execDrainComplete core gang s) := by
  fun_cases execDrainComplete core gang s <;> simp

-- Answers, loss and resynchronisation

@[simp] theorem goes_execReadResponse (src dst : Nat) (s : State) : Goes (execReadResponse src dst s) := goes_withResponse ..
@[simp] theorem goes_execAtomicResponse (src dst : Nat) (s : State) : Goes (execAtomicResponse src dst s) := goes_withResponse ..
@[simp] theorem goes_execWriteAcknowledgement (src dst : Nat) (s : State) : Goes (execWriteAcknowledgement src dst s) := goes_withResponse ..
@[simp] theorem goes_execFlushReply (src dst : Nat) (s : State) : Goes (execFlushReply src dst s) := goes_withResponse ..
@[simp] theorem goes_execPcieCompletion (tag : Nat) (status : PcieStatus) (s : State) : Goes (execPcieCompletion tag status s) := by
  fun_cases execPcieCompletion tag status s <;> simp
@[simp] theorem goes_execPcieLinkDown (s : State) : Goes (execPcieLinkDown s) := goes_next _
@[simp] theorem goes_execLossNotice (dst lost : Nat) (s : State) : Goes (execLossNotice dst lost s) := by
  fun_cases execLossNotice dst lost s <;> simp
@[simp] theorem goes_endStray (tag : Nat) (s : State) : Goes (endStray tag s) := by
  fun_cases endStray tag s <;> simp
@[simp] theorem goes_execOrderlyRemoval (member : Nat) (s : State) : Goes (execOrderlyRemoval member s) := by
  fun_cases execOrderlyRemoval member s <;> simp
@[simp] theorem goes_execResynchronisation (remap : List (Nat × Nat)) (readmit : List Nat) (s : State) : Goes (execResynchronisation remap readmit s) := by
  fun_cases execResynchronisation remap readmit s <;> simp
@[simp] theorem goes_execLaneRepair (link module lane : Nat) (s : State) : Goes (execLaneRepair link module lane s) := by
  fun_cases execLaneRepair link module lane s <;> simp
@[simp] theorem goes_execLinkFail (link : Nat) (s : State) : Goes (execLinkFail link s) := by
  fun_cases execLinkFail link s <;> simp
@[simp] theorem goes_execInvalidationComplete (id : Nat) (s : State) : Goes (execInvalidationComplete id s) := by
  fun_cases execInvalidationComplete id s <;> simp
@[simp] theorem goes_execAtsInvalidate (pasid : Nat) (va : DWord) (size : Nat) (s : State) : Goes (execAtsInvalidate pasid va size s) := by
  fun_cases execAtsInvalidate pasid va size s
  simp

-- The dispatcher

@[simp] theorem goes_execCohortPlace (grid : Nat) (s : State) : Goes (execCohortPlace grid s) := by
  fun_cases execCohortPlace grid s <;> simp
@[simp] theorem goes_execQuartetReserve (die grid : Nat) (s : State) : Goes (execQuartetReserve die grid s) := by
  fun_cases execQuartetReserve die grid s <;> simp
@[simp] theorem goes_execL1SizeReserve (die grid : Nat) (s : State) : Goes (execL1SizeReserve die grid s) := by
  fun_cases execL1SizeReserve die grid s <;> simp
@[simp] theorem goes_execCompactionStart (core grid : Nat) (moves : List (Nat × Nat)) (s : State) : Goes (execCompactionStart core grid moves s) := by
  fun_cases execCompactionStart core grid moves s <;> simp
@[simp] theorem goes_execCompactionMoveEnd (core : Nat) (s : State) : Goes (execCompactionMoveEnd core s) := by
  fun_cases execCompactionMoveEnd core s <;> simp
@[simp] theorem goes_execGangBlockRelease (gang : Nat) (s : State) : Goes (execGangBlockRelease gang s) := by
  fun_cases execGangBlockRelease gang s <;> simp
@[simp] theorem goes_execCohortEnd (cohort : Nat) (s : State) : Goes (execCohortEnd cohort s) := by
  fun_cases execCohortEnd cohort s <;> simp
@[simp] theorem goes_execGangUrgent (gang : Nat) (s : State) : Goes (execGangUrgent gang s) := by
  fun_cases execGangUrgent gang s <;> simp

-- Queue engines and host traffic

@[simp] theorem goes_execNopPacket (queue : Nat) (s : State) : Goes (execNopPacket queue s) :=
  goes_packetEvent _ _ _ _ (by simp)
@[simp] theorem goes_execBarrier (queue : Nat) (s : State) : Goes (execBarrier queue s) :=
  goes_packetEvent _ _ _ _ fun s1 q p => by split <;> simp
@[simp] theorem goes_execWait (queue : Nat) (s : State) : Goes (execWait queue s) :=
  goes_packetEvent _ _ _ _ (by simp)
@[simp] theorem goes_execWaitReread (queue : Nat) (s : State) : Goes (execWaitReread queue s) := by
  unfold execWaitReread
  split
  · simp
  · split
    · exact (goes_next _).packetEnded _
    · simp
@[simp] theorem goes_execSignal (queue : Nat) (s : State) : Goes (execSignal queue s) :=
  goes_packetEvent _ _ _ _ fun s1 q p => by
    split
    · simp
    · split
      · simp
      · simp
      · dsimp only
        split
        · split <;> simp only [Option.mem_def, Option.some.injEq, forall_eq', goes_next]
          split <;> simp
        · simp only [Option.mem_def, Option.some.injEq, forall_eq']
          split <;> simp
@[simp] theorem goes_execTimestamp (queue : Nat) (s : State) : Goes (execTimestamp queue s) :=
  goes_packetEvent _ _ _ _ fun s1 q p => by
    split
    · simp
    · split
      · simp
      · simp
      · split <;> simp
@[simp] theorem goes_execCopy (queue : Nat) (s : State) : Goes (execCopy queue s) :=
  goes_packetEvent _ _ _ _ (by simp)
@[simp] theorem goes_execLaunch (queue : Nat) (s : State) : Goes (execLaunch queue s) :=
  goes_packetEvent _ _ _ _ (by simp)
@[simp] theorem goes_execCaploadPacket (queue : Nat) (s : State) : Goes (execCaploadPacket queue s) :=
  goes_packetEvent _ _ _ _ (by simp)
@[simp] theorem goes_execKick (queue : Nat) (offset : BitVec 12) (bytes : Nat) (value : DWord) (s : State) : Goes (execKick queue offset bytes value s) := by
  fun_cases execKick queue offset bytes value s <;> simp
@[simp] theorem goes_execQueueSwapIn (queue : Nat) (s : State) : Goes (execQueueSwapIn queue s) := by
  fun_cases execQueueSwapIn queue s <;> simp
@[simp] theorem goes_execGridComplete (grid : Nat) (s : State) : Goes (execGridComplete grid s) := by
  fun_cases execGridComplete grid s <;> simp
@[simp] theorem goes_execHostWrite (toHost : Bool) (addr : DWord) (data : List Byte) (s : State) : Goes (execHostWrite toHost addr data s) := by
  fun_cases execHostWrite toHost addr data s <;> simp
@[simp] theorem goes_passHost (s : State) : Goes (passHost s) := by
  fun_cases passHost s <;> simp

-- The driver's commands

@[simp] theorem goes_execBindAsid (fn asid : Nat) (w0 w1 : DWord) (s : State) : Goes (execBindAsid fn asid w0 w1 s) := goes_command ..
@[simp] theorem goes_execVerify (fn asid : Nat) (va : DWord) (size : Nat) (descs : List (List DWord)) (unverified : Bool) (s : State) : Goes (execVerify fn asid va size descs unverified s) := by
  fun_cases execVerify fn asid va size descs unverified s <;> simp
@[simp] theorem goes_execKernel (fn segment index : Nat) (s : State) : Goes (execKernel fn segment index s) := goes_command ..
@[simp] theorem goes_execQueue (fn q asid : Nat) (ring : DWord) (size prio : Nat) (save : DWord) (saveSize : Nat) (s : State) : Goes (execQueue fn q asid ring size prio save saveSize s) := goes_command ..
@[simp] theorem goes_execUnqueue (fn q : Nat) (s : State) : Goes (execUnqueue fn q s) := goes_command ..
@[simp] theorem goes_execRestart (fn q : Nat) (s : State) : Goes (execRestart fn q s) := goes_command ..
@[simp] theorem goes_execInval (fn asid : Nat) (va : DWord) (size : Nat) (s : State) : Goes (execInval fn asid va size s) := by
  fun_cases execInval fn asid va size s <;> simp
@[simp] theorem goes_execSetdelay (fn : Nat) (value : Word) (s : State) : Goes (execSetdelay fn value s) := goes_command ..
@[simp] theorem goes_execPtwrite (fn asid : Nat) (va : DWord) (entry : DWord) (s : State) : Goes (execPtwrite fn asid va entry s) := goes_command ..
@[simp] theorem goes_execFaultq (fn : Nat) (va : DWord) (size : Nat) (s : State) : Goes (execFaultq fn va size s) := goes_command ..
@[simp] theorem goes_execFqrWrite (fn : Nat) (value : DWord) (s : State) : Goes (execFqrWrite fn value s) := by
  fun_cases execFqrWrite fn value s <;> simp
@[simp] theorem goes_execRespond (fn record : Nat) (retry : Bool) (s : State) : Goes (execRespond fn record retry s) := goes_command ..
@[simp] theorem goes_execFaultRecordWrite (fn : Nat) (s : State) : Goes (execFaultRecordWrite fn s) := by
  fun_cases execFaultRecordWrite fn s <;> simp

-- Pre-emption, save and resume

@[simp] theorem goes_execPreempt (fn q : Nat) (s : State) : Goes (execPreempt fn q s) := goes_command ..
@[simp] theorem goes_execPreemptDelayExpire (grid : Nat) (s : State) : Goes (execPreemptDelayExpire grid s) := by
  fun_cases execPreemptDelayExpire grid s <;> simp
@[simp] theorem goes_execPreemptRequest (cohort : Nat) (s : State) : Goes (execPreemptRequest cohort s) := by
  fun_cases execPreemptRequest cohort s <;> simp
@[simp] theorem goes_execContextSave (cohort : Nat) (s : State) : Goes (execContextSave cohort s) := by
  unfold execContextSave
  split
  · simp
  · split
    · simp
    · split
      · simp
      · split
        · simp
        · split
          · simp
          · dsimp only
            split
            · simp
            · split <;> simp
@[simp] theorem goes_execResume (cohort : Nat) (s : State) : Goes (execResume cohort s) := by
  fun_cases execResume cohort s <;> simp

-- Rank 2 and rank 3

@[simp] theorem goes_execRank2Supervisor (gang : Nat) (s : State) : Goes (execRank2Supervisor gang s) := by
  fun_cases execRank2Supervisor gang s <;> simp
@[simp] theorem goes_execMemberLossTimeout (member : Nat) (s : State) : Goes (execMemberLossTimeout member s) := by
  fun_cases execMemberLossTimeout member s <;> simp
@[simp] theorem goes_execDieRetire (die : Nat) (way : RetireWay) (s : State) : Goes (execDieRetire die way s) := goes_next _
@[simp] theorem goes_execCoreRetire (die core : Nat) (s : State) : Goes (execCoreRetire die core s) := by
  fun_cases execCoreRetire die core s <;> simp
@[simp] theorem goes_execMachineCheck (die unit : Nat) (s : State) : Goes (execMachineCheck die unit s) := by
  fun_cases execMachineCheck die unit s <;> simp
@[simp] theorem goes_execSoftError (target : SoftTarget) (corrected : Bool) (s : State) : Goes (execSoftError target corrected s) := by
  fun_cases execSoftError target corrected s <;> simp

-- Gander, other packages and parked gangs

@[simp] theorem goes_execPowerEstimate (die watts : Nat) (s : State) : Goes (execPowerEstimate die watts s) := by
  fun_cases execPowerEstimate die watts s <;> simp
@[simp] theorem goes_execTemperatureThreshold (die celsius : Nat) (s : State) : Goes (execTemperatureThreshold die celsius s) := by
  fun_cases execTemperatureThreshold die celsius s <;> simp
@[simp] theorem goes_execSetPowerCap (watts : Nat) (s : State) : Goes (execSetPowerCap watts s) := by
  fun_cases execSetPowerCap watts s <;> simp
@[simp] theorem goes_execReadTelemetry (die : Nat) (s : State) : Goes (execReadTelemetry die s) := by
  fun_cases execReadTelemetry die s <;> simp
@[simp] theorem goes_execRetireRequest (target : RetireTarget) (s : State) : Goes (execRetireRequest target s) := by
  fun_cases execRetireRequest target s <;> simp
@[simp] theorem goes_execStageFirmware (image : FirmwareImage) (s : State) : Goes (execStageFirmware image s) := by
  fun_cases execStageFirmware image s <;> simp
@[simp] theorem goes_execAttestation (index : Nat) (nonce : List Byte) (s : State) : Goes (execAttestation index nonce s) := by
  fun_cases execAttestation index nonce s <;> simp
@[simp] theorem goes_execReset (image : FirmwareImage) (tables : BringUp) (failed : List (Nat × Nat)) (s : State) : Goes (execReset image tables failed s) := by
  fun_cases execReset image tables failed s <;> simp
@[simp] theorem goes_execVetchXRemoteAccess (package asid : Nat) (va : DWord) (op : RemoteOp) (s : State) : Goes (execVetchXRemoteAccess package asid va op s) := by
  fun_cases execVetchXRemoteAccess package asid va op s <;> simp
@[simp] theorem goes_execUnreachablePackage (package : Nat) (s : State) : Goes (execUnreachablePackage package s) := goes_next _
@[simp] theorem goes_execUnpark (gi : Nat) (s : State) : Goes (execUnpark gi s) := goes_next _

end Sys2Proof.Machine
end

section
/-! PROOFS. The frame that every instruction of the set begins with: the issue checks cover all that it names, and what runs behind them goes on. -/

namespace Sys2Proof.Machine

/-- The outcome `o` of instruction `i` is that of the issue checks (R19, R65, R66) and then `k`, which goes on: the checks cover every vector register, accumulator,
metadata register and token that `i` names. -/
structure FrameOf (i : Instr) (s : State) (o : Out) (vr : List Nat) (extra : Kernel → Bool) (k : Nat → Gang → Path → Out) : Prop where
  runs : o = issueChecked i vr extra s k
  goes : ∀ gi g p, Goes (k gi g p)
  regs : i.wf = true → ∀ r ∈ namedRegs i, r ∈ vr
  accs : ∀ kd, extra kd = true → ∀ a ∈ namedAccs i, a < kd.acc
  metas : i.wf = true → ∀ kd, extra kd = true → ∀ m ∈ namedMetas i, m < kd.nmeta
  toks : ∀ kd, extra kd = true → ∀ t ∈ namedToks i, t < kd.tokens

/-- The outcome has such a frame. -/
def Framed (i : Instr) (s : State) (o : Out) : Prop := ∃ vr extra k, FrameOf i s o vr extra k

/-- The instruction names no accumulator, metadata register or token. -/
def NoUnits (i : Instr) : Prop := namedAccs i = [] ∧ namedMetas i = [] ∧ namedToks i = []

section
variable {i : Instr} {s : State} {gd : Guard}

/-- Only vector registers to check. -/
theorem framed_regs {vr : List Nat} {k : Nat → Gang → Path → Out} (hk : ∀ gi g p, Goes (k gi g p))
    (hr : i.wf = true → ∀ r ∈ namedRegs i, r ∈ vr) (hu : NoUnits i) :
    Framed i s (issueChecked i vr (fun _ => true) s k) := by
  obtain ⟨ha, hm, ht⟩ := hu
  exact ⟨vr, _, k, rfl, hk, hr, by simp [ha], by simp [hm], by simp [ht]⟩

/-- Nothing to check but the encoding. -/
theorem framed_plain {k : Nat → Gang → Path → Out} (hk : ∀ gi g p, Goes (k gi g p)) (hr : namedRegs i = []) (hu : NoUnits i) :
    Framed i s (issueChecked i [] (fun _ => true) s k) :=
  framed_regs hk (by simp [hr]) hu

theorem framed_scalar {f : Gang → Gang} (hr : namedRegs i = []) (hu : NoUnits i) : Framed i s (scalarInstr i gd s f) :=
  framed_plain (fun _ _ _ => goes_finish ..) hr hu

theorem framed_vector {rd wr : List Nat} {f : Gang → Path → LaneMask → GRes} (hr : i.wf = true → ∀ r ∈ namedRegs i, r ∈ rd ++ wr) (hu : NoUnits i) :
    Framed i s (vectorInstr i gd rd wr s f) :=
  framed_regs (fun _ _ _ => goes_finish ..) hr hu

theorem framed_mem {rd wr : List Nat} {k : Nat → Gang → Path → LaneMask → Out} (hk : ∀ gi g p m, Goes (k gi g p m))
    (hr : i.wf = true → ∀ r ∈ namedRegs i, r ∈ rd ++ wr) (hu : NoUnits i) :
    Framed i s (memFrame i gd rd wr s k) :=
  framed_regs (fun gi g p => by
    dsimp only
    split
    · simp
    · split
      · simp
      · split
        · simp
        · split <;> simp [hk]) hr hu

theorem framed_transfer {vr rd : List Nat} {f : Gang → Path → Except TrapInfo (Gang × Option DWord)} (hr : ∀ r ∈ namedRegs i, r ∈ vr)
    (hu : NoUnits i) :
    Framed i s (transferInstr i gd vr rd s f) :=
  framed_regs (fun gi g p => by
    split
    · simp
    · split
      · simp
      · split <;> simp) (fun _ => hr) hu

theorem framed_barrier {b : BitVec 4} {f : Nat → Gang → Path → Cohort → Out} (hf : ∀ gi g p c, Goes (f gi g p c)) (hr : namedRegs i = [])
    (hu : NoUnits i) :
    Framed i s (barrierInstr i gd b s f) :=
  framed_plain (fun gi g p => by
    split
    · simp
    · split
      · simp
      · split <;> simp [hf]) hr hu

theorem framed_ox {vr : List Nat} {extra : Kernel → Bool} {offs : Gang → Nat × Nat × Nat} {ops : Gang → List OxOperand} {ms : Gang → List Nat}
    {chk : Gang → Path → Option TrapInfo} (hr : ∀ r ∈ namedRegs i, r ∈ vr)
    (ha : ∀ kd, extra kd = true → ∀ a ∈ namedAccs i, a < kd.acc)
    (hm : i.wf = true → ∀ kd, extra kd = true → ∀ m ∈ namedMetas i, m < kd.nmeta) (ht : namedToks i = []) : Framed i s (oxIssue i gd vr extra s offs ops ms chk) := by
  refine ⟨vr, extra, _, rfl, fun gi g p => ?_, fun _ => hr, ha, hm, by simp [ht]⟩
  dsimp only
  split
  · simp
  · split
    · simp
    · split
      · simp
      · split
        · simp
        · split <;> simp

theorem framed_token {toks : List Nat} {k : Nat → Gang → Path → Out} (hk : ∀ gi g p, Goes (k gi g p))
    (hr : namedRegs i = []) (ha : namedAccs i = []) (hm : namedMetas i = []) (ht : namedToks i = toks) : Framed i s (tokenFrame i gd toks s k) :=
  ⟨[], _, _, rfl, fun gi g p => by split <;> simp [hk], by simp [hr], by simp [ha], by simp [hm], by simp [ht]⟩

theorem framed_command {tok : BitVec 4} {more : List Nat} {minor : Nat} {chk : Gang → Path → Option TrapInfo} {mk : Nat → Gang → Path → CopyCmd}
    (hr : namedRegs i = []) (ha : namedAccs i = []) (hm : namedMetas i = [])
    (ht : namedToks i = tok.toNat :: more) : Framed i s (issueCmd i gd tok more minor s chk mk) :=
  framed_token (fun gi g p => by
    dsimp only
    split
    · simp
    · simp
    · split
      · simp
      · split <;> simp) hr ha hm ht

end

-- The registers that an instruction names

theorem vregsB_of_tyI32 {ty : Ty} {b : Src} (h : tyI32 ty = true) : vregsB ty b = vregsB .i32 b := by
  cases ty <;> simp_all [tyI32, vregsB, vregs, isWide]

theorem addrRegs_false (vi : Field10) : addrRegs false vi = if vi = 0x3FF#10 then [] else [vi.toNat] := by
  rfl

/-- The registers of an address whose fields are not reserved are those of its index term: `noField` is odd (R63). -/
theorem mem_indexRegs_of_ok {m : MemAddr} (h : m.ok = true) {r : Nat} (hr : r ∈ addrRegs m.vw m.vi) : r ∈ indexRegs m := by
  simp only [MemAddr.ok, Bool.and_eq_true, Bool.or_eq_true, Bool.not_eq_true', evenOk, decide_eq_true_eq] at h
  unfold addrRegs at hr
  unfold indexRegs
  split at hr
  · have : m.vi ≠ 0x3FF#10 := by
      rintro e
      simp_all
    simp_all
  · split at hr <;> simp_all [noField]

/-- The address of a block access is checked with its other fields (R63, R257). -/
theorem ok_of_block {bl : BitVec 2} {d : Field10} {m : MemAddr}
    (h : (decide (bl.toNat < 3) && decide (d.toNat % (4 * 2 ^ bl.toNat) = 0) && m.ok) = true) : m.ok = true := by
  simp_all

theorem mem_atomRegs {op : AtomOp} {ty : Ty} {d : Field10} {r : Nat}
    (h : r ∈ if op = .cas then vrange d (if isWide ty then 4 else 2) else vregs ty d) : r ∈ atomRegs op ty d := by
  unfold atomRegs
  split at h
  · cases hw : isWide ty <;> simp_all
  · cases hw : isWide ty <;> simp_all [vregs, vrange, List.range_succ]

/-- Every instruction of the set begins with the issue checks (R66). -/
theorem exec_framed (i : Instr) (s : State) (h : encodeFields i ≠ none) : Framed i s (exec i s) := by
  cases i <;> dsimp only [exec]
  case sadd | ssub | smul | smulh | sand | sor | sxor | sshl | sshr | ssra | smin | smax | smov | scmp | ssel =>
    dsimp only [execSadd, execSsub, execSmul, execSmulh, execSand, execSor, execSxor, execSshl, execSshr, execSsra, execSmin, execSmax, execSmov, execScmp, execSsel]
    exact framed_scalar rfl ⟨rfl, rfl, rfl⟩
  case saddImm | ssubImm | smulImm | smulhImm | sandImm | sorImm | sxorImm | sshlImm | sshrImm | ssraImm | sminImm | smaxImm | scmpImm =>
    dsimp only [execSaddImm, execSsubImm, execSmulImm, execSmulhImm, execSandImm, execSorImm, execSxorImm, execSshlImm, execSshrImm, execSsraImm, execSminImm, execSmaxImm, execScmpImm]
    exact framed_scalar rfl ⟨rfl, rfl, rfl⟩
  case sliShort | sldArg | sliLong | slih | capctl =>
    dsimp only [execSliShort, execSldArg, execSliLong, execSlih, execCapctl]
    exact framed_scalar rfl ⟨rfl, rfl, rfl⟩
  case iliLong | iliB64 | iliShort =>
    dsimp only [execIliLong, execIliB64, execIliShort]
    exact framed_vector (fun _ _ hr => hr) ⟨rfl, rfl, rfl⟩
  case iadd | isub | iadds | imul | imulh | imin | imax | iand | ior | ixor | ishl | ishr | isra | icmp | isel =>
    dsimp only [execIadd, execIsub, execIadds, execImul, execImulh, execImin, execImax, execIand, execIor, execIxor, execIshl, execIshr, execIsra, execIcmp, execIsel]
    exact framed_vector (fun _ _ hr => hr) ⟨rfl, rfl, rfl⟩
  case iaddImm | isubImm | iaddsImm | imulImm | imulhImm | iminImm | imaxImm | iandImm | iorImm | ixorImm | ishlImm | ishrImm | israImm | irotImm =>
    dsimp only [execIaddImm, execIsubImm, execIaddsImm, execImulImm, execImulhImm, execIminImm, execImaxImm, execIandImm, execIorImm, execIxorImm, execIshlImm, execIshrImm, execIsraImm, execIrotImm]
    exact framed_vector (fun _ _ hr => hr) ⟨rfl, rfl, rfl⟩
  case iabs | ineg | inot | ipopc | iclz | ibrev | imov =>
    dsimp only [execIabs, execIneg, execInot, execIpopc, execIclz, execIbrev, execImov]
    exact framed_vector (fun _ _ hr => hr) ⟨rfl, rfl, rfl⟩
  case imad | ibfx | idp4 | iaddc | isubb =>
    dsimp only [execImad, execIbfx, execIdp4, execIaddc, execIsubb]
    exact framed_vector (fun _ _ hr => hr) ⟨rfl, rfl, rfl⟩
  case irot gd ty d a b =>
    dsimp only [execIrot]
    refine framed_vector (fun hw r hr => ?_) ⟨rfl, rfl, rfl⟩
    have hw : (tyI32 ty && src32Ok b) = true := hw
    rw [vregsB_of_tyI32 (by simp_all)]
    exact hr
  case ibfi | iaddw =>
    dsimp only [execIbfi, execIaddw]
    exact framed_vector (by simp +contextual [namedRegs, usesOf, usesV]) ⟨rfl, rfl, rfl⟩
  case fadd | fsub | fmul | fmin | fmax | fcmp | fscale | fabs | fneg | fclass | frnd | fgetexp | fma | fdot2 | fdot4 =>
    dsimp only [execFadd, execFsub, execFmul, execFmin, execFmax, execFcmp, execFscale, execFabs, execFneg, execFclass, execFrnd, execFgetexp, execFma, execFdot2, execFdot4]
    exact framed_vector (fun _ _ hr => hr) ⟨rfl, rfl, rfl⟩
  case cvt | cvtq | cvtdq | pack | unpk =>
    dsimp only [execCvt, execCvtq, execCvtdq, execPack, execUnpk]
    exact framed_vector (fun _ _ hr => hr) ⟨rfl, rfl, rfl⟩
  case fexp2 | flog2 | frcp | frsqrt | fsqrt | fsin | fcos | ftanh | fsigm | ferf =>
    dsimp only [execFexp2, execFlog2, execFrcp, execFrsqrt, execFsqrt, execFsin, execFcos, execFtanh, execFsigm, execFerf]
    exact framed_vector (fun _ _ hr => hr) ⟨rfl, rfl, rfl⟩
  case rstat | shfl =>
    dsimp only [execRstat, execShfl]
    exact framed_vector (by simp [namedRegs, usesOf, or_imp, forall_and]; tauto) ⟨rfl, rfl, rfl⟩
  case vote | xred | xscan | xmatch | xcomp | xexp =>
    dsimp only [execVote, execXred, execXscan, execXmatch, execXcomp, execXexp]
    exact framed_vector (by simp +contextual [namedRegs, usesOf, or_comm]) ⟨rfl, rfl, rfl⟩
  case tld | tldi =>
    dsimp only [execTld, execTldi]
    exact framed_vector (by simp +contextual [namedRegs, usesOf, addrRegs_false, or_imp]) ⟨rfl, rfl, rfl⟩
  case jmp | bru | call | lpb | brx | callReg | callFar =>
    dsimp only [execJmp, execBru, execCall, execLpb, execBrx, execCallReg, execCallFar]
    exact framed_transfer (fun _ hr => hr) ⟨rfl, rfl, rfl⟩
  case nop =>
    dsimp only [execNop]
    exact framed_plain (fun gi g p => goes_finish ..) rfl ⟨rfl, rfl, rfl⟩
  case yield | sleep | cinvAll | trap | brk | exit =>
    dsimp only [execYield, execSleep, execCinvAll, execTrap, execBrk, execExit, softTrap]
    exact framed_plain (fun gi g p => by split <;> simp) rfl ⟨rfl, rfl, rfl⟩
  case brd =>
    dsimp only [execBrd]
    refine framed_plain (fun gi g p => ?_) rfl ⟨rfl, rfl, rfl⟩
    split
    · simp
    · split
      · simp
      · split <;> simp
  case ret =>
    dsimp only [execRet]
    refine framed_regs (fun gi g p => ?_) (fun _ _ hr => hr) ⟨rfl, rfl, rfl⟩
    split
    · simp
    · split
      · simp
      · split <;> simp
  case lmark =>
    dsimp only [execLmark]
    exact framed_plain (fun gi g p => by split <;> simp) rfl ⟨rfl, rfl, rfl⟩
  case capdrop =>
    dsimp only [execCapdrop]
    exact framed_plain (fun gi g p => .ite (goes_finish ..) (.ite (goes_next _) (goes_finish ..))) rfl ⟨rfl, rfl, rfl⟩
  case capload =>
    dsimp only [execCapload]
    refine framed_plain (fun gi g p => ?_) rfl ⟨rfl, rfl, rfl⟩
    split
    · simp
    · split
      · split
        · simp
        · split <;> simp
      · split
        · simp
        · split
          · simp
          · split <;> simp
  case capsave =>
    dsimp only [execCapsave]
    refine framed_plain (fun gi g p => ?_) rfl ⟨rfl, rfl, rfl⟩
    split
    · simp
    · split
      · simp
      · split
        · simp
        · split
          · simp
          · split
            · simp
            · refine goes_withRange _ _ _ _ _ _ _ fun s1 g1 pl xl => ?_
              split
              · simp
              · split <;> simp
  case eret =>
    dsimp only [execEret]
    refine framed_plain (fun gi g p => ?_) rfl ⟨rfl, rfl, rfl⟩
    split
    · simp
    · split
      · simp
      · split
        · simp
        · split <;> simp
  case mts =>
    dsimp only [execMts]
    refine framed_plain (fun gi g p => ?_) rfl ⟨rfl, rfl, rfl⟩
    split
    · simp
    · split
      · simp
      · split
        · simp
        · split <;> simp
  case mfs =>
    dsimp only [execMfs]
    refine framed_regs (fun gi g p => by split <;> simp) (fun _ r hr => ?_) ⟨rfl, rfl, rfl⟩
    simp only [namedRegs, usesOf] at hr
    simp only [vregs, sysWide, isWide]
    split at hr <;> [split at hr; skip] <;> simp_all
  case fence =>
    dsimp only [execFence]
    refine framed_plain (fun gi g p => ?_) rfl ⟨rfl, rfl, rfl⟩
    split
    · simp
    · split
      · simp
      · split
        · simp
        · split
          · simp
          · simp
          · simp
          · split
            · simp
            · split
              · split
                · simp
                · split
                  · simp
                  · split <;> simp
              · simp
  case ld =>
    dsimp only [execLd]
    refine framed_mem (fun gi g p m => ?_) (fun _ _ hr => hr) ⟨rfl, rfl, rfl⟩
    split
    · simp
    · split
      · exact goes_loadGlobal ..
      · exact goes_loadLocal ..
  case ldb gd sp na bl d m =>
    dsimp only [execLdb]
    refine framed_mem (fun gi g p m => ?_) (fun hw r hr => ?_) ⟨rfl, rfl, rfl⟩
    · split
      · simp
      · split
        · exact goes_loadGlobal ..
        · exact goes_loadLocal ..
    · exact List.mem_append.2 ((List.mem_append.1 hr).symm.imp_left (mem_indexRegs_of_ok (ok_of_block hw)))
  case st =>
    dsimp only [execSt]
    refine framed_mem (fun gi g p m => ?_) (fun _ _ hr => hr) ⟨rfl, rfl, rfl⟩
    split
    · simp
    · split
      · exact goes_storeGlobal ..
      · exact goes_storeLocalLanes ..
  case stb gd sp na bl d m =>
    dsimp only [execStb]
    refine framed_mem (fun gi g p m => ?_) (fun hw r hr => ?_) ⟨rfl, rfl, rfl⟩
    · split
      · simp
      · split
        · exact goes_storeGlobal ..
        · exact goes_storeLocalLanes ..
    · rw [List.append_nil]
      exact List.mem_append.2 ((List.mem_append.1 hr).symm.imp_left (mem_indexRegs_of_ok (ok_of_block hw)))
  case atom =>
    dsimp only [execAtom]
    refine framed_mem (fun gi g p m => ?_) (fun _ r hr => ?_) ⟨rfl, rfl, rfl⟩
    · split
      · simp
      · split
        · exact goes_atomGlobal ..
        · exact goes_atomLocal ..
    · rw [List.append_nil]
      refine List.mem_append.2 ((List.mem_append.1 hr).symm.imp (fun h => ?_) (fun h => ?_))
      · rwa [addrRegs_false] at h
      · exact mem_atomRegs h
  case cinvLine | prf | prfL2 =>
    dsimp only [execCinvLine, execPrf, execPrfL2]
    exact framed_mem (fun gi g p m => by split <;> simp) (fun hw r hr => mem_indexRegs_of_ok hw hr) ⟨rfl, rfl, rfl⟩
  case cwb =>
    dsimp only [execCwb]
    refine framed_mem (fun gi g p m => goes_withPlaces _ _ _ _ _ _ _ fun s1 g1 pl xl => ?_)
      (fun hw r hr => by rw [List.append_nil]; exact mem_indexRegs_of_ok hw hr) ⟨rfl, rfl, rfl⟩
    split <;> simp
  case oxip gd ta tb a b acc mreg nk sp =>
    dsimp only [execOxip]
    refine framed_ox nofun (by simp +contextual [namedAccs]) (fun _ kd hx m hm => ?_) rfl
    simp only [namedMetas] at hm
    split at hm
    · cases hm
    · obtain ⟨j, hj, rfl⟩ := List.mem_map.1 hm
      simp only [if_neg ‹_›, Bool.and_eq_true, decide_eq_true_eq] at hx
      have := List.mem_range.1 hj
      omega
  case oxop | accz | accld | ldmeta =>
    dsimp only [execOxop, execAccz, execAccld, execLdmeta]
    exact framed_ox nofun (by simp +contextual [namedAccs]) (by simp +contextual [namedMetas]) rfl
  case oxrw =>
    dsimp only [execOxrw]
    exact framed_ox nofun (fun kd hx a ha => by simp only [namedAccs] at ha; split at ha <;> simp_all) nofun rfl
  case accst =>
    dsimp only [execAccst]
    refine framed_ox (fun r hr => ?_) (by simp +contextual [namedAccs]) nofun rfl
    simp only [namedRegs, usesOf] at hr
    split at hr <;> simp_all [noField]
  case accmv =>
    dsimp only [execAccmv]
    exact framed_ox nofun (by simp +contextual [namedAccs]) nofun rfl
  case cp | cpx | cpz | cpg | cps | tload =>
    dsimp only [execCp, execCpx, execCpz, execCpg, execCps, execTload]
    exact framed_command rfl rfl rfl rfl
  case flsig =>
    dsimp only [execFlsig]
    exact framed_command rfl rfl rfl (by simp [namedToks]; split <;> rfl)
  case twait =>
    dsimp only [execTwait]
    refine framed_token (fun gi g p => ?_) rfl rfl rfl rfl
    split
    · simp
    · simp
    · simp
    · split <;> simp
  case tpoll =>
    dsimp only [execTpoll]
    exact framed_token (fun _ _ _ => goes_finish ..) rfl rfl rfl rfl
  case bar | bara =>
    dsimp only [execBar, execBara]
    exact framed_barrier (goes_arriveAt _ _ _) rfl ⟨rfl, rfl, rfl⟩
  case barw =>
    dsimp only [execBarw]
    refine framed_barrier (fun gi g p c => ?_) rfl ⟨rfl, rfl, rfl⟩
    split
    · simp
    · split
      · simp
      · split <;> simp
  all_goals exact absurd rfl h

-- The checks at issue

theorem FrameOf.illop {i : Instr} {s : State} {vr : List Nat} {extra : Kernel → Bool} {k : Nat → Gang → Path → Out} {o : Out} {gi : Nat} {g : Gang} {p : Path}
    (h : FrameOf i s o vr extra k) (hs : s.issuing = some (gi, g, p)) (hb : i.wf = false ∨ (∃ r ∈ namedRegs i, g.kd.regs ≤ r) ∨
      (∃ a ∈ namedAccs i, g.kd.acc ≤ a) ∨ (∃ m ∈ namedMetas i, g.kd.nmeta ≤ m) ∨ ∃ t ∈ namedToks i, g.kd.tokens ≤ t) :
    o = .next (s.trap gi g p ⟨0x01, p.pc, 0, p.mask, 0⟩) := by
  rw [h.runs, issueChecked_illop hs]
  · rfl
  · by_contra hc
    simp only [Bool.not_eq_false, Bool.and_eq_true, List.all_eq_true, decide_eq_true_eq] at hc
    obtain ⟨⟨hwf, hregs⟩, hextra⟩ := hc
    obtain hb | ⟨r, hr, hle⟩ | ⟨a, ha, hle⟩ | ⟨m, hm, hle⟩ | ⟨t, ht, hle⟩ := hb
    · simp [hwf] at hb
    · exact absurd (hregs r (h.regs hwf r hr)) (by omega)
    · exact absurd (h.accs _ hextra a ha) (by omega)
    · exact absurd (h.metas hwf _ hextra m hm) (by omega)
    · exact absurd (h.toks _ hextra t ht) (by omega)

theorem goes_issueChecked {i : Instr} {s : State} {vr : List Nat} {extra : Kernel → Bool} {k : Nat → Gang → Path → Out} (hs : s.issuing ≠ none)
    (hk : ∀ gi g p, Goes (k gi g p)) : Goes (issueChecked i vr extra s k) := by
  unfold issueChecked
  split
  · exact absurd ‹_› hs
  · exact .ite (.ite (goes_next _) (hk ..)) (goes_next _)

theorem goes_event (i : Instr) (s : State) (h : encodeFields i = none) : Goes (exec i s) := by
  cases i <;> cases h <;> dsimp only [exec] <;> simp

/-- With a path named, no meaning refuses or faults. -/
theorem goes_exec (i : Instr) (s : State) (hs : s.issuing ≠ none) : Goes (exec i s) := by
  by_cases h : encodeFields i = none
  · exact goes_event i s h
  · obtain ⟨vr, extra, k, hf⟩ := exec_framed i s h
    rw [hf.runs]
    exact goes_issueChecked hs hf.goes

/-- Settles O19: the checks of the frame that every instruction begins with fail. -/
theorem reservedEncodingTraps : Obligations.ReservedEncodingTraps := by
  intro i s gi g p hi hs hb
  obtain ⟨vr, extra, k, hf⟩ := exec_framed i s hi
  exact hf.illop hs hb

end Sys2Proof.Machine
end

section
/-! PROOFS. Whoever's turn it is, the machine goes on: the issue of a path, the turns of the agenda, and the turns that the machine takes by itself. -/

namespace Sys2Proof.Machine

-- The issue of a path

theorem findPath_id {ps : List Path} {id : Nat} {p : Path} (h : findPath ps id = some p) : p.id = id := by
  simpa using List.find?_some h

/-- The issuing path is the one named, when its gang lists it. -/
theorem issuing_naming {s : State} {gi pi : Nat} {g : Gang} {p : Path} (hg : s.gang gi = some g) (hp : findPath g.paths pi = some p) :
    (s.naming gi pi).issuing = some (gi, g, p) := by
  have hg' : (s.naming gi pi).gang gi = some g := hg
  simp [State.issuing, State.naming] at hg' ⊢
  simp [hg', hp]

@[simp] theorem gang_putGang_same (s : State) (k : Nat) (g : Gang) : (s.putGang k g).gang k = some g := look_store_same ..

/-- An instruction that is fetched leaves the gang with its translations only (R25). -/
theorem fetchInstr_instr {s s1 : State} {gi : Nat} {g : Gang} {p : Path} {i : Instr} (h : fetchInstr s gi g p = .instr i s1) :
    ∃ x, s1.gang gi = some { g with xc := x } := by
  have hdone : ∀ {w0 w1 x2 s2}, (match decodeWords w0 w1 with
      | some i => Fetched1.instr i (keepXc s2 gi g x2)
      | none => .illegal (keepXc s2 gi g x2)) = .instr i s1 → ∃ x, s1.gang gi = some { g with xc := x } := fun h => by
    split at h <;> cases h
    exact ⟨_, gang_putGang_same ..⟩
  unfold fetchInstr at h
  split at h
  · cases h
  · cases h
  · cases h
  · dsimp only at h
    split at h
    · exact hdone h
    · split at h
      · cases h
      · cases h
      · cases h
      · exact hdone h

theorem Goes.issued {o : Out} (h : Goes o) (gi : Nat) (g : Gang) (p : Path) (i : Instr) (lsu : Bool) (s0 : State) :
    Goes (issued gi g p i lsu s0 o) := by
  obtain ⟨t, rfl⟩ := h
  exact goes_next _

theorem goes_runIssued {s : State} {gi : Nat} {g : Gang} {p : Path} {i : Instr} (hs : (s.naming gi p.id).issuing ≠ none) :
    Goes (runIssued s gi g p i) := by
  unfold runIssued
  dsimp only
  split
  · exact .ite (goes_execCellFire ..) ((goes_exec i _ hs).issued ..)
  · exact (goes_exec i _ hs).issued ..

@[simp] theorem goes_arrivalStep (gi : Nat) (g : Gang) (p : Path) (s : State) : Goes (arrivalStep gi g p s) := by
  obtain ⟨t, ht⟩ := goes_execCloverEnter (coreKey g.die g.core) gi s
  simp [arrivalStep, ht]

@[simp] theorem goes_issueStep (gi pi : Nat) (s : State) : Goes (issueStep gi pi s) := by
  unfold issueStep
  split
  · simp
  · split
    · simp
    · rename_i p hp
      refine .ite (goes_next _) (.ite (goes_arrivalStep ..) ?_)
      split
      · simp
      · simp
      · simp
      · simp
      · rename_i hf
        obtain ⟨x, hx⟩ := fetchInstr_instr hf
        rw [← findPath_id hp] at hp
        exact goes_runIssued (by simp [issuing_naming hx hp])

@[simp] theorem goes_cellTurn (k x : Nat) (s : State) : Goes (cellTurn k x s) := by
  unfold cellTurn
  refine .ite ?_ (goes_execCellFire ..)
  split
  · simp
  · simp
  · exact .ite (goes_execCellFire ..) (goes_next _)

/-- A turn of the agenda goes on. -/
theorem goes_runTurn (t : Turn) (s : State) : Goes (runTurn t s) := by
  unfold runTurn
  split
  · simp
  · simp
  · split
    · exact goes_event _ _ (Option.isNone_iff_eq_none.1 ‹_›)
    · simp
  · simp

-- The machine's own turns

/-- Every turn of the list goes on from every state. -/
def AllGo (l : List (State → Out)) : Prop := ∀ f ∈ l, ∀ t, Goes (f t)

@[simp] theorem allGo_nil : AllGo [] := nofun

@[simp] theorem allGo_cons {f : State → Out} {l : List (State → Out)} : AllGo (f :: l) ↔ (∀ t, Goes (f t)) ∧ AllGo l := by
  simp [AllGo]

@[simp] theorem allGo_append {a b : List (State → Out)} : AllGo (a ++ b) ↔ AllGo a ∧ AllGo b := List.forall_mem_append

theorem allGo_flatMap {α : Type} {l : List α} {f : α → List (State → Out)} (h : ∀ x, AllGo (f x)) : AllGo (l.flatMap f) := by
  intro g hg
  obtain ⟨x, -, hx⟩ := List.mem_flatMap.1 hg
  exact h x g hx

theorem allGo_map {α : Type} {l : List α} {f : α → State → Out} (h : ∀ x t, Goes (f x t)) : AllGo (l.map f) := by
  intro g hg
  obtain ⟨x, -, rfl⟩ := List.mem_map.1 hg
  exact h x

theorem allGo_ite {c : Prop} [Decidable c] {a b : List (State → Out)} (ha : AllGo a) (hb : AllGo b) : AllGo (if c then a else b) := by
  split <;> assumption

theorem allGo_issueTurns (s : State) : AllGo (issueTurns s) := allGo_flatMap fun _ => allGo_map fun _ => goes_issueStep _ _

theorem allGo_dueTurns (s : State) : AllGo (dueTurns s) :=
  allGo_append.2 ⟨allGo_flatMap fun _ => allGo_map fun _ => goes_execSleepEnd _ _,
    allGo_flatMap fun _ => allGo_flatMap fun _ => allGo_map fun _ => goes_issueStep _ _⟩

theorem allGo_gangTurns (s : State) : AllGo (gangTurns s) := by
  unfold gangTurns
  simp only [allGo_append]
  refine ⟨⟨⟨allGo_flatMap fun e => ?_, allGo_flatMap fun e => ?_⟩, allGo_map fun _ => goes_execResume _⟩, allGo_flatMap fun e => ?_⟩
  · simp only [allGo_append]
    refine ⟨⟨⟨⟨⟨⟨fun f hf => ?_, ?_⟩, ?_⟩, ?_⟩, ?_⟩, ?_⟩, allGo_map fun b => goes_execWaitEnd _ b⟩
    · obtain ⟨p, -, hp⟩ := List.mem_filterMap.1 hf
      split at hp <;> cases hp
      exact goes_execSleepEnd _ _
    all_goals exact allGo_ite (by simp) (by simp)
  · exact allGo_append.2 ⟨by simp, allGo_ite (allGo_ite (by simp) (by simp)) (by simp)⟩
  · exact allGo_ite (by simp) (by simp)

theorem allGo_coreTurns (s : State) : AllGo (coreTurns s) := by
  refine allGo_flatMap fun e => ?_
  simp only [allGo_append]
  refine ⟨⟨⟨⟨⟨⟨?_, ?_⟩, ?_⟩, allGo_flatMap fun st => ?_⟩, ?_⟩, allGo_map fun x t => ?_⟩, allGo_flatMap fun x => ?_⟩
  · exact allGo_ite (by simp) (by simp)
  · exact allGo_ite (by simp) (by simp)
  · exact allGo_ite (by simp) (allGo_flatMap fun x => allGo_ite (by simp) (by simp))
  · simp only [allGo_append]
    refine ⟨⟨by simp, ?_⟩, allGo_ite (by simp) (by simp)⟩
    split <;> simp
  · exact allGo_ite (by simp) (by simp)
  · split <;> simp
  · exact allGo_append.2 ⟨allGo_append.2 ⟨by simp, allGo_ite (by simp) (by simp)⟩, allGo_ite (by simp) (by simp)⟩

theorem allGo_dispatchTurns (s : State) : AllGo (dispatchTurns s) := by
  refine allGo_flatMap fun e => ?_
  split
  · simp
  · simp only [allGo_append]
    refine ⟨⟨by simp, ?_⟩, allGo_ite (allGo_flatMap fun d => by simp) (by simp)⟩
    split <;> simp

theorem allGo_queueTurns (s : State) : AllGo (queueTurns s) :=
  allGo_flatMap fun _ => allGo_append.2 ⟨allGo_ite (by simp) (by simp), allGo_ite (by simp) (by simp)⟩

/-- The arrival of a packet is an event of its operation. -/
theorem goes_arrivalOf1 (p : Packet) (s : State) : Goes (arrivalOf1 p s) := by
  unfold arrivalOf1
  cases p.op <;> simp

theorem allGo_resyncTurns (s : State) : AllGo (resyncTurns s) := by
  unfold resyncTurns
  split
  · simp
  · exact allGo_ite (by simp) (by simp)

theorem allGo_packageTurns (s : State) : AllGo (packageTurns s) := by
  unfold packageTurns
  simp only [allGo_append]
  refine ⟨⟨⟨⟨⟨⟨⟨⟨⟨⟨⟨⟨⟨allGo_flatMap fun f => ?arrivals, allGo_flatMap fun j => ?members⟩, ?_⟩, ?_⟩, allGo_resyncTurns s⟩, ?_⟩, ?_⟩, ?_⟩, ?_⟩, ?_⟩, ?walks⟩, ?_⟩, ?host⟩, ?pcie⟩
  case arrivals => split <;> simp [goes_arrivalOf1]
  case members =>
    exact allGo_append.2 ⟨allGo_append.2 ⟨allGo_ite (by simp) (by simp), allGo_ite (by simp) (by simp)⟩, allGo_ite (by simp) (by simp)⟩
  case walks => exact allGo_flatMap fun _ => allGo_map fun _ => goes_execWalkComplete _ _ _
  case host => exact allGo_ite (by simp) (by simp)
  case pcie => split <;> simp
  all_goals exact allGo_map fun _ _ => by simp

theorem allGo_ownTurns (s : State) : AllGo (ownTurns s) := by
  simp only [ownTurns, allGo_append]
  exact ⟨⟨⟨⟨⟨allGo_issueTurns s, allGo_gangTurns s⟩, allGo_coreTurns s⟩, allGo_dispatchTurns s⟩, allGo_queueTurns s⟩, allGo_packageTurns s⟩

/-- Whoever's turn it is, it goes on. -/
theorem goes_takeTurn (s : State) : Goes (takeTurn s) := by
  unfold takeTurn
  split
  · exact goes_runTurn ..
  · dsimp only
    split
    · rename_i f hf
      have hall : AllGo (if (dueTurns s).isEmpty then ownTurns s else dueTurns s) := allGo_ite (allGo_ownTurns s) (allGo_dueTurns s)
      exact hall f (List.mem_of_getElem? hf) _
    · simp

theorem Goes.ticked {o : Out} (h : Goes o) : Goes (ticked o) := by
  obtain ⟨t, rfl⟩ := h
  exact goes_next _

/-- Settles O59: every meaning answers a next state, an instruction's because its path is named when it runs. -/
theorem stepGoesOn : Obligations.StepGoesOn := fun s => (goes_takeTurn s).ticked

end Sys2Proof.Machine
end

section
/-! PROOFS. The lanes at fault of an access, and what it answers before any byte of memory is read (R220, R221, R268). -/

namespace Sys2Proof.Machine
open Sys2Proof.Claim

section Lanes

theorem laneBit_getLsbD (l k : Nat) (hk : k < 64) : (laneBit l).getLsbD k = (l == k) := by
  rw [laneBit, BitVec.getLsbD_ofNat, Nat.testBit_two_pow, Bool.beq_eq_decide_eq]
  simp [hk]

theorem foldl_laneBit_getLsbD (xs : List (Nat × DWord)) (m : LaneMask) (k : Nat) (hk : k < 64) :
    (xs.foldl (fun acc y => acc ||| laneBit y.1) m).getLsbD k = (m.getLsbD k || xs.any (fun y => y.1 == k)) := by
  induction xs generalizing m with
  | nil => simp
  | cons x xs ih => simp [ih, laneBit_getLsbD x.1 k hk, Bool.or_assoc]

theorem lanesOf_filter {m n : LaneMask} {bad : Nat → Bool} (h : ∀ k, k < 64 → n.getLsbD k = (m.getLsbD k && bad k)) :
    lanesOf n = (lanesOf m).filter bad := by
  unfold lanesOf
  rw [List.filter_filter]
  refine List.filter_congr fun k hk => ?_
  rw [h k (List.mem_range.1 hk), Bool.and_comm]

theorem hitLanes_none (m : LaneMask) (addr : Nat → DWord) {f : Nat × DWord → Bool} (h : (lanesOf m).any (fun l => f (l, addr l)) = false) :
    hitLanes ((lanesOf m).map fun l => (l, addr l)) f = none := by
  have he : (((lanesOf m).map fun l => (l, addr l)).filter f) = [] := by
    simpa [List.filter_eq_nil_iff] using h
  simp only [hitLanes, he]

/-- The lanes of a mask that satisfy a condition, with the address of the lowest. -/
theorem hitLanes_some (m : LaneMask) (addr : Nat → DWord) {f : Nat × DWord → Bool} (h : (lanesOf m).any (fun l => f (l, addr l)) = true) :
    ∃ n : LaneMask, (∀ k, k < 64 → n.getLsbD k = (m.getLsbD k && f (k, addr k))) ∧
      hitLanes ((lanesOf m).map fun l => (l, addr l)) f = some (addr (lowestLane n), n) := by
  let hits := ((lanesOf m).map fun l => (l, addr l)).filter f
  have he : hits = ((lanesOf m).filter fun l => f (l, addr l)).map fun l => (l, addr l) := List.filter_map
  have hbits : ∀ k, k < 64 → (hits.foldl (fun acc y => acc ||| laneBit y.1) 0).getLsbD k = (m.getLsbD k && f (k, addr k)) := by
    intro k hk
    rw [foldl_laneBit_getLsbD hits 0 k hk, he, Bool.eq_iff_iff]
    simp [mem_lanesOf, hk]
  refine ⟨_, hbits, ?_⟩
  have hl := lanesOf_filter hbits
  cases hc : (lanesOf m).filter (fun l => f (l, addr l)) with
  | nil => 
    obtain ⟨l, hm, hf⟩ := List.any_eq_true.1 h
    exact absurd (hc ▸ List.mem_filter.2 ⟨hm, hf⟩) List.not_mem_nil
  | cons l ls =>
    have hx : hits = (l, addr l) :: ls.map fun l => (l, addr l) := by rw [he, hc, List.map_cons]
    have hlow : lowestLane (hits.foldl (fun acc y => acc ||| laneBit y.1) 0) = l := by rw [lowestLane, hl, hc]; rfl
    rw [hlow, hx]
    simp only [hitLanes]
    rw [show ((lanesOf m).map fun l => (l, addr l)).filter f = (l, addr l) :: ls.map fun l => (l, addr l) from hx]

end Lanes

section Frame

variable {i : Instr} {s : State} {gi : Nat} {g : Gang} {p : Path} {rd wr : List Nat} {gd : Guard}

theorem opOf_of_noOp (h : NoOp g p) : opOf g p.id = none := by
  simp only [opOf, List.find?_eq_none]
  exact fun o ho => by simpa using (h o ho).1

theorem unsent_of_noOp (h : NoOp g p) : otherOp g p.id (fun o => !o.unsent.isEmpty) = false := by
  simp only [otherOp, List.any_eq_false]
  exact fun o ho => by simp [(h o ho).2]

/-- An access whose guard is false goes past its instruction. -/
theorem memFrame_off (h : Issues s i gi g p (rd ++ wr)) (ho : NoOp g p) (hm : guardLanes g p gd = 0)
    (k : Nat → Gang → Path → LaneMask → Out) : memFrame i gd rd wr s k = .next (pastInstr s gi p 8 g) := by
  unfold memFrame
  rw [issueChecked_run h rfl]
  simp only [opOf_of_noOp ho, hm, if_true, finish, pastInstr]

/-- Nothing is in the way of an access: it runs. -/
theorem memFrame_run (h : Issues s i gi g p (rd ++ wr)) (ho : NoOp g p) (hm : guardLanes g p gd ≠ 0) (hu : Unpoisoned g (guardLanes g p gd) rd)
    (k : Nat → Gang → Path → LaneMask → Out) : memFrame i gd rd wr s k = k gi g p (guardLanes g p gd) := by
  unfold memFrame
  rw [issueChecked_run h rfl]
  simp only [opOf_of_noOp ho, hm, if_false, unsent_of_noOp ho, poisonedRead_none hu]
  rfl

end Frame

section Access

/-- What an access does in its lanes `m`: ALIGN, or its global or its local part. -/
def accessBody (a : Access) (s : State) (global here : Nat → Gang → Path → LaneMask → Out) (gi : Nat) (g : Gang) (p : Path) (m : LaneMask) : Out :=
  match alignTrap p a.size (laneAddrs g a.sp a.ma a.size m) with
  | some t => memTrap s gi g p t
  | none => if a.sp = .g then global gi g p m else here gi g p m

/-- Every access runs in the same frame, and its local part begins with the bound of the space (R268). -/
theorem exec_access {i : Instr} {a : Access} (ha : accessOf i = some a) (s : State) :
    ∃ global here, exec i s = memFrame i a.gd a.rd a.wr s (accessBody a s global here) ∧
      ∀ gi g p m t, boundTrap g p a.sp a.size (laneAddrs g a.sp a.ma a.size m) = some t → here gi g p m = memTrap s gi g p t := by
  cases i <;> cases ha
  all_goals dsimp only [exec, execLd, execLdb, execSt, execStb, execAtom]
  case ld gd ty sp cau na d m =>
    exact ⟨_, fun gi g p lanes => loadLocal (.ld gd ty sp cau na d m) sp (accessSize ty) gi g p lanes (laneAddrs g sp m (accessSize ty) lanes) s, rfl,
      fun gi g p lanes t ht => by simp only [loadLocal, ht]⟩
  case ldb gd sp na bl d m =>
    exact ⟨_, fun gi g p lanes => loadLocal (.ldb gd sp na bl d m) sp (blockSize bl) gi g p lanes (laneAddrs g sp m (blockSize bl) lanes) s, rfl,
      fun gi g p lanes t ht => by simp only [loadLocal, ht]⟩
  case st gd ty sp blk na d m =>
    exact ⟨_, fun gi g p lanes => storeLocalLanes sp (accessSize ty) (storeBytes g ty d) gi g p (laneAddrs g sp m (accessSize ty) lanes) s, rfl,
      fun gi g p lanes t ht => by simp only [storeLocalLanes, ht]⟩
  case stb gd sp na bl d m =>
    exact ⟨_, fun gi g p lanes => storeLocalLanes sp (blockSize bl) (blockBytes g bl d) gi g p (laneAddrs g sp m (blockSize bl) lanes) s, rfl,
      fun gi g p lanes t ht => by simp only [storeLocalLanes, ht]⟩
  case atom gd op ty sp d sb vi off =>
    exact ⟨_, fun gi g p lanes => atomLocal (.atom gd op ty sp d sb vi off) sp op ty d gi g p lanes
      (laneAddrs g sp ⟨false, sb, vi, off⟩ (accessSize ty) lanes) s, rfl, fun gi g p lanes t ht => by simp only [atomLocal, ht]⟩

theorem laneAddrs_eq (a : Access) (g : Gang) (m : LaneMask) : laneAddrs g a.sp a.ma a.size m = (lanesOf m).map fun l => (l, a.addr g l) := rfl

theorem alignTrap_none (a : Access) (g : Gang) (p : Path) (m : LaneMask) (h : (lanesOf m).any (fun l => (a.addr g l).toNat % a.size != 0) = false) :
    alignTrap p a.size (laneAddrs g a.sp a.ma a.size m) = none := by
  rw [alignTrap, laneAddrs_eq, hitLanes_none m (a.addr g) h, Option.map_none]

theorem alignTrap_some (a : Access) (g : Gang) (p : Path) (m : LaneMask) (h : (lanesOf m).any (fun l => (a.addr g l).toNat % a.size != 0) = true) :
    ∃ n : LaneMask, (∀ k, k < 64 → n.getLsbD k = (m.getLsbD k && (a.addr g k).toNat % a.size != 0)) ∧
      alignTrap p a.size (laneAddrs g a.sp a.ma a.size m) = some ⟨0x03, p.pc, a.addr g (lowestLane n), n, 0⟩ := by
  obtain ⟨n, hn, hh⟩ := hitLanes_some m (a.addr g) (f := fun y => y.2.toNat % a.size != 0) h
  exact ⟨n, hn, by rw [alignTrap, laneAddrs_eq, hh]; rfl⟩

theorem boundTrap_some (a : Access) (g : Gang) (p : Path) (m : LaneMask)
    (h : (lanesOf m).any (fun l => decide (localBound g a.sp < (a.addr g l).toNat + a.size)) = true) :
    ∃ n : LaneMask, (∀ k, k < 64 → n.getLsbD k = (m.getLsbD k && decide (localBound g a.sp < (a.addr g k).toNat + a.size))) ∧
      boundTrap g p a.sp a.size (laneAddrs g a.sp a.ma a.size m) = some ⟨0x05, p.pc, a.addr g (lowestLane n), n, 0x57⟩ := by
  obtain ⟨n, hn, hh⟩ := hitLanes_some m (a.addr g) (f := fun y => decide (localBound g a.sp < y.2.toNat + a.size)) h
  exact ⟨n, hn, by rw [boundTrap, laneAddrs_eq, hh]; rfl⟩

end Access

/-- Settles O32: every access runs in one frame, whose body asks ALIGN first, and a local one then its bound, for the lanes at fault. -/
theorem accessTraps : Obligations.AccessTraps := by
  intro i a s gi g p ha h ho mk off out
  obtain ⟨global, here, he, hb⟩ := exec_access ha s
  refine ⟨fun hm => he.trans (memFrame_off h ho hm _), fun hu hoff => ?_, fun hu hoff hsp hout => ?_⟩
  · have hm : mk ≠ 0 := by intro h0; simp [h0, lanesOf] at hoff
    obtain ⟨n, hn, ht⟩ := alignTrap_some a g p mk hoff
    refine ⟨n, hn, (he.trans (memFrame_run h ho hm hu _)).trans ?_⟩
    simp only [accessBody, mk, ht, memTrap]
  · have hm : mk ≠ 0 := by intro h0; simp [h0, lanesOf] at hout
    obtain ⟨n, hn, ht⟩ := boundTrap_some a g p mk hout
    refine ⟨n, hn, (he.trans (memFrame_run h ho hm hu _)).trans ?_⟩
    unfold accessBody
    rw [alignTrap_none a g p (guardLanes g p a.gd) hoff]
    exact (if_neg hsp).trans (hb gi g p mk _ ht)

end Sys2Proof.Machine
end

section
/-! PROOFS. The state after reset, and a gang at its start (R21, R118, R403, R404). -/

namespace Sys2Proof.Machine
open Sys2Proof.Claim

theorem listGet_copies {α : Type} (n k : Nat) (x : α) : listGet x (copies n x) k = x := by
  induction n generalizing k with
  | zero => rfl
  | succ n ih => cases k with
    | zero => rfl
    | succ k => exact ih k

/-- No member of the causal domain has moved (R430). -/
theorem reset_member (i : Nat) : State.reset.member i = Member.reset := listGet_copies 17 i Member.reset

/-- No spare stands for a quartet (R404). -/
theorem reset_spareEntry (d q : Nat) : spareEntry State.reset d q = BitVec.ofNat 8 (128 + q) := rfl

theorem reset_quartet (d : Nat) {q : Nat} (hq : q < 64) : quartetValid State.reset d q = true ∧ quartetPhys State.reset d q = q := by
  have hvalid : ∀ n, n < 64 → (BitVec.ofNat 8 (128 + n)).getLsbD 7 = true := by decide
  refine ⟨hvalid q hq, ?_⟩
  rw [quartetPhys, reset_spareEntry, BitVec.toNat_ofNat]
  omega

/-- Every die is its own place, and the two rows of a column are two places (R403). -/
theorem reset_placeOfDie : ∀ d, d < 8 → placeOfDie State.reset d % 8 = d ∧ placeOfDie State.reset (d + 8) % 8 = d ∧
    placeOfDie State.reset d ≠ placeOfDie State.reset (d + 8) := by decide

theorem reset_placeByte (a : Nat) : placeByte State.reset a = 0 := by simp [placeByte, State.reset, spGet]

/-- A path on every slice that its lanes need is current (R118). -/
theorem fullyCurrent_of_slices {p : Path} (h : p.onSl = slicesOf p.mask) : fullyCurrent p = true := by
  simp [fullyCurrent, h]

theorem getPred_zero (n : BitVec 4) (l : Nat) (hl : l < 64) (g : Gang) (hp : g.p = []) : (getPred g n).getLsbD l = decide (n = 0) := by
  unfold getPred
  split
  next h => rw [BitVec.getLsbD_allOnes]; simp [h, hl]
  next h => rw [hp]; simpa [spGet] using h

/-- Settles O57: the reset state is evaluated table by table, and a new gang field by field. -/
theorem startState : Obligations.StartState := by
  constructor
  · refine ⟨rfl, fun a _ => reset_placeByte a, rfl, rfl, rfl, rfl, rfl, rfl, rfl, rfl, rfl, fun i _ => ?_, fun d q _ hq => reset_quartet d hq,
      reset_placeOfDie, rfl⟩
    simp only [reset_member]
    exact ⟨rfl, rfl, rfl, rfl, rfl, rfl⟩
  · intro s gridId cohort number gangid k block index spos gr phys areas g
    exact ⟨fun _ _ => rfl, fun _ => rfl, fun n l hl => getPred_zero n l hl g rfl, rfl, rfl, rfl, rfl, rfl, rfl, rfl, rfl,
      _, rfl, rfl, rfl, rfl, fullyCurrent_of_slices rfl⟩

end Sys2Proof.Machine
end

section
/-! PROOFS. The fetch of an instruction through the core's TLB (R25, R237, R239). -/

namespace Sys2Proof.Machine
open Sys2Proof.Claim

theorem toNat_add_eight {pc : DWord} (h : pc.toNat % 4096 + 16 ≤ 4096) : (pc + 8).toNat = pc.toNat + 8 := by bv_omega

/-- A second word that stands in the page of the first. -/
theorem pageOf_add_eight {pc : DWord} (h : pc.toNat % 4096 + 16 ≤ 4096) : pageOf (pc + 8) = pageOf pc := by
  simp only [pageOf, toNat_add_eight h]
  omega

theorem canonical_add_eight {pc : DWord} (h : pc.toNat % 4096 + 16 ≤ 4096) : canonical (pc + 8) = canonical pc := by
  simp only [canonical, toNat_add_eight h]
  rw [show (pc.toNat + 8) / 2 ^ 56 = pc.toNat / 2 ^ 56 by omega]

/-- What the leaf of a page of code answers (R235). -/
def codeXl (p : Path) (t : TlbEntry) : Xl := .leaf (pteAddr t.leaf + pageOf p.pc * 4096 % 2 ^ leafLog2 t.leaf t.level) t.leaf t.level

/-- The translations of a fetch that has looked its page up. -/
def codeXc (p : Path) (t : TlbEntry) : Xc := Xc.empty.learn (pageOf p.pc) (codeXl p t)

theorem look_codeXc (p : Path) (t : TlbEntry) : look (codeXc p t).got (pageOf p.pc) = some (codeXl p t) := look_store_same ..

theorem codeXc_drop (p : Path) (t : TlbEntry) : (codeXc p t).drop (pageOf p.pc) = Xc.empty := by
  simp [codeXc, Xc.learn, Xc.drop, Xc.empty, store, forget]

theorem emptyXc_drop (page : Nat) : Xc.empty.drop page = Xc.empty := rfl

theorem readCode_clean {s : State} {a : Nat} (h : s.poison.contains (a / 64) = false ∧ homeServes s (homeOf a) = true) :
    readCode s a = .word (hbmWord s a) := by
  obtain ⟨hp, hs⟩ := h
  simp only [readCode, hp, hs, Bool.not_true]
  rfl

/-- A word whose page answers with a leaf of device memory that code may be fetched from. -/
theorem fetchWord_leaf {s s1 : State} {g : Gang} {va : DWord} {x : Xc} {pa : Nat} {e : DWord} {level : Nat} (hc : canonical va = true)
    (hl : lookPage g.die g.core g.kd.asid (g.xc, s) (pageOf va) = (x, s1)) (hx : look x.got (pageOf va) = some (.leaf pa e level)) (he : pteX e = true) :
    fetchWord s g va = (readCode s1 (pa + va.toNat % 4096), x, s1) := by
  simp only [fetchWord, hc, hl, hx, judgeFetch, he, placeOf, Bool.not_true, if_true]
  rfl

section Fetches

variable {s : State} {g : Gang} {p : Path} {t : TlbEntry} {a : Nat} {w0 w1 : DWord}

theorem lookPage_tlb (h : Fetches s g p t a w0 w1) : lookPage g.die g.core g.kd.asid (g.xc, s) (pageOf p.pc) = (codeXc p t, s) := by
  obtain ⟨hhost, -⟩ := h.leaf
  simp only [lookPage, h.empty, Xc.empty, look, h.window, h.tlb, useLeaf, xlOfLeaf, hhost]
  rfl

theorem lookPage_known (h : Fetches s g p t a w0 w1) :
    lookPage g.die g.core g.kd.asid (codeXc p t, s) (pageOf (p.pc + 8)) = (codeXc p t, s) := by
  rw [pageOf_add_eight h.fits, lookPage]
  simp only [look_codeXc, Option.isSome_some, Bool.true_or, if_true]

theorem fetchWord_first (h : Fetches s g p t a w0 w1) : fetchWord s g p.pc = (.word w0, codeXc p t, s) := by
  rw [fetchWord_leaf h.canon (lookPage_tlb h) (look_codeXc p t) h.leaf.2, ← h.place, readCode_clean (h.clean a le_rfl (by omega)), h.first]

theorem fetchWord_second (h : Fetches s g p t a w0 w1) :
    fetchWord s { g with xc := codeXc p t } (p.pc + 8) = (.word (hbmWord s (a + 8)), codeXc p t, s) := by
  have hx : look (codeXc p t).got (pageOf (p.pc + 8)) = some (codeXl p t) := by rw [pageOf_add_eight h.fits, look_codeXc]
  have hplace : pteAddr t.leaf + pageOf p.pc * 4096 % 2 ^ leafLog2 t.leaf t.level + (p.pc + 8).toNat % 4096 = a + 8 := by
    have := h.fits
    rw [h.place, toNat_add_eight h.fits]
    omega
  rw [fetchWord_leaf ((canonical_add_eight h.fits).trans h.canon) (lookPage_known h) hx h.leaf.2, hplace,
    readCode_clean (h.clean (a + 8) (by omega) (by omega))]

/-- The end of a fetch whose words decode so. -/
def fetchedAs (i : Option Instr) (s : State) : Fetched1 :=
  match i with
  | some i => .instr i s
  | none => .illegal s

/-- The words that stand at the PC are fetched, and what they decode to. -/
theorem fetchInstr_of_fetches (h : Fetches s g p t a w0 w1) (gi : Nat) : fetchInstr s gi g p = fetchedAs (decodeWords w0 w1) (s.putGang gi g) := by
  have hkeep : keepXc s gi g Xc.empty = s.putGang gi g := by rw [keepXc, ← h.empty]
  unfold fetchInstr
  simp only [fetchWord_first h, fetchWord_second h, pageOf_add_eight h.fits, codeXc_drop, emptyXc_drop, hkeep]
  rw [h.second]
  split <;> rfl

end Fetches

end Sys2Proof.Machine
end

section
/-! PROOFS. A step runs its turn: what an issue does with the instruction fetched, who is held, and the time that passes (R31, R65, R134, R153, R216, R217). -/

namespace Sys2Proof.Machine
open Sys2Proof.Claim

-- Turns

theorem step_agenda {s : State} {t : Turn} {r : List Turn} (h : s.agenda = t :: r) : step s = ticked (runTurn t { s with agenda := r }) := by
  simp only [step, takeTurn, h]

/-- With an empty agenda one of the turns that are due runs, if there is any (R134). -/
theorem step_due {s : State} (h : s.agenda = []) (hd : dueTurns s ≠ []) :
    ∃ f ∈ dueTurns s, step s = ticked (f { s with freeCtr := s.freeCtr + 1 }) := by
  have hlt : Config.freeNat s.freeCtr % (dueTurns s).length < (dueTurns s).length := Nat.mod_lt _ (List.length_pos_iff.2 hd)
  refine ⟨_, List.getElem_mem hlt, ?_⟩
  simp only [step, takeTurn, h, List.isEmpty_eq_false_iff.2 hd, Bool.false_eq_true, if_false, List.getElem?_eq_getElem hlt]

/-- A turn that is due is the issue of a path whose turn it is, or the end of a sleep. -/
theorem mem_dueTurns {s : State} {f : State → Out} (h : f ∈ dueTurns s) : ∃ gi g p, (gi, g) ∈ s.gangs ∧ p ∈ g.paths ∧
    ((hisTurn s gi g p = true ∧ f = issueStep gi p.id) ∨ (sleepLeft s.clock p = some 0 ∧ f = exec (.sleepEnd gi p.id))) := by
  rcases List.mem_append.1 h with h | h
  · obtain ⟨⟨gi, g⟩, hg, h⟩ := List.mem_flatMap.1 h
    obtain ⟨p, hp, rfl⟩ := List.mem_map.1 h
    obtain ⟨hp, hs⟩ := List.mem_filter.1 hp
    exact ⟨gi, g, p, hg, hp, .inr ⟨by simpa using hs, rfl⟩⟩
  · obtain ⟨e, -, h⟩ := List.mem_flatMap.1 h
    obtain ⟨⟨gi, g⟩, hg, h⟩ := List.mem_flatMap.1 h
    obtain ⟨p, hp, rfl⟩ := List.mem_map.1 h
    obtain ⟨hp, ht⟩ := List.mem_filter.1 hp
    exact ⟨gi, g, p, (List.mem_filter.1 hg).1, hp, .inl ⟨ht, rfl⟩⟩

theorem runTurn_event {i : Instr} (he : isEvent i = true) (hc : ∀ k x, i ≠ .cellFire k x) (s : State) : runTurn (.event i) s = exec i s := by
  unfold runTurn
  split
  next h => cases h
  next k x h => exact absurd (Turn.event.inj h) (hc k x)
  next h => rw [← Turn.event.inj h, if_pos he]
  next h => cases h

section Cell

variable {s : State} {k x : Nat}

/-- A cell that no access of the front end rivals fires. -/
theorem cellTurn_free (h : memCellReady (s.coreAt (keyDie k) (keyCore k)) x = false ∨ frontLsu s k = none) : cellTurn k x s = exec (.cellFire k x) s := by
  by_cases hm : memCellReady (s.coreAt (keyDie k) (keyCore k)) x = true
  · have hf : frontLsu s k = none := h.resolve_left (by simp [hm])
    simp only [cellTurn, hm, hf, if_true]
    rfl
  · simp only [cellTurn, hm]
    rfl

theorem cellTurn_urgent (hm : memCellReady (s.coreAt (keyDie k) (keyCore k)) x = true) (hf : frontLsu s k = some true) : cellTurn k x s = .next s := by
  simp only [cellTurn, hm, hf, if_true]

theorem cellTurn_shared (hm : memCellReady (s.coreAt (keyDie k) (keyCore k)) x = true) (hf : frontLsu s k = some false) :
    cellTurn k x s = if (s.coreAt (keyDie k) (keyCore k)).lsuFront then
      exec (.cellFire k x) (s.putCore (keyDie k) (keyCore k) { s.coreAt (keyDie k) (keyCore k) with lsuFront := false }) else .next s := by
  simp only [cellTurn, hm, hf, if_true]
  rfl

end Cell

-- The issue of a path

section Issue

variable {s : State} {gi pi : Nat} {g : Gang} {p : Path} {t : TlbEntry} {a : Nat} {w0 w1 : DWord}

/-- The issue of a path whose instruction is fetched. -/
theorem issueStep_fetched (hg : s.gang gi = some g) (hp : findPath g.paths pi = some p) (hi : Issuing s gi g p) (h : Fetches s g p t a w0 w1) :
    (∀ i, decodeWords w0 w1 = some i → issueStep gi pi s = runIssued (s.putGang gi g) gi g p i) ∧
    (decodeWords w0 w1 = none → issueStep gi pi s = .next (fetchTraps (s.putGang gi g) gi g p (illop p))) := by
  obtain ⟨hturn, hfront⟩ := hi
  rw [findPath_id hp] at hfront
  have hcell : ((opOf g pi).isNone && arrival s g p != .front) = false := by
    rcases hfront with h | h
    · simp [h]
    · simp [Option.isNone_eq_false_iff.2 h]
  have hstep := fetchInstr_of_fetches h gi
  constructor
  · intro i hd
    simp only [issueStep, hg, hp, hturn, hcell, hstep, hd, fetchedAs]
    rfl
  · intro hd
    simp only [issueStep, hg, hp, hturn, hcell, hstep, hd, fetchedAs]
    rfl

/-- The instruction runs unless the load/store unit is Clover's (R217). -/
theorem runIssued_front {i : Instr} (h : lsuRival s g i = none ∨ (s.coreAt g.die g.core).lsuFront = false) :
    runIssued s gi g p i = issued gi g p i (lsuRival s g i).isSome s (exec i (s.naming gi p.id)) := by
  unfold runIssued
  dsimp only
  split
  next x hx =>
    rw [if_neg (by rcases h with h | h <;> simp_all), hx]
    rfl
  next hx => rw [hx]; rfl

theorem runIssued_clover {i : Instr} {x : Nat} (hx : lsuRival s g i = some x) (hc : (s.coreAt g.die g.core).lsuFront = true) :
    runIssued s gi g p i = exec (.cellFire (coreKey g.die g.core) x) (s.putCore g.die g.core { s.coreAt g.die g.core with lsuFront := false }) := by
  simp only [runIssued, hx, hc, if_true]
  rfl

/-- A held path: it is listed as held, and where it keeps the gang to itself the gang is engaged with it (R134, R239, R264). -/
theorem noteHeld_held (hg : s.gang gi = some g) (keeps : Bool) :
    Held s (noteHeld s gi pi keeps) gi pi ∧ (keeps = true → HoldsGang (noteHeld s gi pi keeps) gi pi) := by
  simp only [noteHeld, hg]
  refine ⟨⟨g, _, hg, rfl, look_store_same .., fun n hn => look_store_ne _ _ hn, rfl⟩, fun hk => ⟨_, look_store_same .., ?_⟩⟩
  simp only [hk, Bool.true_or, if_true]

theorem coreAt_putCore_same (s : State) {die core d c : Nat} (x : Core) (hk : coreKey d c = coreKey die core) (h : spOk Core.reset s.cores = true) :
    (s.putCore die core x).coreAt d c = x := by
  rw [State.coreAt, hk]
  exact spGet_spSet_same Core.reset _ x h

theorem coreAt_putCore_ne (s : State) {die core d c : Nat} (x : Core) (hk : coreKey d c ≠ coreKey die core) (h : spOk Core.reset s.cores = true) :
    (s.putCore die core x).coreAt d c = s.coreAt d c :=
  spGet_spSet_ne Core.reset x hk h

theorem noteSlot_coreAt (s : State) (g : Gang) (lsu : Bool) (h : spOk Core.reset s.cores = true) (d c : Nat) :
    let u := noteSlot s g lsu
    u.coreAt d c = { s.coreAt d c with slot0 := (u.coreAt d c).slot0, slot1 := (u.coreAt d c).slot1, lsuFront := (u.coreAt d c).lsuFront } := by
  dsimp only
  by_cases hk : coreKey d c = coreKey g.die g.core
  · have hs : s.coreAt d c = s.coreAt g.die g.core := by rw [State.coreAt, State.coreAt, hk]
    rw [hs, noteSlot, coreAt_putCore_same _ _ hk h]
  · rw [noteSlot, coreAt_putCore_ne _ _ hk h]

end Issue

-- What an instruction leaves

theorem issued_trapWaits {s t : State} {gi : Nat} {g0 g : Gang} {p : Path} (i : Instr) (lsu : Bool) (ht : t.gang gi = some g)
    (h : trapWaits g0 g p = true) : issued gi g0 p i lsu s (.next t) = .next (noteHeld s gi p.id true) := by
  simp only [issued, ht, h, if_true]

theorem issued_held {s t : State} {gi : Nat} {g0 g : Gang} {p : Path} {i : Instr} (lsu : Bool) (ht : t.gang gi = some g)
    (h : trapWaits g0 g p = false) (hw : wasHeld g0 g p i = true) : issued gi g0 p i lsu s (.next t) = .next (noteHeld t gi p.id (keepsGang g p i)) := by
  simp only [issued, ht, h, hw, Bool.false_eq_true, if_false, if_true]

theorem issued_done {s t : State} {gi : Nat} {g0 g : Gang} {p : Path} {i : Instr} (lsu : Bool) (ht : t.gang gi = some g)
    (h : trapWaits g0 g p = false) (hw : wasHeld g0 g p i = false) :
    issued gi g0 p i lsu s (.next t) = .next (noteSlot (t.putGang gi (afterIssue g p)) g lsu) := by
  simp only [issued, ht, h, hw, Bool.false_eq_true, if_false, noteIssue]
  rfl

-- Time

section Time

theorem foldl_le {α : Type} {f : Nat → α → Nat} (hf : ∀ n x, f n x ≤ n) (l : List α) (b : Nat) : l.foldl f b ≤ b := by
  induction l generalizing b with
  | nil => exact le_rfl
  | cons x l ih => exact (ih _).trans (hf b x)

theorem foldl_le_of_mem {α : Type} {f : Nat → α → Nat} (hf : ∀ n x, f n x ≤ n) {l : List α} {x : α} (hx : x ∈ l) {k : Nat} (hk : ∀ n, f n x ≤ k) (b : Nat) :
    l.foldl f b ≤ k := by
  induction l generalizing b with
  | nil => cases hx
  | cons y l ih =>
    rcases List.mem_cons.1 hx with rfl | hx
    · exact (foldl_le hf l _).trans (hk b)
    · exact ih hx _

/-- The slack once a gang has been looked at: no more than before it, than its wait leaves, and than each of its sleeps leaves. -/
def slackOf (now : DWord) (n : Nat) (e : Nat × Gang) : Nat :=
  (e.2.paths.filterMap (sleepLeft now)).foldl min (if e.2.readySince.isSome then min n (255 - waitOf now e.2) else n)

theorem slack_eq (s : State) : slack s = s.gangs.foldl (slackOf s.clock) (2 ^ 32) := rfl

theorem slackOf_le (now : DWord) (n : Nat) (e : Nat × Gang) : slackOf now n e ≤ n := by
  refine (foldl_le min_le_left _ _).trans ?_
  split
  · exact min_le_left ..
  · exact le_rfl

theorem slack_le_wait {s : State} {e : Nat × Gang} (he : e ∈ s.gangs) (hr : e.2.readySince.isSome = true) : slack s ≤ 255 - waitOf s.clock e.2 := by
  rw [slack_eq]
  refine foldl_le_of_mem (slackOf_le s.clock) he (fun n => (foldl_le min_le_left _ _).trans ?_) _
  rw [if_pos hr]
  exact min_le_right ..

theorem slack_le_sleep {s : State} {e : Nat × Gang} (he : e ∈ s.gangs) {p : Path} (hp : p ∈ e.2.paths) {n : Nat} (hn : sleepLeft s.clock p = some n) :
    slack s ≤ n := by
  rw [slack_eq]
  exact foldl_le_of_mem (slackOf_le s.clock) he (fun _ => foldl_le_of_mem min_le_left (List.mem_filterMap.2 ⟨p, hp, hn⟩) (fun m => min_le_right m n) _) _

theorem stepTime_le_slack (s : State) : stepTime s ≤ slack s := (min_le_left _ _).trans (min_le_right _ _)

theorem stepTime_fits (s : State) : stepTime s ≤ 2 ^ 64 - 1 - s.clock.toNat := min_le_right _ _

theorem tick_clock (s : State) : s.tick.clock = s.clock + BitVec.ofNat 64 (stepTime s) := rfl

/-- CLOCK never goes back (R31). -/
theorem clock_le_tick (s : State) : s.clock.toNat ≤ s.tick.clock.toNat := by
  have h1 := stepTime_fits s
  have h2 := s.clock.isLt
  rw [tick_clock, BitVec.toNat_add, BitVec.toNat_ofNat, Nat.mod_eq_of_lt (by omega : stepTime s < 2 ^ 64), Nat.mod_eq_of_lt (by omega)]
  omega

/-- What has passed since an earlier time grows by no more than the step takes. -/
theorem since_tick_le (s : State) (start : DWord) : (s.tick.clock - start).toNat ≤ (s.clock - start).toNat + stepTime s := by
  rw [tick_clock, show s.clock + BitVec.ofNat 64 (stepTime s) - start = (s.clock - start) + BitVec.ofNat 64 (stepTime s) by
    rw [BitVec.sub_eq_add_neg, BitVec.sub_eq_add_neg, BitVec.add_assoc, BitVec.add_comm (BitVec.ofNat _ _), BitVec.add_assoc],
    BitVec.toNat_add, BitVec.toNat_ofNat]
  exact (Nat.mod_le _ _).trans (Nat.add_le_add_left (Nat.mod_le _ _) _)

theorem wait_tick {s : State} {e : Nat × Gang} (he : e ∈ s.gangs) (hr : e.2.readySince.isSome = true) (hw : waitOf s.clock e.2 ≤ 255) :
    waitOf s.tick.clock e.2 ≤ 255 := by
  obtain ⟨start, hs⟩ := Option.isSome_iff_exists.1 hr
  have h1 := (stepTime_le_slack s).trans (slack_le_wait he hr)
  have h2 := since_tick_le s start
  simp only [waitOf, hs] at h1 hw ⊢
  omega

theorem sleep_tick {s : State} {e : Nat × Gang} (he : e ∈ s.gangs) {p : Path} (hp : p ∈ e.2.paths) {start : DWord} {n : Nat} (hst : p.st = .sleep start n)
    (hw : (s.clock - start).toNat ≤ n + 256) : (s.tick.clock - start).toNat ≤ n + 256 := by
  have h1 := (stepTime_le_slack s).trans (slack_le_sleep he hp (n := n + 256 - (s.clock - start).toNat) (by simp only [sleepLeft, hst]))
  have h2 := since_tick_le s start
  omega

/-- Two gangs differ in their record of waiting times only (R134, R216). -/
def SameButWaits (g g' : Gang) : Prop := ∃ r u h o, g' = { g with readySince := r, urgent := u, held := h, rot := o }

theorem SameButWaits.ite {g a b : Gang} {c : Prop} [Decidable c] (ha : SameButWaits g a) (hb : SameButWaits g b) : SameButWaits g (if c then a else b) := by
  split <;> assumption

theorem countWait_keeps (now : DWord) (idle : Bool) (g : Gang) : SameButWaits g (countWait now idle g) := by
  cases idle <;> exact .ite (.ite ⟨_, _, _, _, rfl⟩ ⟨_, _, _, _, rfl⟩) ⟨_, _, _, _, rfl⟩

end Time

/-- A step whose turn is the issue of a path fetched: it runs what was decoded, or raises ILLOP (R65, R217). -/
theorem step_issue {s : State} {gi pi : Nat} {r : List Turn} {g : Gang} {p : Path} {t : TlbEntry} {a : Nat} {w0 w1 : DWord}
    (ha : s.agenda = .issue gi pi :: r) (hg : s.gang gi = some g) (hp : findPath g.paths pi = some p) (hi : Issuing { s with agenda := r } gi g p)
    (h : Fetches s g p t a w0 w1) :
    (∀ i, decodeWords w0 w1 = some i → step s = ticked (runIssued (({ s with agenda := r } : State).putGang gi g) gi g p i)) ∧
    (decodeWords w0 w1 = none → step s = .next (fetchTraps (({ s with agenda := r } : State).putGang gi g) gi g p (illop p)).tick) := by
  have h' : Fetches { s with agenda := r } g p t a w0 w1 :=
    ⟨h.canon, h.empty, h.window, h.tlb, h.leaf, h.place, h.fits, h.clean, h.first, h.second⟩
  obtain ⟨hsome, hnone⟩ := issueStep_fetched (s := { s with agenda := r }) hg hp hi h'
  rw [step_agenda ha]
  exact ⟨fun i hd => congrArg ticked (hsome i hd), fun hd => congrArg ticked (hnone hd)⟩

/-- A cell of Clover takes its turn with the front end (R217). -/
theorem step_cell {s : State} {k x : Nat} {r : List Turn} (h : s.agenda = .event (.cellFire k x) :: r) : step s = ticked (cellTurn k x { s with agenda := r }) :=
  step_agenda h

/-- Settles O58: the turn of the agenda is run by its own lemma, an issue through the fetch, and the time that passes fits the slack. -/
theorem stepRunsDecoded : Obligations.StepRunsDecoded := by
  refine ⟨?issue, fun s x r h => step_agenda h, fun s i r h he hc => ?event, ?cell, fun s h hd => ?due, fun t => ⟨clock_le_tick t, fun e he => wait_tick he,
    fun e he p hp start n => sleep_tick he hp, rfl, fun e he => ?kept⟩, ?issued⟩
  case issue =>
    intro s gi pi r g p t a w0 w1 ha hg hp hi h s1 c
    obtain ⟨hsome, hnone⟩ := step_issue ha hg hp hi h
    obtain rfl := findPath_id hp
    refine ⟨fun i hd hl => ?_, fun i x hd hx hc => ?_, fun hd ho => ?_, fun hd ho => ?_⟩
    · exact (hsome i hd).trans (congrArg ticked (runIssued_front (s := s1) hl))
    · exact (hsome i hd).trans (congrArg ticked (runIssued_clover (s := s1) hx hc))
    · have hquiet : otherOp g p.id (fun _ => true) = false := by simpa [otherOp] using ho
      refine (hnone hd).trans ?_
      rw [fetchTraps, hquiet]
      rfl
    · have hbusy : otherOp g p.id (fun _ => true) = true := by simpa [otherOp] using ho
      obtain ⟨hheld, hholds⟩ := noteHeld_held (pi := p.id) (gang_putGang_same { s with agenda := r } gi g) true
      refine ⟨_, hheld, hholds rfl, (hnone hd).trans ?_⟩
      rw [fetchTraps, hbusy]
      rfl
  case event => rw [step_agenda h, runTurn_event he hc]
  case cell =>
    intro s k x r h s1 c
    rw [step_cell h]
    exact ⟨fun hq => congrArg ticked (cellTurn_free hq), fun hm hf => congrArg ticked (cellTurn_urgent hm hf), fun hm hf => congrArg ticked (cellTurn_shared hm hf)⟩
  case due =>
    obtain ⟨f, hf, hstep⟩ := step_due h hd
    obtain ⟨gi, g, p, hg, hp, ⟨ht, rfl⟩ | ⟨ht, rfl⟩⟩ := mem_dueTurns hf
    · exact ⟨gi, g, p, hg, hp, .inl ⟨ht, hstep⟩⟩
    · exact ⟨gi, g, p, hg, hp, .inr ⟨ht, hstep⟩⟩
  case kept =>
    obtain ⟨e0, he0, rfl⟩ := List.mem_map.1 he
    obtain ⟨r, u, h, o, hk⟩ := countWait_keeps (t.clock + BitVec.ofNat 64 (stepTime t)) t.idle e0.2
    exact ⟨e0.2, he0, by dsimp only; rw [hk]⟩
  case issued =>
    intro gi p i lsu s0 t g0 g h0 ht hok
    refine ⟨fun hw => ?_, fun hw hh => ?_, fun hw hh => ?_⟩
    · obtain ⟨hheld, hholds⟩ := noteHeld_held (pi := p.id) h0 true
      exact ⟨_, issued_trapWaits i lsu ht hw, hheld, hholds rfl⟩
    · exact ⟨_, issued_done lsu ht hw hh, rfl, look_store_same .., fun n hn => look_store_ne _ _ hn, fun d c => noteSlot_coreAt _ g lsu hok d c⟩
    · obtain ⟨hheld, hholds⟩ := noteHeld_held (pi := p.id) ht (keepsGang g p i)
      exact ⟨_, issued_held lsu ht hw hh, hheld, hholds⟩

end Sys2Proof.Machine
end

section
/-! PROOFS. The paths of a gang after a change: what the slices that pass from path to path leave as it is, and which path keeps its slices (R118, R119). -/

namespace Sys2Proof.Machine
open Sys2Proof.Claim

-- Lanes and slices

theorem exists_lane {m : LaneMask} (h : m ≠ 0) : ∃ l, l < 64 ∧ m.getLsbD l = true := by
  by_contra hn
  exact h (BitVec.eq_of_getLsbD_eq fun l hl => by
    have := fun ht => hn ⟨l, hl, ht⟩
    simpa using this)

theorem ne_zero_of_lane {m : LaneMask} {l : Nat} (h : m.getLsbD l = true) : m ≠ 0 := by
  rintro rfl
  simp at h

/-- A slice that a set of slices lacks can be taken out of it. -/
theorem slices_without (x : BitVec 4) {i : Nat} (h : x.getLsbD i = false) : x &&& ~~~BitVec.ofNat 4 (2 ^ i) = x := by
  refine BitVec.eq_of_getLsbD_eq fun j hj => ?_
  by_cases hi : i = j
  · subst hi
    rw [BitVec.getLsbD_and, h, Bool.false_and]
  · simp only [BitVec.getLsbD_and, BitVec.getLsbD_not, BitVec.getLsbD_ofNat, Nat.testBit_two_pow, hi, hj]
    simp

theorem fullyCurrent_holds {p : Path} (h : fullyCurrent p = true) {i : Nat} (hi : (slicesOf p.mask).getLsbD i = true) : holdsSlice p i = true := by
  have hz : slicesOf p.mask &&& ~~~p.onSl = 0 := by simpa [fullyCurrent] using h
  have hlt : i < 4 := BitVec.lt_of_getLsbD hi
  have hb : (slicesOf p.mask &&& ~~~p.onSl).getLsbD i = false := by rw [hz]; exact BitVec.getLsbD_zero
  rw [BitVec.getLsbD_and, BitVec.getLsbD_not, hi] at hb
  simpa [holdsSlice, hlt] using hb

-- What passing slices on leaves

/-- A path without its age and its slices. -/
def shape (p : Path) : Nat × DWord × LaneMask × PathSt := (p.id, p.pc, p.mask, p.st)

theorem shape_eq {p q : Path} (h : shape p = shape q) : p.id = q.id ∧ p.pc = q.pc ∧ p.mask = q.mask ∧ p.st = q.st := by
  simpa [shape] using h

/-- A change of the paths that leaves their shapes leaves their list of shapes. -/
theorem map_shapes {f : Path → Path} (h : ∀ p, shape (f p) = shape p) (ps : List Path) : (ps.map f).map shape = ps.map shape := by
  simp [h]

theorem mapPath_shapes {f : Path → Path} (h : ∀ p, shape (f p) = shape p) (ps : List Path) (id : Nat) : (mapPath ps id f).map shape = ps.map shape :=
  map_shapes (fun p => by split <;> simp [h]) ps

theorem giveSlice_shapes (ps : List Path) (i id : Nat) : (giveSlice ps i id).map shape = ps.map shape :=
  map_shapes (fun p => by split <;> rfl) ps

theorem fillSlice_shapes (h : Option HandlerMode) (ps : List Path) (i : Nat) : (fillSlice h ps i).map shape = ps.map shape := by
  unfold fillSlice
  split
  · rfl
  · split
    · rfl
    · exact giveSlice_shapes ..

theorem fillSlices_shapes (h : Option HandlerMode) (ps : List Path) : (fillSlices h ps).map shape = ps.map shape := by
  simp only [fillSlices, fillSlice_shapes]

theorem unblock_shapes (h : Option HandlerMode) (now n : Nat) (ps : List Path) : (unblock h now n ps).map shape = ps.map shape := by
  induction n generalizing ps with
  | zero => rfl
  | succ n ih =>
    unfold unblock
    split
    · rfl
    · rw [ih, fillSlices_shapes, mapPath_shapes (f := fun p => { p with onSl := 0, since := now }) fun _ => rfl]

theorem handOver_shapes (h : Option HandlerMode) (id : Nat) (ps : List Path) (i : Nat) : (handOver h id ps i).map shape = ps.map shape := by
  unfold handOver
  split
  · rfl
  · split
    · rfl
    · split
      · rfl
      · exact giveSlice_shapes ..

theorem ids_of_shapes {ps qs : List Path} (h : ps.map shape = qs.map shape) : ps.map (·.id) = qs.map (·.id) := by
  simpa [shape, Function.comp_def] using congrArg (List.map Prod.fst) h

theorem mem_of_shapes {ps qs : List Path} (h : ps.map shape = qs.map shape) {p : Path} (hp : p ∈ ps) : ∃ q ∈ qs, shape q = shape p := by
  have := List.mem_map_of_mem (f := shape) hp
  rw [h] at this
  exact List.mem_map.1 this

theorem findPath_of_shapes {ps qs : List Path} (h : ps.map shape = qs.map shape) {id : Nat} {p : Path} (hp : findPath ps id = some p) :
    ∃ q, findPath qs id = some q ∧ shape q = shape p := by
  induction ps generalizing qs with
  | nil => cases hp
  | cons a ps ih =>
    cases qs with
    | nil => cases h
    | cons b qs =>
      obtain ⟨hab, hrest⟩ := List.cons_eq_cons.1 h
      have hid : b.id = a.id := (shape_eq hab).1.symm
      unfold findPath at hp ⊢
      rw [List.find?_cons] at hp ⊢
      rw [hid]
      cases hc : a.id == id with
      | true =>
        rw [hc] at hp
        cases hp
        exact ⟨b, rfl, hab.symm⟩
      | false =>
        rw [hc] at hp
        exact ih hrest hp

/-- A change that keeps the names finds the changed path. -/
theorem findPath_map {f : Path → Path} (hf : ∀ p, (f p).id = p.id) (ps : List Path) (id : Nat) : findPath (ps.map f) id = (findPath ps id).map f := by
  simp [findPath, List.find?_map, hf]

theorem mem_of_findPath {ps : List Path} {id : Nat} {p : Path} (h : findPath ps id = some p) : p ∈ ps := List.mem_of_find?_eq_some h

/-- Paths with names of their own. -/
def OwnIds (ps : List Path) : Prop := ps.Pairwise fun a b => a.id ≠ b.id

theorem ownIds_iff {ps : List Path} : OwnIds ps ↔ (ps.map (·.id)).Nodup := List.pairwise_map.symm

theorem OwnIds.eq_of_id {ps : List Path} (h : OwnIds ps) {p q : Path} (hp : p ∈ ps) (hq : q ∈ ps) (hid : p.id = q.id) : p = q :=
  List.inj_on_of_nodup_map (ownIds_iff.1 h) hp hq hid

theorem OwnIds.findPath {ps : List Path} (h : OwnIds ps) {p : Path} (hp : p ∈ ps) : findPath ps p.id = some p := by
  obtain ⟨q, hq⟩ := Option.isSome_iff_exists.1 (List.find?_isSome.2 ⟨p, hp, by simp⟩ : (List.find? (fun q => q.id == p.id) ps).isSome = true)
  have hq : Machine.findPath ps p.id = some q := hq
  rw [hq, h.eq_of_id (mem_of_findPath hq) hp (findPath_id hq)]

theorem OwnIds.of_shapes {ps qs : List Path} (h : OwnIds ps) (hs : qs.map shape = ps.map shape) : OwnIds qs :=
  ownIds_iff.2 (by rw [ids_of_shapes hs]; exact ownIds_iff.1 h)

-- Which path keeps its slices

theorem mem_oldestPath {ps : List Path} {p : Path} (h : oldestPath ps = some p) : p ∈ ps := by
  induction ps generalizing p with
  | nil => cases h
  | cons a r ih =>
    unfold oldestPath at h
    split at h
    · cases h
      exact List.mem_cons_self
    · rename_i q hq
      cases h
      split
      · exact List.mem_cons_of_mem _ (ih hq)
      · exact List.mem_cons_self

theorem mem_youngestPath {ps : List Path} {p : Path} (h : youngestPath ps = some p) : p ∈ ps := by
  induction ps generalizing p with
  | nil => cases h
  | cons a r ih =>
    unfold youngestPath at h
    split at h
    · cases h
      exact List.mem_cons_self
    · rename_i q hq
      cases h
      split
      · exact List.mem_cons_of_mem _ (ih hq)
      · exact List.mem_cons_self

/-- A path that neither needs a slice nor can lose one: it is current on all its slices, or holds none and waits for none. -/
def Steady (h : Option HandlerMode) (p : Path) : Prop := fullyCurrent p = true ∨ (p.onSl = 0 ∧ eligible h p = false)

theorem mem_giveSlice {ps : List Path} {p : Path} {i id : Nat} (hp : p ∈ ps) (hid : p.id ≠ id) (hf : holdsSlice p i = false) : p ∈ giveSlice ps i id := by
  refine List.mem_map.2 ⟨p, hp, ?_⟩
  rw [if_neg hid, slices_without p.onSl hf]

theorem mem_fillSlice {h : Option HandlerMode} {ps : List Path} {p : Path} (hs : Steady h p) (ho : OwnIds ps) (hp : p ∈ ps) (i : Nat) :
    p ∈ fillSlice h ps i := by
  unfold fillSlice
  split
  · exact hp
  · rename_i hfree
    split
    · exact hp
    · rename_i q hq
      obtain ⟨hqp, hel⟩ := List.mem_filter.1 (mem_oldestPath hq)
      obtain ⟨hel, hsl⟩ := Bool.and_eq_true_iff.1 hel
      have hnone : holdsSlice p i = false := by
        by_contra hn
        exact hfree (List.any_eq_true.2 ⟨p, hp, by simpa using hn⟩)
      refine mem_giveSlice hp (fun hid => ?_) hnone
      obtain rfl := ho.eq_of_id hp hqp hid
      rcases hs with hc | ⟨-, hne⟩
      · exact absurd (fullyCurrent_holds hc hsl) (by simp [hnone])
      · exact absurd hel (by simp [hne])

theorem mem_fillSlices {h : Option HandlerMode} {ps : List Path} {p : Path} (hs : Steady h p) (ho : OwnIds ps) (hp : p ∈ ps) : p ∈ fillSlices h ps := by
  have next : ∀ {qs : List Path} (i : Nat), OwnIds qs ∧ p ∈ qs → OwnIds (fillSlice h qs i) ∧ p ∈ fillSlice h qs i := fun i hq =>
    ⟨hq.1.of_shapes (fillSlice_shapes ..), mem_fillSlice hs hq.1 hq.2 i⟩
  exact (next 3 (next 2 (next 1 (next 0 ⟨ho, hp⟩)))).2

theorem mem_of_mem_crossing {ps : List Path} {p : Path} (h : p ∈ crossing ps) : p ∈ ps := (List.mem_filter.1 h).1

theorem not_mem_knotPaths {h : Option HandlerMode} {ps : List Path} {p : Path} (hs : Steady h p) : p ∉ knotPaths h ps := by
  intro hk
  have hb := mem_of_mem_crossing (mem_of_mem_crossing (mem_of_mem_crossing (mem_of_mem_crossing hk)))
  obtain ⟨-, hb⟩ := List.mem_filter.1 hb
  rcases hs with hc | ⟨h0, -⟩
  · have hz : slicesOf p.mask &&& ~~~p.onSl = 0 := by simpa [fullyCurrent] using hc
    simp [hz] at hb
  · simp [h0] at hb

/-- A steady path is as it was once free slices are given away and blocked paths have given way. -/
theorem mem_unblock {h : Option HandlerMode} {p : Path} (hs : Steady h p) (now n : Nat) {ps : List Path} (ho : OwnIds ps) (hp : p ∈ ps) :
    p ∈ unblock h now n ps := by
  induction n generalizing ps with
  | zero => exact hp
  | succ n ih =>
    unfold unblock
    split
    · exact hp
    · rename_i y hy
      have hk := mem_youngestPath hy
      have hyp : y ∈ ps := by
        have hb := mem_of_mem_crossing (mem_of_mem_crossing (mem_of_mem_crossing (mem_of_mem_crossing hk)))
        exact (List.mem_filter.1 hb).1
      have hne : p.id ≠ y.id := fun hid => by
        obtain rfl := ho.eq_of_id hp hyp hid
        exact not_mem_knotPaths hs hk
      have hm : p ∈ mapPath ps y.id (fun q => { q with onSl := 0, since := now }) := List.mem_map.2 ⟨p, hp, if_neg hne⟩
      have hom := ho.of_shapes (mapPath_shapes (f := fun q => { q with onSl := 0, since := now }) (fun _ => rfl) ps y.id)
      exact ih (hom.of_shapes (fillSlices_shapes ..)) (mem_fillSlices hs hom hm)

/-- The paths once their slices have been shared out. (Irreducible: its rounds are many, and no proof is to run them.) -/
@[irreducible] def shared (h : Option HandlerMode) (now : Nat) (ps : List Path) : List Path := unblock h now unblockRounds (fillSlices h ps)

theorem shared_shapes (h : Option HandlerMode) (now : Nat) (ps : List Path) : (shared h now ps).map shape = ps.map shape := by
  rw [shared, unblock_shapes, fillSlices_shapes]

theorem mem_shared {h : Option HandlerMode} {p : Path} (hs : Steady h p) (now : Nat) {ps : List Path} (ho : OwnIds ps) (hp : p ∈ ps) : p ∈ shared h now ps := by
  rw [shared]
  exact mem_unblock hs now _ (ho.of_shapes (fillSlices_shapes ..)) (mem_fillSlices hs ho hp)

theorem findPath_shared {h : Option HandlerMode} {p : Path} (hs : Steady h p) (now : Nat) {ps : List Path} (ho : OwnIds ps) (hp : p ∈ ps) :
    findPath (shared h now ps) p.id = some p :=
  (ho.of_shapes (shared_shapes ..)).findPath (mem_shared hs now ho hp)

end Sys2Proof.Machine
end

section
/-! PROOFS. A gang comes to rest once a path has moved: it goes on, it stops at a rejoin, or its entry is popped (R109, R119). -/

namespace Sys2Proof.Machine
open Sys2Proof.Claim

-- Which entries stay

theorem and_lane {x y : LaneMask} {l : Nat} : (x &&& y).getLsbD l = true ↔ x.getLsbD l = true ∧ y.getLsbD l = true := by
  rw [BitVec.getLsbD_and, Bool.and_eq_true_iff]

theorem not_lane {x : LaneMask} {l : Nat} (h : l < 64) : (~~~x).getLsbD l = true ↔ x.getLsbD l = false := by
  simp [h]

theorem lane_of_subset {x y : LaneMask} (h : x &&& ~~~y = 0) {l : Nat} (hl : l < 64) (hx : x.getLsbD l = true) : y.getLsbD l = true := by
  by_contra hy
  exact ne_zero_of_lane (and_lane.2 ⟨hx, (not_lane hl).2 (by simpa using hy)⟩) h

/-- Some lane of an entry has not come to its rejoin: it has not exited, and no path that has stopped there holds it. -/
def LaneOut (exited : LaneMask) (ps : List Path) (e : StackEntry) : Prop :=
  ∃ l, l < 64 ∧ e.members.getLsbD l = true ∧ exited.getLsbD l = false ∧ ∀ q ∈ ps, q.mask.getLsbD l = true → ¬(q.st = .atRejoin ∧ q.pc = e.rejoin)

theorem foldl_mask_getLsbD (qs : List Path) (m : LaneMask) (l : Nat) :
    (qs.foldl (fun acc p => acc ||| p.mask) m).getLsbD l = (m.getLsbD l || qs.any (fun p => p.mask.getLsbD l)) := by
  induction qs generalizing m with
  | nil => simp
  | cons q qs ih => simp only [List.foldl_cons, ih, BitVec.getLsbD_or, List.any_cons, Bool.or_assoc]

theorem mem_arrivedAt {inner : List StackEntry} {e : StackEntry} {ps : List Path} {q : Path} : q ∈ arrivedAt inner e ps ↔
    q ∈ ps ∧ q.st = .atRejoin ∧ q.pc = e.rejoin ∧ q.mask &&& ~~~e.members = 0 ∧ ∀ x ∈ inner, x.members &&& q.mask = 0 := by
  simp [arrivedAt, and_assoc]

/-- An entry is complete when each of its lanes has exited or arrived (R109). -/
theorem entryComplete_iff {inner : List StackEntry} {e : StackEntry} {exited : LaneMask} {ps : List Path} : entryComplete inner e exited ps = true ↔
    ∀ l, l < 64 → e.members.getLsbD l = true → exited.getLsbD l = true ∨ ∃ q ∈ arrivedAt inner e ps, q.mask.getLsbD l = true := by
  have hl : ∀ l, ((arrivedAt inner e ps).foldl (fun acc p => acc ||| p.mask) exited).getLsbD l = true ↔
      exited.getLsbD l = true ∨ ∃ q ∈ arrivedAt inner e ps, q.mask.getLsbD l = true := fun l => by
    rw [foldl_mask_getLsbD, Bool.or_eq_true_iff, List.any_eq_true]
  rw [entryComplete, beq_iff_eq]
  constructor
  · exact fun h l h64 hm => (hl l).1 (lane_of_subset h h64 hm)
  · intro h
    by_contra hne
    obtain ⟨l, h64, hm⟩ := exists_lane hne
    obtain ⟨hm, hn⟩ := and_lane.1 hm
    exact absurd ((hl l).2 (h l h64 hm)) (by simpa [h64] using hn)

theorem LaneOut.not_complete {inner : List StackEntry} {e : StackEntry} {exited : LaneMask} {ps : List Path} (h : LaneOut exited ps e) :
    entryComplete inner e exited ps = false := by
  obtain ⟨l, h64, hm, hx, hq⟩ := h
  by_contra hc
  rcases entryComplete_iff.1 (by simpa using hc) l h64 hm with hl | ⟨q, harr, hl⟩
  · rw [hx] at hl
    cases hl
  · obtain ⟨hmem, hst, hpc, -, -⟩ := mem_arrivedAt.1 harr
    exact hq q hmem hl ⟨hst, hpc⟩

theorem firstComplete_none {exited : LaneMask} {ps : List Path} {es : List StackEntry} (h : ∀ e ∈ es, LaneOut exited ps e) (inner : List StackEntry) :
    firstComplete exited ps inner es = none := by
  induction es generalizing inner with
  | nil => rfl
  | cons e es ih =>
    unfold firstComplete
    rw [(h e List.mem_cons_self).not_complete]
    exact ih (fun x hx => h x (List.mem_cons_of_mem _ hx)) _

/-- No entry is popped while a lane of each is out. -/
theorem popEntries_open {hm : Option HandlerMode} {exited : LaneMask} {ps : List Path} {st : List StackEntry}
    (h : ∀ e ∈ openEntries hm st, LaneOut exited ps e) (now n : Nat) : popEntries hm exited now n (ps, st) = (ps, st) := by
  cases n with
  | zero => rfl
  | succ n =>
    unfold popEntries
    simp only [firstComplete_none h]

/-- A gang whose entries all stay comes to rest: paths stop, and slices are shared out. -/
theorem settle_open {g : Gang} (h : ∀ e ∈ entries g, LaneOut g.exited (g.paths.map (stopAtRejoin (entries g))) e) (now : Nat) :
    settle g now = { g with paths := shared g.handler now (g.paths.map (stopAtRejoin (entries g))) } := by
  have hp := popEntries_open h now (g.stack.length + 1)
  unfold settle settled
  dsimp only
  rw [show g.paths.map (stopAtRejoin (openEntries g.handler g.stack)) = g.paths.map (stopAtRejoin (entries g)) from rfl, hp, shared]

-- Which paths stop

theorem stopAtRejoin_keeps (es : List StackEntry) (q : Path) : (stopAtRejoin es q).id = q.id ∧ (stopAtRejoin es q).pc = q.pc ∧ (stopAtRejoin es q).mask = q.mask := by
  unfold stopAtRejoin
  split <;> exact ⟨rfl, rfl, rfl⟩

theorem stopAtRejoin_rests {es : List StackEntry} {q : Path} (h : q.st = .ready → ∀ e, innermost es q.mask = some e → e.rejoin ≠ q.pc) : stopAtRejoin es q = q := by
  refine if_neg fun hc => ?_
  obtain ⟨hst, hat⟩ := hc
  unfold atItsRejoin at hat
  split at hat
  · cases hat
  · rename_i e he
    exact h hst e he (by simpa using hat)

theorem stopAtRejoin_stops {es : List StackEntry} {q : Path} {e : StackEntry} (hst : q.st = .ready) (he : innermost es q.mask = some e) (hpc : e.rejoin = q.pc) :
    stopAtRejoin es q = { q with st := .atRejoin, onSl := 0 } := by
  refine if_pos ⟨hst, ?_⟩
  simp only [atItsRejoin, he, hpc, beq_self_eq_true]

-- A path that has moved

/-- `g2` is gang `g` with its path `p` replaced by `p'`, of the same lanes, but for ages and slices. -/
structure MovedTo (g g2 : Gang) (p p' : Path) : Prop where
  handler : g2.handler = g.handler
  exited : g2.exited = g.exited
  stack : g2.stack = g.stack
  shapes : g2.paths.map shape = g.paths.map fun q => if q.id = p.id then shape p' else shape q
  id : p'.id = p.id
  mask : p'.mask = p.mask

section Moved

variable {g g2 g3 : Gang} {p p' : Path}

theorem movedTo_mapPath (ho : OwnIds g.paths) (hp : p ∈ g.paths) (f : Path → Path) (hid : (f p).id = p.id) (hmask : (f p).mask = p.mask) :
    MovedTo g { g with paths := mapPath g.paths p.id f } p (f p) := by
  refine ⟨rfl, rfl, rfl, ?_, hid, hmask⟩
  rw [mapPath, List.map_map]
  refine List.map_congr_left fun q hq => ?_
  by_cases h : q.id = p.id
  · rw [Function.comp_apply, if_pos h, if_pos h, ho.eq_of_id hq hp h]
  · rw [Function.comp_apply, if_neg h, if_neg h]

/-- Ages and slices do not matter. -/
theorem MovedTo.of_shapes (h : MovedTo g g2 p p') (hh : g3.handler = g2.handler) (hx : g3.exited = g2.exited) (hs : g3.stack = g2.stack)
    (hp : g3.paths.map shape = g2.paths.map shape) : MovedTo g g3 p p' :=
  ⟨hh.trans h.handler, hx.trans h.exited, hs.trans h.stack, hp.trans h.shapes, h.id, h.mask⟩

theorem MovedTo.mem (h : MovedTo g g2 p p') {r : Path} (hr : r ∈ g2.paths) : shape r = shape p' ∨ ∃ q ∈ g.paths, q.id ≠ p.id ∧ shape r = shape q := by
  have hr := List.mem_map_of_mem (f := shape) hr
  rw [h.shapes] at hr
  obtain ⟨q, hq, hs⟩ := List.mem_map.1 hr
  split at hs
  · exact .inl hs.symm
  · exact .inr ⟨q, hq, ‹_›, hs.symm⟩

theorem MovedTo.mask_mem (h : MovedTo g g2 p p') (ho : OwnIds g.paths) (hp : p ∈ g.paths) {q : Path} (hq : q ∈ g.paths) : ∃ r ∈ g2.paths, r.mask = q.mask := by
  have hq' := List.mem_map_of_mem (f := fun q => if q.id = p.id then shape p' else shape q) hq
  rw [← h.shapes] at hq'
  obtain ⟨r, hr, hs⟩ := List.mem_map.1 hq'
  refine ⟨r, hr, ?_⟩
  split at hs
  · rename_i hid
    rw [(shape_eq hs).2.2.1, h.mask, ho.eq_of_id hq hp hid]
  · exact (shape_eq hs).2.2.1

theorem MovedTo.ownIds (h : MovedTo g g2 p p') (ho : OwnIds g.paths) : OwnIds g2.paths := by
  refine ownIds_iff.2 ?_
  have hids : g2.paths.map (·.id) = g.paths.map (·.id) := by
    have := congrArg (List.map Prod.fst) h.shapes
    rw [List.map_map, List.map_map] at this
    refine this.trans (List.map_congr_left fun q _ => ?_)
    dsimp only [Function.comp_apply]
    split
    · rename_i hid
      exact h.id.trans hid.symm
    · rfl
  rw [hids]
  exact ownIds_iff.1 ho

theorem MovedTo.find (h : MovedTo g g2 p p') (ho : OwnIds g.paths) (hp : p ∈ g.paths) : ∃ q, findPath g2.paths p.id = some q ∧ shape q = shape p' := by
  have hp' := List.mem_map_of_mem (f := fun q => if q.id = p.id then shape p' else shape q) hp
  rw [← h.shapes, if_pos rfl] at hp'
  obtain ⟨q, hq, hs⟩ := List.mem_map.1 hp'
  refine ⟨q, ?_, hs⟩
  rw [← h.id, ← (shape_eq hs).1]
  exact (h.ownIds ho).findPath hq

theorem MovedTo.entries (h : MovedTo g g2 p p') : entries g2 = entries g := by rw [Claim.entries, Claim.entries, h.handler, h.stack]

theorem eq_of_lane {ps : List Path} (hl : ps.Pairwise fun a b => a.mask &&& b.mask = 0) {a b : Path} (ha : a ∈ ps) (hb : b ∈ ps) {l : Nat}
    (hal : a.mask.getLsbD l = true) (hbl : b.mask.getLsbD l = true) : a = b := by
  have : Std.Symm fun a b : Path => a.mask &&& b.mask = 0 := ⟨fun a b h => by rw [BitVec.and_comm]; exact h⟩
  by_contra hne
  exact ne_zero_of_lane (and_lane.2 ⟨hal, hbl⟩) (hl.forall ha hb hne)

/-- A path that has lanes of an entry and has not come to its rejoin keeps the entry open. -/
theorem laneOut_of_path (hl : g.paths.Pairwise fun a b => a.mask &&& b.mask = 0) {q : Path} {e : StackEntry} {ps : List Path} (hq : q ∈ g.paths)
    (hn : q.mask &&& e.members &&& ~~~g.exited ≠ 0)
    (h : ∀ r ∈ ps, ∃ r0 ∈ g.paths, r.mask = r0.mask ∧ (r0 = q → ¬(r.st = .atRejoin ∧ r.pc = e.rejoin))) : LaneOut g.exited ps e := by
  obtain ⟨l, h64, hb⟩ := exists_lane hn
  obtain ⟨hb, hx⟩ := and_lane.1 hb
  obtain ⟨hql, hel⟩ := and_lane.1 hb
  refine ⟨l, h64, hel, (not_lane h64).1 hx, fun r hr hrl => ?_⟩
  obtain ⟨r0, hr0, hm, ha⟩ := h r hr
  exact ha (eq_of_lane hl hr0 hq (hm ▸ hrl) hql)

/-- The path moves to where it may go on: nothing stops, and nothing is popped. -/
theorem settle_goesOn (h : MovedTo g g2 p p') (hst : p'.st ≠ .atRejoin) (hp : p ∈ g.paths) (hl : g.paths.Pairwise fun a b => a.mask &&& b.mask = 0)
    (hg : GoesOn g p p'.pc) (now : Nat) : settle g2 now = { g2 with paths := shared g2.handler now g2.paths } := by
  obtain ⟨hothers, hfree, hout⟩ := hg
  have hstop : g2.paths.map (stopAtRejoin (entries g2)) = g2.paths := by
    rw [h.entries]
    refine (List.map_congr_left fun r hr => stopAtRejoin_rests fun hready e he => ?_).trans (List.map_id _)
    rcases h.mem hr with hs | ⟨q, hq, hid, hs⟩
    · obtain ⟨-, hpc, hmask, -⟩ := shape_eq hs
      rw [hpc]
      exact hfree e (by rw [← h.mask, ← hmask]; exact he)
    · obtain ⟨-, hpc, hmask, hqst⟩ := shape_eq hs
      rw [hpc]
      exact hothers q hq hid (hqst ▸ hready) e (hmask ▸ he)
  have hopen : ∀ e ∈ entries g2, LaneOut g2.exited (g2.paths.map (stopAtRejoin (entries g2))) e := by
    rw [hstop, h.entries, h.exited]
    intro e he
    obtain ⟨q, hq, hn, hnot⟩ := hout e he
    refine laneOut_of_path hl hq hn fun r hr => ?_
    rcases h.mem hr with hs | ⟨q0, hq0, -, hs⟩
    · obtain ⟨-, -, hmask, hrst⟩ := shape_eq hs
      exact ⟨p, hp, hmask.trans h.mask, fun _ ha => hst (hrst ▸ ha.1)⟩
    · obtain ⟨-, hpc, hmask, hrst⟩ := shape_eq hs
      exact ⟨q0, hq0, hmask, fun heq ha => hnot.elim (fun hn => hn (heq ▸ hrst ▸ ha.1)) fun hn => hn (heq ▸ hpc ▸ ha.2)⟩
  rw [settle_open hopen, hstop]

/-- The path moves to its rejoin: it stops there, the other paths stay, and nothing is popped. -/
theorem settle_stopsAt (h : MovedTo g g2 p p') (hp : p ∈ g.paths) (hl : g.paths.Pairwise fun a b => a.mask &&& b.mask = 0)
    (hs : StopsAt g p p'.pc) (now : Nat) : settle g2 now = { g2 with paths := shared g2.handler now (g2.paths.map (stopAtRejoin (entries g))) } := by
  obtain ⟨hothers, -, hout⟩ := hs
  have hopen : ∀ e ∈ entries g2, LaneOut g2.exited (g2.paths.map (stopAtRejoin (entries g2))) e := by
    rw [h.entries, h.exited]
    intro e he
    obtain ⟨q, hq, hn, hnot⟩ := hout e he
    obtain ⟨hq, hqid⟩ := List.mem_filter.1 hq
    refine laneOut_of_path hl hq hn fun r hr => ?_
    obtain ⟨r', hr', rfl⟩ := List.mem_map.1 hr
    rcases h.mem hr' with hs | ⟨q0, hq0, hid, hs⟩
    · obtain ⟨-, -, hmask, -⟩ := shape_eq hs
      exact ⟨p, hp, (stopAtRejoin_keeps ..).2.2.trans (hmask.trans h.mask), fun heq => absurd (heq ▸ hqid) (by simp)⟩
    · obtain ⟨-, hpc, hmask, hrst⟩ := shape_eq hs
      have hrest : stopAtRejoin (entries g) r' = r' :=
        stopAtRejoin_rests fun hready e he => by rw [hpc]; exact hothers q0 hq0 hid (hrst ▸ hready) e (hmask ▸ he)
      rw [hrest]
      exact ⟨q0, hq0, hmask, fun heq ha => hnot.elim (fun hn => hn (heq ▸ hrst ▸ ha.1)) fun hn => hn (heq ▸ hpc ▸ ha.2)⟩
  rw [settle_open hopen, h.entries]

end Moved

-- The last path of an entry

/-- What `popEntries` leaves of a path that another takes slices from. -/
def displace (sl : BitVec 4) (now : Nat) (p : Path) : Path := if p.onSl &&& sl = 0 then p else { p with onSl := p.onSl &&& ~~~sl, since := now }

theorem displace_shape (sl : BitVec 4) (now : Nat) (p : Path) : shape (displace sl now p) = shape p := by
  unfold displace
  split <;> rfl

/-- Every path within the innermost entry has stopped at its rejoin: they become one path, and no further entry is popped (R109, R119). -/
theorem popEntries_last {ps : List Path} {e : StackEntry} {rest : List StackEntry} {exited : LaneMask} (ho : OwnIds ps)
    (hin : ∀ q ∈ ps, q.mask &&& e.members ≠ 0 → q.st = .atRejoin ∧ q.pc = e.rejoin ∧ q.mask &&& ~~~e.members = 0)
    (hcover : ∀ l, l < 64 → e.members.getLsbD l = true → exited.getLsbD l = true ∨ ∃ q ∈ ps, q.mask.getLsbD l = true)
    (hlive : e.members &&& ~~~exited ≠ 0) (hout : ∀ x ∈ rest, x.rejoin ≠ e.rejoin ∧ x.members &&& (e.members &&& ~~~exited) ≠ 0) (now n : Nat) :
    ∃ r others, popEntries none exited now (n + 2) (ps, e :: rest) = (r :: others, rest) ∧ r.pc = e.rejoin ∧ r.mask = e.members &&& ~~~exited ∧
      r.st = .ready ∧ r.onSl = slicesOf (e.members &&& ~~~exited) ∧ OwnIds (r :: others) ∧ ∀ q ∈ others, q.mask &&& e.members = 0 := by
  have harr : ∀ q ∈ ps, q.mask &&& e.members ≠ 0 → q ∈ arrivedAt [] e ps := fun q hq hm => by
    obtain ⟨hst, hpc, hsub⟩ := hin q hq hm
    exact mem_arrivedAt.2 ⟨hq, hst, hpc, hsub, nofun⟩
  have hcomplete : entryComplete [] e exited ps = true := entryComplete_iff.2 fun l h64 hm => (hcover l h64 hm).imp_right fun ⟨q, hq, hl⟩ =>
    ⟨q, harr q hq (ne_zero_of_lane (and_lane.2 ⟨hl, hm⟩)), hl⟩
  cases hgot : arrivedAt [] e ps with
  | nil =>
    obtain ⟨l, h64, hl⟩ := exists_lane hlive
    obtain ⟨hm, hx⟩ := and_lane.1 hl
    rcases entryComplete_iff.1 hcomplete l h64 hm with hx' | ⟨q, hq, -⟩
    · exact absurd hx' (by simpa [h64] using hx)
    · rw [hgot] at hq
      cases hq
  | cons q0 got =>
    let live := e.members &&& ~~~exited
    let merged : Path := { id := q0.id, pc := e.rejoin, mask := live, st := .ready, since := now, onSl := slicesOf live }
    let others := (ps.filter fun p => !((q0 :: got).any fun q => q.id == p.id)).map (displace (slicesOf live) now)
    have hsplit : popEntries none exited now (n + 2) (ps, e :: rest) = popEntries none exited now (n + 1) (stopAtRejoin rest merged :: others, rest) := by
      rw [popEntries]
      simp only [openEntries, firstComplete, hcomplete, if_true, hgot, List.nil_append, List.drop_length, List.append_nil]
      rfl
    have hmerged : stopAtRejoin rest merged = merged := stopAtRejoin_rests fun _ x hx => (hout x (List.mem_of_find?_eq_some hx)).1
    have hothers : ∀ q ∈ others, ∃ q' ∈ ps, q' ∉ arrivedAt [] e ps ∧ q0.id ≠ q'.id ∧ shape q = shape q' := by
      intro q hq
      obtain ⟨q', hq', rfl⟩ := List.mem_map.1 hq
      obtain ⟨hps, hnot⟩ := List.mem_filter.1 hq'
      have hnone : ∀ x ∈ q0 :: got, x.id ≠ q'.id := by simpa using hnot
      exact ⟨q', hps, fun ha => hnone q' (hgot ▸ ha) rfl, hnone q0 List.mem_cons_self, displace_shape ..⟩
    have hclear : ∀ q ∈ others, q.mask &&& e.members = 0 := fun q hq => by
      obtain ⟨q', hps, hna, -, hs⟩ := hothers q hq
      rw [(shape_eq hs).2.2.1]
      exact not_not.1 fun hm => hna (harr q' hps hm)
    have hopen : ∀ x ∈ openEntries none rest, LaneOut exited (merged :: others) x := by
      intro x hx
      obtain ⟨l, h64, hl⟩ := exists_lane (hout x hx).2
      obtain ⟨hxl, hll⟩ := and_lane.1 hl
      obtain ⟨hm, hx⟩ := and_lane.1 hll
      refine ⟨l, h64, hxl, (not_lane h64).1 hx, fun q hq hql => ?_⟩
      rcases List.mem_cons.1 hq with rfl | hq
      · exact fun ha => PathSt.noConfusion ha.1
      · exact absurd (hclear q hq) (ne_zero_of_lane (and_lane.2 ⟨hql, hm⟩))
    refine ⟨merged, others, ?_, rfl, rfl, rfl, rfl, List.pairwise_cons.2 ⟨fun q hq => ?_, ?_⟩, hclear⟩
    · rw [hsplit, hmerged, popEntries_open hopen]
    · obtain ⟨q', -, -, hid, hs⟩ := hothers q hq
      rw [(shape_eq hs).1]
      exact hid
    · exact OwnIds.of_shapes (ho.filter _) (map_shapes (displace_shape _ _) _)

/-- A gang comes to rest with what is left of its paths and entries. -/
theorem settle_popped {g : Gang} {now : Nat} {ps : List Path} {st : List StackEntry} (hh : g.handler = none)
    (hpop : popEntries none g.exited now (g.stack.length + 1) (g.paths.map (stopAtRejoin g.stack), g.stack) = (ps, st)) :
    settle g now = { g with paths := shared none now ps, stack := st } := by
  unfold settle settled
  rw [hh]
  simp only [openEntries, hpop, shared]

/-- The one path that has lanes of some set stays the only one as slices are shared out. -/
theorem mem_shared_clear {h : Option HandlerMode} {r : Path} {others : List Path} {m : LaneMask} (now : Nat) (ho : OwnIds (r :: others))
    (hr : r ∈ shared h now (r :: others)) (hclear : ∀ q ∈ others, q.mask &&& m = 0) (q : Path) (hq : q ∈ shared h now (r :: others)) (hm : q.mask &&& m ≠ 0) :
    q = r := by
  have hshapes := shared_shapes h now (r :: others)
  obtain ⟨q', hq', hs⟩ := mem_of_shapes hshapes hq
  obtain ⟨hid, -, hmask, -⟩ := shape_eq hs
  rcases List.mem_cons.1 hq' with rfl | hq'
  · exact (ho.of_shapes hshapes).eq_of_id hq hr hid.symm
  · exact absurd (hclear q' hq') (hmask ▸ hm)

/-- The last path within the innermost entry moves to its rejoin: the entry is popped (R109). -/
theorem settle_last {g g2 : Gang} {p p' : Path} {e : StackEntry} {rest : List StackEntry} (h : MovedTo g g2 p p') (hst : p'.st = .ready)
    (ho : OwnIds g.paths) (hp : p ∈ g.paths) (hne : p.mask ≠ 0) (hl : LastIn g p e rest (e.members &&& ~~~g.exited)) (hpc : e.rejoin = p'.pc) (now : Nat) :
    Popped (settle g2 now) e rest (e.members &&& ~~~g.exited) := by
  have hh : g2.handler = none := h.handler.trans hl.handler
  have hstack : g2.stack = e :: rest := h.stack.trans hl.stack
  obtain ⟨ps, hps⟩ : ∃ ps, ps = g2.paths.map (stopAtRejoin (e :: rest)) := ⟨_, rfl⟩
  have hids : OwnIds ps := ownIds_iff.2 (by
    rw [hps, List.map_map, show (fun q : Path => q.id) ∘ stopAtRejoin (e :: rest) = fun q => q.id from funext fun q => (stopAtRejoin_keeps ..).1]
    exact ownIds_iff.1 (h.ownIds ho))
  have hinside : innermost (e :: rest) p.mask = some e := by
    obtain ⟨l, h64, hlane⟩ := exists_lane hne
    have hm : e.members &&& p.mask ≠ 0 := ne_zero_of_lane (and_lane.2 ⟨lane_of_subset hl.inside h64 hlane, hlane⟩)
    exact List.find?_cons_of_pos (by simpa using hm)
  have hin : ∀ q ∈ ps, q.mask &&& e.members ≠ 0 → q.st = .atRejoin ∧ q.pc = e.rejoin ∧ q.mask &&& ~~~e.members = 0 := by
    intro q hq hm
    rw [hps] at hq
    obtain ⟨r, hr, rfl⟩ := List.mem_map.1 hq
    rw [(stopAtRejoin_keeps ..).2.2] at hm
    rcases h.mem hr with hs | ⟨q0, hq0, hid, hs⟩
    · obtain ⟨-, hrpc, hrmask, hrst⟩ := shape_eq hs
      have hrmask := hrmask.trans h.mask
      rw [stopAtRejoin_stops (hrst.trans hst) (hrmask ▸ hinside) (hpc.trans hrpc.symm)]
      exact ⟨rfl, hrpc.trans hpc.symm, hrmask ▸ hl.inside⟩
    · obtain ⟨-, hrpc, hrmask, hrst⟩ := shape_eq hs
      obtain ⟨hqst, hqpc, hqsub⟩ := hl.others q0 hq0 hid (hrmask ▸ hm)
      have hstay : stopAtRejoin (e :: rest) r = r := stopAtRejoin_rests fun hready => absurd (hready.symm.trans (hrst.trans hqst)) nofun
      rw [hstay]
      exact ⟨hrst.trans hqst, hrpc.trans hqpc, hrmask ▸ hqsub⟩
  have hcover : ∀ l, l < 64 → e.members.getLsbD l = true → g.exited.getLsbD l = true ∨ ∃ q ∈ ps, q.mask.getLsbD l = true := fun l h64 hm =>
    (hl.cover l h64 hm).imp_right fun ⟨q, hq, hql⟩ => by
      obtain ⟨r, hr, hmask⟩ := h.mask_mem ho hp hq
      exact ⟨_, hps ▸ List.mem_map_of_mem hr, by rw [(stopAtRejoin_keeps ..).2.2, hmask]; exact hql⟩
  obtain ⟨r, others, hpop, hrpc, hrmask, hrst, hrsl, hown, hclear⟩ := popEntries_last hids hin hcover hl.some_left hl.outer now rest.length
  have hsettle := settle_popped (g := g2) (ps := r :: others) (st := rest) hh (by rw [hstack, h.exited, ← hps]; exact hpop)
  have hsteady : Steady none r := .inl (fullyCurrent_of_slices (by rw [hrsl, hrmask]))
  have hr : r ∈ shared none now (r :: others) := mem_shared hsteady now hown List.mem_cons_self
  rw [hsettle]
  exact ⟨rfl, r, hr, hrpc, hrmask, hrst, hrsl, mem_shared_clear now hown hr hclear⟩

end Sys2Proof.Machine
end

section
/-! PROOFS. The slices of a gang of two paths (R119). -/

namespace Sys2Proof.Machine
open Sys2Proof.Claim

-- Slices one by one

theorem and_slice : ∀ i, i < 4 → ∀ x : BitVec 4, x &&& BitVec.ofNat 4 (2 ^ i) = if x.getLsbD i = true then BitVec.ofNat 4 (2 ^ i) else 0 := by decide

theorem slices_with : ∀ i, i < 4 → ∀ x : BitVec 4, x.getLsbD i = true → x ||| BitVec.ofNat 4 (2 ^ i) = x := by decide

theorem slices_all (x : BitVec 4) : x &&& 15#4 = x := BitVec.and_allOnes

/-- A set of slices slice by slice. -/
theorem slices_split : ∀ x : BitVec 4, x &&& BitVec.ofNat 4 (2 ^ 0) ||| x &&& BitVec.ofNat 4 (2 ^ 1) ||| x &&& BitVec.ofNat 4 (2 ^ 2) |||
    x &&& BitVec.ofNat 4 (2 ^ 3) = x := by decide

theorem slices_gather (b m : BitVec 4) : b ||| m &&& BitVec.ofNat 4 (2 ^ 0) ||| m &&& BitVec.ofNat 4 (2 ^ 1) ||| m &&& BitVec.ofNat 4 (2 ^ 2) |||
    m &&& BitVec.ofNat 4 (2 ^ 3) = b ||| m := by
  simp only [BitVec.or_assoc]
  rw [← BitVec.or_assoc (m &&& _), ← BitVec.or_assoc (m &&& _ ||| m &&& _), slices_split]

/-- A path that hands over what another needs of its slices, and the other once it has those and the slices of its own. -/
theorem handed_slices : ∀ a b : BitVec 4, a &&& ~~~(a &&& b) = a &&& ~~~b ∧ a &&& ~~~(a &&& ~~~(a &&& b) ||| a &&& b) = 0 ∧
    a &&& b ||| b &&& ~~~(a &&& ~~~(a &&& b)) = b := by decide

section Pair

variable {h : Option HandlerMode} {p w : Path}

theorem giveSlice_pair (hid : p.id ≠ w.id) (i : Nat) : giveSlice [p, w] i w.id =
    [{ p with onSl := p.onSl &&& ~~~BitVec.ofNat 4 (2 ^ i) }, { w with onSl := w.onSl ||| BitVec.ofNat 4 (2 ^ i) }] := by
  simp [giveSlice, hid]

/-- The slices of a path that the other waits for. -/
def handsOver (p w : Path) : BitVec 4 := slicesOf p.mask &&& slicesOf w.mask

/-- One slice: it passes if both paths have lanes in it. -/
theorem handOver_pair (hid : p.id ≠ w.id) (hw : eligible h w = true) (hd : p.onSl &&& w.onSl = 0) (i : Nat) (hi : i < 4) :
    handOver h p.id [p, w] i = [{ p with onSl := p.onSl &&& ~~~(handsOver p w &&& BitVec.ofNat 4 (2 ^ i)) },
      { w with onSl := w.onSl ||| handsOver p w &&& BitVec.ofNat 4 (2 ^ i) }] := by
  have hfind : findPath [p, w] p.id = some p := by simp [findPath]
  have hwait : [p, w].filter (fun q => q.id != p.id && eligible h q && (slicesOf q.mask).getLsbD i && !holdsSlice q i) =
      if (slicesOf w.mask).getLsbD i = true ∧ holdsSlice w i = false then [w] else [] := by
    cases hs : (slicesOf w.mask).getLsbD i <;> cases hh : holdsSlice w i <;> simp [hid.symm, hw, hs, hh]
  unfold handOver
  rw [hfind]
  dsimp only
  rw [hwait, and_slice i hi, handsOver, BitVec.getLsbD_and]
  by_cases hp : (slicesOf p.mask).getLsbD i = true
  · by_cases hs : (slicesOf w.mask).getLsbD i = true
    · simp only [hp, hs, Bool.not_true, Bool.false_eq_true, if_false, Bool.and_self, if_true, true_and]
      cases hh : holdsSlice w i with
      | false =>
        simp only [if_true, oldestPath]
        exact giveSlice_pair hid i
      | true =>
        have hpn : p.onSl.getLsbD i = false := by
          have hb : (p.onSl &&& w.onSl).getLsbD i = false := by rw [hd]; exact BitVec.getLsbD_zero
          have hh : w.onSl.getLsbD i = true := hh
          simpa [BitVec.getLsbD_and, hh] using hb
        simp only [Bool.true_eq_false, if_false, oldestPath, slices_without p.onSl hpn, slices_with i hi w.onSl hh]
    · simp [hp, hs, oldestPath, slices_all]
  · simp [hp, slices_all]

/-- One slice that nobody holds goes to the waiting path if it has lanes in it. -/
theorem fillSlice_pair (hid : p.id ≠ w.id) (hw : eligible h w = true) (hp : eligible h p = true → slicesOf p.mask &&& ~~~(p.onSl ||| w.onSl) = 0)
    (i : Nat) (hi : i < 4) :
    fillSlice h [p, w] i = [p, { w with onSl := w.onSl ||| slicesOf w.mask &&& ~~~p.onSl &&& BitVec.ofNat 4 (2 ^ i) }] := by
  unfold fillSlice
  rw [and_slice i hi, BitVec.getLsbD_and, BitVec.getLsbD_not]
  cases hpi : p.onSl.getLsbD i with
  | true => simp [holdsSlice, hpi]
  | false =>
    cases hwi : w.onSl.getLsbD i with
    | true =>
      have hsame : w.onSl ||| (if (slicesOf w.mask).getLsbD i && (decide (i < 4) && !false) then BitVec.ofNat 4 (2 ^ i) else 0) = w.onSl := by
        split
        · exact slices_with i hi w.onSl hwi
        · exact BitVec.or_zero
      rw [hsame, if_pos (by simp [holdsSlice, hwi])]
    | false =>
      have hnone : (eligible h p && (slicesOf p.mask).getLsbD i) = false := by
        by_contra hn
        obtain ⟨he, hs⟩ := Bool.and_eq_true_iff.1 (by simpa using hn)
        have hb : (slicesOf p.mask &&& ~~~(p.onSl ||| w.onSl)).getLsbD i = false := by rw [hp he]; exact BitVec.getLsbD_zero
        rw [BitVec.getLsbD_and, BitVec.getLsbD_not, BitVec.getLsbD_or, hs, hpi, hwi] at hb
        simp [hi] at hb
      rw [if_neg (by simp [holdsSlice, hpi, hwi])]
      cases hs : (slicesOf w.mask).getLsbD i with
      | true =>
        simp only [List.filter_cons, hnone, hw, hs, hi, Bool.and_self, List.filter_nil, oldestPath, if_true, Bool.false_eq_true, if_false, giveSlice_pair hid,
          slices_without p.onSl hpi, decide_true, Bool.not_false]
      | false => simp [hnone, hs, oldestPath]

theorem slices_apart {a b : BitVec 4} (h : a &&& b = 0) (m : BitVec 4) : (a &&& ~~~m) &&& (b ||| m) = 0 := by
  refine BitVec.eq_of_getLsbD_eq fun j hj => ?_
  have hab : (a &&& b).getLsbD j = false := by rw [h]; exact BitVec.getLsbD_zero
  simp only [BitVec.getLsbD_and, BitVec.getLsbD_or, BitVec.getLsbD_not, hj] at hab ⊢
  revert hab
  cases a.getLsbD j <;> cases b.getLsbD j <;> cases m.getLsbD j <;> simp

/-- A path on other slices. -/
def onSlices (p : Path) (x : BitVec 4) : Path := { p with onSl := x }

theorem handOver_on (hid : p.id ≠ w.id) (hw : eligible h w = true) {a b : BitVec 4} (hd : a &&& b = 0) (i : Nat) (hi : i < 4) :
    handOver h p.id [onSlices p a, onSlices w b] i = [onSlices p (a &&& ~~~(handsOver p w &&& BitVec.ofNat 4 (2 ^ i))),
      onSlices w (b ||| handsOver p w &&& BitVec.ofNat 4 (2 ^ i))] :=
  handOver_pair (p := onSlices p a) (w := onSlices w b) hid hw hd i hi

/-- All four slices (R119). -/
theorem handOvers_on (hid : p.id ≠ w.id) (hw : eligible h w = true) {a b : BitVec 4} (hd : a &&& b = 0) :
    handOver h p.id (handOver h p.id (handOver h p.id (handOver h p.id [onSlices p a, onSlices w b] 0) 1) 2) 3 =
      [onSlices p (a &&& ~~~handsOver p w), onSlices w (b ||| handsOver p w)] := by
  have d0 := slices_apart hd (handsOver p w &&& BitVec.ofNat 4 (2 ^ 0))
  have d1 := slices_apart d0 (handsOver p w &&& BitVec.ofNat 4 (2 ^ 1))
  have d2 := slices_apart d1 (handsOver p w &&& BitVec.ofNat 4 (2 ^ 2))
  rw [handOver_on hid hw hd 0 (by decide), handOver_on hid hw d0 1 (by decide), handOver_on hid hw d1 2 (by decide), handOver_on hid hw d2 3 (by decide)]
  simp only [BitVec.and_assoc, ← BitVec.not_or, slices_gather, slices_split]

theorem fillSlice_on (hid : p.id ≠ w.id) (hw : eligible h w = true) {a b : BitVec 4} (hp : eligible h p = true → slicesOf p.mask &&& ~~~(a ||| b) = 0)
    (i : Nat) (hi : i < 4) :
    fillSlice h [onSlices p a, onSlices w b] i = [onSlices p a, onSlices w (b ||| slicesOf w.mask &&& ~~~a &&& BitVec.ofNat 4 (2 ^ i))] :=
  fillSlice_pair (p := onSlices p a) (w := onSlices w b) hid hw hp i hi

theorem slices_grow {x a b : BitVec 4} (h : x &&& ~~~(a ||| b) = 0) (m : BitVec 4) : x &&& ~~~(a ||| (b ||| m)) = 0 := by
  rw [← BitVec.or_assoc, BitVec.not_or, ← BitVec.and_assoc, h]
  exact BitVec.zero_and

theorem fillSlices_on (hid : p.id ≠ w.id) (hw : eligible h w = true) {a b : BitVec 4} (hp : eligible h p = true → slicesOf p.mask &&& ~~~(a ||| b) = 0) :
    fillSlices h [onSlices p a, onSlices w b] = [onSlices p a, onSlices w (b ||| slicesOf w.mask &&& ~~~a)] := by
  have p0 := fun he => slices_grow (hp he) (slicesOf w.mask &&& ~~~a &&& BitVec.ofNat 4 (2 ^ 0))
  have p1 := fun he => slices_grow (p0 he) (slicesOf w.mask &&& ~~~a &&& BitVec.ofNat 4 (2 ^ 1))
  have p2 := fun he => slices_grow (p1 he) (slicesOf w.mask &&& ~~~a &&& BitVec.ofNat 4 (2 ^ 2))
  rw [fillSlices, fillSlice_on hid hw hp 0 (by decide), fillSlice_on hid hw p0 1 (by decide), fillSlice_on hid hw p1 2 (by decide),
    fillSlice_on hid hw p2 3 (by decide), slices_gather]

theorem crossing_single (p : Path) : crossing [p] = [] := by
  simp [crossing, BitVec.and_assoc]

/-- Of two paths of which one is current, neither blocks the other. -/
theorem knotPaths_pair (hw : fullyCurrent w = true) : knotPaths h [p, w] = [] := by
  have hwz : slicesOf w.mask &&& ~~~w.onSl = 0 := by simpa [fullyCurrent] using hw
  have hb : blockedPaths h [p, w] = [p] ∨ blockedPaths h [p, w] = [] := by
    unfold blockedPaths
    generalize freeingSlices [p, w] 4 = f
    have hnone : [w].filter (fun q => eligible h q && q.onSl != 0 && slicesOf q.mask &&& ~~~q.onSl &&& ~~~f != 0) = [] := by simp [hwz]
    cases hp : eligible h p && p.onSl != 0 && slicesOf p.mask &&& ~~~p.onSl &&& ~~~f != 0 with
    | true => exact .inl (by dsimp only; rw [List.filter_cons, if_pos hp, hnone])
    | false => exact .inr (by dsimp only; rw [List.filter_cons, if_neg (Bool.eq_false_iff.1 hp), hnone])
  unfold knotPaths
  rcases hb with hb | hb
  · rw [hb, crossing_single]; rfl
  · rw [hb]; rfl

theorem unblock_of_noKnot {ps : List Path} (hk : knotPaths h ps = []) (now n : Nat) : unblock h now n ps = ps := by
  cases n with
  | zero => rfl
  | succ n => rw [unblock, hk]; rfl

/-- Two paths share out the slices: the waiting one gets those that the other does not hold (R119). -/
theorem shared_pair (hid : p.id ≠ w.id) (hw : eligible h w = true) {a b : BitVec 4} (hp : eligible h p = true → slicesOf p.mask &&& ~~~(a ||| b) = 0)
    (hb : b ||| slicesOf w.mask &&& ~~~a = slicesOf w.mask) (now : Nat) :
    shared h now [onSlices p a, onSlices w b] = [onSlices p a, onSlices w (slicesOf w.mask)] := by
  rw [shared, fillSlices_on hid hw hp, hb, unblock_of_noKnot (knotPaths_pair (fullyCurrent_of_slices rfl))]

end Pair

end Sys2Proof.Machine
end

section
/-! PROOFS. What going past an instruction, a transfer, `yield`, `sleep` and SLEEP_END do to the path that issues (R109, R111, R119, R153). -/

namespace Sys2Proof.Machine
open Sys2Proof.Claim

section Rest

variable {g g2 : Gang} {p p' : Path}

theorem current_mem (h : Current g p) : p ∈ g.paths := mem_of_findPath h.listed

theorem current_moves (h : Current g p) (f : Path → Path) (hid : (f p).id = p.id) (hmask : (f p).mask = p.mask) :
    MovedTo g { g with paths := mapPath g.paths p.id f } p (f p) := movedTo_mapPath h.ids (current_mem h) f hid hmask

/-- A path that goes on is found where it went. -/
theorem find_goesOn (h : MovedTo g g2 p p') (hst : p'.st ≠ .atRejoin) (ho : OwnIds g.paths) (hp : p ∈ g.paths)
    (hl : g.paths.Pairwise fun a b => a.mask &&& b.mask = 0) (hg : GoesOn g p p'.pc) (now : Nat) :
    (settle g2 now).stack = g.stack ∧ ∃ q, findPath (settle g2 now).paths p.id = some q ∧ shape q = shape p' := by
  rw [settle_goesOn h hst hp hl hg]
  obtain ⟨q, hq, hs⟩ := h.find ho hp
  obtain ⟨r, hr, hrs⟩ := findPath_of_shapes (shared_shapes g2.handler now g2.paths).symm hq
  exact ⟨h.stack, r, hr, hrs.trans hs⟩

/-- A path that nothing can take slices from is found as it moved. -/
theorem find_steady (h : MovedTo g g2 p p') (hst : p'.st ≠ .atRejoin) (hc : Current g p) (hg : GoesOn g p p'.pc) {q : Path} (hq : q ∈ g2.paths)
    (hs : Steady g.handler q) (now : Nat) : findPath (settle g2 now).paths q.id = some q := by
  rw [settle_goesOn h hst (current_mem hc) hc.lanes hg]
  exact findPath_shared (h.handler ▸ hs) now (h.ownIds hc.ids) hq

/-- A path that stops gives up its slices, and keeps the rest. -/
theorem find_stopsAt (h : MovedTo g g2 p p') (hst : p'.st = .ready) (hc : Current g p) (hs : StopsAt g p p'.pc) (now : Nat) {q : Path}
    (hq : findPath g2.paths p.id = some q) :
    (settle g2 now).stack = g.stack ∧ findPath (settle g2 now).paths p.id = some { q with st := .atRejoin, onSl := 0 } := by
  rw [settle_stopsAt h (current_mem hc) hc.lanes hs]
  refine ⟨h.stack, ?_⟩
  obtain ⟨-, ⟨e, he, hrej⟩, -⟩ := hs
  obtain ⟨q', hq', hsh⟩ := h.find hc.ids (current_mem hc)
  obtain rfl : q = q' := Option.some.inj (hq.symm.trans hq')
  obtain ⟨-, hpc, hmask, hqst⟩ := shape_eq hsh
  have hstop : stopAtRejoin (entries g) q = { q with st := .atRejoin, onSl := 0 } :=
    stopAtRejoin_stops (hqst.trans hst) (by rw [hmask, h.mask]; exact he) (hrej.trans hpc.symm)
  have hmem : { q with st := .atRejoin, onSl := 0 } ∈ g2.paths.map (stopAtRejoin (entries g)) :=
    List.mem_map.2 ⟨q, mem_of_findPath hq, hstop⟩
  have hids : OwnIds (g2.paths.map (stopAtRejoin (entries g))) :=
    List.pairwise_map.2 ((h.ownIds hc.ids).imp fun hne => by rwa [(stopAtRejoin_keeps ..).1, (stopAtRejoin_keeps ..).1])
  rw [← findPath_id hq]
  exact findPath_shared (p := { q with st := .atRejoin, onSl := 0 }) (.inr ⟨rfl, rfl⟩) now hids hmem

end Rest

-- Going past an instruction

section Advance

variable {g : Gang} {p : Path} {n : DWord} {now : Nat}

theorem advance_goesOn (hc : Current g p) (hg : GoesOn g p (p.pc + n)) :
    findPath (advance g p.id n now).paths p.id = some { p with pc := p.pc + n } ∧ (advance g p.id n now).stack = g.stack := by
  have hm := current_moves hc (fun q => { q with pc := q.pc + n }) rfl rfl
  have hst : p.st ≠ .atRejoin := by simp [hc.ready]
  refine ⟨find_steady hm hst hc hg (List.mem_map.2 ⟨p, current_mem hc, if_pos rfl⟩) (.inl hc.current) now, ?_⟩
  exact (find_goesOn hm hst hc.ids (current_mem hc) hc.lanes hg now).1

theorem advance_stopsAt (hc : Current g p) (hs : StopsAt g p (p.pc + n)) :
    findPath (advance g p.id n now).paths p.id = some { p with pc := p.pc + n, st := .atRejoin, onSl := 0 } ∧ (advance g p.id n now).stack = g.stack := by
  have hm := current_moves hc (fun q => { q with pc := q.pc + n }) rfl rfl
  have hq : findPath (mapPath g.paths p.id fun q => { q with pc := q.pc + n }) p.id = some { p with pc := p.pc + n } :=
    (hm.ownIds hc.ids).findPath (List.mem_map.2 ⟨p, current_mem hc, if_pos rfl⟩)
  exact (find_stopsAt hm hc.ready hc hs now hq).symm

theorem onSlices_self {q : Path} {x : BitVec 4} (h : q.onSl = x) : onSlices q x = q := by subst h; rfl

theorem eligible_ready {w : Path} (h : w.st = .ready) : eligible none w = true := by simp [eligible, competes, h]

/-- A path as it stands once it has stopped at an address (R109). -/
def stoppedAt (p : Path) (a : DWord) : Path := { p with pc := a, st := .atRejoin, onSl := 0 }

/-- The path that waits beside one that stops becomes current (R119). -/
theorem advance_stopsAt_other (hc : Current g p) (hs : StopsAt g p (p.pc + n)) {w : Path} (hps : g.paths = [p, w]) (hready : w.st = .ready) (hsl : w.onSl = 0)
    (hh : g.handler = none) : findPath (advance g p.id n now).paths w.id = some { w with onSl := slicesOf w.mask } := by
  have hm := current_moves hc (fun q => { q with pc := q.pc + n }) rfl rfl
  have hne : p.id ≠ w.id := by simpa [hps] using hc.ids
  have hrest : (advance g p.id n now).paths =
      shared g.handler now ((mapPath g.paths p.id fun q => { q with pc := q.pc + n }).map (stopAtRejoin (entries g))) :=
    congrArg Gang.paths (settle_stopsAt hm (current_mem hc) hc.lanes hs now)
  obtain ⟨hothers, ⟨e, he, hrej⟩, -⟩ := hs
  have hpaths : (mapPath g.paths p.id fun q => { q with pc := q.pc + n }).map (stopAtRejoin (entries g)) = [onSlices (stoppedAt p (p.pc + n)) 0, onSlices w 0] := by
    have hp : stopAtRejoin (entries g) { p with pc := p.pc + n } = stoppedAt p (p.pc + n) := stopAtRejoin_stops hc.ready he hrej
    have hw : stopAtRejoin (entries g) w = w := stopAtRejoin_rests (hothers w (by simp [hps]) hne.symm)
    rw [hps, mapPath, List.map_cons, List.map_singleton, if_pos rfl, if_neg hne.symm, List.map_cons, List.map_singleton, hp, hw, onSlices_self hsl]
    rfl
  have hstill : eligible none (stoppedAt p (p.pc + n)) = false := by simp [eligible, competes, stoppedAt]
  have hall : (0 : BitVec 4) ||| slicesOf w.mask &&& ~~~0 = slicesOf w.mask := by simp [slices_all]
  have hshare := shared_pair (h := none) (p := stoppedAt p (p.pc + n)) (w := w) (a := 0) (b := 0) hne (eligible_ready hready) (fun he => absurd he (by simp [hstill])) hall now
  rw [hrest, hpaths, hh, hshare]
  simp [findPath, onSlices, stoppedAt, hne]

theorem advance_last (hc : Current g p) {e : StackEntry} {rest : List StackEntry} (hl : LastIn g p e rest (e.members &&& ~~~g.exited))
    (hrej : e.rejoin = p.pc + n) : Popped (advance g p.id n now) e rest (e.members &&& ~~~g.exited) :=
  settle_last (current_moves hc (fun q => { q with pc := q.pc + n }) rfl rfl) hc.ready hc.ids (current_mem hc) hc.some_lane hl hrej now

end Advance

-- Handing slices over

/-- The paths once path `id` has handed over what others wait for. -/
def handedOver (h : Option HandlerMode) (id : Nat) (ps : List Path) : List Path := handOver h id (handOver h id (handOver h id (handOver h id ps 0) 1) 2) 3

theorem handedOver_shapes (h : Option HandlerMode) (id : Nat) (ps : List Path) : (handedOver h id ps).map shape = ps.map shape := by
  simp only [handedOver, handOver_shapes]

/-- `yield` hands slices over, with a new age for a path that gave one away, and the gang comes to rest. -/
theorem yieldSlices_settles (g : Gang) (id now : Nat) : ∃ ps, yieldSlices g id now = settle { g with paths := ps } now ∧
    (ps = handedOver g.handler id g.paths ∨ ps = mapPath (handedOver g.handler id g.paths) id fun q => { q with since := now }) := by
  unfold yieldSlices
  dsimp only
  exact ⟨_, rfl, (em _).elim (fun hgave => .inr (if_pos hgave)) fun hgave => .inl (if_neg hgave)⟩

theorem handed_shapes {g : Gang} {id now : Nat} {ps : List Path}
    (h : ps = handedOver g.handler id g.paths ∨ ps = mapPath (handedOver g.handler id g.paths) id fun q => { q with since := now }) :
    ps.map shape = g.paths.map shape := by
  rcases h with rfl | rfl
  · exact handedOver_shapes ..
  · rw [mapPath_shapes (f := fun q => { q with since := now }) fun _ => rfl, handedOver_shapes]

theorem handOver_single (h : Option HandlerMode) (p : Path) (i : Nat) : handOver h p.id [p] i = [p] := by
  simp [handOver, findPath, oldestPath]

-- Transfers

theorem monitorCount_counts (g : Gang) (tgt : DWord) (ps : List Path) : ∃ hd ct, monitorCount { g with paths := ps } tgt = { g with paths := ps, head := hd, count := ct } ∧
    (hd, ct) = (if g.handler.isSome = true then (g.head, g.count) else if g.head = tgt then (tgt, min (g.count + 1) 255) else (tgt, 1)) := by
  unfold monitorCount
  by_cases hh : g.handler.isSome = true
  · exact ⟨g.head, g.count, if_pos hh, (if_pos hh).symm⟩
  · by_cases hd : g.head = tgt
    · exact ⟨g.head, _, (if_neg hh).trans (if_pos hd), by rw [if_neg hh, if_pos hd, hd]⟩
    · exact ⟨tgt, 1, (if_neg hh).trans (if_neg hd), by rw [if_neg hh, if_neg hd]⟩

/-- A taken transfer: the path has moved, the monitor has counted, and the gang comes to rest; memory stays. -/
theorem takeTransfer_settles (s : State) (gi : Nat) (g : Gang) (p : Path) (tgt : DWord) : ∃ ps hd ct,
    (takeTransfer s gi g p tgt).gang gi = some (settle { g with paths := ps, head := hd, count := ct } s.seq) ∧
    ps.map shape = (movePath g p.id tgt).paths.map shape ∧
    (hd, ct) = (if p.pc.toNat < tgt.toNat ∨ g.handler.isSome = true then (g.head, g.count)
      else if g.head = tgt then (tgt, min (g.count + 1) 255) else (tgt, 1)) ∧
    (takeTransfer s gi g p tgt).hbm = s.hbm ∧ (takeTransfer s gi g p tgt).hostMem = s.hostMem := by
  unfold takeTransfer afterTransfer
  by_cases hlt : p.pc.toNat < tgt.toNat
  · rw [if_pos hlt]
    exact ⟨_, _, _, gang_putGang_same .., rfl, by rw [if_pos (.inl hlt)], rfl, rfl⟩
  · rw [if_neg hlt]
    obtain ⟨hd, ct, hmon, hcount⟩ := monitorCount_counts g tgt (movePath g p.id tgt).paths
    have hmon : monitorCount (movePath g p.id tgt) tgt = { g with paths := (movePath g p.id tgt).paths, head := hd, count := ct } := hmon
    dsimp only
    rw [hmon]
    obtain ⟨ps, hyield, hps⟩ := yieldSlices_settles { g with paths := (movePath g p.id tgt).paths, head := hd, count := ct } p.id s.seq
    refine ⟨ps, hd, ct, ?_, handed_shapes hps, ?_, ?_, ?_⟩
    · rw [gang_putGang_same, hyield]
    · simpa only [hlt, false_or] using hcount
    · split <;> rfl
    · split <;> rfl

-- `yield` and `sleep`

section Yield

variable {g : Gang} {p : Path}

theorem yield_moves (hc : Current g p) (now : Nat) {ps : List Path}
    (hps : ps = handedOver g.handler p.id (movePath g p.id (p.pc + 8)).paths ∨
      ps = mapPath (handedOver g.handler p.id (movePath g p.id (p.pc + 8)).paths) p.id fun q => { q with since := now }) :
    MovedTo g { g with paths := ps } p { p with pc := p.pc + 8 } :=
  (current_moves hc (fun q => { q with pc := p.pc + 8 }) rfl rfl).of_shapes rfl rfl rfl (handed_shapes (g := movePath g p.id (p.pc + 8)) hps)

/-- A path alone keeps its slices. -/
theorem yield_alone (hc : Current g p) (hg : GoesOn g p (p.pc + 8)) (now : Nat) (hps : g.paths = [p]) :
    ∃ q, findPath (yieldSlices (movePath g p.id (p.pc + 8)) p.id now).paths p.id = some q ∧ q.onSl = p.onSl := by
  obtain ⟨ps, hyield, hor⟩ := yieldSlices_settles (movePath g p.id (p.pc + 8)) p.id now
  have hm := yield_moves hc now hor
  have hst : p.st ≠ .atRejoin := by simp [hc.ready]
  have hsame : handedOver g.handler p.id (movePath g p.id (p.pc + 8)).paths = [{ p with pc := p.pc + 8 }] := by
    rw [movePath, hps, mapPath, List.map_singleton, if_pos rfl]
    simp only [handedOver, handOver_single g.handler { p with pc := p.pc + 8 }]
  have hps : ∃ q, ps = [q] ∧ q.id = p.id ∧ q.mask = p.mask ∧ q.onSl = p.onSl := by
    rcases hor with rfl | rfl
    · exact ⟨_, hsame, rfl, rfl, rfl⟩
    · refine ⟨{ p with pc := p.pc + 8, since := now }, ?_, rfl, rfl, rfl⟩
      rw [show (movePath g p.id (p.pc + 8)).handler = g.handler from rfl, hsame]
      simp [mapPath]
  obtain ⟨q, rfl, hid, hmask, hsl⟩ := hps
  have hcur : fullyCurrent q = true := by
    have := hc.current
    rwa [fullyCurrent, ← hmask, ← hsl] at this
  exact ⟨q, by rw [hyield, ← hid]; exact find_steady hm hst hc hg List.mem_cons_self (.inl hcur) now, hsl⟩

/-- Beside a waiting path: each slice of both goes to it, and those of its own (R119). -/
theorem yield_beside (hc : Current g p) (hg : GoesOn g p (p.pc + 8)) (now : Nat) {w : Path} (hps : g.paths = [p, w]) (hready : w.st = .ready)
    (hsl : w.onSl = 0) (hh : g.handler = none) (hp : p.onSl = slicesOf p.mask) :
    ∃ q, findPath (yieldSlices (movePath g p.id (p.pc + 8)) p.id now).paths p.id = some q ∧ q.onSl = slicesOf p.mask &&& ~~~slicesOf w.mask ∧
      ∃ r, findPath (yieldSlices (movePath g p.id (p.pc + 8)) p.id now).paths w.id = some r ∧ r.onSl = slicesOf w.mask := by
  obtain ⟨ps, hyield, hor⟩ := yieldSlices_settles (movePath g p.id (p.pc + 8)) p.id now
  have hm := yield_moves hc now hor
  have hst : p.st ≠ .atRejoin := by simp [hc.ready]
  have hne : p.id ≠ w.id := by simpa [hps] using hc.ids
  obtain ⟨hkeep, hall, hback⟩ := handed_slices (slicesOf p.mask) (slicesOf w.mask)
  let m := slicesOf p.mask &&& slicesOf w.mask
  have hsame : handedOver g.handler p.id (movePath g p.id (p.pc + 8)).paths =
      [onSlices { p with pc := p.pc + 8 } (slicesOf p.mask &&& ~~~m), onSlices w m] := by
    have h2 : (movePath g p.id (p.pc + 8)).paths = [onSlices { p with pc := p.pc + 8 } (slicesOf p.mask), onSlices w 0] := by
      rw [movePath, hps, mapPath, List.map_cons, List.map_singleton, if_pos rfl, if_neg hne.symm, onSlices_self hsl, onSlices_self (q := { p with pc := p.pc + 8 }) hp]
    rw [h2, hh]
    refine (handOvers_on (p := { p with pc := p.pc + 8 }) hne (eligible_ready hready) (a := slicesOf p.mask) BitVec.and_zero).trans ?_
    rw [BitVec.zero_or]
    rfl
  have hps : ∃ q, ps = [onSlices q (slicesOf p.mask &&& ~~~m), onSlices w m] ∧ q.id = p.id ∧ q.mask = p.mask := by
    rcases hor with rfl | rfl
    · exact ⟨_, hsame, rfl, rfl⟩
    · refine ⟨{ p with pc := p.pc + 8, since := now }, ?_, rfl, rfl⟩
      rw [show (movePath g p.id (p.pc + 8)).handler = g.handler from rfl, hsame]
      simp [mapPath, onSlices, hne.symm]
  obtain ⟨q, rfl, hid, hmask⟩ := hps
  have hqw : q.id ≠ w.id := hid ▸ hne
  have hshare := shared_pair (h := none) (a := slicesOf p.mask &&& ~~~m) (b := m) hqw (eligible_ready hready) (fun _ => by rw [hmask]; exact hall) hback now
  have hrest := settle_goesOn hm hst (current_mem hc) hc.lanes hg now
  have hpaths : (yieldSlices (movePath g p.id (p.pc + 8)) p.id now).paths = [onSlices q (slicesOf p.mask &&& ~~~m), onSlices w (slicesOf w.mask)] := by
    rw [hyield]
    refine (congrArg Gang.paths hrest).trans ?_
    dsimp only
    rw [hh, hshare]
  rw [hpaths]
  refine ⟨onSlices q (slicesOf p.mask &&& ~~~m), ?_, hkeep, onSlices w (slicesOf w.mask), ?_, rfl⟩
  · simp [findPath, onSlices, hid]
  · simp [findPath, onSlices, hqw]

end Yield

end Sys2Proof.Machine
end

section
/-! PROOFS. How a path moves on: the statement, clause by clause (R109, R111, R119, R153). -/

namespace Sys2Proof.Machine
open Sys2Proof.Claim

/-- Nothing of a gang changed but its paths and its stack (R109). -/
def PathsMoved (g g' : Gang) : Prop := g' = { g with paths := g'.paths, stack := g'.stack }

theorem settle_moved (g : Gang) (ps : List Path) (now : Nat) : PathsMoved g (settle { g with paths := ps } now) := by
  unfold settle
  generalize settled _ _ _ _ _ = r
  rfl

theorem advance_moved (g : Gang) (p : Path) (n : DWord) (now : Nat) : PathsMoved g (advance g p.id n now) := settle_moved g _ now

theorem holdPath_moved (g : Gang) (p : Path) (n : DWord) (st : PathSt) (now : Nat) : PathsMoved g (holdPath g p.id n st now) := settle_moved g _ now

theorem wakePath_moved (g : Gang) (p : Path) (now : Nat) : PathsMoved g (wakePath g p.id now) := settle_moved g _ now

theorem yield_moved (g : Gang) (p : Path) (now : Nat) : PathsMoved g (yieldSlices (movePath g p.id (p.pc + 8)) p.id now) := by
  obtain ⟨ps, hyield, -⟩ := yieldSlices_settles (movePath g p.id (p.pc + 8)) p.id now
  rw [hyield]
  exact settle_moved g ps now

-- A transfer

section Transfer

variable {g : Gang} {p : Path}

/-- A transfer leaves a gang whose path has moved to the target, with the counts of the monitor, and comes to rest. -/
theorem transfer_moves (hc : Current g p) (s : State) (gi : Nat) (tgt : DWord) : ∃ g2, (takeTransfer s gi g p tgt).gang gi = some (settle g2 s.seq) ∧
    MovedTo g g2 p { p with pc := tgt } ∧ g2 = { g with paths := g2.paths, head := g2.head, count := g2.count } ∧
    (g2.head, g2.count) = (if p.pc.toNat < tgt.toNat ∨ g.handler.isSome = true then (g.head, g.count)
      else if g.head = tgt then (tgt, min (g.count + 1) 255) else (tgt, 1)) ∧
    (takeTransfer s gi g p tgt).hbm = s.hbm ∧ (takeTransfer s gi g p tgt).hostMem = s.hostMem := by
  obtain ⟨ps, hd, ct, hgang, hshapes, hcount, hmem, hhost⟩ := takeTransfer_settles s gi g p tgt
  have hm := current_moves hc (fun q => { q with pc := tgt }) rfl rfl
  exact ⟨_, hgang, hm.of_shapes rfl rfl rfl hshapes, rfl, hcount, hmem, hhost⟩

theorem onlyPaths_settle {g2 : Gang} (h : g2 = { g with paths := g2.paths, head := g2.head, count := g2.count }) (now : Nat) : OnlyPaths g (settle g2 now) := by
  unfold settle
  generalize settled _ _ _ _ _ = r
  rw [h]
  rfl

end Transfer

-- SLEEP_END

theorem wake_eq_mapPath (ps : List Path) (id now : Nat) :
    ps.map (fun q => if q.id == id then { q with st := .ready, since := now } else q) = mapPath ps id fun q => { q with st := .ready, since := now } := by
  simp [mapPath]

/-- With no entry to stop at, every path goes on. -/
theorem find_noStack {g : Gang} (h : g.stack = []) {id : Nat} {p : Path} (hp : findPath g.paths id = some p) (now : Nat) :
    (settle g now).stack = [] ∧ ∃ q, findPath (settle g now).paths id = some q ∧ shape q = shape p := by
  have he : entries g = [] := by
    rw [entries, h]
    cases g.handler
    · rfl
    · exact List.take_nil
  have hstop : g.paths.map (stopAtRejoin (entries g)) = g.paths :=
    (List.map_congr_left fun q _ => stopAtRejoin_rests fun _ e hx => by rw [he] at hx; cases hx).trans (List.map_id _)
  rw [settle_open (by rw [he]; nofun), hstop]
  exact ⟨h, findPath_of_shapes (shared_shapes g.handler now g.paths).symm hp⟩

/-- The path of a sleep that has ended is ready where it slept. -/
theorem wakePath_goesOn {g : Gang} {p : Path} (hp : findPath g.paths p.id = some p) (hg : GoesOn g p p.pc)
    (hpair : g.stack ≠ [] → g.paths.Pairwise fun a b => a.id ≠ b.id ∧ a.mask &&& b.mask = 0) (now : Nat) :
    ∃ q, findPath (wakePath g p.id now).paths p.id = some q ∧ q.pc = p.pc ∧ q.st = .ready ∧ (wakePath g p.id now).stack = g.stack := by
  have hw : wakePath g p.id now = settle { g with paths := mapPath g.paths p.id fun q => { q with st := .ready, since := now } } now := by
    rw [wakePath, wakePaths, wake_eq_mapPath]
  rw [hw]
  by_cases hs : g.stack = []
  · have hf : ∀ q : Path, (if q.id = p.id then { q with st := .ready, since := now } else q).id = q.id := fun q => by split <;> rfl
    have hfind : findPath (mapPath g.paths p.id fun q => { q with st := .ready, since := now }) p.id = some { p with st := .ready, since := now } := by
      rw [mapPath, findPath_map hf, hp, Option.map_some, if_pos rfl]
    obtain ⟨hstack, q, hq, hsh⟩ := find_noStack (g := { g with paths := mapPath g.paths p.id fun q => { q with st := .ready, since := now } }) hs hfind now
    obtain ⟨-, hpc, -, hst⟩ := shape_eq hsh
    exact ⟨q, hq, hpc, hst, hstack.trans hs.symm⟩
  · have hids : OwnIds g.paths := (hpair hs).imp And.left
    have hm := movedTo_mapPath hids (mem_of_findPath hp) (fun q => { q with st := .ready, since := now }) rfl rfl
    obtain ⟨hstack, q, hq, hsh⟩ := find_goesOn hm nofun hids (mem_of_findPath hp) ((hpair hs).imp And.right) hg now
    obtain ⟨-, hpc, -, hst⟩ := shape_eq hsh
    exact ⟨q, hq, hpc, hst, hstack⟩

-- `yield` and `sleep`

section Sleep

variable {gd : Guard} {s : State} {gi : Nat} {g : Gang} {p : Path}

theorem exec_yield (h : Issues s (.yield gd) gi g p []) (hm : guardLanes g p gd ≠ 0) :
    exec (.yield gd) s = .next (s.putGang gi (yieldSlices (movePath g p.id (p.pc + 8)) p.id s.seq)) := by
  show execYield gd s = _
  rw [execYield, issueChecked_run h rfl, if_neg hm]

theorem exec_sleep {n : Imm20} (h : Issues s (.sleep gd n) gi g p []) (hm : guardLanes g p gd ≠ 0) :
    exec (.sleep gd n) s = .next (s.putGang gi (if n = 0 then yieldSlices (movePath g p.id (p.pc + 8)) p.id s.seq
      else holdPath g p.id 8 (.sleep s.clock n.toNat) s.seq)) := by
  show execSleep gd n s = _
  rw [execSleep, issueChecked_run h rfl, if_neg hm]

theorem exec_sleepEnd {start : DWord} {n : Nat} (hg : s.gang gi = some g) (hp : findPath g.paths p.id = some p) (hst : p.st = .sleep start n) :
    exec (.sleepEnd gi p.id) s = if n ≤ (s.clock - start).toNat then .next (s.putGang gi (wakePath g p.id s.seq)) else .next s := by
  show execSleepEnd gi p.id s = _
  simp only [execSleepEnd, hg, hp, hst]

/-- A path that yields goes on past its instruction. -/
theorem yield_goesOn (hc : Current g p) (hg : GoesOn g p (p.pc + 8)) (now : Nat) :
    ∃ q, findPath (yieldSlices (movePath g p.id (p.pc + 8)) p.id now).paths p.id = some q ∧ q.pc = p.pc + 8 ∧ q.mask = p.mask ∧ q.st = .ready ∧
      (yieldSlices (movePath g p.id (p.pc + 8)) p.id now).stack = g.stack := by
  obtain ⟨ps, hyield, hor⟩ := yieldSlices_settles (movePath g p.id (p.pc + 8)) p.id now
  obtain ⟨hstack, q, hq, hs⟩ := find_goesOn (yield_moves hc now hor) (by simp [hc.ready]) hc.ids (current_mem hc) hc.lanes hg now
  obtain ⟨-, hpc, hmask, hst⟩ := shape_eq hs
  rw [hyield]
  exact ⟨q, hq, hpc, hmask, hst.trans hc.ready, hstack⟩

/-- What `yield` does to its path, alone or beside one that waits. -/
theorem yield_result (hc : Current g p) (hg : GoesOn g p (p.pc + 8)) (now : Nat) :
    let g' := yieldSlices (movePath g p.id (p.pc + 8)) p.id now
    ∃ q, findPath g'.paths p.id = some q ∧ q.pc = p.pc + 8 ∧ q.mask = p.mask ∧ q.st = .ready ∧ g'.stack = g.stack ∧ (g.paths = [p] → q.onSl = p.onSl) ∧
      ∀ w, g.paths = [p, w] → w.st = .ready → w.onSl = 0 → g.handler = none → p.onSl = slicesOf p.mask →
        q.onSl = slicesOf p.mask &&& ~~~(slicesOf w.mask) ∧ ∃ r, findPath g'.paths w.id = some r ∧ r.onSl = slicesOf w.mask := by
  intro g'
  obtain ⟨q, hq, hpc, hmask, hst, hstack⟩ := yield_goesOn hc hg now
  refine ⟨q, hq, hpc, hmask, hst, hstack, fun hps => ?_, fun w hps hready hsl hh hp => ?_⟩
  · obtain ⟨q', hq', hsl⟩ := yield_alone hc hg now hps
    rwa [Option.some.inj (hq.symm.trans hq')]
  · obtain ⟨q', hq', hon, hr⟩ := yield_beside hc hg now hps hready hsl hh hp
    rw [Option.some.inj (hq.symm.trans hq')]
    exact ⟨hon, hr⟩

/-- A path that sleeps holds no slice. -/
theorem sleep_holds (hc : Current g p) (hg : GoesOn g p (p.pc + 8)) (start : DWord) (n now : Nat) :
    findPath (holdPath g p.id 8 (.sleep start n) now).paths p.id = some { p with pc := p.pc + 8, st := .sleep start n, onSl := 0, since := now } ∧
      (holdPath g p.id 8 (.sleep start n) now).stack = g.stack := by
  have hm := current_moves hc (fun q => { q with pc := q.pc + 8, st := .sleep start n, onSl := 0, since := now }) rfl rfl
  exact ⟨find_steady hm nofun hc hg (List.mem_map.2 ⟨p, current_mem hc, if_pos rfl⟩) (.inr ⟨rfl, rfl⟩) now,
    (find_goesOn hm nofun hc.ids (current_mem hc) hc.lanes hg now).1⟩

end Sleep

/-- Settles O15: a path that has moved goes on, stops, or completes its entry; the slices handed out meanwhile leave the shape of every path. -/
theorem pathScheduling : Obligations.PathScheduling := by
  refine ⟨fun s gi g p n tgt hc => ⟨advance_moved g p n s.seq, advance_goesOn hc, fun hs => ?_, fun e rest hl hrej => advance_last hc hl hrej, ?transfer⟩,
    fun gd n s gi g p hm => ⟨fun h => ?yield, fun h => ?sleep0, fun h hn => ?sleep⟩, fun s gi g p start n hgang hp hst => ⟨fun hle => ?wake, fun hlt => ?early⟩⟩
  · obtain ⟨hfind, hstack⟩ := advance_stopsAt (now := s.seq) hc hs
    exact ⟨hfind, hstack, fun w => advance_stopsAt_other hc hs⟩
  case transfer =>
    obtain ⟨g2, hgang, hm, honly, hcount, hmem, hhost⟩ := transfer_moves hc s gi tgt
    have hlast : ∀ e rest, LastIn g p e rest (e.members &&& ~~~g.exited) → e.rejoin = tgt → Popped (settle g2 s.seq) e rest (e.members &&& ~~~g.exited) :=
      fun e rest hl hrej => settle_last hm hc.ready hc.ids (current_mem hc) hc.some_lane hl hrej s.seq
    refine ⟨_, hgang, onlyPaths_settle honly s.seq, fun hg => ?_, fun hs => ?_, hlast, ?_, hmem, hhost⟩
    · obtain ⟨hstack, q, hq, hsh⟩ := find_goesOn hm (by simp [hc.ready]) hc.ids (current_mem hc) hc.lanes hg s.seq
      obtain ⟨-, hpc, hmask, hst⟩ := shape_eq hsh
      exact ⟨hstack, q, hq, hpc, hmask, hst.trans hc.ready⟩
    · obtain ⟨q, hq, hsh⟩ := hm.find hc.ids (current_mem hc)
      obtain ⟨hstack, hfind⟩ := find_stopsAt hm hc.ready hc hs s.seq hq
      obtain ⟨-, hpc, hmask, -⟩ := shape_eq hsh
      exact ⟨hstack, { q with st := .atRejoin, onSl := 0 }, hfind, hpc, hmask, rfl, rfl⟩
    · rw [settle_head, settle_count]
      exact hcount
  case yield => exact ⟨_, exec_yield h hm, yield_moved g p s.seq, fun ⟨hc, hg⟩ => yield_result hc hg s.seq⟩
  case sleep0 => exact ⟨_, (exec_sleep h hm).trans (by rw [if_pos rfl]), yield_moved g p s.seq, fun ⟨hc, hg⟩ => yield_result hc hg s.seq⟩
  case sleep =>
    refine ⟨holdPath g p.id 8 (.sleep s.clock n.toNat) s.seq, (exec_sleep h hm).trans (by rw [if_neg hn]), holdPath_moved g p 8 _ s.seq, fun ⟨hc, hg⟩ => ?_⟩
    obtain ⟨hfind, hstack⟩ := sleep_holds hc hg s.clock n.toNat s.seq
    exact ⟨{ p with pc := p.pc + 8, st := .sleep s.clock n.toNat, onSl := 0, since := s.seq }, hfind, rfl, rfl, rfl, hstack⟩
  case wake =>
    exact ⟨wakePath g p.id s.seq, (exec_sleepEnd hgang hp hst).trans (if_pos hle), wakePath_moved g p s.seq, fun hg hpair => wakePath_goesOn hp hg hpair s.seq⟩
  case early => exact (exec_sleepEnd hgang hp hst).trans (if_neg (by omega))

end Sys2Proof.Machine
end

section
/-! PROOFS. The decoder's opcode map turned round: the fields that an instruction was read from are the fields that the encoder writes for it (R57 to R65). -/

namespace Sys2Proof

theorem need_eq_some {ok : Bool} {i j : Instr} : need ok i = some j ↔ ok = true ∧ i = j := by
  cases ok <;> simp [need]

@[simp] theorem Ty.code_ofCode : ∀ c, (Ty.ofCode c).code = c := by decide
@[simp] theorem Cond.code_ofCode : ∀ c, (Cond.ofCode c).code = c := by decide
theorem RSel.code_of_ofCode : ∀ {c r}, RSel.ofCode c = some r → r.code = c := by decide
theorem XOp.code_of_ofCode : ∀ {c r}, XOp.ofCode c = some r → r.code = c := by decide
theorem Space.code_of_ofCode : ∀ {c r}, Space.ofCode c = some r → r.code = c := by decide
theorem AtomOp.code_of_ofCode : ∀ {c r}, AtomOp.ofCode c = some r → r.code = c := by decide
theorem FenceSem.code_of_ofCode : ∀ {c r}, FenceSem.ofCode c = some r → r.code = c := by decide
theorem Scope.code_of_ofCode : ∀ {c r}, Scope.ofCode c = some r → r.code = c := by decide

@[simp] theorem ofBool_decide_one (x : BitVec 1) : BitVec.ofBool (decide (x = 1#1)) = x := by
  revert x; decide

/-- A bit vector is the concatenation of its two parts. -/
theorem append_parts {n m : Nat} (x : BitVec (n + m)) : x.extractLsb' m n ++ x.extractLsb' 0 m = x :=
  (BitVec.extractLsb'_append_extractLsb'_eq_extractLsb' (by simp)).trans BitVec.extractLsb'_eq_self

theorem append_eq_iff {n m : Nat} {x : BitVec (n + m)} {a : BitVec n} {b : BitVec m} :
    a ++ b = x ↔ a = x.extractLsb' m n ∧ b = x.extractLsb' 0 m := by
  constructor
  · rintro rfl
    exact ⟨(extract_high a b).symm, (extract_low a b).symm⟩
  · rintro ⟨rfl, rfl⟩
    exact append_parts x

/-- A part of a part. -/
theorem extract_nested {n s l s' l' : Nat} (x : BitVec n) (h : s' + l' ≤ l) : (x.extractLsb' s l).extractLsb' s' l' = x.extractLsb' (s + s') l' := by
  ext i hi
  rw [BitVec.getElem_extractLsb', BitVec.getLsbD_extractLsb', decide_eq_true (by omega), Bool.true_and, BitVec.getElem_extractLsb', Nat.add_assoc]

theorem ofNat_of_toNat {n k : Nat} {x : BitVec n} (h : x.toNat = k) : BitVec.ofNat n k = x := by
  rw [← h, BitVec.ofNat_toNat, BitVec.setWidth_eq]

namespace Fields
@[simp] theorem guard_gp (f : Fields) : f.guard.gp = f.gp := rfl
@[simp] theorem ofBool_guard_gn (f : Fields) : BitVec.ofBool f.guard.gn = f.gn := ofBool_decide_one f.gn
@[simp] theorem src_bu (f : Fields) : f.src.bu = f.bu := rfl
@[simp] theorem src_b (f : Fields) : f.src.b = f.f3 := rfl
@[simp] theorem mem_sb (f : Fields) : f.mem.sb = f.f2 := rfl
@[simp] theorem mem_vi (f : Fields) : f.mem.vi = f.f3 := rfl
@[simp] theorem mem_off (f : Fields) : f.mem.off = f.f4 := rfl
@[simp] theorem ofBool_mem_vw (f : Fields) : BitVec.ofBool f.mem.vw = f.mn.extractLsb' 2 1 := ofBool_decide_one _
@[simp] theorem ofBool_na (f : Fields) : BitVec.ofBool f.na = f.mn.extractLsb' 3 1 := ofBool_decide_one _
@[simp] theorem ofBool_ma2 (f : Fields) : BitVec.ofBool f.ma2 = f.rm.extractLsb' 2 1 := ofBool_decide_one _
theorem na_eq_false (f : Fields) : f.na = false ↔ f.mn.extractLsb' 3 1 = 0#1 := by
  rw [← ofBool_na]; cases f.na <;> decide
theorem ma2_eq_false (f : Fields) : f.ma2 = false ↔ f.rm.extractLsb' 2 1 = 0#1 := by
  rw [← ofBool_ma2]; cases f.ma2 <;> decide
@[simp] theorem imm_high (f : Fields) : f.imm.extractLsb' 10 10 = f.f3 := extract_high _ _
@[simp] theorem imm_low (f : Fields) : f.imm.extractLsb' 0 10 = f.f4 := extract_low _ _
@[simp] theorem disp_high (f : Fields) : f.disp.extractLsb' 20 10 = f.f2 :=
  (peelHigh (v := 20) (w := 10) _ _ (by decide)).trans (extract_high _ _)
@[simp] theorem disp_mid (f : Fields) : f.disp.extractLsb' 10 10 = f.f3 :=
  (peelHigh (v := 20) (w := 10) _ _ (by decide)).trans (extract_low _ _)
@[simp] theorem disp_low (f : Fields) : f.disp.extractLsb' 0 10 = f.f4 := extract_low _ _
@[simp] theorem imm_top (f : Fields) : f.imm.extractLsb' 16 4 = f.f3.extractLsb' 6 4 := peelHigh (v := 10) (w := 10) _ _ (by decide)
@[simp] theorem imm_code (f : Fields) : f.imm.extractLsb' 10 6 = f.f3.extractLsb' 0 6 := peelHigh (v := 10) (w := 10) _ _ (by decide)

@[simp] theorem append_eq_f1 {f : Fields} {a : BitVec 9} {b : BitVec 1} :
    a ++ b = f.f1 ↔ a = f.f1.extractLsb' 1 9 ∧ b = f.f1.extractLsb' 0 1 := append_eq_iff
@[simp] theorem append_eq_f3 {f : Fields} {a : BitVec 4} {b : BitVec 6} :
    a ++ b = f.f3 ↔ a = f.f3.extractLsb' 6 4 ∧ b = f.f3.extractLsb' 0 6 := append_eq_iff
@[simp] theorem append_eq_f3_top {f : Fields} {a : BitVec 1} {b : BitVec 9} :
    a ++ b = f.f3 ↔ a = f.f3.extractLsb' 9 1 ∧ b = f.f3.extractLsb' 0 9 := append_eq_iff
@[simp] theorem append_eq_f4 {f : Fields} {a : BitVec 6} {b : BitVec 4} :
    a ++ b = f.f4 ↔ a = f.f4.extractLsb' 4 6 ∧ b = f.f4.extractLsb' 0 4 := append_eq_iff
@[simp] theorem append_eq_pd {f : Fields} {a : BitVec 3} {b : BitVec 1} :
    a ++ b = f.pd ↔ a = f.pd.extractLsb' 1 3 ∧ b = f.pd.extractLsb' 0 1 := append_eq_iff
@[simp] theorem append_eq_rm {f : Fields} {a : BitVec 1} {b : BitVec 2} :
    a ++ b = f.rm ↔ a = f.rm.extractLsb' 2 1 ∧ b = f.rm.extractLsb' 0 2 := append_eq_iff

@[simp] theorem append_eq_mn {f : Fields} {a b : BitVec 1} {c : BitVec 2} :
    a ++ b ++ c = f.mn ↔ a = f.mn.extractLsb' 3 1 ∧ b = f.mn.extractLsb' 2 1 ∧ c = f.mn.extractLsb' 0 2 := by
  rw [append_eq_iff (n := 2) (m := 2), append_eq_iff (n := 1) (m := 1), extract_nested _ (by decide), extract_nested _ (by decide), and_assoc]

@[simp] theorem packX_eq {f : Fields} {bu : Bool} {pd ps : BitVec 4} : packX bu pd ps = f.f4 ↔ bu = f.bu ∧ f.xr = 0 ∧ pd = f.pd ∧ ps = f.ps := by
  have hbu : BitVec.ofBool bu = f.f4.extractLsb' 9 1 ↔ bu = f.bu := by
    rw [← ofBool_decide_one (f.f4.extractLsb' 9 1)]
    exact ⟨BitVec.ofBool_eq_iff_eq.1, congrArg _⟩
  rw [packX, append_eq_iff (n := 6) (m := 4), append_eq_iff (n := 2) (m := 4), append_eq_iff (n := 1) (m := 1)]
  iterate 5 rw [extract_nested _ (by decide)]
  rw [hbu, and_assoc, and_assoc, eq_comm (a := 0#1)]
  rfl

/-- What is unpacked is packed again. -/
@[simp] theorem pack_unpack (w : DWord) : (Fields.unpack w).pack = w := by
  simp only [Fields.pack, Fields.unpack]
  iterate 9 rw [BitVec.extractLsb'_append_extractLsb'_eq_extractLsb' (by decide)]
  exact BitVec.extractLsb'_eq_self

/-- Field by field, what the encoder writes is what stood there. -/
theorem encodes {f f' : Fields} {w w' : Option DWord} (hm : f'.maj = f.maj) (hn : f'.mn = f.mn) (h1 : f'.f1 = f.f1) (h2 : f'.f2 = f.f2)
    (h3 : f'.f3 = f.f3) (h4 : f'.f4 = f.f4) (ht : f'.ty = f.ty) (hg : f'.gp = f.gp) (hb : f'.gn = f.gn) (hr : f'.rm = f.rm) (hw : w' = w) :
    some (f', w') = some (f, w) := by
  obtain ⟨⟩ := f
  obtain ⟨⟩ := f'
  simp only [mk.injEq, Option.some.injEq, Prod.mk.injEq]
  exact ⟨⟨hm, h1, h2, h3, h4, hn, ht, hg, hb, hr⟩, hw⟩
end Fields

@[simp] theorem MatrixWord.append_eq_sp {m : MatrixWord} {a b : BitVec 1} :
    a ++ b = m.sp ↔ a = m.sp.extractLsb' 1 1 ∧ b = m.sp.extractLsb' 0 1 := append_eq_iff

@[simp] theorem MatrixWord.pack_unpack (w : DWord) : (MatrixWord.unpack w).pack = w := by
  simp only [pack, unpack]
  iterate 8 rw [BitVec.extractLsb'_append_extractLsb'_eq_extractLsb' (by decide)]
  exact BitVec.extractLsb'_eq_self

@[simp] theorem MatrixWord.pack_eq {m : MatrixWord} {w : DWord} : m.pack = w ↔ let u := unpack w
    m.acc = u.acc ∧ m.mreg = u.mreg ∧ m.nk = u.nk ∧ m.sp = u.sp ∧ m.tb = u.tb ∧ m.cmp = u.cmp ∧ m.sc = u.sc ∧ m.acc2 = u.acc2 ∧ m.res = u.res := by
  have h : m.pack = w ↔ m = unpack w := ⟨fun h => h ▸ (unpack_pack m).symm, fun h => h ▸ pack_unpack w⟩
  rw [h]
  cases m
  exact mk.injEq .. |>.to_iff

@[simp] theorem AsyncWord.pack_unpack (w : DWord) : (AsyncWord.unpack w).pack = w := by
  simp only [pack, unpack]
  iterate 4 rw [BitVec.extractLsb'_append_extractLsb'_eq_extractLsb' (by decide)]
  exact BitVec.extractLsb'_eq_self

@[simp] theorem AsyncWord.pack_eq {m : AsyncWord} {w : DWord} : m.pack = w ↔ let u := unpack w
    m.tok = u.tok ∧ m.scope = u.scope ∧ m.named = u.named ∧ m.tok2 = u.tok2 ∧ m.res = u.res := by
  have h : m.pack = w ↔ m = unpack w := ⟨fun h => h ▸ (unpack_pack m).symm, fun h => h ▸ pack_unpack w⟩
  rw [h]
  cases m
  exact mk.injEq .. |>.to_iff

/-- The fields from which the members of a major opcode are read are the fields that the encoder writes for them. -/
def Encoded (maj : Nat) (d : Fields → DWord → Option Instr) : Prop :=
  ∀ f w i, f.maj.toNat = maj → d f w = some i → encodeFields i = some (f, if isLong (.ofNat 8 maj) then some w else none)

/-- The majors whose members have no field of selectors. -/
theorem plain_members :
    Encoded 0x00 (fun f _ => decodeMaj00 f) ∧ Encoded 0x01 (fun f _ => decodeMaj01 f) ∧ Encoded 0x02 (fun f _ => decodeMaj02 f) ∧
    Encoded 0x10 (fun f _ => decodeMaj10 f) ∧ Encoded 0x11 (fun f _ => decodeMaj11 f) ∧ Encoded 0x20 (fun f _ => decodeMaj20 f) ∧
    Encoded 0x21 (fun f _ => decodeMaj21 f) ∧ Encoded 0x22 (fun f _ => decodeMaj22 f) ∧ Encoded 0x23 (fun f _ => decodeMaj23 f) ∧
    Encoded 0x24 (fun f _ => decodeMaj24 f) ∧ Encoded 0x25 (fun f _ => decodeMaj25 f) ∧ Encoded 0x68 (fun f _ => decodeMaj68 f) ∧
    Encoded 0xC0 (fun f _ => decodeMajC0 f) ∧ Encoded 0xD0 (fun f _ => decodeMajD0 f) ∧ Encoded 0xE0 (fun f _ => decodeMajE0 f) := by
  refine ⟨?_, ?_, ?_, ?_, ?_, ?_, ?_, ?_, ?_, ?_, ?_, ?_, ?_, ?_, ?_⟩ <;> intro f w i hm h
  all_goals simp only [decodeMaj00, decodeMaj01, decodeMaj02, decodeMaj10, decodeMaj11, decodeMaj20, decodeMaj21, decodeMaj22, decodeMaj23, decodeMaj24,
    decodeMaj25, decodeMaj68, decodeMajC0, decodeMajD0, decodeMajE0] at h
  all_goals split at h <;> simp only [need_eq_some, reduceCtorEq, Bool.and_eq_true, decide_eq_true_eq, Fields.imm_top] at h
  all_goals
    next hn =>
    obtain ⟨hz, rfl⟩ := h
    refine Fields.encodes (ofNat_of_toNat hm) (ofNat_of_toNat hn) ?_ ?_ ?_ ?_ ?_ ?_ ?_ ?_ rfl <;> simp [hz]

/-- The majors whose members all round. -/
theorem rounding_members :
    Encoded 0x42 (fun f _ => decodeMaj42 f) ∧ Encoded 0x69 (fun f _ => decodeMaj69 f) := by
  refine ⟨?_, ?_⟩ <;> intro f w i hm h
  all_goals simp only [decodeMaj42, decodeMaj69] at h
  all_goals split at h <;> simp only [need_eq_some, reduceCtorEq, Bool.and_eq_true, decide_eq_true_eq, Option.bind_eq_some_iff] at h
  all_goals
    next hn =>
    obtain ⟨r, hr, hz, rfl⟩ := h
    refine Fields.encodes (ofNat_of_toNat hm) (ofNat_of_toNat hn) ?_ ?_ ?_ ?_ ?_ ?_ ?_ ?_ rfl <;> simp [hz, RSel.code_of_ofCode hr]

/-- Major 0x40, some of whose members round. -/
theorem maj40_members : Encoded 0x40 (fun f _ => decodeMaj40 f) := by
  intro f w i hm h
  simp only [decodeMaj40] at h
  split at h <;> simp only [need_eq_some, reduceCtorEq, Bool.and_eq_true, decide_eq_true_eq, Option.bind_eq_some_iff] at h
  case h_1 hn | h_2 hn | h_3 hn | h_7 hn =>
    obtain ⟨r, hr, hz, rfl⟩ := h
    refine Fields.encodes (ofNat_of_toNat hm) (ofNat_of_toNat hn) ?_ ?_ ?_ ?_ ?_ ?_ ?_ ?_ rfl <;> simp [hz, RSel.code_of_ofCode hr]
  case h_4 hn | h_5 hn | h_6 hn =>
    obtain ⟨hz, rfl⟩ := h
    refine Fields.encodes (ofNat_of_toNat hm) (ofNat_of_toNat hn) ?_ ?_ ?_ ?_ ?_ ?_ ?_ ?_ rfl <;> simp [hz]

/-- Major 0x41, some of whose members round. -/
theorem maj41_members : Encoded 0x41 (fun f _ => decodeMaj41 f) := by
  intro f w i hm h
  simp only [decodeMaj41] at h
  split at h <;> simp only [need_eq_some, reduceCtorEq, Bool.and_eq_true, decide_eq_true_eq, Option.bind_eq_some_iff] at h
  case h_4 hn =>
    obtain ⟨r, hr, hz, rfl⟩ := h
    refine Fields.encodes (ofNat_of_toNat hm) (ofNat_of_toNat hn) ?_ ?_ ?_ ?_ ?_ ?_ ?_ ?_ rfl <;> simp [hz, RSel.code_of_ofCode hr]
  case h_1 hn | h_2 hn | h_3 hn | h_5 hn =>
    obtain ⟨hz, rfl⟩ := h
    refine Fields.encodes (ofNat_of_toNat hm) (ofNat_of_toNat hn) ?_ ?_ ?_ ?_ ?_ ?_ ?_ ?_ rfl <;> simp [hz]

/-- Major 0x60, some of whose members round. -/
theorem maj60_members : Encoded 0x60 (fun f _ => decodeMaj60 f) := by
  intro f w i hm h
  simp only [decodeMaj60] at h
  split at h <;> simp only [need_eq_some, reduceCtorEq, Bool.and_eq_true, decide_eq_true_eq, Option.bind_eq_some_iff] at h
  case h_1 hn | h_2 hn | h_3 hn =>
    obtain ⟨r, hr, hz, rfl⟩ := h
    refine Fields.encodes (ofNat_of_toNat hm) (ofNat_of_toNat hn) ?_ ?_ ?_ ?_ ?_ ?_ ?_ ?_ rfl <;> simp [hz, RSel.code_of_ofCode hr]
  case h_4 hn | h_5 hn =>
    obtain ⟨hz, rfl⟩ := h
    refine Fields.encodes (ofNat_of_toNat hm) (ofNat_of_toNat hn) ?_ ?_ ?_ ?_ ?_ ?_ ?_ ?_ rfl <;> simp [hz]

/-- Major 0x70: the reductions and scans have an operation and a rounding. -/
theorem maj70_members : Encoded 0x70 (fun f _ => decodeMaj70 f) := by
  intro f w i hm h
  simp only [decodeMaj70] at h
  split at h <;> simp only [need_eq_some, reduceCtorEq, Bool.and_eq_true, Bool.not_eq_true', decide_eq_true_eq, Option.bind_eq_some_iff] at h
  case h_3 hn | h_4 hn =>
    obtain ⟨r, hr, op, ho, hz, rfl⟩ := h
    refine Fields.encodes (ofNat_of_toNat hm) (ofNat_of_toNat hn) ?_ ?_ ?_ ?_ ?_ ?_ ?_ ?_ rfl <;>
      simp [hz, RSel.code_of_ofCode hr, XOp.code_of_ofCode ho]
  case h_1 hn | h_2 hn | h_5 hn | h_6 hn | h_7 hn =>
    obtain ⟨hz, rfl⟩ := h
    refine Fields.encodes (ofNat_of_toNat hm) (ofNat_of_toNat hn) ?_ ?_ ?_ ?_ ?_ ?_ ?_ ?_ rfl <;> simp [hz]

/-- The loads and stores, which name a space. -/
theorem access_members :
    Encoded 0x80 (fun f _ => decodeMaj80 f) ∧ Encoded 0x81 (fun f _ => decodeMaj81 f) ∧ Encoded 0x82 (fun f _ => decodeMaj82 f) ∧
    Encoded 0x83 (fun f _ => decodeMaj83 f) := by
  refine ⟨?_, ?_, ?_, ?_⟩ <;> intro f w i hm h
  all_goals simp only [decodeMaj80, decodeMaj81, decodeMaj82, decodeMaj83, need_eq_some, Bool.and_eq_true, Bool.not_eq_true', decide_eq_true_eq,
    Option.bind_eq_some_iff, Fields.ma2_eq_false] at h
  all_goals
    obtain ⟨sp, hs, hz, rfl⟩ := h
    refine Fields.encodes (ofNat_of_toNat hm) ?_ ?_ ?_ ?_ ?_ ?_ ?_ ?_ ?_ rfl <;> simp [hz, Space.code_of_ofCode hs]

/-- Atomics name an operation and a space. -/
theorem maj84_members : Encoded 0x84 (fun f _ => decodeMaj84 f) := by
  intro f w i hm h
  simp only [decodeMaj84, need_eq_some, Bool.not_eq_true', Option.bind_eq_some_iff, Fields.ma2_eq_false] at h
  obtain ⟨op, ho, sp, hs, hz, rfl⟩ := h
  refine Fields.encodes (ofNat_of_toNat hm) ?_ ?_ ?_ ?_ ?_ ?_ ?_ ?_ ?_ rfl <;> simp [hz, AtomOp.code_of_ofCode ho, Space.code_of_ofCode hs]

/-- Fences name their semantics and a scope. -/
theorem maj85_members : Encoded 0x85 (fun f _ => decodeMaj85 f) := by
  intro f w i hm h
  simp only [decodeMaj85, need_eq_some, Bool.and_eq_true, decide_eq_true_eq, Option.bind_eq_some_iff] at h
  obtain ⟨sem, hf, sc, hs, hz, rfl⟩ := h
  refine Fields.encodes (ofNat_of_toNat hm) ?_ ?_ ?_ ?_ ?_ ?_ ?_ ?_ ?_ rfl <;> simp [hz, FenceSem.code_of_ofCode hf, Scope.code_of_ofCode hs]

/-- The majors of one instruction each. -/
theorem table_members :
    Encoded 0x87 (fun f _ => decodeMaj87 f) ∧ Encoded 0x89 (fun f _ => decodeMaj89 f) ∧ Encoded 0x8A (fun f _ => decodeMaj8A f) := by
  refine ⟨?_, ?_, ?_⟩ <;> intro f w i hm h
  all_goals simp only [decodeMaj87, decodeMaj89, decodeMaj8A, need_eq_some, Bool.and_eq_true, Bool.not_eq_true', decide_eq_true_eq, Fields.na_eq_false] at h
  all_goals
    obtain ⟨hz, rfl⟩ := h
    refine Fields.encodes (ofNat_of_toNat hm) ?_ ?_ ?_ ?_ ?_ ?_ ?_ ?_ ?_ rfl <;> simp [hz]

/-- The majors whose two forms F1 tells apart. -/
theorem cache_members :
    Encoded 0x86 (fun f _ => decodeMaj86 f) ∧ Encoded 0x88 (fun f _ => decodeMaj88 f) := by
  refine ⟨?_, ?_⟩ <;> intro f w i hm h
  all_goals simp only [decodeMaj86, decodeMaj88, need_eq_some, Bool.and_eq_true, Bool.not_eq_true', decide_eq_true_eq, Fields.na_eq_false, Option.orElse_eq_some] at h
  all_goals rcases h with ⟨hz, rfl⟩ | ⟨-, hz, rfl⟩
  all_goals refine Fields.encodes (ofNat_of_toNat hm) ?_ ?_ ?_ ?_ ?_ ?_ ?_ ?_ ?_ rfl <;> simp [hz]

/-- The long majors whose members have no field of selectors. -/
theorem long_members :
    Encoded 0x0F decodeMaj0F ∧ Encoded 0x1C decodeMaj1C ∧ Encoded 0x1D decodeMaj1D ∧ Encoded 0xA0 decodeMajA0 ∧ Encoded 0xA1 decodeMajA1 ∧
    Encoded 0xA2 decodeMajA2 ∧ Encoded 0xB1 decodeMajB1 := by
  refine ⟨?_, ?_, ?_, ?_, ?_, ?_, ?_⟩ <;> intro f w i hm h
  all_goals simp only [decodeMaj0F, decodeMaj1C, decodeMaj1D, decodeMajA0, decodeMajA1, decodeMajA2, decodeMajB1] at h
  all_goals split at h <;> simp only [need_eq_some, reduceCtorEq, Bool.and_eq_true, decide_eq_true_eq] at h
  all_goals
    next hn =>
    obtain ⟨hz, rfl⟩ := h
    refine Fields.encodes (ofNat_of_toNat hm) (ofNat_of_toNat hn) ?_ ?_ ?_ ?_ ?_ ?_ ?_ ?_ (congrArg some ?_) <;>
      simp [hz, append_eq_iff (n := 32) (m := 32), append_eq_iff (n := 30) (m := 34)]

/-- Major 0xA3, where `accst` rounds. -/
theorem majA3_members : Encoded 0xA3 decodeMajA3 := by
  intro f w i hm h
  simp only [decodeMajA3] at h
  split at h <;> simp only [need_eq_some, reduceCtorEq, Bool.and_eq_true, decide_eq_true_eq, Option.bind_eq_some_iff] at h
  case h_3 hn =>
    obtain ⟨r, hr, hz, rfl⟩ := h
    refine Fields.encodes (ofNat_of_toNat hm) (ofNat_of_toNat hn) ?_ ?_ ?_ ?_ ?_ ?_ ?_ ?_ (congrArg some ?_) <;> simp [hz, RSel.code_of_ofCode hr]
  case h_1 hn | h_2 hn | h_4 hn | h_5 hn =>
    obtain ⟨hz, rfl⟩ := h
    refine Fields.encodes (ofNat_of_toNat hm) (ofNat_of_toNat hn) ?_ ?_ ?_ ?_ ?_ ?_ ?_ ?_ (congrArg some ?_) <;> simp [hz]

/-- Major 0xB0, where `flsig` names a scope. -/
theorem majB0_members : Encoded 0xB0 decodeMajB0 := by
  intro f w i hm h
  simp only [decodeMajB0] at h
  split at h <;> simp only [need_eq_some, reduceCtorEq, Bool.and_eq_true, decide_eq_true_eq, Option.bind_eq_some_iff] at h
  case h_6 hn =>
    obtain ⟨sc, hs, hz, rfl⟩ := h
    refine Fields.encodes (ofNat_of_toNat hm) (ofNat_of_toNat hn) ?_ ?_ ?_ ?_ ?_ ?_ ?_ ?_ (congrArg some ?_) <;> simp [hz, Scope.code_of_ofCode hs]
  case h_1 hn | h_2 hn | h_3 hn | h_4 hn | h_5 hn | h_7 hn =>
    obtain ⟨hz, rfl⟩ := h
    refine Fields.encodes (ofNat_of_toNat hm) (ofNat_of_toNat hn) ?_ ?_ ?_ ?_ ?_ ?_ ?_ ?_ (congrArg some ?_) <;> simp [hz]

theorem Encoded.of_maj {maj : Nat} {d : Fields → DWord → Option Instr} (e : Encoded maj d) {f : Fields} {w : DWord} {i : Instr} (hm : f.maj.toNat = maj)
    (h : d f w = some i) : encodeFields i = some (f, if isLong f.maj then some w else none) := by
  rw [← ofNat_of_toNat hm]
  exact e f w i hm h

/-- What decodes is written as the fields and the word it was read from. -/
theorem encodeFields_of_decodeMap {f : Fields} {w : DWord} {i : Instr} (h : decodeMap f w = some i) :
    encodeFields i = some (f, if isLong f.maj then some w else none) := by
  obtain ⟨e00, e01, e02, e10, e11, e20, e21, e22, e23, e24, e25, e68, eC0, eD0, eE0⟩ := plain_members
  obtain ⟨e42, e69⟩ := rounding_members
  obtain ⟨e80, e81, e82, e83⟩ := access_members
  obtain ⟨e87, e89, e8A⟩ := table_members
  obtain ⟨e86, e88⟩ := cache_members
  obtain ⟨e0F, e1C, e1D, eA0, eA1, eA2, eB1⟩ := long_members
  unfold decodeMap at h
  split at h
  case h_1 hm => exact e00.of_maj hm h
  case h_2 hm => exact e01.of_maj hm h
  case h_3 hm => exact e02.of_maj hm h
  case h_4 hm => exact e0F.of_maj hm h
  case h_5 hm => exact e10.of_maj hm h
  case h_6 hm => exact e11.of_maj hm h
  case h_7 hm => exact e1C.of_maj hm h
  case h_8 hm => exact e1D.of_maj hm h
  case h_9 hm => exact e20.of_maj hm h
  case h_10 hm => exact e21.of_maj hm h
  case h_11 hm => exact e22.of_maj hm h
  case h_12 hm => exact e23.of_maj hm h
  case h_13 hm => exact e24.of_maj hm h
  case h_14 hm => exact e25.of_maj hm h
  case h_15 hm => exact maj40_members.of_maj hm h
  case h_16 hm => exact maj41_members.of_maj hm h
  case h_17 hm => exact e42.of_maj hm h
  case h_18 hm => exact maj60_members.of_maj hm h
  case h_19 hm => exact e68.of_maj hm h
  case h_20 hm => exact e69.of_maj hm h
  case h_21 hm => exact maj70_members.of_maj hm h
  case h_22 hm => exact e80.of_maj hm h
  case h_23 hm => exact e81.of_maj hm h
  case h_24 hm => exact e82.of_maj hm h
  case h_25 hm => exact e83.of_maj hm h
  case h_26 hm => exact maj84_members.of_maj hm h
  case h_27 hm => exact maj85_members.of_maj hm h
  case h_28 hm => exact e86.of_maj hm h
  case h_29 hm => exact e87.of_maj hm h
  case h_30 hm => exact e88.of_maj hm h
  case h_31 hm => exact e89.of_maj hm h
  case h_32 hm => exact e8A.of_maj hm h
  case h_33 hm => exact eA0.of_maj hm h
  case h_34 hm => exact eA1.of_maj hm h
  case h_35 hm => exact eA2.of_maj hm h
  case h_36 hm => exact majA3_members.of_maj hm h
  case h_37 hm => exact majB0_members.of_maj hm h
  case h_38 hm => exact eB1.of_maj hm h
  case h_39 hm => exact eC0.of_maj hm h
  case h_40 hm => exact eD0.of_maj hm h
  case h_41 hm => exact eE0.of_maj hm h
  case h_42 => cases h

end Sys2Proof
end

section
/-! PROOFS. Words as bytes (R3, R56), and the decoder and the encoder as inverses of one another. -/

namespace Sys2Proof

/-- The lowest byte of a word that has taken a byte in from below. -/
theorem extract_push_low (acc : DWord) (b : Byte) : ((acc <<< 8) ||| b.setWidth 64).extractLsb' 0 8 = b := by
  ext i hi
  simp [hi]; omega

/-- The other bytes have moved up by one. -/
theorem extract_push_high (acc : DWord) (b : Byte) {k : Nat} (hk : k < 7) :
    ((acc <<< 8) ||| b.setWidth 64).extractLsb' (8 * (k + 1)) 8 = acc.extractLsb' (8 * k) 8 := by
  ext i hi
  have hb : b.getLsbD (8 * (k + 1) + i) = false := BitVec.getLsbD_of_ge _ _ (by omega)
  have hi' : 8 * (k + 1) + i - 8 = 8 * k + i := by omega
  simp [-BitVec.getElem_shiftLeft, BitVec.getLsbD_shiftLeft, hb, hi']
  omega

/-- Byte `k` of a word made of bytes is the `k`-th of them. -/
theorem extract_foldr_bytes (bs : List Byte) {k : Nat} (hk : k < 8) :
    BitVec.extractLsb' (8 * k) 8 (bs.foldr (fun (b : Byte) (acc : DWord) => (acc <<< 8) ||| b.setWidth 64) 0#64) = bs.getD k 0 := by
  induction bs generalizing k with
  | nil => simp
  | cons b bs ih =>
    cases k with
    | zero => exact extract_push_low _ b
    | succ k => exact (extract_push_high _ b (by omega)).trans (ih (by omega))

@[simp] theorem wordToBytes_length (w : DWord) : (wordToBytes w).length = 8 := by
  simp [wordToBytes]

theorem wordToBytes_bytesToWord {bs : List Byte} (h : 8 ≤ bs.length) : wordToBytes (bytesToWord bs) = bs.take 8 := by
  apply List.ext_getElem
  · simp [h]
  · intro k hk hk'
    rw [wordToBytes_length] at hk
    simp only [wordToBytes, bytesToWord, List.getElem_map, List.getElem_range]
    rw [extract_foldr_bytes _ hk, List.getD_eq_getElem _ _ hk']

theorem wordToBytes_injective : Function.Injective wordToBytes := by
  intro w w' h
  apply BitVec.eq_of_getLsbD_eq
  intro i hi
  have hb : w.extractLsb' (8 * (i / 8)) 8 = w'.extractLsb' (8 * (i / 8)) 8 :=
    List.map_inj_left.1 h (i / 8) (List.mem_range.2 (by omega))
  have hbit := congrArg (BitVec.getLsbD · (i % 8)) hb
  simpa [show i % 8 < 8 by omega, Nat.div_add_mod] using hbit

theorem bytesToWord_wordToBytes (w : DWord) (rest : List Byte) : bytesToWord (wordToBytes w ++ rest) = w := by
  apply wordToBytes_injective
  rw [wordToBytes_bytesToWord (by simp), List.take_left' (wordToBytes_length w)]

/-- The encoder's lemmas put together: whatever an instruction's fields are, they decode to it. -/
theorem Laws.Encodes.statement (i : Instr) : Statement i := by
  cases i with
  | sadd => apply sadd
  | ssub => apply ssub
  | smul => apply smul
  | smulh => apply smulh
  | sand => apply sand
  | sor => apply sor
  | sxor => apply sxor
  | sshl => apply sshl
  | sshr => apply sshr
  | ssra => apply ssra
  | smin => apply smin
  | smax => apply smax
  | smov => apply smov
  | scmp => apply scmp
  | ssel => apply ssel
  | saddImm => apply saddImm
  | ssubImm => apply ssubImm
  | smulImm => apply smulImm
  | smulhImm => apply smulhImm
  | sandImm => apply sandImm
  | sorImm => apply sorImm
  | sxorImm => apply sxorImm
  | sshlImm => apply sshlImm
  | sshrImm => apply sshrImm
  | ssraImm => apply ssraImm
  | sminImm => apply sminImm
  | smaxImm => apply smaxImm
  | scmpImm => apply scmpImm
  | sliShort => apply sliShort
  | sldArg => apply sldArg
  | sliLong => apply sliLong
  | slih => apply slih
  | iliLong => apply iliLong
  | iliB64 => apply iliB64
  | iliShort => apply iliShort
  | jmp => apply jmp
  | bru => apply bru
  | call => apply call
  | lpb => apply lpb
  | brx => apply brx
  | callReg => apply callReg
  | ret => apply ret
  | exit => apply exit
  | yield => apply yield
  | nop => apply nop
  | brd => apply brd
  | callFar => apply callFar
  | iadd => apply iadd
  | isub => apply isub
  | iadds => apply iadds
  | imul => apply imul
  | imulh => apply imulh
  | imin => apply imin
  | imax => apply imax
  | iand => apply iand
  | ior => apply ior
  | ixor => apply ixor
  | ishl => apply ishl
  | ishr => apply ishr
  | isra => apply isra
  | irot => apply irot
  | icmp => apply icmp
  | isel => apply isel
  | iaddImm => apply iaddImm
  | isubImm => apply isubImm
  | iaddsImm => apply iaddsImm
  | imulImm => apply imulImm
  | imulhImm => apply imulhImm
  | iminImm => apply iminImm
  | imaxImm => apply imaxImm
  | iandImm => apply iandImm
  | iorImm => apply iorImm
  | ixorImm => apply ixorImm
  | ishlImm => apply ishlImm
  | ishrImm => apply ishrImm
  | israImm => apply israImm
  | irotImm => apply irotImm
  | iabs => apply iabs
  | ineg => apply ineg
  | inot => apply inot
  | ipopc => apply ipopc
  | iclz => apply iclz
  | ibrev => apply ibrev
  | imov => apply imov
  | imad => apply imad
  | ibfx => apply ibfx
  | ibfi => apply ibfi
  | idp4 => apply idp4
  | iaddc => apply iaddc
  | isubb => apply isubb
  | iaddw => apply iaddw
  | fadd => apply fadd
  | fsub => apply fsub
  | fmul => apply fmul
  | fmin => apply fmin
  | fmax => apply fmax
  | fcmp => apply fcmp
  | fscale => apply fscale
  | fabs => apply fabs
  | fneg => apply fneg
  | fclass => apply fclass
  | frnd => apply frnd
  | fgetexp => apply fgetexp
  | fma => apply fma
  | fdot2 => apply fdot2
  | fdot4 => apply fdot4
  | cvt => apply cvt
  | cvtq => apply cvtq
  | cvtdq => apply cvtdq
  | pack => apply pack
  | unpk => apply unpk
  | fexp2 => apply fexp2
  | flog2 => apply flog2
  | frcp => apply frcp
  | frsqrt => apply frsqrt
  | fsqrt => apply fsqrt
  | fsin => apply fsin
  | fcos => apply fcos
  | ftanh => apply ftanh
  | fsigm => apply fsigm
  | ferf => apply ferf
  | rstat => apply rstat
  | vote => apply vote
  | shfl => apply shfl
  | xred => apply xred
  | xscan => apply xscan
  | xmatch => apply xmatch
  | xcomp => apply xcomp
  | xexp => apply xexp
  | ld => apply ld
  | st => apply st
  | ldb => apply ldb
  | stb => apply stb
  | atom => apply atom
  | fence => apply fence
  | cinvAll => apply cinvAll
  | cinvLine => apply cinvLine
  | cwb => apply cwb
  | prf => apply prf
  | prfL2 => apply prfL2
  | tld => apply tld
  | tldi => apply tldi
  | oxip => apply oxip
  | oxop => apply oxop
  | oxrw => apply oxrw
  | accz => apply accz
  | accld => apply accld
  | accst => apply accst
  | accmv => apply accmv
  | ldmeta => apply ldmeta
  | cp => apply cp
  | cpx => apply cpx
  | cpz => apply cpz
  | cpg => apply cpg
  | cps => apply cps
  | flsig => apply flsig
  | tload => apply tload
  | twait => apply twait
  | tpoll => apply tpoll
  | bar => apply bar
  | bara => apply bara
  | barw => apply barw
  | sleep => apply sleep
  | lmark => apply lmark
  | capctl => apply capctl
  | capload => apply capload
  | capsave => apply capsave
  | capdrop => apply capdrop
  | trap => apply trap
  | brk => apply brk
  | eret => apply eret
  | mfs => apply mfs
  | mts => apply mts
  | _ => nofun

theorem wordsLen_pack (f : Fields) : wordsLen f.pack = if isLong f.maj then 16 else 8 := by
  rw [wordsLen, ← congrArg Fields.maj (Fields.unpack_pack f)]
  rfl

theorem decodeWords_pack (f : Fields) (w : DWord) : decodeWords f.pack w = decodeFields f w := by
  rw [decodeWords, Fields.unpack_pack]

/-- What the encoder writes decodes; it writes a second word exactly for the long majors (R56). -/
theorem decode_encodeFields {f : Fields} {w : Option DWord} {i : Instr} (he : encodeFields i = some (f, w)) (hw : i.wf = true) :
    decodeWords f.pack (w.getD 0) = some i ∧ wordsLen f.pack = if w.isSome then 16 else 8 := by
  have hd := Laws.Encodes.statement i f w he hw
  have hm := encodeFields_of_decodeMap (Option.filter_eq_some_iff.1 hd).1
  rw [he] at hm
  have hlong : w.isSome = isLong f.maj := by
    have hsome : w.isSome = (if isLong f.maj then some (w.getD 0) else none).isSome := congrArg (Option.isSome ∘ Prod.snd) (Option.some.inj hm)
    rw [hsome]
    cases isLong f.maj <;> rfl
  rw [decodeWords_pack, wordsLen_pack, hlong]
  exact ⟨hd, rfl⟩

theorem encodeBytes_eq {f : Fields} {w : Option DWord} {i : Instr} (he : encodeFields i = some (f, w)) :
    encodeBytes i = wordToBytes f.pack ++ (w.map wordToBytes).getD [] := by
  cases w <;> simp [encodeBytes, encode, he]

theorem decode_short {w : DWord} (h : wordsLen w = 8) (rest : List Byte) :
    decode (wordToBytes w ++ rest) = (decodeWords w 0).map fun i => (i, rest) := by
  simp [decode, bytesToWord_wordToBytes, h]

theorem decode_long {w : DWord} (h : wordsLen w ≠ 8) (w' : DWord) (rest : List Byte) :
    decode (wordToBytes w ++ (wordToBytes w' ++ rest)) = (decodeWords w w').map fun i => (i, rest) := by
  have hdrop : (wordToBytes w ++ (wordToBytes w' ++ rest)).drop 16 = rest := by
    rw [← List.append_assoc, List.drop_left' (by simp)]
  simp only [decode, bytesToWord_wordToBytes, h, hdrop, List.drop_left' (wordToBytes_length w)]
  simp [show ¬ 8 + (8 + rest.length) < 8 by omega, show ¬ 8 + (8 + rest.length) < 16 by omega]

/-- Settles O54: the encoder's lemmas say what the fields decode to, and what is packed into words and bytes comes out of them again. -/
theorem decodeEncode : Obligations.DecodeEncode := by
  intro i rest hs hw
  obtain ⟨⟨f, w⟩, he⟩ := Option.isSome_iff_exists.1 hs
  obtain ⟨hd, hlen⟩ := decode_encodeFields he hw
  rw [encodeBytes_eq he]
  cases w with
  | none =>
    rw [Option.map_none, Option.getD_none, List.append_nil, decode_short hlen]
    exact congrArg _ hd
  | some w =>
    rw [Option.map_some, Option.getD_some, List.append_assoc, decode_long (ne_of_eq_of_ne hlen (by decide : 16 ≠ 8))]
    exact congrArg _ hd

/-- Eight bytes or more begin with the bytes of a word. -/
theorem exists_word {bs : List Byte} (h : 8 ≤ bs.length) : ∃ w r, bs = wordToBytes w ++ r :=
  ⟨bytesToWord bs, bs.drop 8, by rw [wordToBytes_bytesToWord h, List.take_append_drop]⟩

theorem decode_eq_none {bs : List Byte} (h : bs.length < 8) : decode bs = none := if_pos h

theorem decode_long_eq_none {w : DWord} (h : wordsLen w ≠ 8) {r : List Byte} (hr : r.length < 8) : decode (wordToBytes w ++ r) = none := by
  simp [decode, bytesToWord_wordToBytes, h]
  omega

/-- Words that decode are the words of the instruction. -/
theorem encodeBytes_of_decodeWords {w w' : DWord} {i : Instr} (h : decodeWords w w' = some i) :
    i.wf = true ∧ encodeBytes i = wordToBytes w ++ if wordsLen w = 8 then [] else wordToBytes w' := by
  obtain ⟨hm, hw⟩ := Option.filter_eq_some_iff.1 h
  refine ⟨hw, ?_⟩
  rw [encodeBytes_eq (encodeFields_of_decodeMap hm), Fields.pack_unpack, ← congrArg wordsLen (Fields.pack_unpack w), wordsLen_pack]
  cases isLong (Fields.unpack w).maj <;> rfl

/-- Settles O55: the decoder's tables say what fields and words an instruction was read from, and those are the ones the encoder writes. -/
theorem encodeDecode : Obligations.EncodeDecode := by
  intro bs rest i h
  obtain hbs | hbs := lt_or_ge bs.length 8
  · cases (decode_eq_none hbs).symm.trans h
  obtain ⟨w, r, rfl⟩ := exists_word hbs
  by_cases hlen : wordsLen w = 8
  · rw [decode_short hlen] at h
    obtain ⟨j, hj, ⟨⟩⟩ := Option.map_eq_some_iff.1 h
    obtain ⟨hw, hb⟩ := encodeBytes_of_decodeWords hj
    exact ⟨hw, by rw [hb, if_pos hlen, List.append_nil]⟩
  obtain hr | hr := lt_or_ge r.length 8
  · cases (decode_long_eq_none hlen hr).symm.trans h
  obtain ⟨w', r, rfl⟩ := exists_word hr
  rw [decode_long hlen] at h
  obtain ⟨j, hj, ⟨⟩⟩ := Option.map_eq_some_iff.1 h
  obtain ⟨hw, hb⟩ := encodeBytes_of_decodeWords hj
  exact ⟨hw, by rw [hb, if_neg hlen, List.append_assoc]⟩

/-- Settles O56: the words are decoded one after another. -/
theorem wordsDecode : Obligations.WordsDecode := by
  unfold Obligations.WordsDecode
  decide

end Sys2Proof
end

section
/-! PROOFS. Taking a trap at rank 1 and at rank 2 (R363 to R366), and the traps of `eret` and `mts` (R374, R376). -/

namespace Sys2Proof.Machine

open Sys2Proof.Claim

variable {s : State} {gi : Nat} {g : Gang} {p : Path} {t : TrapInfo}

/-- Outside handler mode the kernel's handler takes the trap. -/
theorem trap_rank1 {off : Nat} (hk : g.kd.handler = some off) (hh : g.handler = none) : s.trap gi g p t = s.putGang gi (enterHandler g p.id off t s.seq) := by
  simp only [State.trap, takeTrapGang, hk, hh]

/-- Without a handler, or in it, the supervisor takes the trap. -/
theorem trap_rank2 (h : g.kd.handler = none ∨ g.handler.isSome = true) : s.trap gi g p t = s.putGang gi (escalate g t) := by
  unfold State.trap takeTrapGang
  obtain hk | hh := h
  · simp only [hk]
  · obtain ⟨hm, hh⟩ := Option.isSome_iff_exists.1 hh
    rw [hh]
    split
    · cases ‹some hm = none›
    · rfl

/-- What entering the handler does to a path: the trapping one goes to the handler, current on all its slices, and every other one waits where it is. -/
def inHandler (id : Nat) (pc : DWord) (now : Nat) (q : Path) : Path :=
  if q.id = id then { q with pc := pc, onSl := slicesOf q.mask, st := .ready }
  else { q with onSl := 0, since := if q.onSl = 0 then q.since else now }

theorem inHandler_id (id : Nat) (pc : DWord) (now : Nat) (q : Path) : (inHandler id pc now q).id = q.id := by
  unfold inHandler
  split <;> rfl

theorem enterHandler_eq (hp : findPath g.paths p.id = some p) (off : Nat) (t : TrapInfo) (now : Nat) :
    enterHandler g p.id off t now = { g with
      tcause := t.cause
      tpc := t.pc
      taddr := t.addr
      tlanes := t.lanes
      tinfo := t.info
      handler := some ⟨p.mask, g.stack.length⟩
      xc := Xc.empty
      engaged := none
      fetching := none
      paths := g.paths.map (inHandler p.id (segAddr g.kd (off / 8 * 8)) now) } := by
  unfold enterHandler enterHandlerPath
  simp only [hp]
  rfl

/-- Settles O18: a trap enters the handler, which maps the paths one by one, or is kept for the supervisor. -/
theorem trapEntry : Obligations.TrapEntry := by
  refine ⟨fun s gi g p t off hp hids hk hh => ⟨_, trap_rank1 hk hh, ?_, ?_, fun a ha hne => ?_⟩, fun s gi g p t h => trap_rank2 h⟩
  · rw [enterHandler_eq hp]
  · rw [enterHandler_eq hp, findPath_map (inHandler_id _ _ _), hp]
    have hin : inHandler p.id (segAddr g.kd (off / 8 * 8)) s.seq p = { p with pc := segAddr g.kd (off / 8 * 8), onSl := slicesOf p.mask, st := .ready } :=
      if_pos rfl
    refine ⟨_, rfl, fun h8 => ?_, ?_, ?_, ?_⟩
    · rw [hin, Nat.div_mul_cancel (Nat.dvd_of_mod_eq_zero h8)]
      rfl
    · rw [hin]
    · rw [hin]
    · rw [hin]
      exact fullyCurrent_of_slices rfl
  · rw [enterHandler_eq hp, findPath_map (inHandler_id _ _ _), OwnIds.findPath hids ha]
    have hin : inHandler p.id (segAddr g.kd (off / 8 * 8)) s.seq a = { a with onSl := 0, since := if a.onSl = 0 then a.since else s.seq } := if_neg hne
    exact ⟨_, rfl, by rw [hin], by rw [hin], by rw [hin], by rw [hin]⟩

/-- Settles O23: the checks at issue pass, and the first test of the meaning that holds raises the trap. -/
theorem privilegeTraps : Obligations.PrivilegeTraps := by
  refine fun gd a reg s gi g p hm => ⟨fun h hh => ?outside, fun h hh hg hbad => ?part, fun h hr => ?readOnly, fun h hr hh => ?trapState⟩
  case outside =>
    change execEret gd s = _
    rw [execEret, issueChecked_run h rfl, hh, escalate, hh]
    rfl
  case part =>
    have hpart : (p.mask != hm.path || g.stack.length != hm.depth) = true := by simpa using hbad
    change execEret gd s = _
    rw [execEret, issueChecked_run h rfl, hh]
    exact (if_neg hg).trans (if_pos hpart)
  case readOnly =>
    have hro : sysReadOnly reg = true := decide_eq_true hr
    change execMts gd a reg s = _
    rw [execMts, issueChecked_run h rfl, if_pos hro]
    rfl
  case trapState =>
    have hro : ¬ sysReadOnly reg = true := by simp [sysReadOnly]; omega
    have hts : (sysTrapState reg && g.handler.isNone) = true := by simp [sysTrapState, hh, hr]
    change execMts gd a reg s = _
    rw [execMts, issueChecked_run h rfl, if_neg hro, if_pos hts]
    rfl

end Sys2Proof.Machine
end

section
/-! PROOFS. The driver's commands and their answers (R441). -/

namespace Sys2Proof.Machine

open Sys2Proof.Claim

section Records

variable {α β : Type}

/-- A change of every record in place is seen by a read of one. -/
theorem look_map {f : Nat × α → Nat × β} (hf : ∀ e, (f e).1 = e.1) (m : List (Nat × α)) (k : Nat) :
    look (m.map f) k = (look m k).map (fun x => (f (k, x)).2) := by
  induction m with
  | nil => rfl
  | cons e r ih =>
    obtain ⟨i, x⟩ := e
    rw [List.map_cons, look.eq_def]
    by_cases hk : k = i
    · subst hk
      simp [look, hf]
    · simp [look, hf, hk, ih]

theorem mem_of_look {m : List (Nat × α)} {k : Nat} {x : α} (h : look m k = some x) : (k, x) ∈ m := by
  induction m with
  | nil => cases h
  | cons e r ih =>
    obtain ⟨i, y⟩ := e
    unfold look at h
    split at h
    · cases h
      subst ‹k = i›
      exact List.mem_cons_self
    · exact List.mem_cons_of_mem _ (ih h)

end Records

variable {s : State} {fn code q asid : Nat}

-- Answers

theorem fn_putFn (h : spOk Fn.reset s.fns = true) (x : Fn) : (s.putFn fn x).fn fn = x := spGet_spSet_same _ _ _ h

theorem spOk_putFn (h : spOk Fn.reset s.fns = true) (x : Fn) : spOk Fn.reset (s.putFn fn x).fns = true := spOk_spSet _ _ _ h

theorem fn_reply (h : spOk Fn.reset s.fns = true) (status w0 : DWord) :
    (s.reply fn code status w0).fn fn = { s.fn fn with replies := (s.fn fn).replies ++ [⟨code, status, w0, 0⟩] } := fn_putFn h _

theorem command_run (hc : MayCommand s fn) (f : DWord × DWord × State) : command fn code s f = .next (f.2.2.reply fn code f.1 f.2.1) := by
  obtain ⟨hu, hf⟩ := hc
  simp [command, hu, hf]

theorem command_down (hu : s.up = false) (f : DWord × DWord × State) : command fn code s f = .next s := by simp [command, hu]

/-- The guard of a command that is not written with `command`. -/
theorem open_of_mayCommand (hc : MayCommand s fn) : (!s.up || decide (32 ≤ fn)) = false := by
  obtain ⟨hu, hf⟩ := hc
  simp [hu, hf]

/-- What a command answers in a state that it has changed, the function's replies and the memory apart. -/
theorem answered_reply {u : State} (h : spOk Fn.reset u.fns = true) (hr : (u.fn fn).replies = (s.fn fn).replies) (hm : MemorySame s u) (status w0 : DWord) :
    Answered s (u.reply fn code status w0) fn code status w0 := by
  refine ⟨?_, hm⟩
  rw [fn_reply h, hr]

/-- A command that leaves every function's registers. -/
theorem answered_of_fns {u : State} (h : spOk Fn.reset s.fns = true) (hf : u.fns = s.fns) (hm : MemorySame s u) (status w0 : DWord) :
    Answered s (u.reply fn code status w0) fn code status w0 :=
  answered_reply (by rw [hf]; exact h) (by rw [State.fn, State.fn, hf]) hm status w0

-- BIND_ASID

theorem bindAsid_field {w0 w1 : DWord} (hc : MayCommand s fn) (h : 4096 ≤ asid ∨ w0 &&& 0xFFFFFFF0000000FC ≠ 0 ∨ w1 &&& 0xFFFFFF8000000FFF ≠ 0) :
    execBindAsid fn asid w0 w1 s = .next (s.reply fn 1 1 0) := by
  rw [execBindAsid, command_run hc, if_pos h]
  rfl

theorem bindAsid_fields {w0 w1 : DWord} (ha : asid < 4096) (h0 : w0 &&& 0xFFFFFFF0000000FC = 0) (h1 : w1 &&& 0xFFFFFF8000000FFF = 0) :
    ¬ (4096 ≤ asid ∨ w0 &&& 0xFFFFFFF0000000FC ≠ 0 ∨ w1 &&& 0xFFFFFF8000000FFF ≠ 0) := by
  rintro (h | h | h)
  · omega
  · exact h h0
  · exact h h1

theorem bindAsid_owner {w0 w1 : DWord} (hc : MayCommand s fn) (ha : asid < 4096) (h0 : w0 &&& 0xFFFFFFF0000000FC = 0) (h1 : w1 &&& 0xFFFFFF8000000FFF = 0)
    (hv : asidValid s asid = true) (hf : asidFn s asid ≠ fn) : execBindAsid fn asid w0 w1 s = .next (s.reply fn 1 2 0) := by
  rw [execBindAsid, command_run hc, if_neg (bindAsid_fields ha h0 h1), if_pos (by simp [hv, hf])]
  rfl

theorem bindAsid_writes {w0 w1 : DWord} (hc : MayCommand s fn) (ha : asid < 4096) (h0 : w0 &&& 0xFFFFFFF0000000FC = 0) (h1 : w1 &&& 0xFFFFFF8000000FFF = 0)
    (ho : asidValid s asid = false ∨ asidFn s asid = fn) (hv : w0.getLsbD 0 = true) :
    execBindAsid fn asid w0 w1 s = .next (State.reply { s with asids := spSet (0, 0) s.asids asid (ownedWord fn w0, w1) } fn 1 0 0) := by
  have ho' : ¬ (asidValid s asid && asidFn s asid != fn) = true := by
    obtain h | h := ho <;> simp [h]
  rw [execBindAsid, command_run hc, if_neg (bindAsid_fields ha h0 h1), if_neg ho', if_neg (by rw [hv]; simp)]
  rfl

-- VERIFY

theorem toNat_pred {size : Nat} (h0 : 0 < size) (h1 : size ≤ 2 ^ 34) : (BitVec.ofNat 64 (size - 1)).toNat = size - 1 :=
  Nat.mod_eq_of_lt (by omega)

/-- A range below 2^56 lies in the canonical addresses. -/
theorem canonical_low {va : DWord} (h : va.toNat < 2 ^ 56) : canonical va = true := by
  rw [canonical, Nat.div_eq_of_lt h]
  rfl

/-- The fields of a VERIFY of a range of whole words below 2^56. -/
theorem verify_fields {va : DWord} {size : Nat} (hr : va.toNat + size < 2 ^ 56) (ha : va.toNat % 8 = 0) (h8 : size % 8 = 0) (h0 : 0 < size) (hs : size ≤ 2 ^ 34) :
    (!canonical va || va.toNat % 8 != 0 || size % 8 != 0 || size == 0 || decide (2 ^ 34 < size) || !canonical (va + BitVec.ofNat 64 (size - 1))) = false := by
  have hc : canonical (va + BitVec.ofNat 64 (size - 1)) = true := canonical_low (by
    rw [BitVec.toNat_add, toNat_pred h0 hs]
    omega)
  rw [canonical_low (by omega), hc]
  simp only [ha, h8, bne_self_eq_false, Bool.or_false, Bool.not_true, Bool.false_or, Bool.or_eq_false_iff, beq_eq_false_iff_ne, decide_eq_false_iff_not]
  omega

section Verify

variable {va : DWord} {size : Nat} {descs : List (List DWord)} {unv : Bool}

theorem verify_privilege (hc : MayCommand s fn) (hu : unv = true) (hf : fn ≠ 0) : execVerify fn asid va size descs unv s = .next (s.reply fn 2 3 0) := by
  simp [execVerify, open_of_mayCommand hc, hu, hf, stPrivilege]

theorem verify_owner (hc : MayCommand s fn) (hu : unv = false ∨ fn = 0) (ho : ownsAsid s fn asid = false) :
    execVerify fn asid va size descs unv s = .next (s.reply fn 2 2 0) := by
  have hp : (unv && fn != 0) = false := by obtain h | h := hu <;> simp [h]
  simp [execVerify, open_of_mayCommand hc, hp, ho, stOwner]

/-- A VERIFY with good fields comes down to its verdict. -/
theorem verify_run {ws : List DWord} (hc : MayCommand s fn) (ho : ownsAsid s fn asid = true) (hr : va.toNat + size < 2 ^ 56) (ha : va.toNat % 8 = 0)
    (h8 : size % 8 = 0) (h0 : 0 < size) (hs : size ≤ 2 ^ 34) (hw : segWords s asid va (size / 8) = some ws) :
    execVerify fn asid va size descs false s = if (verifySegment ws descs).status ≠ 0 then
        .next (s.putFn fn { s.fn fn with replies := (s.fn fn).replies ++ [⟨2, stOk, (verifySegment ws descs).words.1, (verifySegment ws descs).words.2⟩] })
      else match passSegment s fn asid va size descs false (verifySegment ws descs) with
        | (st, none) => .next (s.reply fn 2 st 0)
        | (_, some s1) => .next s1 := by
  unfold execVerify
  rw [open_of_mayCommand hc, ho, verify_fields hr ha h8 h0 hs, hw]
  rfl

end Verify

/-- What no step of a fold changes, the fold leaves. -/
theorem foldl_keeps {α β γ : Type} {f : α → β → α} {p : α → γ} (h : ∀ a b, p (f a b) = p a) (l : List β) (a : α) : p (l.foldl f a) = p a := by
  induction l generalizing a with
  | nil => rfl
  | cons b r ih => rw [List.foldl_cons, ih, h]

theorem putBytes_invals (s : State) (im : Image) : (putBytes s im).invals = s.invals :=
  foldl_keeps (p := State.invals) (fun a x => by split <;> rfl) im s

theorem touchL2_invals (s : State) (line : Nat) (dirty : Bool) : (touchL2 s line dirty).invals = s.invals := by
  unfold touchL2
  dsimp only
  split <;> rfl

theorem putTableWord_invals (s : State) (a : Nat) (w : DWord) : (putTableWord s a w).invals = s.invals :=
  (touchL2_invals _ _ _).trans (putBytes_invals _ _)

theorem driverLinks_invals (s : State) (a table : Nat) : (driverLinks s a table).invals = s.invals := putTableWord_invals ..

theorem foldl_putTableWord_invals {β : Type} (f : β → Nat) (w : β → DWord) (l : List β) (s : State) :
    (l.foldl (fun acc j => putTableWord acc (f j) (w j)) s).invals = s.invals :=
  foldl_keeps (p := State.invals) (fun _ _ => putTableWord_invals ..) l s

/-- What holds of the state in which permission has been granted. -/
def Granted.Holds (p : State → Prop) : Granted → Prop
  | .ok s => p s
  | _ => True

theorem splitLeaf_invals (s : State) (asid block : Nat) : (splitLeaf s asid block).Holds (fun t => t.invals = s.invals) := by
  unfold splitLeaf
  split
  · rfl
  · dsimp only
    split_ifs <;> dsimp only [Granted.Holds]
    all_goals rw [driverLinks_invals, foldl_putTableWord_invals]

theorem grantBlock_invals (s : State) (asid block : Nat) (mine : List Nat) : (grantBlock s asid block mine).Holds (fun t => t.invals = s.invals) := by
  unfold grantBlock
  split
  · trivial
  · dsimp only
    split_ifs <;> dsimp only [Granted.Holds]
    · rw [foldl_putTableWord_invals]
    · rw [driverLinks_invals, foldl_putTableWord_invals]

theorem grantBlocks_invals (s : State) (asid : Nat) (pages bs : List Nat) : (grantBlocks s asid pages bs).Holds (fun t => t.invals = s.invals) := by
  induction bs generalizing s with
  | nil => rfl
  | cons b r ih =>
    have h0 := splitLeaf_invals s asid b
    unfold grantBlocks
    split
    · rename_i s0 hs
      rw [hs] at h0
      have h1 := grantBlock_invals s0 asid b (pages.filter (fun p => p / 512 == b))
      split
      · rename_i s1 hb
        rw [hb] at h1
        rw [← h0, ← h1]
        exact ih s1
      · rw [← h0]
        exact h1
    · exact h0

/-- PASS appends the segment, and begins an invalidation. -/
theorem passSegment_some {t : State} {va : DWord} {size : Nat} {descs : List (List DWord)} {unv : Bool} {v : Verdict} {st : DWord}
    (h : passSegment s fn asid va size descs unv v = (st, some t)) :
    t.invals.length = s.invals.length + 1 ∧ (⟨asid, va, size / 8, unv, v.starts, fn, descs⟩ : Segment) ∈ t.segments := by
  have hg := grantBlocks_invals s asid (pagesOf va size) ((pagesOf va size).map (· / 512)).eraseDups
  unfold passSegment at h
  dsimp only at h
  split at h
  · cases h
  · cases h
  · rename_i s1 hs
    cases h
    rw [hs] at hg
    refine ⟨?_, List.mem_append_right _ (List.mem_singleton_self _)⟩
    rw [← show s1.invals = s.invals from hg]
    exact List.length_append

-- KERNEL

theorem kernel_unknown {segment index : Nat} (hc : MayCommand s fn) (h : s.segments.length ≤ segment) :
    execKernel fn segment index s = .next (s.reply fn 3 1 0) := by
  rw [execKernel, command_run hc, List.getElem?_eq_none h]
  rfl

theorem kernel_names {segment index : Nat} {sg : Segment} {d : List DWord} (hc : MayCommand s fn) (hs : s.segments[segment]? = some sg) (hf : sg.fn = fn)
    (hd : sg.descs[index]? = some d) (hn : s.handles.length + 1 < 2 ^ 32) :
    execKernel fn segment index s = .next (State.reply { s with
      handles := s.handles ++ [(s.handles.length + 1, ⟨fn, sg.asid, kernelOf sg.asid sg.base d, d⟩)] } fn 3 0 (BitVec.ofNat 64 (s.handles.length + 1))) := by
  rw [execKernel, command_run hc, hs]
  dsimp only
  rw [if_neg (not_not.2 hf), hd]
  dsimp only
  rw [if_neg (by omega)]
  rfl

-- QUEUE

theorem queue_registers {ring save : DWord} {size prio saveSize : Nat} (hc : MayCommand s fn) (ha : asid < 4096) (hq : q < 65536) (hv : asidValid s asid = true)
    (hf : asidFn s asid = fn) (hz : isPow2In size 6 20 = true) (hr : ring.toNat % 64 = 0) (hp : prio < 8) (hs : save.toNat % 64 = 0)
    (hn : s.queue (queueKey fn q) = none) :
    execQueue fn q asid ring size prio save saveSize s = .next ((s.putQueue (queueKey fn q) (newQueue fn asid ring size prio save saveSize (newEngine s)
      (decide ((engineResidents s (newEngine s)).length < 64)) s.clock)).reply fn 4 0 0) := by
  have hb : ¬ (65536 ≤ q ∨ 4096 ≤ asid ∨ !asidValid s asid ∨ !isPow2In size 6 20 ∨ ring.toNat % 64 ≠ 0 ∨ 8 ≤ prio ∨ save.toNat % 64 ≠ 0) := by
    rw [hv, hz]
    simp
    omega
  rw [execQueue, command_run hc, if_neg hb, if_neg (not_not.2 hf), hn]
  rfl

-- RESTART, UNQUEUE and PREEMPT

/-- A queue number of 65,536 or more, or of a queue that is not there, names none. -/
theorem ownQueue_none (h : 65536 ≤ q ∨ s.queue (queueKey fn q) = none) : ownQueue s fn q = none := by
  unfold ownQueue
  split
  · rfl
  · exact h.resolve_left ‹_›

theorem ownQueue_some {x : Queue} (hq : q < 65536) (h : s.queue (queueKey fn q) = some x) : ownQueue s fn q = some x := by
  rw [ownQueue, if_neg (by omega), h]

theorem restart_unknown (hc : MayCommand s fn) (h : ownQueue s fn q = none) : execRestart fn q s = .next (s.reply fn 6 1 0) := by
  rw [execRestart, command_run hc, h]
  rfl

theorem unqueue_unknown (hc : MayCommand s fn) (h : ownQueue s fn q = none) : execUnqueue fn q s = .next (s.reply fn 5 1 0) := by
  rw [execUnqueue, command_run hc, h]
  rfl

theorem preempt_unknown (hc : MayCommand s fn) (h : ownQueue s fn q = none) : execPreempt fn q s = .next (s.reply fn 8 1 0) := by
  rw [execPreempt, command_run hc, h]
  rfl

theorem restart_goesOn {x : Queue} (hc : MayCommand s fn) (h : ownQueue s fn q = some x) (hr : x.reg = true) (hl : x.leaving = false) :
    execRestart fn q s = .next (((lapse s x.asid).putQueue (queueKey fn q) { x with halt := false, err := 0 }).reply fn 6 0 0) := by
  rw [execRestart, command_run hc, h]
  dsimp only
  rw [if_neg (by simp [hr, hl])]
  rfl

/-- The queue that UNQUEUE has halted. -/
def haltedQueue (x : Queue) : Queue := { x with halt := true, leaving := true, kicked := none, pend := x.pend.filter (fun p => p.done || pktType p == 2) }

theorem unqueue_halts {x : Queue} (hc : MayCommand s fn) (h : ownQueue s fn q = some x) (hr : x.reg = true) :
    execUnqueue fn q s = .next ((settleQueues ((abandonGrids s (queueKey fn q)).putQueue (queueKey fn q) (haltedQueue x))).reply fn 5 0 0) := by
  rw [execUnqueue, command_run hc, h]
  dsimp only
  rw [if_neg (by simp [hr])]
  rfl

/-- A queue that unregisters stays halted. -/
theorem settleQueues_halt {k : Nat} {x : Queue} (h : s.queue k = some x) : ∃ y, (settleQueues s).queue k = some y ∧ y.halt = x.halt := by
  unfold settleQueues State.queue
  rw [look_map (fun e => by split <;> rfl), show look s.queues k = some x from h]
  refine ⟨_, rfl, ?_⟩
  dsimp only
  split <;> rfl

/-- Waits that begin anew change nothing of whose a grid is. -/
theorem restartWaits_grid {old : State} {n : Nat} {g : Grid} (h : (restartWaits old s).grid n = some g) :
    ∃ g', s.grid n = some g' ∧ gridQueue g = gridQueue g' ∧ g.abandoned = g'.abandoned := by
  unfold restartWaits State.grid at h
  rw [look_map (fun e => by dsimp only; split <;> [split; skip] <;> rfl)] at h
  obtain ⟨g', hg, rfl⟩ := Option.map_eq_some_iff.1 h
  refine ⟨g', hg, ?_⟩
  dsimp only
  split
  · split <;> exact ⟨rfl, rfl⟩
  · exact ⟨rfl, rfl⟩

theorem abandonGrids_abandons {k n : Nat} {g : Grid} (h : (abandonGrids s k).grid n = some g) (hk : gridQueue g = k) : g.abandoned = true := by
  obtain ⟨g', hg, hq, ha⟩ := restartWaits_grid h
  unfold State.grid at hg
  rw [look_map (fun e => by dsimp only; split <;> rfl)] at hg
  obtain ⟨g0, -, rfl⟩ := Option.map_eq_some_iff.1 hg
  rw [ha]
  by_cases hk0 : gridQueue g0 = k
  · rw [if_pos hk0]
  · rw [if_neg hk0] at hq
    exact absurd (hq.symm.trans hk) hk0

/-- A queue without a cohort that is being placed. -/
theorem askPlacingRoom_idle {k : Nat} (h : queuePlacing s k = []) (x : Queue) : askPlacingRoom s k x = (s, true) := by
  rw [askPlacingRoom, h]
  rfl

/-- PREEMPT asks the cohorts of a queue that have no place yet, while none is being placed. -/
theorem preempt_run {x : Queue} (hc : MayCommand s fn) (h : ownQueue s fn q = some x) (hr : x.reg = true) (hp : queuePlacing s (queueKey fn q) = []) :
    execPreempt fn q s =
      let r := ((queueCohorts s (queueKey fn q)).filter (fun e => e.2.room.isNone)).foldl (fun (acc : State × Bool) e =>
        if (roomLeft acc.1 e.2).isSome then (askCohort acc.1 e.1, acc.2) else (acc.1, false)) (s, true)
      .next (r.1.reply fn 8 (if r.2 then stOk else stRoom) 0) := by
  rw [execPreempt, command_run hc, h]
  dsimp only
  rw [if_neg (by simp [hr]), askPlacingRoom_idle hp]

theorem queueCohorts_nil {k : Nat} (h : ∀ e ∈ s.cohorts, ∀ g, s.grid e.2.grid = some g → gridQueue g ≠ k) : queueCohorts s k = [] := by
  refine List.filter_eq_nil_iff.2 fun e he => ?_
  split
  · simpa using h e he _ ‹_›
  · simp

theorem askCohort_some {n : Nat} {c : Cohort} {o : Nat × Nat} (hn : s.cohort n = some c) (hr : c.room = none) (ho : roomLeft s c = some o) :
    askCohort s n = s.putCohort n { c with asked := true, room := some o } := by
  simp [askCohort, hn, hr, ho]

theorem cohort_putCohort (n : Nat) (c : Cohort) : (s.putCohort n c).cohort n = some c := look_store_same _ _ _

section Preempt

variable {x : Queue} {n : Nat} {c : Cohort} (hc : MayCommand s fn) (h : ownQueue s fn q = some x) (hr : x.reg = true)
  (hp : queuePlacing s (queueKey fn q) = [])
include hc h hr hp

theorem preempt_none (hq : queueCohorts s (queueKey fn q) = []) : execPreempt fn q s = .next (s.reply fn 8 0 0) := by
  rw [preempt_run hc h hr hp, hq]
  rfl

theorem preempt_asks {o : Nat × Nat} (hq : queueCohorts s (queueKey fn q) = [(n, c)]) (hn : c.room = none) (hs : s.cohort n = some c)
    (ho : roomLeft s c = some o) : execPreempt fn q s = .next ((s.putCohort n { c with asked := true, room := some o }).reply fn 8 0 0) := by
  rw [preempt_run hc h hr hp, hq]
  simp [hn, ho, askCohort_some hs hn ho, stOk]

theorem preempt_again {o : Nat × Nat} (hq : queueCohorts s (queueKey fn q) = [(n, c)]) (hn : c.room = some o) :
    execPreempt fn q s = .next (s.reply fn 8 0 0) := by
  rw [preempt_run hc h hr hp, hq]
  simp [hn, stOk]

theorem preempt_full (hq : queueCohorts s (queueKey fn q) = [(n, c)]) (hn : c.room = none) (ho : roomLeft s c = none) :
    execPreempt fn q s = .next (s.reply fn 8 4 0) := by
  rw [preempt_run hc h hr hp, hq]
  simp [hn, ho, stRoom]

end Preempt

-- INVAL

theorem inval_owner {va : DWord} {size : Nat} (hc : MayCommand s fn) (ho : ownsAsid s fn asid = false) :
    execInval fn asid va size s = .next (s.reply fn 7 2 0) := by
  simp [execInval, open_of_mayCommand hc, ho, stOwner]

theorem inval_begins {va : DWord} {size : Nat} (hc : MayCommand s fn) (ho : ownsAsid s fn asid = true) :
    execInval fn asid va size s = .next (beginInval s asid (va.toNat % 2 ^ 57) size (some (fn, ⟨7, stOk, 0, 0⟩))) := by
  simp [execInval, open_of_mayCommand hc, ho]

-- FAULTQ, SETDELAY and RESPOND

theorem faultq_field {va : DWord} {size : Nat} (hc : MayCommand s fn) (h : isPow2In size 0 32 = false) : execFaultq fn va size s = .next (s.reply fn 9 1 0) := by
  rw [execFaultq, command_run hc, h]
  rfl

theorem faultq_sets {va : DWord} {size : Nat} (hc : MayCommand s fn) (h : isPow2In size 0 32 = true) :
    execFaultq fn va size s = .next ((s.putFn fn { s.fn fn with ring := va, size := size, fqw := 0, fqr := 0 }).reply fn 9 0 0) := by
  rw [execFaultq, command_run hc, h]
  rfl

theorem setdelay_sets (hc : MayCommand s fn) (delay : Word) :
    execSetdelay fn delay s = .next ((s.putFn fn { s.fn fn with delay := delay }).reply fn 11 0 0) := command_run hc _

/-- The same but for gangs and cores. -/
def ButGangs (s t : State) : Prop := ∃ gs cs, t = { s with gangs := gs, cores := cs }

theorem ButGangs.refl (s : State) : ButGangs s s := ⟨_, _, rfl⟩

theorem ButGangs.trans {s t u : State} (h : ButGangs s t) (h' : ButGangs t u) : ButGangs s u := by
  obtain ⟨_, _, rfl⟩ := h
  obtain ⟨_, _, rfl⟩ := h'
  exact ⟨_, _, rfl⟩

theorem ButGangs.foldl {β : Type} {f : State → β → State} (h : ∀ s b, ButGangs s (f s b)) (l : List β) (s : State) : ButGangs s (l.foldl f s) := by
  induction l generalizing s with
  | nil => exact .refl s
  | cons b r ih => exact (h s b).trans (ih _)

theorem unpark_keeps (s : State) (gi : Nat) : ButGangs s (unpark s gi) := by
  unfold unpark
  split
  · exact .refl s
  · dsimp only
    split
    · exact .refl s
    · split
      · exact ⟨_, _, rfl⟩
      · split_ifs <;> exact ⟨_, _, rfl⟩

/-- Answers reach the gangs and the copy engines that are parked alone. -/
theorem answerAll_keeps (s : State) (pri : Bool) (asidOk : Nat → Bool) (hit : Park → Bool) (ok : Bool) : ButGangs s (answerAll s pri asidOk hit ok) :=
  ButGangs.trans ⟨_, _, rfl⟩ (ButGangs.foldl unpark_keeps _ _)

theorem ButGangs.fns {s t : State} (h : ButGangs s t) : t.fns = s.fns := by
  obtain ⟨_, _, rfl⟩ := h
  rfl

theorem ButGangs.memory {s t : State} (h : ButGangs s t) : MemorySame s t := by
  obtain ⟨_, _, rfl⟩ := h
  exact ⟨rfl, rfl⟩

theorem respond_unknown {record : Nat} {retry : Bool} (hc : MayCommand s fn) (h : record ∉ (s.fn fn).pageIds) :
    execRespond fn record retry s = .next (s.reply fn 10 1 0) := by
  rw [execRespond, command_run hc, if_pos (by simp [h])]
  rfl

theorem respond_answers {record : Nat} {retry : Bool} (hc : MayCommand s fn) (h : record ∈ (s.fn fn).pageIds) (hok : spOk Fn.reset s.fns = true) :
    ∃ t, execRespond fn record retry s = .next t ∧ (t.fn fn).pageIds = (s.fn fn).pageIds.filter (fun i => i != record) ∧ MemorySame s t := by
  rw [execRespond, command_run hc, if_neg (by simp [h])]
  dsimp only
  generalize hb : answerAll _ _ _ _ _ = u
  have hk := hb ▸ answerAll_keeps ..
  refine ⟨_, rfl, ?_, hk.memory⟩
  rw [fn_reply (by rw [hk.fns]; exact spOk_putFn hok _), State.fn, hk.fns, ← State.fn, fn_putFn hok]
  exact List.filter_congr fun i _ => by simp [bne, Bool.beq_eq_decide_eq]

end Sys2Proof.Machine
end

section
/-! PROOFS. A table entry written at its home (R236), and what PTWRITE answers (R441). -/

namespace Sys2Proof.Machine

open Sys2Proof.Claim

/-- The bytes that eight bits of BEN from `r` on enable. -/
theorem getLsbD_eightBytes {r l : Nat} (hl : l < 64) : (BitVec.ofNat 64 (0xFF * 2 ^ r)).getLsbD l = (decide (r ≤ l) && decide (l < r + 8)) := by
  rw [BitVec.getLsbD_ofNat, Nat.testBit_mul_two_pow, show (0xFF : Nat) = 2 ^ 8 - 1 from rfl, Nat.testBit_two_pow_sub_one]
  simp only [hl, decide_true, Bool.true_and]
  grind

/-- A byte string at its place. -/
def imageAt (a : Nat) (bs : List Byte) : Image := bs.zipIdx.map fun x => (a + x.2, x.1)

theorem imageAt_cons (a : Nat) (b : Byte) (bs : List Byte) : imageAt a (b :: bs) = (a, b) :: imageAt (a + 1) bs := by
  simp only [imageAt, List.zipIdx_cons, List.map_cons, Nat.add_zero, List.zipIdx_succ, List.map_map]
  congr 1
  refine List.map_congr_left fun x _ => ?_
  simp only [Function.comp_apply, Prod.mk.injEq, and_true]
  omega

theorem enabled_eight {r : Nat} (hr : r ≤ 56) {bs : List Byte} (hb : bs.length = 8) (line : Nat) :
    enabled line (BitVec.ofNat 64 (0xFF * 2 ^ r)) (copies r 0 ++ bs ++ copies (56 - r) 0) = imageAt (64 * line + r) bs := by
  have hbefore : ((copies r (0 : Byte)).zipIdx.filter fun x => (BitVec.ofNat 64 (0xFF * 2 ^ r)).getLsbD x.2) = [] := by
    refine List.filter_eq_nil_iff.2 fun x hx => ?_
    have := List.snd_lt_of_mem_zipIdx hx
    simp only [copies, List.length_replicate] at this
    rw [getLsbD_eightBytes (by omega)]
    simp
    omega
  have hmiddle : ((bs.zipIdx r).filter fun x => (BitVec.ofNat 64 (0xFF * 2 ^ r)).getLsbD x.2) = bs.zipIdx r := by
    refine List.filter_eq_self.2 fun x hx => ?_
    have h1 := List.le_snd_of_mem_zipIdx hx
    have h2 := List.snd_lt_add_of_mem_zipIdx hx
    rw [getLsbD_eightBytes (by omega)]
    simp
    omega
  have hafter : (((copies (56 - r) (0 : Byte)).zipIdx (r + 8)).filter fun x => (BitVec.ofNat 64 (0xFF * 2 ^ r)).getLsbD x.2) = [] := by
    refine List.filter_eq_nil_iff.2 fun x hx => ?_
    have h1 := List.le_snd_of_mem_zipIdx hx
    have h2 := List.snd_lt_add_of_mem_zipIdx hx
    simp only [copies, List.length_replicate] at h2
    rw [getLsbD_eightBytes (by omega)]
    simp
    omega
  have hr' : (copies r (0 : Byte)).length = r := List.length_replicate
  rw [enabled, List.append_assoc, List.zipIdx_append, List.zipIdx_append, List.filter_append, List.filter_append, hbefore, hr', Nat.zero_add, hb, hmiddle, hafter,
    List.nil_append, List.append_nil, imageAt, List.zipIdx_eq_map_add, List.map_map]
  refine List.map_congr_left fun x _ => ?_
  simp only [Function.comp_apply, Prod.mk.injEq, and_true]
  omega

theorem placeByte_setHbm {s : State} {a : Nat} (h : a < 2 ^ 39) (hok : spOk 0 s.hbm = true) (b : Byte) (x : Nat) :
    placeByte { s with hbm := spSet 0 s.hbm a b } x = if x = a then b else placeByte s x := by
  unfold placeByte
  by_cases hx : x = a
  · subst hx
    rw [if_pos h, if_pos rfl, spGet_spSet_same _ _ _ hok]
  · rw [if_neg hx, spGet_spSet_ne _ _ hx hok]

/-- A place after bytes are written to HBM: one of theirs, or what it was. -/
theorem placeByte_putBytes {s : State} {bs : List Byte} {a : Nat} (h : a + bs.length ≤ 2 ^ 39) (hok : spOk 0 s.hbm = true) (x : Nat) :
    placeByte (putBytes s (imageAt a bs)) x = if a ≤ x then (bs[x - a]?).getD (placeByte s x) else placeByte s x := by
  induction bs generalizing a s with
  | nil => simp [imageAt, putBytes]
  | cons b r ih =>
    rw [List.length_cons] at h
    have ha : a < 2 ^ 39 := by omega
    rw [imageAt_cons, putBytes, List.foldl_cons, ← putBytes]
    dsimp only
    rw [if_pos ha, ih (by omega) (spOk_spSet _ _ _ hok), placeByte_setHbm ha hok]
    obtain hx | rfl | hx := Nat.lt_trichotomy x a
    · rw [if_neg (by omega), if_neg (by omega), if_neg (by omega)]
    · simp
    · rw [if_pos (by omega), if_neg (by omega), if_pos (by omega), show x - a = x - (a + 1) + 1 by omega, List.getElem?_cons_succ]

theorem natLE_wordToBytes (w : DWord) : natLE (wordToBytes w) = w.toNat := by
  have := w.isLt
  simp only [wordToBytes, List.range_succ, List.range_zero, List.nil_append, List.cons_append, List.map_cons, List.map_nil, natLE, BitVec.extractLsb'_toNat,
    Nat.shiftRight_eq_div_pow]
  omega

theorem touchL2_memory (s : State) (line : Nat) (dirty : Bool) : MemorySame s (touchL2 s line dirty) := by
  unfold touchL2
  dsimp only
  split <;> exact ⟨rfl, rfl⟩

theorem placeByte_of_memory {s t : State} (h : MemorySame s t) (x : Nat) : placeByte t x = placeByte s x := by
  obtain ⟨h1, h2⟩ := h
  rw [placeByte, placeByte, h1, h2]

theorem mergeLine_memory (s : State) (line : Nat) (ben : LaneMask) (data : List Byte) (bad : Bool) :
    MemorySame (putBytes s (enabled line ben data)) (mergeLine s line ben data bad) := by
  obtain ⟨h1, h2⟩ := touchL2_memory (putBytes s (enabled line ben data)) line true
  exact ⟨h1, h2⟩

theorem placeByte_reply (s : State) (fn code : Nat) (status v : DWord) (a : Nat) : placeByte (s.reply fn code status v) a = placeByte s a := rfl

theorem hbmWord_reply (s : State) (fn code : Nat) (status v : DWord) (a : Nat) : hbmWord (s.reply fn code status v) a = hbmWord s a := rfl

section Entry

variable {s : State} {a : Nat} (h8 : a % 8 = 0) (ha : a + 8 ≤ 2 ^ 39) (hok : spOk 0 s.hbm = true) (w : DWord)
include h8 ha hok

theorem placeByte_putTableWord (x : Nat) :
    placeByte (putTableWord s a w) x = if a ≤ x then ((wordToBytes w)[x - a]?).getD (placeByte s x) else placeByte s x := by
  rw [putTableWord, placeByte_of_memory (mergeLine_memory ..), enabled_eight (by omega) (wordToBytes_length w),
    show 64 * (a / 64) + a % 64 = a by omega, placeByte_putBytes (by rw [wordToBytes_length]; exact ha) hok]

/-- The walker reads the entry that was written. -/
theorem hbmWord_putTableWord : hbmWord (putTableWord s a w) a = w := by
  have hb : placeBytes (putTableWord s a w) a 8 = wordToBytes w := by
    refine List.ext_getElem (by simp [placeBytes]) fun i h1 h2 => ?_
    simp only [placeBytes, List.getElem_map, List.getElem_range]
    rw [placeByte_putTableWord h8 ha hok, if_pos (by omega), Nat.add_sub_cancel_left, List.getElem?_eq_getElem h2]
    rfl
  rw [hbmWord, hb, natLE_wordToBytes, BitVec.ofNat_toNat, BitVec.setWidth_eq]

theorem placeByte_putTableWord_ne {x : Nat} (hx : x < a ∨ a + 8 ≤ x) : placeByte (putTableWord s a w) x = placeByte s x := by
  rw [placeByte_putTableWord h8 ha hok]
  split
  · rw [List.getElem?_eq_none (by rw [wordToBytes_length]; omega)]
    rfl
  · rfl

end Entry

theorem queue_putQueue {s : State} (k : Nat) (x : Queue) : (s.putQueue k x).queue k = some x := look_store_same _ _ _

-- PTWRITE

variable {s : State} {fn asid tb : Nat} {va entry : DWord}

theorem ptwrite_owner (hc : MayCommand s fn) (ho : ownsAsid s fn asid = false) : execPtwrite fn asid va entry s = .next (s.reply fn 12 2 0) := by
  rw [execPtwrite, command_run hc, ho]
  rfl

/-- Where the entry of the page stands. -/
def entryPlace (tb : Nat) (va : DWord) : Nat := tb + 8 * (pageOf va % 512)

/-- PTWRITE of an owned ASID, down to what it asks of the table and the two entries. -/
theorem ptwrite_run (hc : MayCommand s fn) (ho : ownsAsid s fn asid = true) (hv : canonical va = true)
    (ht : tableAt s asid (pageOf va) 0 4 (asidRoot s asid) = some tb) :
    execPtwrite fn asid va entry s =
      if (!isProtected s tb || mapsSegment s asid (pageOf va) (hbmWord s (entryPlace tb va)) || mapsSegment s asid (pageOf va) entry || pteX entry ||
        (pteV entry && badEntry entry 0)) = true then .next (s.reply fn 12 1 0)
      else .next ((putTableWord s (entryPlace tb va) entry).reply fn 12 0 0) := by
  rw [execPtwrite, command_run hc, ho, hv, ht]
  unfold entryPlace
  simp only [Bool.not_true, Bool.false_eq_true, if_false]
  split <;> rfl

theorem ptwrite_field (hc : MayCommand s fn) (ho : ownsAsid s fn asid = true) (hv : canonical va = true)
    (ht : tableAt s asid (pageOf va) 0 4 (asidRoot s asid) = some tb)
    (h : isProtected s tb = false ∨ mapsSegment s asid (pageOf va) entry = true ∨ mapsSegment s asid (pageOf va) (hbmWord s (entryPlace tb va)) = true ∨
      pteX entry = true) : execPtwrite fn asid va entry s = .next (s.reply fn 12 1 0) := by
  rw [ptwrite_run hc ho hv ht, if_pos]
  obtain h | h | h | h := h <;> simp [h]

/-- An entry that would map a page of a verified segment, with the 15 others of its 64 KiB (R234). -/
theorem mapsSegment_big {e : DWord} {sg : Segment} {page : Nat} (hV : pteV e = true) (hB : pteBig e = true) (hm : sg ∈ s.segments) (ha : sg.asid = asid)
    (h0 : 0 < sg.words) (h1 : sg.base.toNat % 2 ^ 57 < page / 16 * 16 * 4096 + 65536)
    (h2 : page / 16 * 16 * 4096 < sg.base.toNat % 2 ^ 57 + 8 * sg.words) : mapsSegment s asid page e = true := by
  unfold mapsSegment
  rw [hV, hB]
  refine Bool.or_eq_true_iff.2 (.inr (List.any_eq_true.2 ⟨sg, hm, ?_⟩))
  simp only [Bool.and_self, if_true, ha, beq_self_eq_true, Bool.true_and, Bool.and_eq_true, decide_eq_true_eq]
  omega

/-- A page lies in its aligned run of 16. -/
theorem run_of_page {page b n : Nat} (h1 : b / 4096 < page + 1) (h2 : page * 4096 < b + n) :
    b / 4096 < page / 16 * 16 + 16 ∧ page / 16 * 16 * 4096 < b + n := by
  omega

/-- An entry that is not present maps what it replaces at most. -/
theorem mapsSegment_absent {e e' : DWord} {page : Nat} (hV : pteV e = false) (h : mapsSegment s asid page e' = false) : mapsSegment s asid page e = false := by
  unfold mapsSegment at h ⊢
  obtain ⟨-, h⟩ := Bool.or_eq_false_iff.1 h
  rw [hV]
  refine Bool.or_eq_false_iff.2 ⟨rfl, List.any_eq_false.2 fun sg hs => ?_⟩
  have := List.any_eq_false.1 h sg hs
  generalize sg.base.toNat % 2 ^ 57 = b at this ⊢
  simp only [Bool.false_and, Bool.false_eq_true, if_false, Bool.and_eq_true, decide_eq_true_eq] at this ⊢
  rintro ⟨⟨⟨ha, h0⟩, h1⟩, h2⟩
  by_cases hb : pteV e' = true ∧ pteBig e' = true
  · rw [if_pos hb, if_pos hb] at this
    obtain ⟨h1', h2'⟩ := run_of_page h1 h2
    exact this ⟨⟨⟨ha, h0⟩, h1'⟩, h2'⟩
  · rw [if_neg hb, if_neg hb] at this
    exact this ⟨⟨⟨ha, h0⟩, h1⟩, h2⟩

theorem ptwrite_writes (hc : MayCommand s fn) (ho : ownsAsid s fn asid = true) (hv : canonical va = true)
    (ht : tableAt s asid (pageOf va) 0 4 (asidRoot s asid) = some tb) (hp : isProtected s tb = true)
    (hm : mapsSegment s asid (pageOf va) (hbmWord s (entryPlace tb va)) = false) (hX : pteX entry = false) (hV : pteV entry = false) :
    execPtwrite fn asid va entry s = .next ((putTableWord s (entryPlace tb va) entry).reply fn 12 0 0) := by
  rw [ptwrite_run hc ho hv ht, if_neg]
  simp [hp, hm, hX, hV, mapsSegment_absent hV hm]

/-- A command that sets registers of the function. -/
theorem answered_putFn {code : Nat} {x : Fn} (h : spOk Fn.reset s.fns = true) (hx : x.replies = (s.fn fn).replies) (status v : DWord) :
    Answered s ((s.putFn fn x).reply fn code status v) fn code status v :=
  answered_reply (spOk_putFn h x) ((congrArg Fn.replies (fn_putFn h x)).trans hx) ⟨rfl, rfl⟩ status v

theorem fn_putFn_reply {code : Nat} (h : spOk Fn.reset s.fns = true) (x : Fn) (status v : DWord) :
    ((s.putFn fn x).reply fn code status v).fn fn = { x with replies := x.replies ++ [⟨code, status, v, 0⟩] } := by
  rw [fn_reply (spOk_putFn h x), fn_putFn h]

/-- Settles O47: what each command answers is a lemma of its own; the replies and the memory follow from what it leaves of the state. -/
theorem driverCommands : Obligations.DriverCommands := by
  intro s fn q asid record segment index size saveSize prio va ring save w0 w1 entry delay retry unv descs k answered same hok hoa
  have keep : ∀ {code : Nat} {u : State} (status v : DWord), u.fns = s.fns → MemorySame s u → Answered s (u.reply fn code status v) fn code status v :=
    fun status v hf hm => answered_of_fns hok hf hm status v
  refine ⟨fun hu => ⟨command_down hu _, command_down hu _, command_down hu _, ?_, ?_⟩, fun hc => ⟨fun h => bindAsid_field hc h, fun ha h0 h1 =>
    ⟨fun hv hf => bindAsid_owner hc ha h0 h1 hv hf, fun ho hv => ⟨_, bindAsid_writes hc ha h0 h1 ho hv, keep _ _ rfl ⟨rfl, rfl⟩, spGet_spSet_same _ _ _ hoa⟩⟩,
    fun hu hf => verify_privilege hc hu hf, fun hu ho => verify_owner hc hu ho, ?_, ?_, fun h => kernel_unknown hc h,
    fun sg d hs hf hd hn => ⟨_, kernel_names hc hs hf hd hn, keep _ _ rfl ⟨rfl, rfl⟩, rfl⟩,
    fun ha hq hv hf hz hr hp hs hn => ⟨_, queue_registers hc ha hq hv hf hz hr hp hs hn, keep _ _ rfl ⟨rfl, rfl⟩, _, look_store_same _ _ _,
      rfl, rfl, rfl, rfl, rfl, rfl, rfl, rfl, rfl, rfl, rfl⟩,
    fun h => ⟨restart_unknown hc (ownQueue_none h), unqueue_unknown hc (ownQueue_none h), preempt_unknown hc (ownQueue_none h)⟩, ?_,
    fun ho => ⟨inval_owner hc ho, ptwrite_owner hc ho⟩, fun ho => ⟨_, inval_begins hc ho, List.length_append, rfl, rfl⟩, ?_,
    fun h => faultq_field hc h, fun h => ⟨_, faultq_sets hc h, ?_, ?_⟩, fun h => respond_unknown hc h, fun h => respond_answers hc h hok,
    _, setdelay_sets hc delay, ?_, ?_⟩⟩
  case refine_1 => exact if_pos (by rw [hu]; rfl)
  case refine_2 => exact if_pos (by rw [hu]; rfl)
  case refine_3 =>
    rintro ws rfl ho hr ha h8 h0 hs hw hv
    refine ⟨_, (verify_run hc ho hr ha h8 h0 hs hw).trans (if_pos hv), rfl, ⟨rfl, rfl⟩, ?_⟩
    rw [fn_putFn hok]
    rfl
  case refine_4 =>
    rintro ws s1 rfl ho hr ha h8 h0 hs hw hv hp
    obtain ⟨hi, hm⟩ := passSegment_some hp
    refine ⟨(verify_run hc ho hr ha h8 h0 hs hw).trans ?_, hi, _, hm, rfl, rfl, rfl, rfl, rfl⟩
    rw [if_neg (not_not.2 hv), hp]
  case refine_5 =>
    intro x hq hx hr
    have hx' := ownQueue_some hq hx
    refine ⟨fun hl => ⟨_, restart_goesOn hc hx' hr hl, keep _ _ rfl ⟨rfl, rfl⟩, look_store_same _ _ _⟩,
      ⟨_, unqueue_halts hc hx' hr, keep _ _ rfl ⟨rfl, rfl⟩, settleQueues_halt (queue_putQueue _ _), fun n g hg hk => abandonGrids_abandons hg hk⟩,
      fun hp hn => ⟨_, preempt_none hc hx' hr hp (queueCohorts_nil hn), keep _ _ rfl ⟨rfl, rfl⟩, rfl⟩,
      fun n c o hp hn hr' hs ho => ⟨_, preempt_asks hc hx' hr hp hn hr' hs ho, keep _ _ rfl ⟨rfl, rfl⟩, cohort_putCohort _ _⟩,
      fun n c o hp hn ho => ⟨_, preempt_again hc hx' hr hp hn ho, keep _ _ rfl ⟨rfl, rfl⟩, rfl⟩,
      fun n c hp hn hr' ho => ⟨_, preempt_full hc hx' hr hp hn hr' ho, keep _ _ rfl ⟨rfl, rfl⟩, rfl⟩⟩
  case refine_6 =>
    intro tb ho hv ht
    refine ⟨fun e sg he hV hB hm ha h0 h1 h2 => ptwrite_field hc ho hv ht ?_, fun h => ptwrite_field hc ho hv ht h, fun hp hm hX hV h4 h39 hh => ?_⟩
    · have hmap := mapsSegment_big hV hB hm ha h0 h1 h2
      obtain rfl | rfl := he
      · exact .inr (.inl hmap)
      · exact .inr (.inr (.inl hmap))
    · have h8 : (tb + 8 * (pageOf va % 512)) % 8 = 0 := by omega
      have hl : tb + 8 * (pageOf va % 512) + 8 ≤ 2 ^ 39 := by omega
      refine ⟨_, ptwrite_writes hc ho hv ht hp hm hX hV, ?_, fun a ha => ?_⟩
      · rw [hbmWord_reply]
        exact hbmWord_putTableWord h8 hl hh _
      · rw [placeByte_reply]
        exact placeByte_putTableWord_ne h8 hl hh _ ha
  case refine_7 => exact answered_putFn hok (by rfl) _ _
  case refine_8 =>
    dsimp only
    rw [fn_putFn_reply hok]
    exact ⟨rfl, rfl, rfl, rfl⟩
  case refine_9 => exact answered_putFn hok (by rfl) _ _
  case refine_10 => exact congrArg Fn.delay (fn_putFn_reply hok _ _ _)

end Sys2Proof.Machine
end

section
/-! PROOFS. Walks (R233, R234, R240) and what they tell those who wait (R239). -/

namespace Sys2Proof.Machine

open Sys2Proof.Claim

section Sparse

variable {α : Type} [DecidableEq α] {d : α} {f : Nat → α → α}

theorem spOkFrom_spMap {lo : Option Nat} {m : List (Nat × α)} (h : spOkFrom d lo m = true) : spOkFrom d lo (spMap d f m) = true := by
  induction m generalizing lo with
  | nil => rfl
  | cons e r ih =>
    obtain ⟨i, x⟩ := e
    obtain ⟨h1, -, h3⟩ := (spOkFrom_cons d).1 h
    exact spOkFrom_spCons d h1 (ih h3)

theorem spOk_spMap {m : List (Nat × α)} (h : spOk d m = true) : spOk d (spMap d f m) = true := spOkFrom_spMap h

/-- A change of every entry that keeps the default is seen at every index. -/
theorem spGet_spMap {m : List (Nat × α)} (h : spOk d m = true) (hf : ∀ k, f k d = d) (k : Nat) : spGet d (spMap d f m) k = f k (spGet d m k) := by
  suffices ∀ lo, spOkFrom d lo m = true → spGet d (spMap d f m) k = f k (spGet d m k) from this none h
  clear h
  induction m with
  | nil => exact fun _ _ => (hf k).symm
  | cons e r ih =>
    intro lo h
    obtain ⟨i, x⟩ := e
    obtain ⟨-, -, h3⟩ := (spOkFrom_cons d).1 h
    have hr : spOkFrom d (some i) (spMap d f r) = true := spOkFrom_spMap h3
    by_cases hk : k = i
    · subst hk
      rw [spMap, spGet_spCons_same d hr, spGet, if_pos rfl]
    · rw [spMap, spGet_spCons_ne d hk hr, ih _ h3, spGet, if_neg hk]
      split
      · rw [spGet_below d h3 (by omega)]
      · rfl

end Sparse

theorem not_mem_setDel (m : List Nat) (k : Nat) : k ∉ setDel m k := by simp [setDel]

theorem look_forget {α : Type} (m : List (Nat × α)) (k : Nat) : look (forget m k) k = none := by
  induction m with
  | nil => rfl
  | cons e r ih =>
    by_cases h : e.1 = k
    · simpa [forget, h] using ih
    · simpa [forget, h, look, Ne.symm h] using ih

variable {s : State} {asid page n : Nat} {t : Nat → Nat} {e : Nat → DWord}

theorem xlOf_putXl (h : spOk DieXl.reset s.dieXl = true) (die : Nat) (x : DieXl) : (s.putXl die x).xlOf die = x := spGet_spSet_same _ _ _ h

-- The walk

theorem walkFrom_absent (h : Tables s asid page n t e) (hn : n ≤ 4) (hV : pteV (e n) = false) (acc : List PtrEntry) :
    walkFrom s asid page n (t n) acc = (.absent n, acc) := by
  obtain ⟨hp, hs⟩ := h.clean n le_rfl hn
  rw [h.reads n le_rfl hn] at hV
  rw [walkFrom.eq_def]
  simp only [hp, hs, hV, Bool.not_true, Bool.not_false, Bool.false_eq_true, if_false, if_true]

theorem walkFrom_leaf (h : Tables s asid page n t e) (hn : n ≤ 4) (hV : pteV (e n) = true) (hl : pteLeaf (e n) = true)
    (hm : malformed s (e n) n (t n) = false) (acc : List PtrEntry) : walkFrom s asid page n (t n) acc = (.leaf (e n) n, acc) := by
  obtain ⟨hp, hs⟩ := h.clean n le_rfl hn
  rw [h.reads n le_rfl hn] at hV hl hm ⊢
  rw [walkFrom.eq_def]
  simp only [hp, hs, hV, hl, hm, Bool.not_true, Bool.false_eq_true, if_false, if_true]

/-- The walk follows the pointers down to the last table. -/
theorem walkFrom_down (h : Tables s asid page n t e) {m : Nat} (hm : m ≤ 4) (hn : n ≤ m) (acc : List PtrEntry) :
    ∃ acc', walkFrom s asid page m (t m) acc = walkFrom s asid page n (t n) acc' := by
  induction m generalizing acc with
  | zero => exact ⟨acc, by rw [Nat.le_zero.1 hn]⟩
  | succ m ih =>
    obtain rfl | hlt := Nat.eq_or_lt_of_le hn
    · exact ⟨acc, rfl⟩
    · obtain ⟨hp, hs⟩ := h.clean (m + 1) hn hm
      obtain ⟨hV, hl, hf, ht⟩ := h.pointers (m + 1) hlt hm
      rw [Nat.add_sub_cancel] at ht
      rw [h.reads (m + 1) hn hm] at hV hl hf ht
      have hstep : walkFrom s asid page (m + 1) (t (m + 1)) acc =
          walkFrom s asid page m (t m) (⟨asid, m, page / 2 ^ (9 * (m + 1)), t m⟩ :: acc) := by
        conv_lhs => rw [walkFrom.eq_def]
        simp only [hp, hs, hV, hl, hf, ht, Bool.not_true, Bool.false_eq_true, if_false]
      rw [hstep]
      exact ih (by omega) (by omega) _

theorem walkPage_of_tables {die gi : Nat} {g : Gang} (hw : Walks s die asid page gi g) (h : Tables s asid page n t e) (hn : n ≤ 4) :
    ∃ acc, walkPage s die asid page = walkFrom s asid page n (t n) acc := by
  obtain ⟨acc, ha⟩ := walkFrom_down h le_rfl hn []
  refine ⟨acc, ?_⟩
  rw [walkPage, hw.cold, ← ha, h.root]

-- Those who wait

/-- Who waits for the page no longer does. -/
theorem told_wants {x : Xc} (h : page ∈ x.wants) (r : Option Xl) : (x.told page r).wants = setDel x.wants page := by
  unfold Xc.told
  rw [if_pos (by simpa using h)]
  split
  · rfl
  · dsimp only
    split <;> rfl
  · rfl

/-- A page to look up anew is forgotten. -/
theorem told_none {x : Xc} (h : page ∈ x.wants) : (x.told page none).got = forget x.got page := by
  unfold Xc.told
  rw [if_pos (by simpa using h)]

/-- An answer of a walk is learnt. -/
theorem told_learns {x : Xc} (h : page ∈ x.wants) {v : Xl} (hv : ∀ a n, v ≠ .noGrant a n) : look (x.told page (some v)).got page = some v := by
  unfold Xc.told
  rw [if_pos (by simpa using h)]
  split
  · cases ‹some v = none›
  · rename_i a n hq
    cases hq
    exact absurd rfl (hv a n)
  · rename_i hq
    cases hq
    exact look_store_same _ _ _

/-- A page without a grant is known by the leaf that its own walk ended at. -/
theorem told_noGrant {x : Xc} (h : page ∈ x.wants) {a b : DWord} {l m : Nat} (hg : look x.got page = some (.needAts b m)) :
    look (x.told page (some (.noGrant a l))).got page = some (.noGrant b m) := by
  unfold Xc.told
  rw [if_pos (by simpa using h)]
  dsimp only
  rw [hg]
  exact look_store_same _ _ _

theorem told_noGrant_other {x : Xc} (h : page ∈ x.wants) {a : DWord} {l : Nat} (hg : ∀ b m, look x.got page ≠ some (.needAts b m)) :
    look (x.told page (some (.noGrant a l))).got page = none := by
  unfold Xc.told
  rw [if_pos (by simpa using h)]
  dsimp only
  split
  · exact absurd ‹_› (hg _ _)
  · exact look_forget _ _

theorem tellAll_gang {on : Nat → Bool} {gi : Nat} {g : Gang} (hg : s.gang gi = some g) (ha : g.kd.asid = asid) (ho : on g.die = true) (r : Option Xl) :
    (tellAll s on asid page r).gang gi = some { g with xc := g.xc.told page r } := by
  unfold tellAll State.gang
  rw [look_map (fun e => by split <;> rfl), show look s.gangs gi = some g from hg, Option.map_some]
  simp [ha, ho]

/-- A walk that has not a walker is not over. -/
theorem walkComplete_waits {die : Nat} {va : DWord} (h : (asid, pageOf va) ∉ (s.xlOf die).walks.take 128) : execWalkComplete die asid va s = .next s := by
  simp [execWalkComplete, walking, h]

/-- The die after a walk: it has a walker again, and its walk cache holds the pointers that were followed. -/
def walked (x : DieXl) (asid page : Nat) (ptrs : List PtrEntry) : DieXl :=
  { x with
    walks := x.walks.filter (fun w => w ≠ (asid, page))
    wcache := (ptrs ++ x.wcache.filter (fun q => !ptrs.contains q)).take 256 }

theorem not_mem_walked (x : DieXl) (asid page : Nat) (ptrs : List PtrEntry) : (asid, page) ∉ (walked x asid page ptrs).walks := by simp [walked]

variable {die gi : Nat} {va : DWord} {g : Gang}

/-- A walk that ends at an entry without V. -/
theorem walkComplete_absent (hw : Walks s die asid (pageOf va) gi g) (h : Tables s asid (pageOf va) n t e) (hn : n ≤ 4) (hV : pteV (e n) = false) :
    ∃ ptrs, execWalkComplete die asid va s =
      .next (tellAll (s.putXl die (walked (s.xlOf die) asid (pageOf va) ptrs)) (· == die) asid (pageOf va) (some (.absent n))) := by
  obtain ⟨acc, hp⟩ := walkPage_of_tables hw h hn
  rw [walkFrom_absent h hn hV] at hp
  refine ⟨acc, ?_⟩
  rw [execWalkComplete]
  dsimp only
  rw [if_neg (by simpa [walking] using hw.running), hp]
  rfl

/-- A walk that ends at a leaf of device memory. -/
theorem walkComplete_leaf (hw : Walks s die asid (pageOf va) gi g) (h : Tables s asid (pageOf va) n t e) (hn : n ≤ 4) (hV : pteV (e n) = true)
    (hl : pteLeaf (e n) = true) (hm : malformed s (e n) n (t n) = false) (hh : pteHost (e n) = false) :
    ∃ x : DieXl, x.tlb = (entryOf asid (pageOf va) (e n) n :: (s.xlOf die).tlb).take 8192 ∧ (asid, pageOf va) ∉ x.walks ∧
      execWalkComplete die asid va s = .next (tellAll (s.putXl die x) (· == die) asid (pageOf va)
        (some (.leaf (pteAddr (e n) + pageOf va * 4096 % 2 ^ leafLog2 (e n) n) (e n) n))) := by
  obtain ⟨acc, hp⟩ := walkPage_of_tables hw h hn
  rw [walkFrom_leaf h hn hV hl hm] at hp
  refine ⟨{ walked (s.xlOf die) asid (pageOf va) acc with tlb := (entryOf asid (pageOf va) (e n) n :: (s.xlOf die).tlb).take 8192 }, rfl,
    not_mem_walked (s.xlOf die) asid (pageOf va) acc, ?_⟩
  rw [execWalkComplete]
  dsimp only
  rw [if_neg (by simpa [walking] using hw.running), hp]
  dsimp only
  rw [xlOfLeaf, hh]
  rfl

end Sys2Proof.Machine
end

section
/-! PROOFS. The ATC and the completions of ATS (R243, R244). -/

namespace Sys2Proof.Machine

open Sys2Proof.Claim

/-- The index for a new entry is not one of those in use: more are numbered than are taken. -/
theorem freeAtc_fresh {l : List AtcEntry} {y : AtcEntry} (hy : y ∈ l) : y.idx ≠ freeAtc l := by
  have hfree : ∃ i, (List.range (l.length + 1)).find? (fun i => !l.any (fun e => e.idx == i)) = some i := by
    by_contra hne
    have hall : List.range (l.length + 1) ⊆ l.map (·.idx) := by
      intro i hi
      have := List.find?_eq_none.1 (Option.eq_none_iff_forall_not_mem.2 fun i hi => hne ⟨i, hi⟩) i hi
      simpa using this
    have := (List.nodup_range.subperm hall).length_le
    simp at this
  obtain ⟨i, hi⟩ := hfree
  have hi' := List.find?_some hi
  rw [freeAtc, hi, Option.getD_some]
  intro he
  simp only [Bool.not_eq_true', List.any_eq_false, beq_iff_eq] at hi'
  exact hi' y hy he

variable {s : State}

/-- Entries that may stay when nothing has to go. -/
def usable (s : State) : List AtcEntry := s.atc.filter (fun e => e.live || atcUsed s e.idx)

theorem usable_length_le (s : State) : (usable s).length ≤ s.atc.length := List.length_filter_le _ _

theorem usable_of_full (h : s.atc.length = 16384) (hu : ¬ (usable s).length < 16384) : usable s = s.atc :=
  List.filter_sublist.eq_of_length (le_antisymm (usable_length_le s) (h.trans_le (not_lt.1 hu)))

theorem atcKept_sublist (s : State) : (atcKept s).Sublist s.atc := by
  have hu : (usable s).Sublist s.atc := List.filter_sublist
  unfold atcKept
  dsimp only
  split
  · exact hu
  · split
    · exact List.filter_sublist.trans hu
    · exact hu

/-- An entry in use stays. -/
theorem mem_atcKept {y : AtcEntry} (hy : y ∈ s.atc) (hu : atcUsed s y.idx = true) : y ∈ atcKept s := by
  have hm : y ∈ usable s := List.mem_filter.2 ⟨hy, by simp [hu]⟩
  unfold atcKept
  dsimp only
  split
  · exact hm
  · split
    · rename_i v hv
      refine List.mem_filter.2 ⟨hm, ?_⟩
      have := List.find?_some hv
      simp only [decide_eq_true_eq]
      intro he
      simp [← he, hu] at this
    · exact hm

/-- With all 16384 entries in use nothing goes. -/
theorem atcKept_full (h : s.atc.length = 16384) (hu : ∀ y ∈ s.atc, atcUsed s y.idx = true) : 16384 ≤ (atcKept s).length := by
  have hall : usable s = s.atc := List.filter_eq_self.2 fun y hy => by simp [hu y hy]
  have hnone : s.atc.find? (fun e => !atcUsed s e.idx) = none := List.find?_eq_none.2 fun y hy => by simp [hu y hy]
  unfold atcKept
  rw [← usable, hall]
  dsimp only
  rw [if_neg (by omega), hnone]
  exact h.ge

/-- Else there is room for another entry. -/
theorem atcKept_room (h : s.atc.length < 16384 ∨ (s.atc.length = 16384 ∧ ∃ y ∈ s.atc, atcUsed s y.idx = false)) : (atcKept s).length < 16384 := by
  unfold atcKept
  rw [← usable]
  dsimp only
  split
  · assumption
  · rename_i hn
    obtain h | ⟨h, y, hy, hu⟩ := h
    · have := usable_length_le s
      omega
    · have hall := usable_of_full h hn
      rw [hall]
      obtain ⟨v, hv⟩ : ∃ v, s.atc.find? (fun e => !atcUsed s e.idx) = some v :=
        Option.isSome_iff_exists.1 (List.find?_isSome.2 ⟨y, hy, by simp [hu]⟩)
      rw [hv]
      dsimp only
      rw [← h]
      exact List.length_filter_lt_length_iff_exists.2 ⟨v, List.mem_of_find?_eq_some hv, by simp⟩

variable {asid log2 : Nat} {va addr : DWord} {rd wr : Bool}

theorem atsCompletion_stray (h : (asid, pageOf va) ∉ s.atsReqs) : execAtsCompletion asid va rd wr addr log2 s = .next s :=
  if_pos (by simpa using h)

/-- The state without the request that the completion answers. -/
def answeredAts (s : State) (asid page : Nat) (granted : Bool) : State :=
  { s with
    atsReqs := s.atsReqs.filter (fun r => r ≠ (asid, page))
    atsBy16 := if granted then s.atsBy16.filter (fun r => r.1 ≠ (asid, page))
      else s.atsBy16.map (fun r => if r.1 = (asid, page) then (r.1, true) else r) }

/-- The entry of a grant (R243). -/
def grantEntry (s : State) (asid page log2 : Nat) (addr : DWord) (rd wr : Bool) : AtcEntry :=
  ⟨freeAtc (atcKept s), true, asidPasid s asid, page * 4096 / 2 ^ log2 * 2 ^ log2, log2, addr, rd, wr⟩

theorem atsCompletion_run (h : (asid, pageOf va) ∈ s.atsReqs) (hg : (rd || wr) = true) :
    execAtsCompletion asid va rd wr addr log2 s = if 16384 ≤ (atcKept s).length then .next s else .next (tellAll
      { answeredAts s asid (pageOf va) true with
        atc := atcKept s ++ [grantEntry s asid (pageOf va) (max 12 (min 30 log2)) addr rd wr] } (fun _ => true) asid (pageOf va) none) := by
  rw [execAtsCompletion]
  dsimp only
  rw [if_neg (by simpa using h), if_pos hg, hg]
  rfl

theorem atsCompletion_grant (h : (asid, pageOf va) ∈ s.atsReqs) (hg : (rd || wr) = true) (hl : 12 ≤ log2) (hu : log2 ≤ 30) (hr : (atcKept s).length < 16384) :
    execAtsCompletion asid va rd wr addr log2 s = .next (tellAll
      { answeredAts s asid (pageOf va) true with atc := atcKept s ++ [grantEntry s asid (pageOf va) log2 addr rd wr] } (fun _ => true) asid (pageOf va) none) := by
  rw [atsCompletion_run h hg, if_neg (not_le.2 hr), show max 12 (min 30 log2) = log2 by omega]

/-- A grant waits while every entry is in use. -/
theorem atsCompletion_waits (hg : (rd || wr) = true) (hr : 16384 ≤ (atcKept s).length) : execAtsCompletion asid va rd wr addr log2 s = .next s := by
  by_cases h : (asid, pageOf va) ∈ s.atsReqs
  · rw [atsCompletion_run h hg, if_pos hr]
  · exact atsCompletion_stray h

theorem atsCompletion_refused (h : (asid, pageOf va) ∈ s.atsReqs) (hg : (rd || wr) = false) :
    execAtsCompletion asid va rd wr addr log2 s =
      .next (tellAll (answeredAts s asid (pageOf va) false) (fun _ => true) asid (pageOf va) (some (.noGrant 0x3F 0))) := by
  rw [execAtsCompletion]
  dsimp only
  rw [if_neg (by simpa using h), hg]
  rfl

theorem not_mem_answeredAts (s : State) (asid page : Nat) (b : Bool) : (asid, page) ∉ (answeredAts s asid page b).atsReqs := by simp [answeredAts]

theorem not_asked_of_grant (s : State) (asid page : Nat) (b : Bool) : ((asid, page), b) ∉ (answeredAts s asid page true).atsBy16 := by simp [answeredAts]

theorem asked_of_refusal {s : State} {asid page : Nat} {b : Bool} (h : ((asid, page), b) ∈ (answeredAts s asid page false).atsBy16) : b = true := by
  simp only [answeredAts, Bool.false_eq_true, if_false, List.mem_map] at h
  obtain ⟨r, -, hr⟩ := h
  split at hr
  · exact (Prod.mk.inj hr).2.symm
  · subst hr
    exact absurd rfl ‹_›

theorem refusal_of_asked {s : State} {asid page : Nat} {b : Bool} (h : ((asid, page), b) ∈ s.atsBy16) :
    ((asid, page), true) ∈ (answeredAts s asid page false).atsBy16 := by
  simp only [answeredAts, Bool.false_eq_true, if_false]
  exact List.mem_map.2 ⟨_, h, if_pos rfl⟩

end Sys2Proof.Machine
end

section
/-! PROOFS. Parked gangs and their answers (R242), and the requests of PRI (R244). -/

namespace Sys2Proof.Machine

open Sys2Proof.Claim

/-- What `unpark` does to its gang. -/
def woken (now : Nat) (g : Gang) : Gang :=
  if g.parks.isEmpty || g.parks.any (fun p => p.answer == none) then g
  else match g.paths.find? (fun p => p.st == .parked) with
    | none => endPark g
    | some p =>
      if g.parks.any (fun x => x.answer == some false) then
        if otherOp g p.id (fun _ => true) then g else takeTrapGang (dropOp (endPark g) p.id) p.id (pageTrap p g.parks) now
      else endPark g

theorem gang_putGang (s : State) (gi : Nat) (g : Gang) : (s.putGang gi g).gang gi = some g := look_store_same _ _ _

theorem unpark_gang {s : State} {gi : Nat} {g : Gang} (h : s.gang gi = some g) : (unpark s gi).gang gi = some (woken s.seq g) := by
  unfold unpark woken
  rw [h]
  dsimp only
  by_cases hw : (g.parks.isEmpty || g.parks.any (fun p => p.answer == none)) = true
  · rw [if_pos hw, if_pos hw, h]
  · rw [if_neg hw, if_neg hw]
    cases g.paths.find? (fun p => p.st == .parked) with
    | none => exact gang_putGang _ _ _
    | some p =>
      dsimp only
      split_ifs
      · exact h
      · exact gang_putGang _ _ _
      · exact gang_putGang _ _ _

theorem unpark_gang_ne (s : State) {gi gj : Nat} (hne : gi ≠ gj) : (unpark s gj).gang gi = s.gang gi := by
  have hput : ∀ g, (s.putGang gj g).gang gi = s.gang gi := fun g => look_store_ne _ _ hne
  unfold unpark
  split
  · rfl
  · dsimp only
    split
    · rfl
    · split
      · exact hput _
      · split
        · split
          · rfl
          · exact hput _
        · exact hput _

theorem takeTrapGang_parks (g : Gang) (id : Nat) (t : TrapInfo) (now : Nat) : (takeTrapGang g id t now).parks = g.parks := by
  unfold takeTrapGang
  split
  · unfold enterHandler enterHandlerPath
    dsimp only
    split <;> rfl
  · rfl

/-- A gang that has gone on waits for no page. -/
theorem woken_woken (now : Nat) (g : Gang) : woken now (woken now g) = woken now g := by
  have hnone : ∀ g : Gang, g.parks = [] → woken now g = g := fun g h => if_pos (by rw [h]; rfl)
  by_cases hw : (g.parks.isEmpty || g.parks.any (fun p => p.answer == none)) = true
  · rw [woken.eq_1 now g, if_pos hw, woken, if_pos hw]
  · have h : woken now g = g ∨ (woken now g).parks = [] := by
      unfold woken
      rw [if_neg hw]
      split
      · exact .inr rfl
      · split
        · split
          · exact .inl rfl
          · exact .inr (takeTrapGang_parks _ _ _ _)
        · exact .inr rfl
    obtain h | h := h
    · rw [h, h]
    · exact hnone _ h

theorem unpark_seq (s : State) (gi : Nat) : (unpark s gi).seq = s.seq := by
  obtain ⟨_, _, h⟩ := unpark_keeps s gi
  rw [h]

/-- A gang that has gone on is left by the rest. -/
theorem foldl_unpark_done {l : List Nat} {s : State} {gi : Nat} {g : Gang} (h : s.gang gi = some g) (hd : woken s.seq g = g) :
    (l.foldl unpark s).gang gi = some g := by
  induction l generalizing s with
  | nil => exact h
  | cons j r ih =>
    refine ih ?_ (by rw [unpark_seq, hd])
    by_cases hj : gi = j
    · subst hj
      rw [unpark_gang h, hd]
    · rw [unpark_gang_ne s hj, h]

theorem foldl_unpark {l : List Nat} {s : State} {gi : Nat} {g : Gang} (h : s.gang gi = some g) (hm : gi ∈ l) :
    (l.foldl unpark s).gang gi = some (woken s.seq g) := by
  induction l generalizing s with
  | nil => cases hm
  | cons j r ih =>
    by_cases hj : gi = j
    · subst hj
      rw [List.foldl_cons]
      exact foldl_unpark_done (unpark_gang h) (by rw [unpark_seq, woken_woken])
    · rw [List.foldl_cons, ih ((unpark_gang_ne s hj).trans h) ((List.mem_cons.1 hm).resolve_left hj), unpark_seq]

/-- A gang parked on one page, whose answer has come. -/
def answeredPark (g : Gang) (k : Park) (ok : Bool) : Gang := { g with parks := [{ k with answer := some ok }] }

variable {s : State} {gi : Nat} {g : Gang} {p : Path} {k : Park}

/-- The answer reaches the gang that is parked on the page, and it goes on. -/
theorem answerAll_gang {asidOk : Nat → Bool} {hit : Park → Bool} (hg : s.gang gi = some g) (hk : g.parks = [k]) (ha : k.answer = none)
    (hok : asidOk g.kd.asid = true) (hh : hit k = true) (ok : Bool) :
    (answerAll s k.pri asidOk hit ok).gang gi = some (woken s.seq (answeredPark g k ok)) := by
  unfold answerAll
  refine foldl_unpark (g := answeredPark g k ok) ?_ ?_
  · unfold State.gang
    rw [look_map (fun e => by split <;> rfl), show look s.gangs gi = some g from hg, Option.map_some]
    simp [hok, answerParks, hk, hh, ha, answeredPark]
  · refine List.mem_map.2 ⟨_, List.mem_map.2 ⟨_, mem_of_look hg, rfl⟩, ?_⟩
    split <;> rfl

theorem woken_ok (hp : g.paths.find? (fun x => x.st == .parked) = some p) (now : Nat) : woken now (answeredPark g k true) = unparked g := by
  unfold woken answeredPark
  rw [if_neg (by simp)]
  dsimp only
  rw [hp]
  rfl

theorem dropOp_of_nil (h : g.ops = []) (id : Nat) : dropOp g id = g := by
  rw [dropOp, h, List.filter_nil, ← h]

theorem lowestLane_mem {m : LaneMask} (h : m ≠ 0) : m.getLsbD (lowestLane m) = true := by
  obtain ⟨l, hl, hm⟩ := exists_lane h
  have hmem : l ∈ lanesOf m := List.mem_filter.2 ⟨List.mem_range.2 hl, hm⟩
  unfold lowestLane
  cases hc : lanesOf m with
  | nil => simp [hc] at hmem
  | cons a r => exact (List.mem_filter.1 (hc ▸ List.mem_cons_self : a ∈ lanesOf m)).2

/-- PAGE of a gang refused one page that it had asked for by PRI: reason 4 (R242, R244). -/
theorem pageTrap_pri (hp : k.pri = true) (hl : k.lanes ≠ 0) (p : Path) :
    pageTrap p [{ k with answer := some false }] = ⟨cPAGE, p.pc, k.addr, k.lanes, pageInfo 4 k.level⟩ := by
  have hlow := lowestLane_mem hl
  simp [pageTrap, hlow, hp]

theorem woken_refused (hp : g.paths.find? (fun x => x.st == .parked) = some p) (hpri : k.pri = true) (hl : k.lanes ≠ 0) (ho : g.ops = []) (now : Nat) :
    woken now (answeredPark g k false) = takeTrapGang (unparked g) p.id ⟨cPAGE, p.pc, k.addr, k.lanes, pageInfo 4 k.level⟩ now := by
  unfold woken answeredPark
  rw [if_neg (by simp)]
  dsimp only
  rw [hp]
  dsimp only
  rw [if_pos (by simp), if_neg (by simp [otherOp, ho]), pageTrap_pri hpri hl]
  exact congrArg (takeTrapGang · _ _ _) (dropOp_of_nil (g := unparked g) ho p.id)

/-- Earlier accesses of other paths come first (R361). -/
theorem woken_waits (hp : g.paths.find? (fun x => x.st == .parked) = some p) (ho : g.ops ≠ []) (hn : ∀ o ∈ g.ops, o.path ≠ p.id) (now : Nat) :
    woken now (answeredPark g k false) = answeredPark g k false := by
  obtain ⟨o, r, hr⟩ := List.exists_cons_of_ne_nil ho
  have hother : otherOp g p.id (fun _ => true) = true := List.any_eq_true.2 ⟨o, by simp [hr], by simpa using hn o (by simp [hr])⟩
  unfold woken answeredPark
  rw [if_neg (by simp)]
  dsimp only
  rw [hp]
  dsimp only
  rw [if_pos (by simp)]
  exact if_pos hother

end Sys2Proof.Machine
end

section
/-! PROOFS. Requests of PRI (R244) and invalidations (R245), and what the translation events do. -/

namespace Sys2Proof.Machine

open Sys2Proof.Claim

variable {s : State} {fn asid : Nat}

-- PRI

/-- Requests that are sent when there is room change in nothing else. -/
def SentOf (ps qs : List PriReq) : Prop := ∀ q ∈ qs, ∃ p ∈ ps, q.fn = p.fn ∧ q.asid = p.asid ∧ q.page = p.page

theorem SentOf.refl (ps : List PriReq) : SentOf ps ps := fun q hq => ⟨q, hq, rfl, rfl, rfl⟩

/-- One step of `sendPri`. -/
def sendPriStep (f : Nat) (s : State) (r : PriReq) : State :=
  if r.fn = f ∧ !r.sent ∧ priRoom s f then { s with pri := s.pri.map (fun x => if x = r then { x with sent := true } else x) } else s

theorem sendPri_eq (s : State) (f : Nat) : sendPri s f = s.pri.foldl (sendPriStep f) s := rfl

theorem sendPriStep_keeps (f : Nat) (s : State) (r : PriReq) : ∃ qs, sendPriStep f s r = { s with pri := qs } ∧ SentOf s.pri qs := by
  unfold sendPriStep
  split
  · refine ⟨_, rfl, fun q hq => ?_⟩
    obtain ⟨x, hx, rfl⟩ := List.mem_map.1 hq
    refine ⟨x, hx, ?_⟩
    split <;> exact ⟨rfl, rfl, rfl⟩
  · exact ⟨_, rfl, SentOf.refl _⟩

theorem foldl_sendPriStep_keeps (f : Nat) (l : List PriReq) (s : State) : ∃ qs, l.foldl (sendPriStep f) s = { s with pri := qs } ∧ SentOf s.pri qs := by
  induction l generalizing s with
  | nil => exact ⟨_, rfl, SentOf.refl _⟩
  | cons r l ih =>
    obtain ⟨qs, h1, hq⟩ := sendPriStep_keeps f s r
    obtain ⟨qs', h2, hq'⟩ := ih (sendPriStep f s r)
    refine ⟨qs', by rw [List.foldl_cons, h2, h1], fun x hx => ?_⟩
    obtain ⟨y, hy, a1, a2, a3⟩ := hq' x hx
    rw [h1] at hy
    obtain ⟨z, hz, b1, b2, b3⟩ := hq y hy
    exact ⟨z, hz, a1.trans b1, a2.trans b2, a3.trans b3⟩

theorem sendPri_keeps (f : Nat) (s : State) : ∃ qs, sendPri s f = { s with pri := qs } ∧ SentOf s.pri qs := foldl_sendPriStep_keeps f s.pri s

/-- An unsent request of a function that asks for no more than its allocation has room (R244). -/
theorem priRoom_of_unsent {f : Nat} {r : PriReq} (hs : (s.fn f).priStopped = false) (hl : (s.pri.filter (fun r => r.fn == f)).length ≤ Config.priAllocation f + 1)
    (hr : r ∈ s.pri) (hf : r.fn = f) (hn : r.sent = false) : priRoom s f = true := by
  have hlt : ((s.pri.filter (fun r => r.fn == f)).filter (fun r => r.sent)).length < (s.pri.filter (fun r => r.fn == f)).length :=
    List.length_filter_lt_length_iff_exists.2 ⟨r, List.mem_filter.2 ⟨hr, by simp [hf]⟩, by simp [hn]⟩
  have hsent : s.pri.filter (fun r => r.fn == f && r.sent) = (s.pri.filter (fun r => r.fn == f)).filter (fun r => r.sent) := by
    rw [List.filter_filter]
    exact List.filter_congr fun r _ => Bool.and_comm _ _
  simp only [priRoom, hsent, hs, Bool.not_false, Bool.true_and, decide_eq_true_eq]
  omega

/-- A request that has been sent, if it is one of the function's in `l`. -/
def sentIn (f : Nat) (l : List PriReq) (x : PriReq) : PriReq := if x.fn = f ∧ x ∈ l then { x with sent := true } else x

theorem sentIn_of_sent (f : Nat) (l : List PriReq) {x : PriReq} (h : x.sent = true) : sentIn f l x = x := by
  unfold sentIn
  split
  · rw [← h]
  · rfl

/-- With room for all of them every request of the list is sent. -/
theorem foldl_sendPriStep_pri {f : Nat} (l : List PriReq) (hs : (s.fn f).priStopped = false)
    (hl : (s.pri.filter (fun r => r.fn == f)).length ≤ Config.priAllocation f + 1) : (l.foldl (sendPriStep f) s).pri = s.pri.map (sentIn f l) := by
  induction l generalizing s with
  | nil => simp [show sentIn f [] = id from funext fun x => by simp [sentIn]]
  | cons r l ih =>
    rw [List.foldl_cons]
    by_cases hc : r.fn = f ∧ !r.sent ∧ priRoom s f
    · have hstep : sendPriStep f s r = { s with pri := s.pri.map (fun x => if x = r then { x with sent := true } else x) } := if_pos hc
      have hfn : ∀ x : PriReq, (if x = r then { x with sent := true } else x).fn = x.fn := fun x => by split <;> rfl
      have hcount : ((s.pri.map (fun x => if x = r then { x with sent := true } else x)).filter (fun r => r.fn == f)).length =
          (s.pri.filter (fun r => r.fn == f)).length := by
        rw [List.filter_map, List.length_map]
        congr 2
        funext x
        simp only [Function.comp_apply, hfn]
      rw [ih (by rw [hstep]; exact hs) (by rw [hstep]; exact hcount.trans_le hl), hstep]
      dsimp only
      rw [List.map_map]
      refine List.map_congr_left fun x hx => ?_
      dsimp only [Function.comp_apply]
      by_cases hx : x = r
      · rw [if_pos hx, sentIn_of_sent _ _ rfl, sentIn, if_pos ⟨by rw [hx]; exact hc.1, by simp [hx]⟩]
      · rw [if_neg hx]
        simp [sentIn, hx]
    · have hstep : sendPriStep f s r = s := if_neg hc
      rw [hstep, ih hs hl]
      refine List.map_congr_left fun x hx => ?_
      by_cases hxr : x = r ∧ x.fn = f
      · obtain ⟨rfl, hf⟩ := hxr
        have hsent : x.sent = true := by
          by_contra hn
          rw [Bool.not_eq_true] at hn
          exact hc ⟨hf, by rw [hn]; rfl, priRoom_of_unsent hs hl hx hf hn⟩
        rw [sentIn_of_sent _ _ hsent, sentIn_of_sent _ _ hsent]
      · unfold sentIn
        by_cases hf : x.fn = f
        · simp [hf, show x ≠ r from fun h => hxr ⟨h, hf⟩]
        · simp [hf]

theorem sendPri_all {f : Nat} (hs : (s.fn f).priStopped = false) (hl : (s.pri.filter (fun r => r.fn == f)).length ≤ Config.priAllocation f + 1) :
    (sendPri s f).pri = s.pri.map (fun r => if r.fn = f then { r with sent := true } else r) := by
  rw [sendPri_eq, foldl_sendPriStep_pri _ hs hl]
  exact List.map_congr_left fun x hx => by simp [sentIn, hx]

-- Invalidations

/-- A TLB entry that meets the range. -/
def Meets (lo size : Nat) (e : TlbEntry) : Prop := e.base < lo + size ∧ lo < e.base + 2 ^ e.log2

theorem dropRange_xlOf (h : spOk DieXl.reset s.dieXl = true) (lo size d : Nat) {e : TlbEntry} :
    e ∈ ((dropRange s asid lo size).xlOf d).tlb ↔ e ∈ (s.xlOf d).tlb ∧ ¬ (e.asid = asid ∧ Meets lo size e) := by
  unfold dropRange State.xlOf
  dsimp only
  rw [spGet_spMap h (fun _ => rfl)]
  rw [List.mem_filter, Bool.not_eq_true', ← Bool.not_eq_true]
  simp only [Bool.and_eq_true, decide_eq_true_eq, beq_iff_eq, and_assoc, Meets]

theorem beginInval_xlOf (h : spOk DieXl.reset s.dieXl = true) (lo size d : Nat) (f : Option (Nat × Reply)) {e : TlbEntry} :
    e ∈ ((beginInval s asid lo size f).xlOf d).tlb ↔ e ∈ (s.xlOf d).tlb ∧ ¬ (e.asid = asid ∧ Meets lo size e) := dropRange_xlOf h lo size d

theorem spOk_beginInval (h : spOk DieXl.reset s.dieXl = true) (lo size : Nat) (f : Option (Nat × Reply)) :
    spOk DieXl.reset (beginInval s asid lo size f).dieXl = true := spOk_spMap h

/-- Invalidations in one ASID after another. -/
def invalAll (lo size : Nat) (l : List (Nat × DWord × DWord)) (s : State) : State := l.foldl (fun acc e => beginInval acc e.1 lo size none) s

theorem invalAll_keeps {γ : Type} {p : State → γ} (h : ∀ s a lo size, p (beginInval s a lo size none) = p s) (lo size : Nat)
    (l : List (Nat × DWord × DWord)) (s : State) : p (invalAll lo size l s) = p s := 
  foldl_keeps (f := fun acc e => beginInval acc e.1 lo size none) (fun s e => h s e.1 lo size) l s

theorem invalAll_tlb {lo size : Nat} {l : List (Nat × DWord × DWord)} (h : spOk DieXl.reset s.dieXl = true) {d : Nat} {e : TlbEntry} :
    e ∈ ((invalAll lo size l s).xlOf d).tlb ↔ e ∈ (s.xlOf d).tlb ∧ ∀ x ∈ l, ¬ (e.asid = x.1 ∧ Meets lo size e) := by
  induction l generalizing s with
  | nil => simp [invalAll]
  | cons x r ih =>
    rw [invalAll, List.foldl_cons, ← invalAll, ih (spOk_beginInval h lo size none), beginInval_xlOf h, and_assoc, List.forall_mem_cons]

theorem mem_invalAll {lo size : Nat} {l : List (Nat × DWord × DWord)} {x : Inval} (h : x ∈ s.invals) : x ∈ (invalAll lo size l s).invals := by
  induction l generalizing s with
  | nil => exact h
  | cons y r ih => exact ih (List.mem_append_left _ h)

/-- Each ASID of the list has its invalidation, which waits for the requests that are outstanding. -/
theorem invalAll_invals {lo size : Nat} {l : List (Nat × DWord × DWord)} {a : Nat × DWord × DWord} (ha : a ∈ l) :
    ∃ x ∈ (invalAll lo size l s).invals, x.asid = a.1 ∧ x.fn = none ∧ x.waits = s.reqs.map (fun r => r.tag) := by
  induction l generalizing s with
  | nil => cases ha
  | cons y r ih =>
    obtain rfl | ha := List.mem_cons.1 ha
    · exact ⟨_, mem_invalAll (s := beginInval s _ lo size none) (List.mem_append_right _ (List.mem_singleton_self _)), rfl, rfl, rfl⟩
    · exact ih (s := beginInval s y.1 lo size none) ha

end Sys2Proof.Machine
end

section
/-! PROOFS. What the translation events do (R240 to R245). -/

namespace Sys2Proof.Machine

open Sys2Proof.Claim

-- Answers of a walk

/-- Who waits for the page knows it and waits no more. -/
theorem tellAll_answers {s : State} {on : Nat → Bool} {asid page gi : Nat} {g : Gang} (hg : s.gang gi = some g) (ha : g.kd.asid = asid) (ho : on g.die = true)
    (hw : page ∈ g.xc.wants) {v : Xl} (hv : ∀ a n, v ≠ .noGrant a n) :
    ∃ y, (tellAll s on asid page (some v)).gang gi = some { g with xc := y } ∧ page ∉ y.wants ∧ look y.got page = some v :=
  ⟨_, tellAll_gang hg ha ho _, by rw [told_wants hw]; exact not_mem_setDel _ _, told_learns hw hv⟩

/-- The die's own state is not part of what is told. -/
theorem tellAll_xlOf (s : State) (on : Nat → Bool) (asid page d : Nat) (r : Option Xl) : (tellAll s on asid page r).xlOf d = s.xlOf d := rfl

-- PRI_RESPONSE

section Response

variable {s : State} {fn asid code gi : Nat} {va : DWord} {g : Gang} {p : Path} {k : Park}

/-- The request of a page, sent and not answered. -/
def Asked (s : State) (fn asid page : Nat) : Prop := ∃ r ∈ s.pri, r.fn = fn ∧ r.asid = asid ∧ r.page = page ∧ r.sent = true

theorem asked_iff {page : Nat} : s.pri.any (fun r => r.fn == fn && r.asid == asid && r.page == page && r.sent) = true ↔ Asked s fn asid page := by
  simp [Asked, and_assoc]

theorem priResponse_stray (h : ¬ Asked s fn asid (pageOf va)) : execPriResponse fn asid va code s = .next s :=
  if_pos (by rw [Bool.eq_false_iff.2 (mt asked_iff.1 h)]; rfl)

/-- Where the answers go from: without the requests that have been answered, and stopped after a failure. -/
def responded (s : State) (fn asid page code : Nat) : State :=
  if code = 0 ∨ code = 1 then sendPri { s with pri := s.pri.filter (fun r => !(r.asid == asid && r.page == page)) } fn
  else { s.putFn fn { s.fn fn with priStopped := true } with pri := s.pri.filter (fun r => r.fn ≠ fn) }

/-- Whom the answer reaches: those parked on the page, or after a failure all of the function. -/
theorem priResponse_run (h : Asked s fn asid (pageOf va)) :
    execPriResponse fn asid va code s = .next (answerAll (responded s fn asid (pageOf va) code) true
      (fun a => if code = 0 ∨ code = 1 then a == asid else asidFn s a == fn) (fun q => if code = 0 ∨ code = 1 then q.page == pageOf va else true) (code == 0)) := by
  rw [execPriResponse]
  dsimp only
  rw [if_neg (by rw [asked_iff.2 h]; simp)]
  unfold responded
  by_cases hc : code = 0 ∨ code = 1
  · simp only [if_pos hc]
  · have h0 : (code == 0) = false := by simp; omega
    simp only [if_neg hc, h0]
    rfl

theorem responded_keeps (s : State) (fn asid page code : Nat) : ∃ fs qs, responded s fn asid page code = { s with fns := fs, pri := qs } := by
  unfold responded
  split
  · obtain ⟨qs, h, -⟩ := sendPri_keeps fn { s with pri := s.pri.filter (fun r => !(r.asid == asid && r.page == page)) }
    exact ⟨_, qs, h⟩
  · exact ⟨_, _, rfl⟩

/-- The request is no more. -/
theorem responded_pri {page : Nat} {r : PriReq} (hr : r ∈ (responded s fn asid page code).pri) : ¬ (r.fn = fn ∧ r.asid = asid ∧ r.page = page) := by
  rintro ⟨h1, h2, h3⟩
  unfold responded at hr
  split at hr
  · obtain ⟨qs, h, hs⟩ := sendPri_keeps fn { s with pri := s.pri.filter (fun r => !(r.asid == asid && r.page == page)) }
    rw [h] at hr
    obtain ⟨q, hq, -, e2, e3⟩ := hs r hr
    have := (List.mem_filter.1 hq).2
    simp [← e2, ← e3, h2, h3] at this
  · have := (List.mem_filter.1 hr).2
    simp [h1] at this

theorem responded_stopped (hok : spOk Fn.reset s.fns = true) (page : Nat) :
    ((responded s fn asid page code).fn fn).priStopped = (decide (1 < code) || (s.fn fn).priStopped) := by
  unfold responded
  split
  · obtain ⟨qs, h, -⟩ := sendPri_keeps fn { s with pri := s.pri.filter (fun r => !(r.asid == asid && r.page == page)) }
    rw [h, show decide (1 < code) = false by simp; omega]
    rfl
  · rw [show decide (1 < code) = true by simp; omega]
    exact congrArg Fn.priStopped (fn_putFn hok _)

/-- The gang that is parked on the page. -/
theorem responded_gang (hp : ParkedOn s gi g p k) (hk : k.pri = true) (hpage : k.page = pageOf va) (ha : g.kd.asid = asid) (hf : asidFn s asid = fn)
    (hwait : ∀ o ∈ g.ops, o.path ≠ p.id) :
    (answerAll (responded s fn asid (pageOf va) code) true (fun a => if code = 0 ∨ code = 1 then a == asid else asidFn s a == fn)
      (fun q => if code = 0 ∨ code = 1 then q.page == pageOf va else true) (code == 0)).gang gi = some (if code = 0 then unparked g
        else if g.ops = [] then takeTrapGang (unparked g) p.id ⟨cPAGE, p.pc, k.addr, k.lanes, pageInfo 4 k.level⟩ s.seq
        else { g with parks := [{ k with answer := some false }] }) := by
  obtain ⟨fs, qs, hr⟩ := responded_keeps s fn asid (pageOf va) code
  have hgang : (responded s fn asid (pageOf va) code).gang gi = some g := by
    rw [hr]
    exact hp.gang
  have hseq : (responded s fn asid (pageOf va) code).seq = s.seq := by rw [hr]
  have h := answerAll_gang (s := responded s fn asid (pageOf va) code) (asidOk := fun a => if code = 0 ∨ code = 1 then a == asid else asidFn s a == fn)
    (hit := fun q => if code = 0 ∨ code = 1 then q.page == pageOf va else true) hgang hp.parks hp.open_ (by simp [ha, hf]) (by simp [hpage]) (code == 0)
  rw [hk] at h
  rw [h, hseq]
  by_cases h0 : code = 0
  · rw [if_pos h0, beq_iff_eq.2 h0, woken_ok hp.path]
  · rw [if_neg h0, beq_eq_false_iff_ne.2 h0]
    by_cases ho : g.ops = []
    · rw [if_pos ho, woken_refused hp.path hk hp.lanes ho]
    · rw [if_neg ho, woken_waits hp.path ho hwait]
      rfl

end Response

-- ATS_INVALIDATE

/-- The ATC entries of the range of a PASID translate no more. -/
def endedIn (s : State) (pasid lo size : Nat) : State :=
  { s with atc := s.atc.map (fun e => if e.pasid = pasid ∧ e.base < lo + size ∧ lo < e.base + 2 ^ e.log2 then { e with live := false } else e) }

/-- After an invalidation has begun in every ASID with the PASID. -/
def invalidated (s : State) (pasid lo size : Nat) : State :=
  invalAll lo size (s.asids.filter (fun e => asidValid s e.1 && asidPasid s e.1 == pasid)) (endedIn s pasid lo size)

theorem atsInvalidate_run (s : State) (pasid : Nat) (va : DWord) (size : Nat) :
    execAtsInvalidate pasid va size s = .next (invalidated s pasid (va.toNat % 2 ^ 57) size) := rfl

-- INVALIDATION_COMPLETE

section Complete

variable {s : State} {x : Inval} {r : List Inval}

theorem find_inval (h : s.invals = x :: r) : s.invals.find? (fun y => y.id == x.id) = some x := by
  rw [h, List.find?_cons_of_pos (by simp)]

theorem invalidationComplete_waits (h : s.invals = x :: r) (hw : ∃ t ∈ x.waits, ∃ q ∈ s.reqs, q.tag = t) : execInvalidationComplete x.id s = .next s := by
  rw [execInvalidationComplete, find_inval h]
  exact if_pos (by simpa using Or.inl hw)

/-- The invalidation is over, and the driver gets the status that waited for it. -/
theorem invalidationComplete_ends (h : s.invals = x :: r) (hid : ∀ y ∈ r, y.id ≠ x.id) (hw : ∀ t ∈ x.waits, ∀ q ∈ s.reqs, q.tag ≠ t)
    (hh : holdsTranslated s x.asid = false) : execInvalidationComplete x.id s = .next (match x.fn with
      | some (f, rep) => State.putFn { s with invals := r } f { s.fn f with replies := (s.fn f).replies ++ [rep] }
      | none => { s with invals := r }) := by
  have hr : s.invals.filter (fun y => y.id ≠ x.id) = r := by
    rw [h, List.filter_cons_of_neg (by simp)]
    exact List.filter_eq_self.2 fun y hy => by simpa using hid y hy
  have hn : ¬ (x.waits.any (fun t => s.reqs.any (fun r => r.tag == t)) || holdsTranslated s x.asid) = true := by
    rw [hh, Bool.or_false, List.any_eq_true]
    rintro ⟨t, ht, hq⟩
    obtain ⟨q, hq, hqt⟩ := List.any_eq_true.1 hq
    exact hw t ht q hq (by simpa using hqt)
  rw [execInvalidationComplete, find_inval h]
  dsimp only
  rw [if_neg hn, hr]
  cases x.fn with
  | none => rfl
  | some f => rfl

end Complete

/-- Settles O50: the walks, the completions of ATS, the responses of PRI and the invalidations each by the lemmas on what they leave and what they change. -/
theorem translation : Obligations.Translation := by
  refine ⟨?walk, ?ats, ?pri, ?invalidate, ?complete⟩
  case walk =>
    intro s die asid n gi va g t e page x
    refine ⟨walkComplete_waits, fun hw ht hn hV hl hm hh => ?_, fun hw ht hn hV => ?_⟩
    · obtain ⟨hdie, hasid, hwants⟩ := hw.mine
      obtain ⟨y, htlb, hwalks, hrun⟩ := walkComplete_leaf hw ht (by omega) hV hl hm hh
      obtain ⟨g', hg', hno, hgot⟩ := tellAll_answers (s := s.putXl die y) (on := (· == die)) hw.gang hasid (beq_iff_eq.2 hdie) hwants
        (v := .leaf (pteAddr (e n) + pageOf va * 4096 % 2 ^ leafLog2 (e n) n) (e n) n) nofun
      refine ⟨_, g', hrun, ⟨rfl, rfl⟩, ?_, ?_, hg', hno, hgot⟩
      · rwa [tellAll_xlOf, xlOf_putXl hw.dies]
      · rw [tellAll_xlOf, xlOf_putXl hw.dies, htlb]
        rfl
    · obtain ⟨hdie, hasid, hwants⟩ := hw.mine
      obtain ⟨ptrs, hrun⟩ := walkComplete_absent hw ht hn hV
      obtain ⟨g', hg', hno, hgot⟩ := tellAll_answers (s := s.putXl die (walked (s.xlOf die) asid (pageOf va) ptrs)) (on := (· == die)) hw.gang hasid
        (beq_iff_eq.2 hdie) hwants (v := .absent n) nofun
      refine ⟨_, g', hrun, ⟨rfl, rfl⟩, ?_, ?_, hg', hno, hgot⟩
      · rw [tellAll_xlOf, xlOf_putXl hw.dies]
        exact not_mem_walked _ _ _ _
      · rw [tellAll_xlOf, xlOf_putXl hw.dies]
        rfl
  case ats =>
    intro s asid log2 va addr rd wr gi g page i
    refine ⟨atsCompletion_stray, fun hrw h16 hu => atsCompletion_waits (by simpa using hrw) (atcKept_full h16 hu), fun hreq hg ha hw hl hu hroom => ?_⟩
    have hno : ∀ r, page ∉ (g.xc.told page r).wants := fun r => by
      rw [told_wants hw]
      exact not_mem_setDel _ _
    by_cases hrw : (rd || wr) = true
    · have hsome : ¬ (rd = false ∧ wr = false) := fun ⟨h1, h2⟩ => by simp [h1, h2] at hrw
      have hkept := atcKept_room (hroom.resolve_left hsome)
      refine ⟨_, _, atsCompletion_grant hreq hrw hl hu hkept, ⟨rfl, rfl⟩, not_mem_answeredAts s asid page true,
        tellAll_gang (s := { answeredAts s asid page true with atc := _ }) hg ha rfl none, hno none,
        fun b hb => absurd hb (not_asked_of_grant s asid page b), fun h => absurd h hsome, fun _ => ?_⟩
      refine ⟨atcKept s, grantEntry s asid page log2 addr rd wr, rfl, atcKept_sublist s, fun y hy hyu => mem_atcKept hy hyu, fun y hy => freeAtc_fresh hy, ?_,
        rfl, rfl, rfl, rfl, rfl, rfl, rfl, told_none hw⟩
      show (atcKept s ++ [grantEntry s asid page log2 addr rd wr]).length ≤ 16384
      rw [List.length_append, List.length_singleton]
      omega
    · rw [Bool.not_eq_true] at hrw
      obtain ⟨h1, h2⟩ := Bool.or_eq_false_iff.1 hrw
      refine ⟨_, _, atsCompletion_refused hreq hrw, ⟨rfl, rfl⟩, not_mem_answeredAts s asid page false,
        tellAll_gang (s := answeredAts s asid page false) hg ha rfl _, hno _, fun b hb => ⟨h1, h2, asked_of_refusal hb⟩,
        fun _ => ⟨rfl, fun b hb => refusal_of_asked hb, fun e n hn => told_noGrant hw hn, fun hn => told_noGrant_other hw hn⟩, fun h => ?_⟩
      rw [h1, h2] at h
      simp at h
  case pri =>
    intro s fn asid code gi va g p k page i
    refine ⟨fun h => priResponse_stray fun ⟨r, hr, hr'⟩ => h r hr hr', fun r hr h1 h2 h3 h4 hp hk hpage ha hok hf => ?_, fun hok => ?_⟩
    · have hkeeps := answerAll_keeps (responded s fn asid (pageOf va) code) true (fun a => if code = 0 ∨ code = 1 then a == asid else asidFn s a == fn)
        (fun q => if code = 0 ∨ code = 1 then q.page == pageOf va else true) (code == 0)
      obtain ⟨fs, qs, hres⟩ := responded_keeps s fn asid (pageOf va) code
      refine ⟨_, priResponse_run ⟨r, hr, h1, h2, h3, h4⟩, ?_, fun q hq => ?_, fun hwait => responded_gang hp hk hpage ha hf hwait, ?_⟩
      · have hm := hkeeps.memory
        rw [hres] at hm ⊢
        exact hm
      · obtain ⟨gs, cs, hbut⟩ := hkeeps
        rw [hbut] at hq
        exact responded_pri hq
      · rw [State.fn, hkeeps.fns]
        exact responded_stopped hok page
    · obtain ⟨qs, hsend, -⟩ := sendPri_keeps fn (s.putFn fn { s.fn fn with priStopped := false })
      have hgo : ((s.putFn fn { s.fn fn with priStopped := false }).fn fn).priStopped = false := congrArg Fn.priStopped (fn_putFn hok _)
      refine ⟨_, rfl, ?_, ?_, fun hl => sendPri_all hgo hl⟩
      · rw [hsend]
        exact hgo
      · rw [hsend]
        exact ⟨rfl, rfl⟩
  case invalidate =>
    intro s pasid size va hok lo
    have hkeep : ∀ {γ : Type} {f : State → γ}, (∀ s a lo size, f (beginInval s a lo size none) = f s) →
        f (invalidated s pasid lo size) = f (endedIn s pasid lo size) :=
      fun h => invalAll_keeps h _ _ _ _
    refine ⟨_, atsInvalidate_run s pasid va size, ⟨hkeep (f := State.hbm) fun _ _ _ _ => rfl, hkeep (f := State.hostMem) fun _ _ _ _ => rfl⟩,
      hkeep (f := State.atc) fun _ _ _ _ => rfl, fun a w hm hv hp => ?_⟩
    have hmem : (a, w) ∈ s.asids.filter (fun e => asidValid s e.1 && asidPasid s e.1 == pasid) := List.mem_filter.2 ⟨hm, by simp [hv, hp]⟩
    exact ⟨fun d e he ha hmeets => ((invalAll_tlb (s := endedIn s pasid lo size) hok).1 he).2 _ hmem ⟨ha, hmeets⟩, invalAll_invals hmem⟩
  case complete =>
    intro s x r h hid hok
    refine ⟨invalidationComplete_waits h, fun hw hh => ⟨_, invalidationComplete_ends h hid hw hh, ?_⟩⟩
    cases hx : x.fn with
    | none => exact ⟨⟨rfl, rfl⟩, rfl, nofun, fun _ => rfl⟩
    | some fr =>
      refine ⟨⟨rfl, rfl⟩, rfl, fun f rep hf => ?_, nofun⟩
      cases hf
      exact congrArg Fn.replies (fn_putFn (s := { s with invals := r }) hok _)

end Sys2Proof.Machine
end

section
/-! PROOFS. Transfers of control: where they go, what they check and link, and what a failed guard leaves (R105 to R108, R26, R80). -/

namespace Sys2Proof.Machine
open Sys2Proof.Claim

section Transfers

variable {s : State} {i : Instr} {gi : Nat} {g : Gang} {p : Path} {gd : Guard} {vr : List Nat}

theorem dispTarget_eq (p : Path) (disp : BitVec 30) : dispTarget p disp = Claim.dispOf p disp := by
  rw [dispTarget, Claim.dispOf, BitVec.signExtend, BitVec.shiftLeft_eq_mul_twoPow, BitVec.ofInt_mul, BitVec.mul_comm]
  rfl

/-- A transfer whose guard fails only goes past (R105). -/
theorem transferInstr_off (h : Issues s i gi g p vr) (hm : guardLanes g p gd = 0) (rd : List Nat)
    (f : Gang → Path → Except TrapInfo (Gang × Option DWord)) : transferInstr i gd vr rd s f = .next (pastInstr s gi p (instrBytes i) g) := by
  rw [transferInstr, issueChecked_run h rfl, if_pos hm]
  rfl

/-- A transfer that traps. -/
theorem transferInstr_error (h : Issues s i gi g p vr) (hm : guardLanes g p gd ≠ 0) {f : Gang → Path → Except TrapInfo (Gang × Option DWord)} {t : TrapInfo}
    (hf : f g p = .error t) : transferInstr i gd vr [] s f = .next (s.trap gi g p t) := by
  rw [transferInstr, issueChecked_run h rfl, if_neg hm]
  simp only [poisonedRead, hf]

/-- A transfer that is taken. -/
theorem transferInstr_taken (h : Issues s i gi g p vr) (hm : guardLanes g p gd ≠ 0) {f : Gang → Path → Except TrapInfo (Gang × Option DWord)} {g' : Gang}
    {tgt : DWord} (hf : f g p = .ok (g', some tgt)) : transferInstr i gd vr [] s f = .next (takeTransfer s gi g' p tgt) := by
  rw [transferInstr, issueChecked_run h rfl, if_neg hm]
  simp only [poisonedRead, hf]

/-- A transfer that goes on, for a condition of its own. -/
theorem transferInstr_past (h : Issues s i gi g p vr) (hm : guardLanes g p gd ≠ 0) {f : Gang → Path → Except TrapInfo (Gang × Option DWord)} {g' : Gang}
    (hf : f g p = .ok (g', none)) : transferInstr i gd vr [] s f = .next (pastInstr s gi p (instrBytes i) g') := by
  rw [transferInstr, issueChecked_run h rfl, if_neg hm]
  simp only [poisonedRead, hf]
  rfl

theorem writeLink_wrote (h : spOk 0 g.v = true) (d : Field10) (n : DWord) : WroteV g (writeLink g p d n) .b64 d p.mask (fun _ => p.pc + n) :=
  writeLanes_wrote g h ..

/-- Settles O11: each transfer answers the gang that it wrote and, when it is taken, its target. -/
theorem transferTaken : Obligations.TransferTaken := by
  intro gd a disp fd s gi g p hm hv hs
  rw [← dispTarget_eq]
  refine ⟨fun h => show execJmp gd disp s = _ from transferInstr_taken h hm rfl, fun h => ?bru, fun h => ?lpb,
    fun h => ⟨_, writeLink_wrote hv a 8, show execCall gd a disp s = _ from transferInstr_taken h hm rfl⟩,
    fun h => ⟨_, writeLink_wrote hv 0 16, show execCallFar gd fd s = _ from transferInstr_taken h hm rfl⟩⟩
  case bru =>
    change execBru gd a disp s = _
    by_cases hz : getS g a.toNat = 0
    · rw [if_pos hz]
      exact transferInstr_past h hm (by rw [if_neg (not_not.2 hz)])
    · rw [if_neg hz]
      exact transferInstr_taken h hm (by rw [if_pos hz])
  case lpb =>
    have hw : writeS g .i32 a ((getS g a.toNat - 1).setWidth 64) = setS g a.toNat (getS g a.toNat - 1) := by simp [writeS, isWide]
    have hone : getS g a.toNat - 1 ≠ 0 ↔ getS g a.toNat ≠ 1 := not_congr sub_eq_zero
    refine ⟨_, hw ▸ writeS_wrote g hs .i32 a ((getS g a.toNat - 1).setWidth 64), ?_⟩
    change execLpb gd a disp s = _
    by_cases hz : getS g a.toNat = 1
    · rw [if_pos hz]
      exact transferInstr_past h hm (by dsimp only; rw [if_neg (mt hone.1 (not_not.2 hz))])
    · rw [if_neg hz]
      exact transferInstr_taken h hm (by dsimp only; rw [if_pos (hone.2 hz)])

-- Targets in registers

theorem and_seven_ne_zero (a : DWord) : (a &&& 7 != 0) = !decide (a.toNat % 8 = 0) := by
  have h : (a &&& 7).toNat = a.toNat % 8 := by rw [BitVec.toNat_and]; exact Nat.and_two_pow_sub_one_eq_mod a.toNat 3
  have h0 : a &&& 7 = 0 ↔ a.toNat % 8 = 0 := by rw [← h, ← BitVec.toNat_inj]; rfl
  rw [bne, beq_eq_decide, decide_eq_decide.2 h0]

/-- What a transfer to a wrong target raises: ALIGN, or ILLOP with TINFO 1 (R26, R80). -/
def targetFault (p : Path) (a : DWord) : TrapInfo := if a.toNat % 8 = 0 then trapAll p 0x01 a 1 else trapAll p 0x03 a 0

theorem checkedTarget_ok {a : DWord} (h : TargetOk s g a) (g' : Gang) : checkedTarget s g p a g' = .ok (g', some a) := by
  obtain ⟨ha, hc, hs⟩ := h
  have ht : targetTrap s g p a = none := by
    rw [targetTrap, and_seven_ne_zero, hc, hs, decide_eq_true ha]
    rfl
  rw [checkedTarget, ht]

theorem checkedTarget_error {a : DWord} (h : ¬ TargetOk s g a) (g' : Gang) : checkedTarget s g p a g' = .error (targetFault p a) := by
  have ht : targetTrap s g p a = some (targetFault p a) := by
    rw [targetTrap, targetFault, and_seven_ne_zero]
    by_cases ha : a.toNat % 8 = 0
    · have hn : ¬ (inCodeRange g.kd a && isStart s g.kd.asid a) = true := fun hc => h ⟨ha, Bool.and_eq_true_iff.1 hc⟩
      rw [decide_eq_true ha, if_pos ha]
      exact if_neg hn
    · rw [decide_eq_false ha, if_neg ha]
      rfl
  rw [checkedTarget, ht]

/-- Settles O12: the target is checked before anything is written. -/
theorem registerTransfer : Obligations.RegisterTransfer := by
  refine fun gd d a s gi g p hm hv => ⟨fun h => ⟨fun ht => ?_, fun ht => ?_⟩, fun h => ⟨fun ht => ⟨_, writeLink_wrote hv d 8, ?_⟩, fun ht => ?_⟩,
    fun h hu => ⟨fun ht => ?_, fun ht => ?_⟩⟩
  · exact show execBrx gd a s = _ from transferInstr_taken h hm (checkedTarget_ok ht _)
  · exact show execBrx gd a s = _ from transferInstr_error h hm (checkedTarget_error ht _)
  · exact show execCallReg gd d a s = _ from transferInstr_taken h hm (checkedTarget_ok ht _)
  · exact show execCallReg gd d a s = _ from transferInstr_error h hm (checkedTarget_error ht _)
  · change execRet gd a s = _
    rw [execRet, issueChecked_run h rfl, if_neg hm, poisonedRead_none hu]
    simp only [checkedTarget_ok ht]
  · change execRet gd a s = _
    rw [execRet, issueChecked_run h rfl, if_neg hm, poisonedRead_none hu]
    simp only [checkedTarget_error ht]
    rfl

/-- Settles O13: each frame asks the guard before the meaning. -/
theorem transferGuarded : Obligations.TransferGuarded := by
  refine fun gd d a disp rej fd n s gi g p => ⟨fun h => ?nop, fun hm => ⟨fun h => ?jmp, fun h => ?bru, fun h => ?lpb, fun h => ?call, fun h => ?brx,
    fun h => ?callReg, fun h => ?ret, fun h => ?callFar, fun h => ?brd, fun h => ?exit, fun h => ?yield, fun h => ?sleep⟩⟩
  case nop =>
    show execNop gd s = _
    rw [execNop, issueChecked_run h rfl]
    rfl
  case jmp => exact show execJmp gd disp s = _ from transferInstr_off h hm ..
  case bru => exact show execBru gd a disp s = _ from transferInstr_off h hm ..
  case lpb => exact show execLpb gd a disp s = _ from transferInstr_off h hm ..
  case call => exact show execCall gd a disp s = _ from transferInstr_off h hm ..
  case brx => exact show execBrx gd a s = _ from transferInstr_off h hm ..
  case callReg => exact show execCallReg gd d a s = _ from transferInstr_off h hm ..
  case callFar => exact show execCallFar gd fd s = _ from transferInstr_off h hm ..
  case ret =>
    show execRet gd a s = _
    rw [execRet, issueChecked_run h rfl, if_pos hm]
    rfl
  case brd =>
    show execBrd gd disp rej s = _
    rw [execBrd, issueChecked_run h rfl]
    exact if_pos hm
  case exit =>
    show execExit gd s = _
    rw [execExit, issueChecked_run h rfl]
    exact if_pos hm
  case yield =>
    show execYield gd s = _
    rw [execYield, issueChecked_run h rfl, if_pos hm]
    rfl
  case sleep =>
    show execSleep gd n s = _
    rw [execSleep, issueChecked_run h rfl, if_pos hm]
    rfl

end Transfers

end Sys2Proof.Machine
end

section
/-! PROOFS. The integer operations compute the exact numbers of the claims, as far as a register of the type keeps them (R85, R90, R92). -/

namespace Sys2Proof.Machine
open Sys2Proof.Claim

/-- Two results that a destination of the type keeps alike: they agree modulo 2^64, or modulo 2^32 where only a word is written (R83). -/
def Same (ty : Ty) (x y : DWord) : Prop := (x.toNat : ℤ) ≡ y.toNat [ZMOD 2 ^ opWidth ty]

theorem Same.refl (ty : Ty) (x : DWord) : Same ty x x := Int.ModEq.refl _

theorem Same.of_eq {ty : Ty} {x y : DWord} (h : x = y) : Same ty x y := h ▸ Same.refl ty x

theorem opWidth_wide {ty : Ty} (h : isWide ty = true) : opWidth ty = 64 := if_pos h

theorem opWidth_narrow {ty : Ty} (h : isWide ty = false) : opWidth ty = 32 := if_neg (by simp [h])

theorem Same.low {ty : Ty} {x y : DWord} (h : Same ty x y) : x.extractLsb' 0 32 = y.extractLsb' 0 32 := by
  have hm : (x.toNat : ℤ) ≡ y.toNat [ZMOD 2 ^ 32] := h.of_dvd (pow_dvd_pow 2 (by unfold opWidth; split <;> decide))
  have hn : x.toNat ≡ y.toNat [MOD 2 ^ 32] := Int.natCast_modEq_iff.1 (by exact_mod_cast hm)
  apply BitVec.eq_of_toNat_eq
  simpa [BitVec.extractLsb'_toNat, Nat.ModEq] using hn

theorem Same.wide {ty : Ty} {x y : DWord} (h : Same ty x y) (hw : isWide ty = true) : x = y := by
  rw [Same, opWidth_wide hw] at h
  have hn : x.toNat ≡ y.toNat [MOD 2 ^ 64] := Int.natCast_modEq_iff.1 (by exact_mod_cast h)
  exact BitVec.eq_of_toNat_eq (hn.eq_of_lt_of_lt x.isLt y.isLt)

theorem Same.word {ty : Ty} {x y : DWord} (hw : isWide ty = false) (h : (x.toNat : ℤ) ≡ y.toNat [ZMOD 2 ^ 32]) : Same ty x y := by
  rwa [Same, opWidth_narrow hw]

-- What is written depends on no more

theorem WroteS.same {g g' : Gang} {ty : Ty} {d : Field10} {x y : DWord} (hw : WroteS g g' ty d x) (h : Same ty x y) : WroteS g g' ty d y := by
  refine ⟨hw.rest, fun r => (hw.regs r).trans ?_⟩
  rw [h.low]
  by_cases ht : isWide ty = true
  · rw [h.wide ht]
  · simp [ht]

theorem WroteV.same {g g' : Gang} {ty : Ty} {d : Field10} {m : LaneMask} {x y : Nat → DWord} (hw : WroteV g g' ty d m x) (h : ∀ l, Same ty (x l) (y l)) :
    WroteV g g' ty d m y := by
  refine ⟨hw.rest, fun r l hl => (hw.regs r l hl).trans ?_, hw.marks⟩
  rw [(h l).low]
  by_cases ht : isWide ty = true
  · rw [(h l).wide ht]
  · simp [ht]

-- Numbers modulo the width

variable {ty : Ty}

theorem modEq_width {a b : ℤ} (h : a ≡ b [ZMOD 2 ^ 64]) (ty : Ty) : a ≡ b [ZMOD 2 ^ opWidth ty] :=
  h.of_dvd (pow_dvd_pow 2 (by unfold opWidth; split <;> decide))

theorem toNat_ofInt_modEq (z : ℤ) : ((BitVec.ofInt 64 z).toNat : ℤ) ≡ z [ZMOD 2 ^ 64] := by
  rw [BitVec.toNat_ofInt, Int.toNat_of_nonneg (by omega)]
  exact Int.mod_modEq _ _

theorem toInt_modEq {w : Nat} (x : BitVec w) : x.toInt ≡ x.toNat [ZMOD 2 ^ w] := by
  rw [BitVec.toInt_eq_toNat_cond]
  split
  · rfl
  · simp [Int.ModEq]

theorem same_wrap {x : DWord} {z : ℤ} (h : (x.toNat : ℤ) ≡ z [ZMOD 2 ^ opWidth ty]) : Same ty x (wrap z) :=
  h.trans (modEq_width (toNat_ofInt_modEq z) ty).symm

theorem num_modEq (ty : Ty) (x : DWord) : num ty x ≡ x.toNat [ZMOD 2 ^ opWidth ty] := by
  unfold num
  split
  · subst ty
    have h := toInt_modEq (x.extractLsb' 0 32)
    rw [BitVec.extractLsb'_toNat, Nat.shiftRight_zero] at h
    exact h.trans (by exact_mod_cast Nat.mod_modEq _ _)
  · rfl

theorem extract_eq_setWidth (x : DWord) : x.extractLsb' 0 32 = x.setWidth 32 := by
  apply BitVec.eq_of_toNat_eq
  simp [BitVec.extractLsb'_toNat]

theorem num_eq_valOf (ty : Ty) (x : DWord) : num ty x = valOf ty x := by
  rw [num, valOf, extract_eq_setWidth]

-- The operations of two operands (R85, R90)

theorem same_add (a b : DWord) : Same ty (a + b) (Op2.add.value ty a b) := by
  refine same_wrap ?_
  rw [BitVec.toNat_add]
  push_cast
  exact (modEq_width (Int.mod_modEq _ _) ty).trans ((num_modEq ty a).symm.add (num_modEq ty b).symm)

theorem same_neg (a : DWord) : Same ty (0 - a) (wrap (-(num ty a))) := by
  refine same_wrap ?_
  have h : (((0 - a).toNat : ℕ) : ℤ) ≡ -a.toNat [ZMOD 2 ^ 64] := by
    simp [Int.ModEq, BitVec.toNat_neg]
    have := a.isLt
    omega
  exact (modEq_width h ty).trans (num_modEq ty a).symm.neg

theorem same_sub (a b : DWord) : Same ty (a - b) (Op2.sub.value ty a b) := by
  refine same_wrap ?_
  have h : ((a - b).toNat : ℤ) ≡ a.toNat - b.toNat [ZMOD 2 ^ 64] := by
    have := b.isLt
    rw [BitVec.toNat_sub, Int.ModEq]
    omega
  exact (modEq_width h ty).trans ((num_modEq ty a).symm.sub (num_modEq ty b).symm)

theorem same_mul (a b : DWord) : Same ty (a * b) (Op2.mul.value ty a b) := by
  refine same_wrap ?_
  rw [BitVec.toNat_mul]
  push_cast
  exact (modEq_width (Int.mod_modEq _ _) ty).trans ((num_modEq ty a).symm.mul (num_modEq ty b).symm)

/-- The high word of a product is exact as a word (R85). -/
theorem same_mulh (hw : isWide ty = false) (a b : DWord) : Same ty (mulHigh ty a b) (Op2.mulh.value ty a b) := by
  rw [Op2.value, num_eq_valOf, num_eq_valOf]
  refine same_wrap ?_
  rw [opWidth_narrow hw, mulHigh, BitVec.toNat_ushiftRight, BitVec.toNat_ofInt]
  generalize valOf ty a * valOf ty b = z
  rw [Int.ModEq, Nat.shiftRight_eq_div_pow]
  omega

theorem minBy_eq (a b : DWord) : minBy ty a b = Op2.min.value ty a b := by
  rw [minBy, Op2.value, num_eq_valOf, num_eq_valOf]
  by_cases h : valOf ty b < valOf ty a
  · rw [if_pos h, if_neg (not_le.2 h)]
  · rw [if_neg h, if_pos (not_lt.1 h)]

theorem maxBy_eq (a b : DWord) : maxBy ty a b = Op2.max.value ty a b := by
  rw [maxBy, Op2.value, num_eq_valOf, num_eq_valOf]
  by_cases h : valOf ty a < valOf ty b
  · rw [if_pos h, if_neg (not_le.2 h)]
  · rw [if_neg h, if_pos (not_lt.1 h)]

theorem condI_eq (c : Cond) (ty : Ty) (a b : DWord) : condI c ty a b = condHolds c ty a b := by
  cases c <;> simp only [condI, condHolds, num_eq_valOf]

theorem signExtend_low (imm : Imm20) : (imm.signExtend 64).setWidth 32 = imm.signExtend 32 := by
  refine BitVec.eq_of_getLsbD_eq fun i hi => ?_
  rw [BitVec.getLsbD_setWidth, BitVec.getLsbD_signExtend, BitVec.getLsbD_signExtend]
  simp [hi, show i < 64 by omega]

theorem immOp_eq (ty : Ty) (imm : Imm20) : immOp ty imm = immOf ty imm := by
  rw [immOp, immOf, immS, signExtend_low]
  simp [isWide]

-- Shifts (R92)

theorem same_shl (a : DWord) (n : Nat) : Same ty (shlBy ty a n) (Sh.shl.value ty a n) := by
  refine same_wrap ?_
  unfold shlBy
  split
  · rw [BitVec.toNat_shiftLeft, Nat.shiftLeft_eq]
    push_cast
    exact modEq_width (Int.mod_modEq _ _) ty
  · have h : (2 : ℤ) ^ opWidth ty ∣ a.toNat * 2 ^ n := (pow_dvd_pow 2 (by omega)).mul_left _
    exact (Int.modEq_zero_iff_dvd.2 h).symm

/-- A value as a register of the type holds it. -/
def Fits (ty : Ty) (x : DWord) : Prop := x.toNat < 2 ^ opWidth ty

theorem shrBy_eq {a : DWord} (ha : Fits ty a) (n : Nat) : shrBy ty a n = Sh.shr.value ty a n := by
  have hq : (wrap (a.toNat / 2 ^ n : ℤ)).toNat = a.toNat / 2 ^ n := by
    have hlt : a.toNat / 2 ^ n < 2 ^ 64 := (Nat.div_le_self ..).trans_lt a.isLt
    rw [show (a.toNat / 2 ^ n : ℤ) = ((a.toNat / 2 ^ n : ℕ) : ℤ) by push_cast; rfl, wrap, BitVec.ofInt_natCast, BitVec.toNat_ofNat,
      Nat.mod_eq_of_lt hlt]
  apply BitVec.eq_of_toNat_eq
  rw [Sh.value, hq, shrBy]
  split
  · rw [BitVec.toNat_ushiftRight, Nat.shiftRight_eq_div_pow]
  · rw [Nat.div_eq_of_lt (ha.trans_le (Nat.pow_le_pow_right (by decide) (by omega)))]
    rfl

theorem sraBy_eq (a : DWord) (n : Nat) : sraBy ty a n = Sh.sra.value ty a n := by
  rw [sraBy, Sh.value, signedNum, wrap, extract_eq_setWidth]
  by_cases h : ty = .b64
  · simp [h, isWide, BitVec.sshiftRight, Int.shiftRight_eq_div_pow]
  · simp [h, isWide, BitVec.signExtend, BitVec.toInt_sshiftRight, Int.shiftRight_eq_div_pow]

theorem rotBy_eq (a : DWord) (n : Nat) : rotBy a n = Sh.rot.value ty a n := by rw [rotBy, Sh.value, extract_eq_setWidth]

theorem shiftAmount_eq (x : Word) : shiftAmount x = x.toNat % 256 := by simp [shiftAmount, BitVec.extractLsb'_toNat]

end Sys2Proof.Machine
end

section
/-! PROOFS. The scalar instructions (R85 to R88). -/

namespace Sys2Proof.Machine
open Sys2Proof.Claim

section Scalar

variable {s : State} {i : Instr} {gi : Nat} {g : Gang} {p : Path} {gd : Guard} {ty : Ty} {d : Field10} {x : DWord}

theorem setS_eq_writeS (g : Gang) (d : Field10) (w : Word) : setS g d.toNat w = writeS g .i32 d (w.setWidth 64) := by
  simp [writeS, isWide]

theorem fits_readS (g : Gang) (ty : Ty) (r : Field10) : Fits ty (readS g ty r) := by
  unfold Fits readS opWidth
  split
  · exact (getSS g r.toNat).isLt
  · rw [BitVec.toNat_setWidth]
    exact (Nat.mod_le _ _).trans_lt (getS g r.toNat).isLt

theorem narrow_of_tySZ {ty : Ty} (h : tySZ ty = true) : isWide ty = false := by
  revert h
  cases ty <;> decide

theorem same_of_low {x y : DWord} (hw : isWide ty = false) (h : x.setWidth 32 = y.setWidth 32) : Same ty x y :=
  Same.word hw (Int.natCast_modEq_iff.2 (by simpa [Nat.ModEq] using congrArg BitVec.toNat h))

/-- A scalar instruction writes a value that its destination keeps as the claim's (R85, R87, R88). -/
theorem scalar_computes (hx : scalarValue g i = some (gd, ty, d, x)) (hwf : i.wf = true) (s : State) :
    ∃ y : Gang → DWord, exec i s = scalarInstr i gd s (fun g => writeS g ty d (y g)) ∧ Same ty (y g) x := by
  unfold scalarValue at hx
  split at hx
  case h_1 gd ty d a b => cases hx; exact ⟨_, show execSadd gd ty d a b s = _ from rfl, same_add ..⟩
  case h_2 gd ty d a b => cases hx; exact ⟨_, show execSsub gd ty d a b s = _ from rfl, same_sub ..⟩
  case h_3 gd ty d a b => cases hx; exact ⟨_, show execSmul gd ty d a b s = _ from rfl, same_mul ..⟩
  case h_4 gd ty d a b => cases hx; exact ⟨_, show execSmulh gd ty d a b s = _ from rfl, same_mulh (narrow_of_tySZ (Bool.and_elim_left (Bool.and_elim_left (Bool.and_elim_left hwf)))) ..⟩
  case h_5 gd ty d a b => cases hx; exact ⟨_, show execSand gd ty d a b s = _ from rfl, Same.refl ..⟩
  case h_6 gd ty d a b => cases hx; exact ⟨_, show execSor gd ty d a b s = _ from rfl, Same.refl ..⟩
  case h_7 gd ty d a b => cases hx; exact ⟨_, show execSxor gd ty d a b s = _ from rfl, Same.refl ..⟩
  case h_8 gd ty d a b => cases hx; exact ⟨_, show execSmin gd ty d a b s = _ from rfl, .of_eq (minBy_eq ..)⟩
  case h_9 gd ty d a b => cases hx; exact ⟨_, show execSmax gd ty d a b s = _ from rfl, .of_eq (maxBy_eq ..)⟩
  case h_10 gd ty d a b => cases hx; exact ⟨_, show execSshl gd ty d a b s = _ from rfl, shiftAmount_eq _ ▸ same_shl ..⟩
  case h_11 gd ty d a b => cases hx; exact ⟨_, show execSshr gd ty d a b s = _ from rfl, .of_eq (shiftAmount_eq _ ▸ shrBy_eq (fits_readS ..) _)⟩
  case h_12 gd ty d a b => cases hx; exact ⟨_, show execSsra gd ty d a b s = _ from rfl, .of_eq (shiftAmount_eq _ ▸ sraBy_eq ..)⟩
  case h_13 gd ty d a => cases hx; exact ⟨_, show execSmov gd ty d a s = _ from rfl, Same.refl ..⟩
  case h_14 gd ty c d a b =>
    cases hx
    refine ⟨fun g => (if condI c ty (readS g ty a) (readS g ty b) then 1 else 0 : Word).setWidth 64, ?_, .of_eq ?_⟩
    · show execScmp gd ty c d a b s = _
      simp only [execScmp, setS_eq_writeS]
    · dsimp only
      rw [condI_eq]
      split <;> rfl
  case h_15 gd ty d a b c =>
    cases hx
    exact ⟨_, show execSsel gd ty d a b c s = _ from rfl, .of_eq (ite_not ..)⟩
  case h_16 gd ty d a imm => cases hx; exact ⟨_, show execSaddImm gd ty d a imm s = _ from rfl, immOp_eq ty imm ▸ same_add ..⟩
  case h_17 gd ty d a imm => cases hx; exact ⟨_, show execSsubImm gd ty d a imm s = _ from rfl, immOp_eq ty imm ▸ same_sub ..⟩
  case h_18 gd ty d a imm => cases hx; exact ⟨_, show execSmulImm gd ty d a imm s = _ from rfl, immOp_eq ty imm ▸ same_mul ..⟩
  case h_19 gd ty d a imm => cases hx; exact ⟨_, show execSmulhImm gd ty d a imm s = _ from rfl, immOp_eq ty imm ▸ same_mulh (narrow_of_tySZ (Bool.and_elim_left (Bool.and_elim_left hwf))) ..⟩
  case h_20 gd ty d a imm => cases hx; exact ⟨_, show execSandImm gd ty d a imm s = _ from rfl, immOp_eq ty imm ▸ Same.refl ..⟩
  case h_21 gd ty d a imm => cases hx; exact ⟨_, show execSorImm gd ty d a imm s = _ from rfl, immOp_eq ty imm ▸ Same.refl ..⟩
  case h_22 gd ty d a imm => cases hx; exact ⟨_, show execSxorImm gd ty d a imm s = _ from rfl, immOp_eq ty imm ▸ Same.refl ..⟩
  case h_23 gd ty d a imm => cases hx; exact ⟨_, show execSminImm gd ty d a imm s = _ from rfl, immOp_eq ty imm ▸ .of_eq (minBy_eq ..)⟩
  case h_24 gd ty d a imm => cases hx; exact ⟨_, show execSmaxImm gd ty d a imm s = _ from rfl, immOp_eq ty imm ▸ .of_eq (maxBy_eq ..)⟩
  case h_25 gd ty d a imm => cases hx; exact ⟨_, show execSshlImm gd ty d a imm s = _ from rfl, same_shl ..⟩
  case h_26 gd ty d a imm => cases hx; exact ⟨_, show execSshrImm gd ty d a imm s = _ from rfl, .of_eq (shrBy_eq (fits_readS ..) _)⟩
  case h_27 gd ty d a imm => cases hx; exact ⟨_, show execSsraImm gd ty d a imm s = _ from rfl, .of_eq (sraBy_eq ..)⟩
  case h_28 gd ty c d a imm =>
    cases hx
    refine ⟨fun g => (if condI c ty (readS g ty a) (immOp ty imm) then 1 else 0 : Word).setWidth 64, ?_, .of_eq ?_⟩
    · show execScmpImm gd ty c d a imm s = _
      simp only [execScmpImm, setS_eq_writeS]
    · dsimp only
      rw [condI_eq, immOp_eq]
      split <;> rfl
  case h_29 gd d imm =>
    cases hx
    refine ⟨fun _ => (imm.signExtend 32).setWidth 64, ?_, same_of_low (by decide) ?_⟩
    · show execSliShort gd d imm s = _
      simp only [execSliShort, setS_eq_writeS]
    · rw [BitVec.setWidth_setWidth_of_le _ (by decide), BitVec.setWidth_eq, signExtend_low]
  case h_30 gd ty d imm => cases hx; exact ⟨_, show execSldArg gd ty d imm s = _ from rfl, .of_eq (by simp [paramBytes, isWide])⟩
  case h_31 gd d k =>
    cases hx
    refine ⟨fun _ => k.setWidth 64, ?_, Same.refl ..⟩
    show execSliLong gd d k s = _
    simp only [execSliLong, setS_eq_writeS]
  case h_32 gd d k => cases hx; exact ⟨fun _ => x, show execSlih gd d x s = _ from rfl, Same.refl ..⟩
  case h_33 => cases hx

/-- Settles O1: every scalar instruction runs in one frame, which writes one value or none. -/
theorem scalarResult : Obligations.ScalarResult := by
  intro i s gi g p gd ty d x hx h hs
  obtain ⟨y, hrun, hsame⟩ := scalar_computes hx h.wf s
  refine ⟨_, hrun.trans (scalarInstr_run h gd _), ?_⟩
  split
  · rfl
  · exact (writeS_wrote g hs ty d (y g)).same hsame

end Scalar
end Sys2Proof.Machine
end

section
/-! PROOFS. Bit counts, fields and packed elements as the claims state them (R39, R40, R91, R95, R104). -/

namespace Sys2Proof.Machine
open Sys2Proof.Claim

-- Digits

/-- A number given by digits of `n` bits has their bits. -/
theorem testBit_digits {n : Nat} {f : Nat → Nat} (hf : ∀ i, f i < 2 ^ n) (c : Nat) :
    (List.range c).foldl (fun acc i => acc + f i * 2 ^ (n * i)) 0 < 2 ^ (n * c) ∧
    ∀ k, k < n * c → ((List.range c).foldl (fun acc i => acc + f i * 2 ^ (n * i)) 0).testBit k = (f (k / n)).testBit (k % n) := by
  induction c with
  | zero => exact ⟨by simp, fun k hk => absurd hk (by simp)⟩
  | succ c ih =>
    obtain ⟨hlt, hbits⟩ := ih
    rw [List.range_succ, List.foldl_append, List.foldl_cons, List.foldl_nil]
    generalize (List.range c).foldl (fun acc i => acc + f i * 2 ^ (n * i)) 0 = x at hlt hbits ⊢
    have hsum : x + f c * 2 ^ (n * c) = 2 ^ (n * c) * f c + x := by rw [Nat.add_comm, Nat.mul_comm]
    rw [hsum]
    refine ⟨?_, fun k hk => ?_⟩
    · rw [Nat.mul_succ, Nat.pow_add]
      have := Nat.mul_le_mul_left (2 ^ (n * c)) (Nat.succ_le_of_lt (hf c))
      rw [Nat.mul_succ] at this
      omega
    · rw [Nat.testBit_two_pow_mul_add _ hlt]
      split
      · exact hbits k ‹_›
      · rename_i hge
        have hdiv : k / n = c := Nat.div_eq_of_lt_le (by rw [Nat.mul_comm]; omega) (by rw [Nat.mul_comm]; exact hk)
        rw [Nat.mod_eq_sub_mul_div, hdiv]

-- Members with one source (R91)

theorem foldl_count {α : Type} (f : α → Bool) (l : List α) (n : Nat) : l.foldl (fun acc i => if f i then acc + 1 else acc) n = n + l.countP f := by
  induction l generalizing n with
  | nil => rfl
  | cons a l ih =>
    rw [List.foldl_cons, ih, List.countP_cons]
    split <;> omega

theorem popCount_eq (x : Word) : popCount x = (List.range 32).countP fun i => x.getLsbD i := by
  rw [popCount, foldl_count, Nat.zero_add]

theorem length_takeWhile_eq {α : Type} {f : α → Bool} {l : List α} {k : Nat} (hk : k ≤ l.length) (hin : ∀ j, (h : j < k) → f l[j] = true)
    (hout : (h : k < l.length) → f l[k] = false) : (l.takeWhile f).length = k := by
  rw [List.takeWhile_eq_take_findIdx_not, List.length_take]
  rcases hk.lt_or_eq with hlt | rfl
  · have : l.findIdx (fun a => !f a) = k := (List.findIdx_eq hlt).2 ⟨by simp [hout hlt], fun j hj => by simp [hin j hj]⟩
    omega
  · have : l.findIdx (fun a => !f a) = l.length := List.findIdx_eq_length.2 fun a ha => by
      obtain ⟨j, hj, rfl⟩ := List.getElem_of_mem ha
      simp [hin j hj]
    omega

theorem clz32_eq (x : Word) : clz32 x = ((List.range 32).takeWhile fun i => !x.getLsbD (31 - i)).length := by
  symm
  unfold clz32
  split
  · subst x
    exact length_takeWhile_eq (by simp) (by simp) (by simp)
  · rename_i h
    have hne : x.toNat ≠ 0 := fun h0 => h (BitVec.eq_of_toNat_eq h0)
    have hlog : x.toNat.log2 < 32 := (Nat.log2_lt hne).2 x.isLt
    refine length_takeWhile_eq (by simp; omega) (fun j hj => ?_) fun hj => ?_
    · have hlt : x.toNat < 2 ^ (31 - j) := (Nat.log2_lt hne).1 (by omega)
      simp [BitVec.getLsbD, Nat.testBit_lt_two_pow hlt]
    · have hbit : 31 - (31 - x.toNat.log2) = x.toNat.log2 := by omega
      simp [BitVec.getLsbD, hbit, Nat.testBit_log2 hne]

theorem brev32_eq (x : Word) : brev32 x = x.reverse := by
  have hdigits : ∀ acc i, (if x.getLsbD (31 - i) then acc + 2 ^ i else acc) = acc + (x.getLsbD (31 - i)).toNat * 2 ^ (1 * i) := fun acc i => by
    cases x.getLsbD (31 - i) <;> simp
  refine BitVec.eq_of_getLsbD_eq fun i hi => ?_
  simp only [brev32, hdigits, BitVec.getLsbD_ofNat]
  rw [(testBit_digits (n := 1) (fun i => Bool.toNat_lt _) 32).2 i (by omega), BitVec.getLsbD_reverse, BitVec.getMsbD]
  cases hb : x.getLsbD (31 - i) <;> simp [hi, hb, Nat.mod_one]

-- Elements and fields (R39, R40, R95)

theorem testBit_top {c n : Nat} (h : c < 2 ^ (n + 1)) : c.testBit n = decide (2 ^ n ≤ c) := by
  by_cases hc : 2 ^ n ≤ c
  · rw [Nat.testBit_of_two_pow_le_and_two_pow_add_one_gt hc h, decide_eq_true hc]
  · rw [Nat.testBit_lt_two_pow (not_le.1 hc), decide_eq_false hc]

/-- The signed reading of a code that fits its width (R50). -/
theorem intOf_of_lt {c n : Nat} (hn : 0 < n) (h : c < 2 ^ n) (sg : Bool) : intOf sg n c = if sg = true ∧ 2 ^ (n - 1) ≤ c then (c : ℤ) - 2 ^ n else c := by
  obtain ⟨n, rfl⟩ := Nat.exists_eq_succ_of_ne_zero hn.ne'
  have hbit : c.testBit n = decide (2 ^ n ≤ c) := testBit_top h
  simp [intOf, Nat.mod_eq_of_lt h, hbit]

theorem intOf_toNat_signed {n : Nat} (hn : 0 < n) (x : BitVec n) : intOf true n x.toNat = x.toInt := by
  rw [intOf_of_lt hn x.isLt, BitVec.toInt_eq_toNat_cond]
  obtain ⟨n, rfl⟩ := Nat.exists_eq_succ_of_ne_zero hn.ne'
  have hhalf : 2 ^ (n + 1) = 2 * 2 ^ n := Nat.pow_succ'
  by_cases h : 2 * x.toNat < 2 ^ (n + 1)
  · rw [if_pos h, if_neg (fun hc => absurd hc.2 (by simp; omega))]
  · rw [if_neg h, if_pos ⟨rfl, by simp; omega⟩]
    push_cast
    rfl

theorem intOf_toNat_unsigned {n : Nat} (x : BitVec n) : intOf false n x.toNat = x.toNat := by
  simp [intOf]

theorem elemOf_eq (n i : Nat) (x : Word) : elemOf n i x.toNat = (x.extractLsb' (n * i) n).toNat := by
  rw [elemOf, BitVec.extractLsb'_toNat]

/-- A byte of a dot product (R40, R95). -/
theorem byteNum_eq (ty : Ty) (x : Word) (i : Nat) : intOf (ty == .s8) 8 (elemOf 8 i x.toNat) = byteNum ty x i := by
  rw [elemOf_eq, byteNum]
  by_cases h : ty = .s8
  · rw [if_pos h, h]
    exact intOf_toNat_signed (by decide) _
  · rw [if_neg h, beq_false_of_ne h]
    exact intOf_toNat_unsigned _

theorem toNat_sshiftRight_mod (x : DWord) (p : Nat) {n : Nat} (hn : n ≤ 64) : (((x.sshiftRight p).toNat % 2 ^ n : ℕ) : ℤ) = x.toInt / 2 ^ p % 2 ^ n := by
  have h : ((x.sshiftRight p).toNat : ℤ) ≡ x.toInt / 2 ^ p [ZMOD 2 ^ n] := by
    have := (toInt_modEq (x.sshiftRight p)).symm
    rw [BitVec.toInt_sshiftRight, Int.shiftRight_eq_div_pow] at this
    exact_mod_cast this.of_dvd (pow_dvd_pow 2 hn)
  push_cast
  exact h

/-- The source of `ibfx`, extended to 64 bits, is the number that the claim reads. -/
theorem toInt_extended {ty : Ty} (h : ty = .s32 ∨ ty = .z32) (a : Word) :
    (if ty = .s32 then a.signExtend 64 else a.setWidth 64 : DWord).toInt = num ty (a.setWidth 64) := by
  rw [num, extract_eq_setWidth, BitVec.setWidth_setWidth_of_le _ (by decide), BitVec.setWidth_eq]
  rcases h with rfl | rfl
  · exact BitVec.toInt_signExtend_of_le (by decide)
  · have hlt : (a.setWidth 64).toNat = a.toNat := BitVec.toNat_setWidth_of_le (by decide)
    have := a.isLt
    rw [if_neg (by decide), if_neg (by decide), BitVec.toInt_eq_toNat_of_lt (by omega)]

theorem toNat_ofInt_word (z : ℤ) : ((((BitVec.ofInt 32 z).setWidth 64 : DWord).toNat : ℕ) : ℤ) ≡ z [ZMOD 2 ^ 32] := by
  rw [BitVec.toNat_setWidth_of_le (by decide), BitVec.toNat_ofInt, Int.toNat_of_nonneg (by omega)]
  exact Int.mod_modEq _ _

theorem same_bitField {ty : Ty} (h : ty = .s32 ∨ ty = .z32) (a : Word) (p n : Nat) (hn : n ≤ 32) :
    Same .i32 ((bitField ty a p n).setWidth 64) (wrap (fieldValue ty a p n)) := by
  refine same_wrap (show _ ≡ _ [ZMOD 2 ^ 32] from ?_)
  unfold bitField fieldValue
  rw [← toInt_extended h]
  dsimp only
  generalize (if ty = .s32 then a.signExtend 64 else a.setWidth 64 : DWord) = x
  rw [← toNat_sshiftRight_mod x p (n := n) (by omega)]
  have hlt : (x.sshiftRight p).toNat % 2 ^ n < 2 ^ n := Nat.mod_lt _ (by positivity)
  generalize (x.sshiftRight p).toNat % 2 ^ n = f at hlt ⊢
  by_cases h0 : n = 0
  · subst h0
    simp at hlt
    simp [hlt]
  · rw [if_neg h0]
    refine (toNat_ofInt_word _).trans ?_
    rw [intOf_of_lt (Nat.pos_of_ne_zero h0) hlt]
    have hcast : (2 : ℤ) ^ (n - 1) ≤ f ↔ 2 ^ (n - 1) ≤ f := by exact_mod_cast Iff.rfl
    simp [Nat.pos_of_ne_zero h0, hcast]

/-- A run of ones. -/
theorem testBit_ones (n p i : Nat) : ((2 ^ n - 1) * 2 ^ p).testBit i = (decide (p ≤ i) && decide (i < p + n)) := by
  rw [Nat.testBit_mul_two_pow, Nat.testBit_two_pow_sub_one]
  by_cases h : p ≤ i
  · simp [h, show i - p < n ↔ i < p + n by omega]
  · simp [h]

theorem same_insertField (old a : Word) (p n : Nat) : Same .i32 ((insertField old a p n).setWidth 64)
    (maskWhere fun i => decide (i < 32) && insertBit old a p n i) := by
  refine same_of_low rfl (BitVec.eq_of_getLsbD_eq fun i hi => ?_)
  have hmask : (BitVec.ofNat 32 ((2 ^ n - 1) * 2 ^ p)).getLsbD i = (decide (p ≤ i) && decide (i < p + n)) := by
    rw [BitVec.getLsbD_ofNat, testBit_ones, decide_eq_true hi, Bool.true_and]
  rw [BitVec.setWidth_setWidth_of_le _ (by decide), BitVec.setWidth_eq, BitVec.getLsbD_setWidth, maskWhere_getLsbD _ i (by omega), insertField, insertBit]
  simp only [BitVec.getLsbD_or, BitVec.getLsbD_and, BitVec.getLsbD_not, BitVec.getLsbD_shiftLeft, hmask]
  by_cases h : p ≤ i ∧ i < p + n
  · simp [hi, h]
  · have hno : (decide (p ≤ i) && decide (i < p + n)) = false := by simpa using h
    simp [hi, h, hno]

theorem fieldCount_eq (x : Word) : fieldCount x = upTo32 x := by rw [fieldCount, upTo32, shiftAmount_eq]

theorem same_dot4 (ty : Ty) (a b c : Word) : Same .i32 ((dot4 ty a b c).setWidth 64)
    (wrap (c.toNat + ((List.range 4).map fun i => byteNum ty a i * byteNum ty b i).sum)) := by
  refine same_wrap (show _ ≡ _ [ZMOD 2 ^ 32] from ?_)
  rw [dot4]
  refine (toNat_ofInt_word _).trans ?_
  simp only [byteNum_eq]
  rw [show List.range 4 = [0, 1, 2, 3] from rfl]
  simp [add_assoc]

theorem same_imad {ty : Ty} (hw : isWide ty = false) (a b c : Word) : Same .i32 ((a * b + c).setWidth 64)
    (wrap (num ty (a.setWidth 64) * num ty (b.setWidth 64) + num ty (c.setWidth 64))) := by
  have hnum : ∀ x : Word, (x.toNat : ℤ) ≡ num ty (x.setWidth 64) [ZMOD 2 ^ 32] := fun x => by
    have h := (num_modEq ty (x.setWidth 64)).symm
    rwa [opWidth_narrow hw, BitVec.toNat_setWidth_of_le (by decide)] at h
  refine same_wrap (show _ ≡ _ [ZMOD 2 ^ 32] from ?_)
  rw [BitVec.toNat_setWidth_of_le (by decide), BitVec.toNat_add, BitVec.toNat_mul]
  push_cast
  exact (Int.mod_modEq _ _).trans (((Int.mod_modEq _ _).trans ((hnum a).mul (hnum b))).add (hnum c))

end Sys2Proof.Machine
end

section
/-! PROOFS. The vector integer instructions (R88, R90 to R93, R95). -/

namespace Sys2Proof.Machine
open Sys2Proof.Claim

section Lanes

variable {s : State} {i : Instr} {gi : Nat} {g : Gang} {p : Path} {gd : Guard} {ty : Ty} {d : Field10} {x : Nat → DWord} {rd : List Nat}

theorem fits_readV (g : Gang) (ty : Ty) (r : Field10) (l : Nat) : Fits ty (readV g ty r l) := by
  unfold Fits readV opWidth
  split
  · exact (getVV g r.toNat l).isLt
  · rw [BitVec.toNat_setWidth]
    exact (Nat.mod_le _ _).trans_lt (getV g r.toNat l).isLt

theorem readB_narrow (hw : isWide ty = false) (g : Gang) (b : Src) (l : Nat) : readB g ty b l = (readB32 g b l).setWidth 64 := by
  cases hb : b.bu <;> simp [readB, readB32, readS, readV, hw, hb]

/-- The word of a 32-bit operand. -/
theorem readB_word (hw : isWide ty = false) (g : Gang) (b : Src) (l : Nat) : (readB g ty b l).setWidth 32 = readB32 g b l := by
  rw [readB_narrow hw, BitVec.setWidth_setWidth_of_le _ (by decide), BitVec.setWidth_eq]

theorem narrow_of_tyI32 (h : tyI32 ty = true) : isWide ty = false := by
  revert h
  cases ty <;> decide

theorem narrow_of_tyISZ (h : tyISZ ty = true) : isWide ty = false := by
  revert h
  cases ty <;> decide

theorem of_tySZ (h : tySZ ty = true) : ty = .s32 ∨ ty = .z32 := by
  revert h
  cases ty <;> decide

theorem abs_eq (x : DWord) : BitVec.ofInt 64 (valOf .s32 x).natAbs = wrap |signedNum .s32 x| := by
  rw [wrap, signedNum, extract_eq_setWidth, Int.abs_eq_natAbs]
  rfl

/-- An instruction of one result per lane, as its frame runs it. -/
def writesLanes (i : Instr) (gd : Guard) (rd : List Nat) (ty : Ty) (d : Field10) (y : Gang → Nat → DWord) (s : State) : Out :=
  vectorInstr i gd rd (vregs ty d) s fun g _ m => .ok (writeLanes g ty d m (y g))

/-- Instruction `i` writes in each lane a value that its destination keeps as `x l`. -/
def ComputesLanes (i : Instr) (g : Gang) (gd : Guard) (rd : List Nat) (ty : Ty) (d : Field10) (x : Nat → DWord) (s : State) : Prop :=
  ∃ y, exec i s = writesLanes i gd rd ty d y s ∧ ∀ l, Same ty (y g l) (x l)

/-- The members of one and of two operands, and the immediates (R88, R90 to R93). -/
theorem lane_computes (hx : laneValue g i = some (gd, rd, ty, d, x)) (hwf : i.wf = true) (s : State) : ComputesLanes i g gd rd ty d x s := by
  unfold laneValue at hx
  split at hx
  case h_1 gd ty d a b => cases hx; exact ⟨_, show execIadd gd ty d a b s = _ from rfl, fun l => same_add ..⟩
  case h_2 gd ty d a b => cases hx; exact ⟨_, show execIsub gd ty d a b s = _ from rfl, fun l => same_sub ..⟩
  case h_3 gd ty d a b => cases hx; exact ⟨_, show execImul gd ty d a b s = _ from rfl, fun l => same_mul ..⟩
  case h_4 gd ty d a b => cases hx; exact ⟨_, show execImulh gd ty d a b s = _ from rfl, fun l => same_mulh (narrow_of_tySZ (Bool.and_elim_left hwf)) ..⟩
  case h_5 gd ty d a b => cases hx; exact ⟨_, show execImin gd ty d a b s = _ from rfl, fun l => .of_eq (minBy_eq ..)⟩
  case h_6 gd ty d a b => cases hx; exact ⟨_, show execImax gd ty d a b s = _ from rfl, fun l => .of_eq (maxBy_eq ..)⟩
  case h_7 gd ty d a b => cases hx; exact ⟨_, show execIand gd ty d a b s = _ from rfl, fun l => Same.refl ..⟩
  case h_8 gd ty d a b => cases hx; exact ⟨_, show execIor gd ty d a b s = _ from rfl, fun l => Same.refl ..⟩
  case h_9 gd ty d a b => cases hx; exact ⟨_, show execIxor gd ty d a b s = _ from rfl, fun l => Same.refl ..⟩
  case h_10 gd ty d a b => cases hx; exact ⟨_, show execIshl gd ty d a b s = _ from rfl, fun l => shiftAmount_eq _ ▸ same_shl ..⟩
  case h_11 gd ty d a b => cases hx; exact ⟨_, show execIshr gd ty d a b s = _ from rfl, fun l => .of_eq (shiftAmount_eq _ ▸ shrBy_eq (fits_readV ..) _)⟩
  case h_12 gd ty d a b => cases hx; exact ⟨_, show execIsra gd ty d a b s = _ from rfl, fun l => .of_eq (shiftAmount_eq _ ▸ sraBy_eq ..)⟩
  case h_13 gd ty d a b =>
    cases hx
    refine ⟨_, show execIrot gd ty d a b s = _ from rfl, fun l => .of_eq ?_⟩
    dsimp only
    rw [readB_narrow (narrow_of_tyI32 (Bool.and_elim_left hwf)), BitVec.toNat_setWidth_of_le (by decide), rotBy_eq]
  case h_14 gd ty d a b ps => cases hx; exact ⟨_, show execIsel gd ty d a b ps s = _ from rfl, fun l => Same.refl ..⟩
  case h_15 gd ty d a imm => cases hx; exact ⟨_, show execIaddImm gd ty d a imm s = _ from rfl, fun l => immOp_eq ty imm ▸ same_add ..⟩
  case h_16 gd ty d a imm => cases hx; exact ⟨_, show execIsubImm gd ty d a imm s = _ from rfl, fun l => immOp_eq ty imm ▸ same_sub ..⟩
  case h_17 gd ty d a imm => cases hx; exact ⟨_, show execImulImm gd ty d a imm s = _ from rfl, fun l => immOp_eq ty imm ▸ same_mul ..⟩
  case h_18 gd ty d a imm => cases hx; exact ⟨_, show execImulhImm gd ty d a imm s = _ from rfl, fun l => immOp_eq ty imm ▸ same_mulh (narrow_of_tySZ hwf) ..⟩
  case h_19 gd ty d a imm => cases hx; exact ⟨_, show execIminImm gd ty d a imm s = _ from rfl, fun l => immOp_eq ty imm ▸ .of_eq (minBy_eq ..)⟩
  case h_20 gd ty d a imm => cases hx; exact ⟨_, show execImaxImm gd ty d a imm s = _ from rfl, fun l => immOp_eq ty imm ▸ .of_eq (maxBy_eq ..)⟩
  case h_21 gd ty d a imm => cases hx; exact ⟨_, show execIandImm gd ty d a imm s = _ from rfl, fun l => immOp_eq ty imm ▸ Same.refl ..⟩
  case h_22 gd ty d a imm => cases hx; exact ⟨_, show execIorImm gd ty d a imm s = _ from rfl, fun l => immOp_eq ty imm ▸ Same.refl ..⟩
  case h_23 gd ty d a imm => cases hx; exact ⟨_, show execIxorImm gd ty d a imm s = _ from rfl, fun l => immOp_eq ty imm ▸ Same.refl ..⟩
  case h_24 gd ty d a imm => cases hx; exact ⟨_, show execIshlImm gd ty d a imm s = _ from rfl, fun l => same_shl ..⟩
  case h_25 gd ty d a imm => cases hx; exact ⟨_, show execIshrImm gd ty d a imm s = _ from rfl, fun l => .of_eq (shrBy_eq (fits_readV ..) _)⟩
  case h_26 gd ty d a imm => cases hx; exact ⟨_, show execIsraImm gd ty d a imm s = _ from rfl, fun l => .of_eq (sraBy_eq ..)⟩
  case h_27 gd ty d a imm => cases hx; exact ⟨_, show execIrotImm gd ty d a imm s = _ from rfl, fun l => .of_eq (rotBy_eq ..)⟩
  case h_28 gd ty d b => cases hx; exact ⟨_, show execIabs gd ty d b s = _ from rfl, fun l => .of_eq (abs_eq ..)⟩
  case h_29 gd ty d b => cases hx; exact ⟨_, show execIneg gd ty d b s = _ from rfl, fun l => same_neg ..⟩
  case h_30 gd ty d b => cases hx; exact ⟨_, show execInot gd ty d b s = _ from rfl, fun l => Same.refl ..⟩
  case h_31 gd ty d b => cases hx; exact ⟨_, show execIpopc gd ty d b s = _ from rfl, fun l => .of_eq (by dsimp only; rw [readB_word (narrow_of_tyI32 (Bool.and_elim_left hwf)), popCount_eq])⟩
  case h_32 gd ty d b => cases hx; exact ⟨_, show execIclz gd ty d b s = _ from rfl, fun l => .of_eq (by dsimp only; rw [readB_word (narrow_of_tyI32 (Bool.and_elim_left hwf)), clz32_eq])⟩
  case h_33 gd ty d b => cases hx; exact ⟨_, show execIbrev gd ty d b s = _ from rfl, fun l => .of_eq (by dsimp only; rw [readB_word (narrow_of_tyI32 (Bool.and_elim_left hwf)), brev32_eq])⟩
  case h_34 gd ty d b => cases hx; exact ⟨_, show execImov gd ty d b s = _ from rfl, fun l => Same.refl ..⟩
  case h_35 gd d k =>
    cases hx
    refine ⟨fun _ _ => k.setWidth 64, ?_, fun l => Same.refl ..⟩
    show execIliLong gd d k s = _
    simp only [execIliLong, writeLanes32_eq]
    rfl
  case h_36 gd d k => cases hx; exact ⟨fun _ _ => k, rfl, fun l => Same.refl ..⟩
  case h_37 gd d imm =>
    cases hx
    refine ⟨fun _ _ => (imm.signExtend 32).setWidth 64, ?_, fun l => same_of_low (by decide) ?_⟩
    · show execIliShort gd d imm s = _
      simp only [execIliShort, writeLanes32_eq]
      rfl
    · rw [BitVec.setWidth_setWidth_of_le _ (by decide), BitVec.setWidth_eq, signExtend_low]
  case h_38 => cases hx

/-- The frame of the members of three operands. -/
theorem vecTri_writes (i : Instr) (gd : Guard) (d a b c : Field10) (op : Word → Word → Word → Word) (s : State) : vecTri i gd d a b c op s =
    writesLanes i gd [a.toNat, b.toNat, c.toNat] .i32 d (fun g l => (op (getV g a.toNat l) (getV g b.toNat l) (getV g c.toNat l)).setWidth 64) s := by
  simp only [vecTri, writesLanes, writeLanes32_eq]
  rfl

/-- The members of three operands (R95). -/
theorem tri_computes (hx : triValue g i = some (gd, rd, d, x)) (hwf : i.wf = true) (s : State) : ComputesLanes i g gd rd .i32 d x s := by
  unfold triValue at hx
  split at hx
  case h_1 gd ty d a b c => cases hx; exact ⟨_, show execImad gd ty d a b c s = _ from vecTri_writes .., fun l => same_imad (narrow_of_tyISZ hwf) ..⟩
  case h_2 gd ty d a b c =>
    cases hx
    have hty : ty = .s32 ∨ ty = .z32 := of_tySZ hwf
    refine ⟨_, show execIbfx gd ty d a b c s = _ from vecTri_writes .., fun l => ?_⟩
    rw [fieldCount_eq, fieldCount_eq]
    exact same_bitField hty _ _ _ (min_le_right _ _)
  case h_3 gd ty d a b c =>
    cases hx
    refine ⟨fun g l => (insertField (getV g d.toNat l) (getV g a.toNat l) (fieldCount (getV g b.toNat l)) (fieldCount (getV g c.toNat l))).setWidth 64, ?_,
      fun l => ?_⟩
    · show execIbfi gd ty d a b c s = _
      simp only [execIbfi, writesLanes, writeLanes32_eq]
      rfl
    · dsimp only
      rw [fieldCount_eq, fieldCount_eq]
      exact same_insertField ..
  case h_4 gd ty d a b c => cases hx; exact ⟨_, show execIdp4 gd ty d a b c s = _ from vecTri_writes .., fun l => same_dot4 ..⟩
  case h_5 => cases hx

/-- Settles O2: every vector integer instruction runs in one frame, which writes the lanes of the guard. -/
theorem laneResult : Obligations.LaneResult := by
  intro i s gi g p gd rd ty d x hx h hv hu
  have hc : ComputesLanes i g gd rd ty d x s := by
    rcases hx with hx | ⟨rfl, hx⟩
    · exact lane_computes hx h.wf s
    · exact tri_computes hx h.wf s
  obtain ⟨y, hrun, hsame⟩ := hc
  exact ⟨_, hrun.trans (vectorInstr_run h gd hu _), (writeLanes_wrote g hv ..).same hsame⟩

end Lanes
end Sys2Proof.Machine
end

section
/-! PROOFS. Clamped sums with their flag, results with a predicate, and the wide sum (R47, R90, R93, R94, R96, R97). -/

namespace Sys2Proof.Machine
open Sys2Proof.Claim

-- Flags of lanes

theorem foldl_or_getLsbD {n : Nat} (f : Nat → BitVec n) (ls : List Nat) (z : BitVec n) (k : Nat) :
    (ls.foldl (fun acc l => acc ||| f l) z).getLsbD k = (z.getLsbD k || ls.any fun l => (f l).getLsbD k) := by
  induction ls generalizing z with
  | nil => simp
  | cons a ls ih => rw [List.foldl_cons, ih, BitVec.getLsbD_or, List.any_cons, Bool.or_assoc]

theorem flagsOver_getLsbD (m : LaneMask) (f : Nat → FFlags) (k : Nat) : (flagsOver m f).getLsbD k = (lanesOf m).any fun l => (f l).getLsbD k := by
  exact (foldl_or_getLsbD f (lanesOf m) 0#7 k).trans (by rw [BitVec.getLsbD_zero, Bool.false_or])

theorem flagIf_getLsbD (b : Bool) (f : FFlags) (k : Nat) : (flagIf b f).getLsbD k = (b && f.getLsbD k) := by
  cases b <;> simp [flagIf]

/-- One flag is raised when some lane raises it. -/
theorem flagsOver_flagIf (m : LaneMask) (b : Nat → Bool) (f : FFlags) : flagsOver m (fun l => flagIf (b l) f) = flagIf ((lanesOf m).any b) f := by
  refine BitVec.eq_of_getLsbD_eq fun k _ => ?_
  simp only [flagsOver_getLsbD, flagIf_getLsbD]
  induction lanesOf m with
  | nil => rfl
  | cons a ls ih => rw [List.any_cons, ih, List.any_cons, Bool.and_or_distrib_right]

-- `iadds` (R90)

section Saturating

variable {ty : Ty}

theorem addSat_clamps (hty : ty = .s32 ∨ ty = .z32) (a b : DWord) :
    Same ty (addSat ty a b).1 (wrap (clampedSum ty a b).1) ∧ (addSat ty a b).2 = (clampedSum ty a b).2 := by
  have hclamp : clampTo (intLo (ty == .s32) 32) (intHi (ty == .s32) 32) (valOf ty a + valOf ty b) = clampedSum ty a b := by
    rw [clampedSum, num_eq_valOf, num_eq_valOf]
    generalize valOf ty a + valOf ty b = t
    unfold clampTo
    rcases hty with rfl | rfl <;> simp [intLo, intHi] <;> split_ifs <;> simp <;> omega
  have hw : isWide ty = false := by rcases hty with rfl | rfl <;> rfl
  unfold addSat
  dsimp only
  rw [hclamp]
  refine ⟨same_wrap ?_, rfl⟩
  rw [opWidth_narrow hw]
  exact toNat_ofInt_word _

theorem flagIf_fSAT (b : Bool) : (flagIf b fSAT).setWidth 32 = if b = true then 0x20 else 0 := by
  cases b <;> rfl

/-- An instruction of a clamped sum, as its frame runs it. -/
def saturates (i : Instr) (gd : Guard) (rd : List Nat) (ty : Ty) (d a : Field10) (y : Gang → Nat → DWord) (s : State) : Out :=
  vectorInstr i gd rd (vregs ty d) s fun g _ m => .ok (raiseFlags (writeLanes g ty d m fun l => (addSat ty (readV g ty a l) (y g l)).1)
    (flagsOver m fun l => flagIf (addSat ty (readV g ty a l) (y g l)).2 fSAT))

theorem saturates_run {s : State} {i : Instr} {gi : Nat} {g : Gang} {p : Path} {gd : Guard} {rd : List Nat} {d : Field10} (hty : tySZ ty = true)
    (h : Issues s i gi g p (rd ++ vregs ty d)) (hu : Unpoisoned g (guardLanes g p gd) rd) (hv : spOk 0 g.v = true) (a : Field10) (y : Gang → Nat → DWord) :
    let sum := fun l => clampedSum ty (readV g ty a l) (y g l)
    ∃ g', saturates i gd rd ty d a y s = .next (pastInstr s gi p (instrBytes i) { g' with
        fpstat := g.fpstat ||| if (lanesOf (guardLanes g p gd)).any (fun l => (sum l).2) = true then 0x20 else 0 }) ∧
      WroteV g g' ty d (guardLanes g p gd) (fun l => wrap (sum l).1) := by
  intro sum
  have hsum := fun l => addSat_clamps (of_tySZ hty) (readV g ty a l) (y g l)
  have hw := writeLanes_wrote g hv ty d (guardLanes g p gd) fun l => (addSat ty (readV g ty a l) (y g l)).1
  refine ⟨_, ?_, hw.same fun l => (hsum l).1⟩
  have hfp := congrArg Gang.fpstat hw.rest
  rw [saturates, vectorInstr_run h gd hu, finish, raiseFlags, hfp]
  simp only [flagsOver_flagIf, fun l => (hsum l).2, flagIf_fSAT]
  rfl

end Saturating

/-- Settles O3: the sum clamps as the claim's does, and the lanes that clamped raise the one flag. -/
theorem saturatingAdd : Obligations.SaturatingAdd := by
  refine fun gd ty d a b imm s gi g p hv => ⟨fun h hu => ?_, fun h hu => ?_⟩
  · exact show ∃ _, execIadds gd ty d a b s = _ ∧ _ from saturates_run (Bool.and_elim_left h.wf) h hu hv a fun g => readB g ty b
  · simp only [← immOp_eq]
    exact show ∃ _, execIaddsImm gd ty d a imm s = _ ∧ _ from saturates_run h.wf h hu hv a fun _ _ => immOp ty imm

-- Predicates (R93, R94)

theorem writePred_wrote {g : Gang} (h : spOk 0 g.p = true) (n : BitVec 4) (m : LaneMask) (f : Nat → Bool) : WroteP g (writePred g n m f) n m f := by
  have hw := setPred_wrote g h n m (maskWhere fun l => m.getLsbD l && f l)
  refine ⟨hw.rest, fun k l hl => (hw.preds k l hl).trans ?_⟩
  rw [maskWhere_getLsbD _ l hl]
  split
  · obtain ⟨hm, -⟩ := ‹_›
    rw [hm, Bool.true_and]
  · rfl

theorem WroteP.congr {g g' : Gang} {n : BitVec 4} {m : LaneMask} {x y : Nat → Bool} (hw : WroteP g g' n m x)
    (h : ∀ l, l < 64 → m.getLsbD l = true → x l = y l) : WroteP g g' n m y := by
  refine ⟨hw.rest, fun k l hl => (hw.preds k l hl).trans ?_⟩
  split
  · exact h l hl (And.left ‹_›)
  · rfl

/-- A word and a predicate written in the same lanes. -/
theorem wrote_both {g : Gang} (hv : spOk 0 g.v = true) (hp : spOk 0 g.p = true) (d : Field10) (n : BitVec 4) (m : LaneMask) (x : Nat → Word) (f : Nat → Bool) :
    WroteV g (writeLanes32 g d m x) .i32 d m (fun l => (x l).setWidth 64) ∧
      WroteP (writeLanes32 g d m x) (writePred (writeLanes32 g d m x) n m f) n m f := by
  have hw := writeLanes_wrote g hv .i32 d m fun l => (x l).setWidth 64
  rw [← writeLanes32_eq] at hw
  have hpreds : (writeLanes32 g d m x).p = g.p := (congrArg Gang.p hw.rest).trans rfl
  exact ⟨hw, writePred_wrote (hpreds ▸ hp) ..⟩

theorem toNat_ofNat_word (t : Nat) : ((((BitVec.ofNat 32 t).setWidth 64 : DWord).toNat : ℕ) : ℤ) ≡ t [ZMOD 2 ^ 32] := by
  rw [← BitVec.ofInt_natCast]
  exact toNat_ofInt_word t

/-- The exact sum of `iaddc` and the exact difference of `isubb` in a lane (R94). -/
def carrySum (g : Gang) (a : Field10) (b : Src) (ps : BitVec 4) (l : Nat) : Nat :=
  (getV g a.toNat l).toNat + (readB32 g b l).toNat + (if (getPred g ps).getLsbD l then 1 else 0)
def borrowDiff (g : Gang) (a : Field10) (b : Src) (ps : BitVec 4) (l : Nat) : Int :=
  (getV g a.toNat l).toNat - (readB32 g b l).toNat - (if (getPred g ps).getLsbD l then 1 else 0)

/-- Settles O4: the frame of a vector instruction, with the lanes' words and predicates. -/
theorem predicateResult : Obligations.PredicateResult := by
  refine fun gd ty c d a b pd ps s gi g p hv hp => ⟨fun h => ?type, rfl, rfl, fun h0 l hl => ?carry, fun h hu => ?icmp, fun h hu => ?iaddc, fun h hu => ?isubb⟩
  case type =>
    have hty : (tyI32 ty || decide (ty = .z32)) = true := h.elim (fun h => Bool.and_elim_left h) fun h => Bool.and_elim_left h
    simpa [tyI32, or_assoc] using hty
  case carry =>
    have htrue : (getPred g ps).getLsbD l = true := by rw [getPred, if_pos h0, BitVec.getLsbD_allOnes, decide_eq_true hl]
    exact if_pos htrue
  case icmp =>
    refine ⟨_, show execIcmp gd ty c a b pd ps s = _ from vectorInstr_run (wr := []) (by simpa using h) gd hu _, ?_⟩
    simp only [condI_eq]
    exact writePred_wrote hp ..
  case iaddc =>
    obtain ⟨hw, hpred⟩ := wrote_both hv hp d pd (guardLanes g p gd) (fun l => BitVec.ofNat 32 (carrySum g a b ps l)) fun l => decide (2 ^ 32 ≤ carrySum g a b ps l)
    have hsum : ∀ l, (carrySum g a b ps l : ℤ) = (getV g a.toNat l).toNat + (readB32 g b l).toNat + (if (getPred g ps).getLsbD l then 1 else 0) :=
      fun l => by simp [carrySum]
    refine ⟨_, _, show execIaddc gd ty d a b pd ps s = _ from vectorInstr_run h gd hu _, hw.same fun l => ?_, hpred.congr fun l _ _ => ?_⟩
    · exact same_wrap ((toNat_ofNat_word _).trans (congrArg (· % _) (hsum l)))
    · simp only [← hsum]
      exact decide_eq_decide.2 (by omega)
  case isubb =>
    obtain ⟨hw, hpred⟩ := wrote_both hv hp d pd (guardLanes g p gd) (fun l => BitVec.ofInt 32 (borrowDiff g a b ps l)) fun l => decide (borrowDiff g a b ps l < 0)
    exact ⟨_, _, show execIsubb gd ty d a b pd ps s = _ from vectorInstr_run h gd hu _, hw.same fun l => same_wrap (toNat_ofInt_word _), hpred⟩

-- The wide sum (R96, R97)

section Wide

theorem foldl_add_if {c : Nat → Bool} {f : Nat → Nat} (l : List Nat) (n : Nat) :
    l.foldl (fun acc i => if c i then acc + f i else acc) n = n + (l.map fun i => if c i then f i else 0).sum := by
  induction l generalizing n with
  | nil => rfl
  | cons a l ih =>
    rw [List.foldl_cons, ih, List.map_cons, List.sum_cons]
    split <;> omega

theorem groupSum_eq (gw : Nat) (present : LaneMask) (x y : Nat → Word) (l : Nat) : groupSum (2 ^ gw) (l / 2 ^ gw) present x y = wideSum gw present x y l := by
  rw [groupSum, foldl_add_if, Nat.zero_add, wideSum]

theorem groupLanes_getLsbD {n : Nat} (hn : 0 < n) (j k : Nat) (hk : k < 64) : (groupLanes n j).getLsbD k = decide (k / n = j) := by
  rw [groupLanes, BitVec.getLsbD_ofNat, testBit_ones, decide_eq_true hk, Bool.true_and, ← Bool.decide_and]
  refine decide_eq_decide.2 ?_
  rw [Nat.div_eq_iff hn, Nat.mul_comm j n]
  omega

/-- The lanes that the wide sums of the groups present name, and that are absent. -/
theorem absent_getLsbD {n : Nat} (hn : 0 < n) (w : Nat) (m : LaneMask) (l : Nat) (hl : l < 64) :
    (groupsNamed w n m &&& ~~~m).getLsbD l = (decide (l < w) && !m.getLsbD l && (lanesOf m).any fun k => k / n == l / n) := by
  have hgroup : (groupLanes n (l / n) &&& m != 0) = (lanesOf m).any fun k => k / n == l / n := by
    rw [Bool.eq_iff_iff, List.any_eq_true, bne_iff_ne]
    constructor
    · intro h
      obtain ⟨k, hk, hb⟩ := exists_lane h
      obtain ⟨hg, hm⟩ := and_lane.1 hb
      rw [groupLanes_getLsbD hn _ k hk] at hg
      exact ⟨k, (mem_lanesOf m k).2 ⟨hk, hm⟩, by simpa using hg⟩
    · rintro ⟨k, hk, hg⟩
      obtain ⟨hk, hm⟩ := (mem_lanesOf m k).1 hk
      exact ne_zero_of_lane (and_lane.2 ⟨by rw [groupLanes_getLsbD hn _ k hk]; simpa using hg, hm⟩)
  rw [BitVec.getLsbD_and, BitVec.getLsbD_not, groupsNamed, maskWhere_getLsbD _ l hl, hgroup, decide_eq_true hl, Bool.true_and, Bool.and_right_comm]

theorem absent_ne_zero {n : Nat} (hn : 0 < n) (w : Nat) (m : LaneMask) : groupsNamed w n m &&& ~~~m ≠ 0 ↔
    (List.range 64).any (fun l => decide (l < w) && !m.getLsbD l && (lanesOf m).any fun k => k / n == l / n) = true := by
  rw [List.any_eq_true]
  constructor
  · intro h
    obtain ⟨l, hl, hb⟩ := exists_lane h
    exact ⟨l, List.mem_range.2 hl, absent_getLsbD hn w m l hl ▸ hb⟩
  · rintro ⟨l, hl, hb⟩
    exact ne_zero_of_lane ((absent_getLsbD hn w m l (List.mem_range.1 hl)).trans hb)

theorem same_ofNat64 (t : Nat) : Same .i32 ((BitVec.ofNat 32 t).setWidth 64) (BitVec.ofNat 64 t) := by
  have h := same_wrap (ty := .i32) (toNat_ofNat_word t)
  rwa [wrap, BitVec.ofInt_natCast] at h

section Miss

variable (s : State) (gi : Nat) (g : Gang) (p : Path) {r : Gang} {absent : LaneMask} (info : Word)

/-- An absent lane raises XLMISS where it is enabled (R97, R139). -/
theorem withMiss_raises (h : absent ≠ 0) (hx : xlen g = true) :
    finish s gi g p 8 (withMiss g p absent false info r) = .next (s.trap gi g p ⟨0x07, p.pc, 0, absent, info⟩) := by
  rw [withMiss, if_neg (by simpa using h), if_pos hx]
  rfl

/-- Elsewhere the result stands, with MISS where a lane is absent. -/
theorem withMiss_stands (h : absent ≠ 0 → xlen g = false) (hr : r.xlctl = g.xlctl) : finish s gi g p 8 (withMiss g p absent false info r) =
    .next (pastInstr s gi p 8 { r with xlctl := g.xlctl ||| if absent ≠ 0 then 1 else 0 }) := by
  rw [withMiss, ← hr]
  by_cases h0 : absent = 0
  · have hor : r.xlctl ||| 0 = r.xlctl := BitVec.or_zero
    rw [if_pos (by simp [h0]), if_neg (not_not.2 h0), hor]
    rfl
  · rw [if_neg (by simpa using h0), if_neg (by simp [h h0]), if_pos h0]
    rfl

end Miss

end Wide

/-- Settles O5: the lanes absent decide between the trap and the wide sums of the groups. -/
theorem wideAddResult : Obligations.WideAddResult := by
  intro gd ty gw d a b pd s gi g p h hv hp hu m n missing sum
  have hn : 0 < n := by positivity
  have hmissing : groupsNamed g.kd.gangw n m &&& ~~~m ≠ 0 ↔ missing = true := absent_ne_zero hn g.kd.gangw m
  obtain ⟨hw, hpred⟩ := wrote_both hv hp d pd m (fun l => BitVec.ofNat 32 (sum l >>> (32 * (l % n)))) fun l => decide (2 ^ (32 * n) ≤ sum l)
  have hrun : exec (.iaddw gd ty gw d a b pd) s = finish s gi g p 8 (withMiss g p (groupsNamed g.kd.gangw n m &&& ~~~m) false 0x102
      (writePred (writeLanes32 g d m fun l => BitVec.ofNat 32 (sum l >>> (32 * (l % n)))) pd m fun l => decide (2 ^ (32 * n) ≤ sum l))) := by
    show execIaddw gd ty gw d a b pd s = _
    rw [execIaddw, vectorInstr_run h gd hu]
    simp only [groupSum_eq]
    rfl
  refine ⟨fun hm hx => ⟨_, ?_, absent_getLsbD hn g.kd.gangw m⟩, fun hx => ⟨_, _, hrun.trans ?_, hw.same fun l => ?_, hpred⟩⟩
  · rw [hrun]
    exact withMiss_raises s gi g p _ (hmissing.2 hm) hx
  · have hkeeps : (writePred _ pd m _).xlctl = g.xlctl := (congrArg Gang.xlctl hpred.rest).trans ((congrArg Gang.xlctl hw.rest).trans rfl)
    rw [withMiss_stands s gi g p _ (fun h0 => hx (hmissing.1 h0)) hkeeps]
    simp only [hmissing]
  · rw [Nat.shiftRight_eq_div_pow]
    exact same_ofNat64 _

end Sys2Proof.Machine
end

section
/-! PROOFS. The floating-point and conversion instructions: their frame, and the predicates of `fcmp` and `fclass` (R98 to R103, R154). -/

namespace Sys2Proof.Machine
open Sys2Proof.Claim

section FloatLanes

variable {i : Instr} {g : Gang} {gd : Guard} {rd : List Nat} {d : Field10} {x : Nat → Word × FFlags}

/-- An instruction of one word with flags per lane, as its frame runs it. -/
def floatsLanes (i : Instr) (gd : Guard) (rd : List Nat) (d : Field10) (y : Gang → Nat → Word × FFlags) (s : State) : Out :=
  vectorInstr i gd rd [d.toNat] s fun g _ m => .ok (floatLanes g d m (y g))

theorem float_computes (hx : floatValue g i = some (gd, rd, d, x)) (s : State) : 
    ∃ y, exec i s = floatsLanes i gd rd d y s ∧ y g = x ∧ instrBytes i = 8 := by
  unfold floatValue at hx
  split at hx
  case h_1 gd ty rm d a b => cases hx; exact ⟨_, show execFadd gd ty rm d a b s = _ from rfl, rfl, rfl⟩
  case h_2 gd ty rm d a b => cases hx; exact ⟨_, show execFsub gd ty rm d a b s = _ from rfl, rfl, rfl⟩
  case h_3 gd ty rm d a b => cases hx; exact ⟨_, show execFmul gd ty rm d a b s = _ from rfl, rfl, rfl⟩
  case h_4 gd ty d a b => cases hx; exact ⟨_, show execFmin gd ty d a b s = _ from rfl, rfl, rfl⟩
  case h_5 gd ty d a b => cases hx; exact ⟨_, show execFmax gd ty d a b s = _ from rfl, rfl, rfl⟩
  case h_6 gd rm d a b => cases hx; exact ⟨_, show execFscale gd rm d a b s = _ from rfl, rfl, rfl⟩
  case h_7 gd ty d b => cases hx; exact ⟨_, show execFabs gd ty d b s = _ from rfl, rfl, rfl⟩
  case h_8 gd ty d b => cases hx; exact ⟨_, show execFneg gd ty d b s = _ from rfl, rfl, rfl⟩
  case h_9 gd rm d b => cases hx; exact ⟨_, show execFrnd gd rm d b s = _ from rfl, rfl, rfl⟩
  case h_10 gd d b => cases hx; exact ⟨_, show execFgetexp gd d b s = _ from rfl, rfl, rfl⟩
  case h_11 gd ty rm d a b c => cases hx; exact ⟨_, show execFma gd ty rm d a b c s = _ from rfl, rfl, rfl⟩
  case h_12 gd ty rm d a b c => cases hx; exact ⟨_, show execFdot2 gd ty rm d a b c s = _ from rfl, rfl, rfl⟩
  case h_13 gd ty rm d a b c => cases hx; exact ⟨_, show execFdot4 gd ty rm d a b c s = _ from rfl, rfl, rfl⟩
  case h_14 gd ty ts rm d b => cases hx; exact ⟨_, show execCvt gd ty ts rm d b s = _ from rfl, rfl, rfl⟩
  case h_15 gd ty ts rm d a b => cases hx; exact ⟨_, show execCvtq gd ty ts rm d a b s = _ from rfl, rfl, rfl⟩
  case h_16 gd ty ts rm d a b => cases hx; exact ⟨_, show execCvtdq gd ty ts rm d a b s = _ from rfl, rfl, rfl⟩
  case h_17 gd d a => cases hx; exact ⟨_, show execFexp2 gd d a s = _ from rfl, rfl, rfl⟩
  case h_18 gd d a => cases hx; exact ⟨_, show execFlog2 gd d a s = _ from rfl, rfl, rfl⟩
  case h_19 gd d a => cases hx; exact ⟨_, show execFrcp gd d a s = _ from rfl, rfl, rfl⟩
  case h_20 gd d a => cases hx; exact ⟨_, show execFrsqrt gd d a s = _ from rfl, rfl, rfl⟩
  case h_21 gd d a => cases hx; exact ⟨_, show execFsqrt gd d a s = _ from rfl, rfl, rfl⟩
  case h_22 gd d a => cases hx; exact ⟨_, show execFsin gd d a s = _ from rfl, rfl, rfl⟩
  case h_23 gd d a => cases hx; exact ⟨_, show execFcos gd d a s = _ from rfl, rfl, rfl⟩
  case h_24 gd d a => cases hx; exact ⟨_, show execFtanh gd d a s = _ from rfl, rfl, rfl⟩
  case h_25 gd d a => cases hx; exact ⟨_, show execFsigm gd d a s = _ from rfl, rfl, rfl⟩
  case h_26 gd d a => cases hx; exact ⟨_, show execFerf gd d a s = _ from rfl, rfl, rfl⟩
  case h_27 => cases hx

theorem flagsOver_flagsOf (m : LaneMask) (f : Nat → FFlags) : FlagsOf m f (flagsOver m f) := by
  intro k _
  rw [flagsOver_getLsbD, List.any_eq_true]
  simp only [mem_lanesOf, and_assoc]

end FloatLanes

/-- Settles O6: one frame writes the words of the lanes and gathers their flags. -/
theorem floatResult : Obligations.FloatResult := by
  intro i s gi g p gd rd d x hx h hv hu
  obtain ⟨y, hrun, rfl, h8⟩ := float_computes hx s
  have hw := writeLanes_wrote g hv .f32 d (guardLanes g p gd) fun l => ((y g l).1).setWidth 64
  refine ⟨_, _, ?_, flagsOver_flagsOf _ _, hw⟩
  have hsame : writeLanes g .f32 d (guardLanes g p gd) (fun l => ((y g l).1).setWidth 64) = writeLanes32 g d (guardLanes g p gd) fun l => (y g l).1 :=
    (writeLanes32_eq ..).symm
  rw [hrun, floatsLanes, vectorInstr_run h gd hu, h8, hsame]
  rfl

-- Order of values (R100)

/-- What an order of two numbers says. -/
def OrderOf (o : Ordering) (x y : ℚ) : Prop :=
  match o with
  | .lt => x < y
  | .eq => x = y
  | .gt => y < x

theorem OrderOf.swap {o : Ordering} {x y : ℚ} (h : OrderOf o x y) : OrderOf o.swap y x := by
  cases o
  · exact h
  · exact Eq.symm h
  · exact h

theorem OrderOf.neg {o : Ordering} {x y : ℚ} (h : OrderOf o x y) : OrderOf o.swap (-x) (-y) := by
  cases o
  · exact neg_lt_neg h
  · exact congrArg _ h
  · exact neg_lt_neg h

theorem orderOf_compare {m n : Nat} {c : ℚ} (hc : 0 < c) : OrderOf (compare m n) (m * c) (n * c) := by
  rcases lt_trichotomy m n with h | rfl | h
  · rw [compare_lt_iff_lt.2 h]
    exact mul_lt_mul_of_pos_right (by exact_mod_cast h) hc
  · rw [compare_eq_iff_eq.2 rfl]
    exact rfl
  · rw [compare_gt_iff_gt.2 h]
    exact mul_lt_mul_of_pos_right (by exact_mod_cast h) hc

theorem OrderOf.iff {o : Ordering} {x y : ℚ} (h : OrderOf o x y) : (o = .lt ↔ x < y) ∧ (o = .eq ↔ x = y) ∧ (o = .gt ↔ y < x) := by
  cases o
  · have h : x < y := h
    simp [h, h.ne, h.le]
  · have h : x = y := h
    simp [h]
  · have h : y < x := h
    simp [h, h.ne', h.le]

/-- The order of two magnitudes that are not zero: by the place of the highest bit, then by their counts of a common power of two. -/
def magOrder (m : Nat) (e : Int) (n : Nat) (f : Int) : Ordering :=
  if (m.log2 : Int) + e < (n.log2 : Int) + f then .lt
  else if (n.log2 : Int) + f < (m.log2 : Int) + e then .gt
  else compare (m <<< (e - min e f).toNat) (n <<< (f - min e f).toNat)

theorem mag_lt_of_log {m n : Nat} {e f : Int} (hn : n ≠ 0) (h : (m.log2 : Int) + e < (n.log2 : Int) + f) : (m : ℚ) * 2 ^ e < n * 2 ^ f := by
  have hm : (m : ℚ) < 2 ^ ((m.log2 : ℤ) + 1) := by exact_mod_cast Nat.lt_log2_self (n := m)
  have hn : (2 : ℚ) ^ (n.log2 : ℤ) ≤ n := by exact_mod_cast Nat.log2_self_le hn
  calc (m : ℚ) * 2 ^ e < 2 ^ ((m.log2 : ℤ) + 1) * 2 ^ e := mul_lt_mul_of_pos_right hm (by positivity)
    _ = 2 ^ ((m.log2 : ℤ) + 1 + e) := (zpow_add₀ two_ne_zero _ _).symm
    _ ≤ 2 ^ ((n.log2 : ℤ) + f) := zpow_le_zpow_right₀ one_le_two (by omega)
    _ = 2 ^ (n.log2 : ℤ) * 2 ^ f := zpow_add₀ two_ne_zero _ _
    _ ≤ n * 2 ^ f := mul_le_mul_of_nonneg_right hn (by positivity)

theorem shifted_mag (m : Nat) {e lo : Int} (h : lo ≤ e) : (m : ℚ) * 2 ^ e = (m <<< (e - lo).toNat : ℕ) * 2 ^ lo := by
  have hexp : (2 : ℚ) ^ e = 2 ^ (e - lo).toNat * 2 ^ lo := by
    rw [← zpow_natCast, ← zpow_add₀ two_ne_zero, Int.toNat_of_nonneg (by omega), sub_add_cancel]
  rw [Nat.shiftLeft_eq, hexp]
  push_cast
  ring

theorem magOrder_spec {m n : Nat} (hm : m ≠ 0) (hn : n ≠ 0) (e f : Int) : OrderOf (magOrder m e n f) (m * 2 ^ e) (n * 2 ^ f) := by
  unfold magOrder
  split
  · exact mag_lt_of_log hn ‹_›
  · split
    · exact mag_lt_of_log hm ‹_›
    · rw [shifted_mag m (min_le_left e f), shifted_mag n (min_le_right e f)]
      exact orderOf_compare (by positivity)

theorem xCompare_fin (s : Bool) (m : Nat) (e : Int) (t : Bool) (n : Nat) (f : Int) :
    OrderOf (xCompare (.fin s m e) (.fin t n f)) (ratOf s m e) (ratOf t n f) := by
  have hpos : ∀ {k : Nat} (j : Int), k ≠ 0 → (0 : ℚ) < k * 2 ^ j := fun j hk => by positivity
  have hx : xCompare (.fin s m e) (.fin t n f) = if m = 0 ∧ n = 0 then .eq else if m = 0 then (if t then .gt else .lt)
      else if n = 0 then (if s then .lt else .gt) else if s ≠ t then (if s then .lt else .gt)
      else if s then (magOrder m e n f).swap else magOrder m e n f := by
    simp [xCompare, magOrder]
  rw [hx]
  by_cases hm : m = 0 <;> by_cases hn : n = 0
  · simp [hm, hn, OrderOf, ratOf]
  · have := hpos f hn
    cases t <;> simp [hm, hn, OrderOf, ratOf, this]
  · have := hpos e hm
    cases s <;> simp [hm, hn, OrderOf, ratOf, this]
  · have hs := magOrder_spec hm hn e f
    have h1 := hpos e hm
    have h2 := hpos f hn
    cases s <;> cases t <;> simp [hm, hn, ratOf]
    · exact hs
    · exact (neg_neg_of_pos h2).trans h1
    · exact (neg_neg_of_pos h1).trans h2
    · simpa using hs.neg

theorem xCompare_iff {x y : XReal} (hx : x ≠ .nan) (hy : y ≠ .nan) :
    (xCompare x y = .lt ↔ ltX x y) ∧ (xCompare x y = .eq ↔ eqX x y) ∧ (xCompare x y = .gt ↔ ltX y x) := by
  cases x with
  | nan => exact absurd rfl hx
  | inf s =>
    cases y with
    | nan => exact absurd rfl hy
    | inf t => cases s <;> cases t <;> simp [xCompare, ltX, eqX]
    | fin t n f => cases s <;> simp [xCompare, ltX, eqX]
  | fin s m e =>
    cases y with
    | nan => exact absurd rfl hy
    | inf t => cases t <;> simp [xCompare, ltX, eqX]
    | fin t n f => exact (xCompare_fin s m e t n f).iff

theorem isNan_iff {x : XReal} : x.isNan = true ↔ x = .nan := by
  cases x <;> simp [XReal.isNan]

theorem unordered_nan {x y : XReal} (h : x = .nan ∨ y = .nan) : ¬ ltX x y ∧ ¬ ltX y x ∧ ¬ eqX x y := by
  rcases h with rfl | rfl
  · cases y <;> exact ⟨id, id, id⟩
  · cases x <;> exact ⟨id, id, id⟩

/-- An ordered condition: one that a NaN source makes invalid (R100). -/
def ordered (c : Cond) : Bool := c == .lt || c == .le || c == .gt || c == .ge

/-- A condition holds as the claim states it, whatever the sources (R100). -/
theorem condF_iff (c : Cond) (ftz : Bool) (a b : Nat) : (condF c ftz a b).1 = true ↔ condX c (decodeF fmtF32 ftz a).1 (decodeF fmtF32 ftz b).1 := by
  unfold condF condX
  generalize (decodeF fmtF32 ftz a) = x
  generalize (decodeF fmtF32 ftz b) = y
  obtain ⟨x, fx⟩ := x
  obtain ⟨y, fy⟩ := y
  by_cases hn : x = .nan ∨ y = .nan
  · have hun : (x.isNan || y.isNan) = true := by simpa [isNan_iff] using hn
    obtain ⟨hlt, hgt, heq⟩ := unordered_nan hn
    cases c <;> simp [hun, hn, hlt, hgt, heq]
  · have hun : (x.isNan || y.isNan) = false := by
      rw [Bool.eq_false_iff]
      simpa [isNan_iff] using hn
    obtain ⟨hlt, heq, hgt⟩ := xCompare_iff (fun h => hn (.inl h)) fun h => hn (.inr h)
    cases c <;> simp [hun, hn, ← hlt, ← heq, ← hgt] <;> cases xCompare x y <;> simp

theorem condF_flags (c : Cond) (ftz : Bool) (a b : Nat) : (condF c ftz a b).2 = (decodeF fmtF32 ftz a).2 ||| (decodeF fmtF32 ftz b).2 |||
    flagIf (((decodeF fmtF32 ftz a).1.isNan || (decodeF fmtF32 ftz b).1.isNan) && ordered c) fNV := by
  cases c <;> rfl

-- The codes of F32 (R41, R44, R50)

theorem decodeF_f32 (ftz : Bool) (a : Word) : decodeF fmtF32 ftz a.toNat =
    let neg := a.getLsbD 31
    let ex := (a.extractLsb' 23 8).toNat
    let fr := (a.extractLsb' 0 23).toNat
    if ex = 255 then (if fr = 0 then (.inf neg, 0) else (.nan, flagIf (!a.getLsbD 22) fNV))
    else if ex = 0 then (.fin neg (if ftz then 0 else fr) (-149), 0) else (.fin neg (fr + 2 ^ 23) (ex - 150), 0) := by
  have hex : (a.extractLsb' 23 8).toNat = a.toNat / 2 ^ 23 % 2 ^ 8 := by rw [BitVec.extractLsb'_toNat, Nat.shiftRight_eq_div_pow]
  have hfr : (a.extractLsb' 0 23).toNat = a.toNat % 2 ^ 23 := by rw [BitVec.extractLsb'_toNat, Nat.shiftRight_zero]
  have hq : (a.toNat % 2 ^ 23).testBit 22 = a.getLsbD 22 := by
    rw [Nat.testBit_mod_two_pow]
    rfl
  have hshape : decodeF fmtF32 ftz a.toNat =
      if a.toNat / 2 ^ 23 % 2 ^ 8 = 255 then (if a.toNat % 2 ^ 23 = 0 then (.inf (a.getLsbD 31), 0) else (.nan, flagIf (!(a.toNat % 2 ^ 23).testBit 22) fNV))
      else if a.toNat / 2 ^ 23 % 2 ^ 8 = 0 then (.fin (a.getLsbD 31) (if ftz then 0 else a.toNat % 2 ^ 23) (-149), 0)
      else (.fin (a.getLsbD 31) (a.toNat % 2 ^ 23 + 2 ^ 23) (((a.toNat / 2 ^ 23 % 2 ^ 8 : ℕ) : ℤ) - 127 - 23), 0) := rfl
  rw [hshape, hq, ← hex, ← hfr, sub_sub]
  rfl

theorem isNaN_eq (x : Word) : isNaN x = (decide ((x.extractLsb' 23 8).toNat = 255) && !decide ((x.extractLsb' 0 23).toNat = 0)) := by
  simp only [isNaN, bne, beq_eq_decide, ← BitVec.toNat_inj]
  rfl

theorem sNaN_eq (x : Word) : sNaN x = (isNaN x && !x.getLsbD 22) := by rw [sNaN, isNaN, Bool.and_right_comm]

theorem decodeF_isNan (ftz : Bool) (a : Word) : (decodeF fmtF32 ftz a.toNat).1.isNan = isNaN a := by
  rw [decodeF_f32, isNaN_eq]
  dsimp only
  split_ifs <;> simp_all [XReal.isNan]

theorem decodeF_flags (ftz : Bool) (a : Word) : (decodeF fmtF32 ftz a.toNat).2 = flagIf (sNaN a) fNV := by
  rw [decodeF_f32, sNaN_eq, isNaN_eq]
  dsimp only
  split_ifs <;> simp_all [flagIf]

theorem flagIf_or (a b : Bool) (f : FFlags) : flagIf a f ||| flagIf b f = flagIf (a || b) f := by
  cases a <;> cases b <;> simp [flagIf]

theorem condF_invalid (c : Cond) (ftz : Bool) (a b : Word) : (condF c ftz a.toNat b.toNat).2 =
    flagIf (sNaN a || sNaN b || ((c == .lt || c == .le || c == .gt || c == .ge) && (isNaN a || isNaN b))) fNV := by
  rw [condF_flags, decodeF_flags, decodeF_flags, decodeF_isNan, decodeF_isNan, flagIf_or, flagIf_or, Bool.and_comm (_ || _), ordered]

-- `fclass` (R101)

/-- The bit that the model gives a value with its NaN flag and its sign (R101). -/
theorem fpClass_eq (ftz : Bool) (a : Word) : fpClass ftz a = BitVec.ofNat 32 (2 ^ classBit ftz a) := by
  have hfr : (a.extractLsb' 0 23).toNat < 2 ^ 23 := (a.extractLsb' 0 23).isLt
  have hemin : fmtF32.emin = -126 := rfl
  rw [fpClass, decodeF_f32, classBit]
  dsimp only
  generalize (a.extractLsb' 0 23).toNat = fr at hfr ⊢
  generalize (a.extractLsb' 23 8).toNat = ex
  by_cases h255 : ex = 255
  · by_cases h0 : fr = 0
    · simp [h255, h0]
    · cases a.getLsbD 22 <;> simp [h255, h0, flagIf, fNV]
  · by_cases hz : ex = 0
    · by_cases hs : fr = 0 ∨ ftz = true
      · have hm : (if ftz = true then 0 else fr) = 0 := by split <;> simp_all
        simp [hz, hs, hm]
      · obtain ⟨h0, hf⟩ := not_or.1 hs
        have hlog : (fr.log2 : ℤ) + -149 < -126 := by
          have := (Nat.log2_lt h0).2 hfr
          omega
        simp [hz, h0, hf, hemin, hlog]
    · have hlog : (fr + 2 ^ 23).log2 = 23 := (Nat.log2_eq_iff (by omega)).2 ⟨by omega, by omega⟩
      have hge : ¬ ((23 : ℤ) + (ex - 150) < -126) := by omega
      have hne : fr + 2 ^ 23 ≠ 0 := by omega
      simp only [h255, hz, hlog, hemin, if_false, Nat.cast_ofNat, hge, hne]

theorem classBit_lt (ftz : Bool) (a : Word) : classBit ftz a < 32 := by
  unfold classBit
  dsimp only
  split_ifs <;> decide

theorem and_bit (x : Word) {k : Nat} (hk : k < 32) : (BitVec.ofNat 32 (2 ^ k) &&& x != 0) = x.getLsbD k := by
  have htwo : BitVec.ofNat 32 (2 ^ k) = BitVec.twoPow 32 k := BitVec.eq_of_toNat_eq (by rw [BitVec.toNat_twoPow, BitVec.toNat_ofNat])
  have hne : BitVec.twoPow 32 k ≠ 0 := fun h0 => by
    have := congrArg BitVec.toNat h0
    rw [BitVec.toNat_twoPow_of_lt hk] at this
    exact absurd this (by positivity)
  rw [htwo, BitVec.twoPow_and]
  cases x.getLsbD k
  · rfl
  · exact bne_iff_ne.2 hne

/-- Settles O7: the value of the condition and the class code are the claim's; the lanes that are invalid raise the one flag. -/
theorem floatPredicate : Obligations.FloatPredicate := by
  refine fun gd c d a b pd ps s gi g p r hv hp hu => ⟨fun h hr => ?fcmp, fun h => ?fclass⟩
  case fcmp =>
    have hvalue : ∀ l, ((condF c (ftzOn g) (getV g a.toNat l).toNat (readB32 g b l).toNat).1 && (getPred g ps).getLsbD l) = r l := fun l => by
      rw [Bool.eq_iff_iff, Bool.and_eq_true_iff, condF_iff]
      exact (hr l).symm
    refine ⟨writePred g pd (guardLanes g p gd) r, ?_, writePred_wrote hp ..⟩
    show execFcmp gd c a b pd ps s = _
    rw [execFcmp, vectorInstr_run (wr := []) (by simpa using h) gd hu]
    simp only [hvalue, condF_invalid, flagsOver_flagIf]
    rfl
  case fclass =>
    have hclass : ∀ l, fpClass (ftzOn g) (getV g a.toNat l) = BitVec.ofNat 32 (2 ^ classBit (ftzOn g) (getV g a.toNat l)) := fun l => fpClass_eq ..
    have hmask : ∀ l, (fpClass (ftzOn g) (getV g a.toNat l) &&& readB32 g b l != 0) = (readB32 g b l).getLsbD (classBit (ftzOn g) (getV g a.toNat l)) :=
      fun l => by rw [hclass, and_bit _ (classBit_lt ..)]
    obtain ⟨hw, hpred⟩ := wrote_both hv hp d pd (guardLanes g p gd) (fun l => fpClass (ftzOn g) (getV g a.toNat l)) fun l =>
      fpClass (ftzOn g) (getV g a.toNat l) &&& readB32 g b l != 0
    have hword := hw.same fun l => hclass l ▸ same_ofNat64 _
    exact ⟨_, _, show execFclass gd d a b pd s = _ from vectorInstr_run h gd hu _, ⟨hword.rest, hword.regs, hword.marks⟩, hpred.congr fun l _ _ => hmask l⟩

end Sys2Proof.Machine
end

section
/-! PROOFS. `pack` and `unpk` (R39, R40, R104). -/

namespace Sys2Proof.Machine
open Sys2Proof.Claim

theorem narrow_bits {ty : Ty} (h : tyNarrow ty = true) : (cvtTy ty).bits ∈ [4, 8, 16] := by
  revert h
  cases ty <;> decide

/-- Bit `k` of a packed register is bit `k % n` of source `k / n` (R40). -/
theorem packed_getLsbD {n : Nat} (hn : n ∈ [4, 8, 16]) (x : Nat → Word) {k : Nat} (hk : k < 32) :
    (BitVec.ofNat 32 ((List.range (32 / n)).foldl (fun acc i => acc + (x i).toNat % 2 ^ n * 2 ^ (n * i)) 0)).getLsbD k = (x (k / n)).getLsbD (k % n) := by
  have hpos : 0 < n ∧ n * (32 / n) = 32 := by
    simp only [List.mem_cons, List.not_mem_nil, or_false] at hn
    rcases hn with rfl | rfl | rfl <;> decide
  obtain ⟨hpos, hall⟩ := hpos
  rw [BitVec.getLsbD_ofNat, (testBit_digits (fun i => Nat.mod_lt _ (by positivity)) (32 / n)).2 k (by omega), Nat.testBit_mod_two_pow,
    decide_eq_true hk, decide_eq_true (Nat.mod_lt k hpos)]
  rfl

-- Several registers of one lane

/-- `e i` is written into register `d + i` of lane `l`, for each `i` below `n`. -/
def writeRange (g : Gang) (d l : Nat) (e : Nat → Word) (n : Nat) : Gang := (List.range n).foldl (fun acc i => setV acc (d + i) l (e i)) g

/-- Only the vector registers changed, and they are in their canonical form. -/
structure WroteRegs (g g' : Gang) : Prop where
  rest : g' = g.withV g'.v g'.vpoison
  ok : spOk 0 g'.v = true

theorem WroteRegs.trans {g g' g'' : Gang} (h : WroteRegs g g') (h' : WroteRegs g' g'') : WroteRegs g g'' :=
  ⟨by rw [h'.rest, h.rest]; rfl, h'.ok⟩

theorem writeRange_wrote {g : Gang} (h : spOk 0 g.v = true) (d : Nat) {l : Nat} (hl : l < 64) (e : Nat → Word) (n : Nat) :
    WroteRegs g (writeRange g d l e n) ∧ ∀ r k, k < 64 → getV (writeRange g d l e n) r k = if k = l ∧ d ≤ r ∧ r < d + n then e (r - d) else getV g r k := by
  induction n with
  | zero => exact ⟨⟨rfl, h⟩, fun r k _ => (if_neg (by omega)).symm⟩
  | succ n ih =>
    obtain ⟨hw, hregs⟩ := ih
    have hstep : writeRange g d l e (n + 1) = setV (writeRange g d l e n) (d + n) l (e n) := by
      rw [writeRange, List.range_succ, List.foldl_append]
      rfl
    rw [hstep]
    refine ⟨hw.trans ⟨rfl, spOk_setV _ hw.ok ..⟩, fun r k hk => ?_⟩
    rw [getV_setV _ hw.ok _ _ _ _ _ hl hk, hregs r k hk]
    by_cases hr : r = d + n ∧ k = l
    · obtain ⟨rfl, rfl⟩ := hr
      rw [if_pos ⟨rfl, rfl⟩, if_pos (by omega), Nat.add_sub_cancel_left]
    · rw [if_neg hr]
      by_cases hin : k = l ∧ d ≤ r ∧ r < d + n
      · rw [if_pos hin, if_pos (by omega)]
      · rw [if_neg hin, if_neg (by omega)]

theorem writeRanges_wrote (d : Nat) (e : Nat → Nat → Word) (n : Nat) {ls : List Nat} (hls : ∀ l ∈ ls, l < 64) {g : Gang} (h : spOk 0 g.v = true) :
    WroteRegs g (ls.foldl (fun acc l => writeRange acc d l (e l) n) g) ∧ ∀ r k, k < 64 →
      getV (ls.foldl (fun acc l => writeRange acc d l (e l) n) g) r k = if k ∈ ls ∧ d ≤ r ∧ r < d + n then e k (r - d) else getV g r k := by
  induction ls generalizing g with
  | nil => exact ⟨⟨rfl, h⟩, fun r k _ => (if_neg (by simp)).symm⟩
  | cons a ls ih =>
    obtain ⟨hw, hregs⟩ := writeRange_wrote h d (hls a List.mem_cons_self) (e a) n
    obtain ⟨hws, hregss⟩ := ih (fun l hl => hls l (List.mem_cons_of_mem _ hl)) hw.ok
    refine ⟨hw.trans hws, fun r k hk => ?_⟩
    rw [List.foldl_cons, hregss r k hk, hregs r k hk]
    simp only [List.mem_cons]
    by_cases hka : k = a
    · subst hka
      by_cases hin : d ≤ r ∧ r < d + n <;> simp [hin]
    · simp [hka]

/-- Element `i` of a register, extended by type (R39, R40). -/
theorem extended_element {ty : Ty} (h : tyNarrow ty = true) (x : Word) (i : Nat) : extendTo32 (cvtTy ty) (elemOf (cvtTy ty).bits i x.toNat) =
    if ty = .s16 ∨ ty = .s8 ∨ ty = .s4 then BitVec.ofInt 32 (intOf true (cvtTy ty).bits (x.toNat / 2 ^ ((cvtTy ty).bits * i)))
    else BitVec.ofNat 32 (x.toNat / 2 ^ ((cvtTy ty).bits * i) % 2 ^ (cvtTy ty).bits) := by
  rw [elemOf, Nat.shiftRight_eq_div_pow]
  have hint : ∀ sg n c, extendTo32 (.int sg n) (c % 2 ^ n) = BitVec.ofInt 32 (intOf sg n c) := fun sg n c => by simp [extendTo32, intOf]
  have hnat : ∀ n c, BitVec.ofInt 32 (intOf false n c) = BitVec.ofNat 32 (c % 2 ^ n) := fun n c => by simp [intOf, ← BitVec.ofInt_natCast]
  cases ty
  case s16 | s8 | s4 => exact hint true _ _
  case z16 | z8 | z4 => exact (hint false _ _).trans (hnat _ _)
  case f16 | bf16 | f8a | f8b => rfl
  all_goals cases h

/-- Settles O9: the elements of a packed register are its digits; `unpk` writes them register by register. -/
theorem packUnpack : Obligations.PackUnpack := by
  refine fun gd ty d a b s gi g p hv => ⟨fun h hu => ?pack, fun h hu => ?unpk⟩
  case pack =>
    have hw := writeLanes_wrote g hv .i32 d (guardLanes g p gd) fun l => (BitVec.ofNat 32 ((List.range (32 / (cvtTy ty).bits)).foldl
      (fun acc i => acc + (getV g (a.toNat + i) l).toNat % 2 ^ (cvtTy ty).bits * 2 ^ ((cvtTy ty).bits * i)) 0)).setWidth 64
    refine ⟨_, _, ?_, hw, fun l k hk => ?_⟩
    · show execPack gd ty d a s = _
      rw [← writeLanes32_eq]
      exact vectorInstr_run h gd hu _
    · rw [BitVec.getLsbD_setWidth, packed_getLsbD (narrow_bits h.wf) _ hk, decide_eq_true (by omega), Bool.true_and]
  case unpk =>
    obtain ⟨hw, hregs⟩ := writeRanges_wrote d.toNat (fun l i => extendTo32 (cvtTy ty) (elemOf (cvtTy ty).bits i (readB32 g b l).toNat)) (packCount ty)
      (fun l hl => ((mem_lanesOf (guardLanes g p gd) l).1 hl).1) hv
    refine ⟨_, show execUnpk gd ty d b s = _ from vectorInstr_run h gd hu _, hw.rest, fun r l hl => (hregs r l hl).trans ?_⟩
    simp only [mem_lanesOf, hl, true_and, extended_element (Bool.and_elim_left h.wf)]
    rfl

end Sys2Proof.Machine
end

section
/-! PROOFS. The paths of a gang stay apart, in names, lanes and slices, as it comes to rest (R109, R117 to R119). -/

namespace Sys2Proof.Machine
open Sys2Proof.Claim

-- Sets of lanes and of slices

/-- Parts of sets apart are apart. -/
theorem apart_of_subset {n : Nat} {a a' b b' : BitVec n} (ha : a &&& ~~~a' = 0) (hb : b &&& ~~~b' = 0) (h : a' &&& b' = 0) : a &&& b = 0 := by
  refine BitVec.eq_of_getLsbD_eq fun j hj => ?_
  have ha := congrArg (BitVec.getLsbD · j) ha
  have hb := congrArg (BitVec.getLsbD · j) hb
  have h := congrArg (BitVec.getLsbD · j) h
  simp only [BitVec.getLsbD_and, BitVec.getLsbD_not, hj, BitVec.ofNat_eq_ofNat, BitVec.getLsbD_zero] at ha hb h ⊢
  grind

theorem subset_self {n : Nat} (a : BitVec n) : a &&& ~~~a = 0 := BitVec.and_not_self a

theorem subset_inter {n : Nat} (a b : BitVec n) : (a &&& b) &&& ~~~a = 0 := by
  rw [BitVec.and_comm a b, BitVec.and_assoc, BitVec.and_not_self, BitVec.ofNat_eq_ofNat, BitVec.and_zero]

theorem subset_zero {n : Nat} (a : BitVec n) : 0 &&& ~~~a = 0 := BitVec.zero_and

theorem zero_apart {n : Nat} (a : BitVec n) : 0 &&& a = 0 := BitVec.zero_and

/-- A set without another is apart from it. -/
theorem without_apart {n : Nat} (a b : BitVec n) : (a &&& ~~~b) &&& b = 0 := by
  rw [BitVec.and_assoc, BitVec.not_and_self, BitVec.ofNat_eq_ofNat, BitVec.and_zero]

/-- A set apart from another keeps all it has without it. -/
theorem without_of_apart {n : Nat} {a b : BitVec n} (h : a &&& b = 0) : a &&& ~~~b = a := by
  refine BitVec.eq_of_getLsbD_eq fun j hj => ?_
  have h := congrArg (BitVec.getLsbD · j) h
  simp only [BitVec.getLsbD_and, BitVec.getLsbD_not, hj, BitVec.ofNat_eq_ofNat, BitVec.getLsbD_zero] at h ⊢
  grind

/-- Sets without a lane of one another share none. -/
theorem apart_of_lanes {a b : LaneMask} (h : ∀ l, l < 64 → a.getLsbD l = true → b.getLsbD l = true → False) : a &&& b = 0 := by
  by_contra hne
  obtain ⟨l, h64, hl⟩ := exists_lane hne
  obtain ⟨ha, hb⟩ := and_lane.1 hl
  exact h l h64 ha hb

-- Paths apart

/-- Paths with slices of their own. -/
def OwnSlices (ps : List Path) : Prop := ps.Pairwise fun a b => a.onSl &&& b.onSl = 0

/-- Paths with names and lanes of their own, each with lanes, none of which has exited, and a name below `bound`. -/
structure LanesApart (exited : LaneMask) (bound : Nat) (ps : List Path) : Prop where
  ids : OwnIds ps
  lanes : ps.Pairwise fun a b => a.mask &&& b.mask = 0
  live : ∀ q ∈ ps, q.mask &&& exited = 0 ∧ q.mask ≠ 0 ∧ q.id < bound

theorem pathsOk_iff {g : Gang} : PathsOk g ↔ LanesApart g.exited g.nextPath g.paths ∧ OwnSlices g.paths :=
  ⟨fun h => ⟨⟨h.ids, h.lanes, h.live⟩, h.slices⟩, fun ⟨h, hs⟩ => ⟨h.ids, h.lanes, hs, h.live⟩⟩

section Apart

variable {ex : LaneMask} {bound : Nat} {ps qs : List Path} {f : Path → Path}

theorem ownIds_map (h : OwnIds ps) (hf : ∀ q ∈ ps, (f q).id = q.id) : OwnIds (ps.map f) :=
  List.pairwise_map.2 (List.Pairwise.imp_of_mem (fun ha hb hne => by rw [hf _ ha, hf _ hb]; exact hne) h)

/-- Paths that lose lanes stay apart. -/
theorem lanes_map (h : ps.Pairwise fun a b => a.mask &&& b.mask = 0) (hf : ∀ q ∈ ps, (f q).mask &&& ~~~q.mask = 0) :
    (ps.map f).Pairwise fun a b => a.mask &&& b.mask = 0 :=
  List.pairwise_map.2 (List.Pairwise.imp_of_mem (fun ha hb => apart_of_subset (hf _ ha) (hf _ hb)) h)

/-- Paths that lose slices stay apart. -/
theorem OwnSlices.map (h : OwnSlices ps) (hf : ∀ q ∈ ps, (f q).onSl &&& ~~~q.onSl = 0) : OwnSlices (ps.map f) :=
  List.pairwise_map.2 (List.Pairwise.imp_of_mem (fun ha hb => apart_of_subset (hf _ ha) (hf _ hb)) h)

/-- Paths that keep their names and some of their lanes stay apart. -/
theorem LanesApart.map (h : LanesApart ex bound ps) (hf : ∀ q ∈ ps, (f q).id = q.id ∧ (f q).mask &&& ~~~q.mask = 0 ∧ (f q).mask ≠ 0) :
    LanesApart ex bound (ps.map f) := by
  refine ⟨ownIds_map h.ids fun q hq => (hf q hq).1, lanes_map h.lanes fun q hq => (hf q hq).2.1, fun r hr => ?_⟩
  obtain ⟨q, hq, rfl⟩ := List.mem_map.1 hr
  obtain ⟨hid, hsub, hne⟩ := hf q hq
  obtain ⟨hlive, -, hlt⟩ := h.live q hq
  exact ⟨apart_of_subset hsub (subset_self ex) hlive, hne, by rw [hid]; exact hlt⟩

/-- Paths that keep their names and their lanes stay apart. -/
theorem LanesApart.map_same (h : LanesApart ex bound ps) (hf : ∀ q ∈ ps, (f q).id = q.id ∧ (f q).mask = q.mask) : LanesApart ex bound (ps.map f) :=
  h.map fun q hq => by
    obtain ⟨hid, hmask⟩ := hf q hq
    rw [hmask]
    exact ⟨hid, subset_self q.mask, (h.live q hq).2.1⟩

theorem LanesApart.mapPath (h : LanesApart ex bound ps) (id : Nat) (hf : ∀ q, (f q).id = q.id ∧ (f q).mask = q.mask) :
    LanesApart ex bound (mapPath ps id f) :=
  h.map_same fun q _ => by
    split
    · exact hf q
    · exact ⟨rfl, rfl⟩

theorem OwnSlices.mapPath (h : OwnSlices ps) (id : Nat) (hf : ∀ q, (f q).onSl &&& ~~~q.onSl = 0) : OwnSlices (mapPath ps id f) :=
  h.map fun q _ => by
    split
    · exact hf q
    · exact subset_self q.onSl

theorem masks_of_shapes (h : qs.map shape = ps.map shape) : qs.map (·.mask) = ps.map (·.mask) := by
  simpa [shape, Function.comp_def] using congrArg (List.map fun x => x.2.2.1) h

theorem LanesApart.of_shapes (h : LanesApart ex bound ps) (hs : qs.map shape = ps.map shape) : LanesApart ex bound qs := by
  have hlanes : (qs.map (·.mask)).Pairwise fun a b => a &&& b = 0 := masks_of_shapes hs ▸ List.pairwise_map.2 h.lanes
  refine ⟨h.ids.of_shapes hs, List.pairwise_map.1 hlanes, fun q hq => ?_⟩
  obtain ⟨q', hq', hsh⟩ := mem_of_shapes hs hq
  obtain ⟨hid, -, hmask, -⟩ := shape_eq hsh
  rw [← hid, ← hmask]
  exact h.live q' hq'

end Apart

-- Slices that pass from path to path

section Slices

variable {h : Option HandlerMode} {ps : List Path}

theorem OwnSlices.giveSlice (ho : OwnIds ps) (hs : OwnSlices ps) (i id : Nat) : OwnSlices (giveSlice ps i id) := by
  refine List.pairwise_map.2 (List.Pairwise.imp (fun {a b} hab => ?_) (List.Pairwise.and ho hs))
  obtain ⟨hne, hab⟩ := hab
  by_cases ha : a.id = id
  · rw [if_pos ha, if_neg fun hb => hne (ha.trans hb.symm), BitVec.and_comm]
    exact slices_apart (by rw [BitVec.and_comm]; exact hab) _
  · rw [if_neg ha]
    split
    · exact slices_apart hab _
    · exact apart_of_subset (subset_inter ..) (subset_inter ..) hab

theorem OwnSlices.fillSlice (ho : OwnIds ps) (hs : OwnSlices ps) (i : Nat) : OwnSlices (fillSlice h ps i) := by
  unfold Machine.fillSlice
  split
  · exact hs
  · split
    · exact hs
    · exact hs.giveSlice ho i _

theorem OwnSlices.fillSlices (ho : OwnIds ps) (hs : OwnSlices ps) : OwnSlices (fillSlices h ps) := by
  have next : ∀ {qs : List Path} (i : Nat), OwnIds qs ∧ OwnSlices qs → OwnIds (Machine.fillSlice h qs i) ∧ OwnSlices (Machine.fillSlice h qs i) := fun i hq =>
    ⟨hq.1.of_shapes (fillSlice_shapes ..), hq.2.fillSlice hq.1 i⟩
  exact (next 3 (next 2 (next 1 (next 0 ⟨ho, hs⟩)))).2

theorem OwnSlices.unblock (now n : Nat) (ho : OwnIds ps) (hs : OwnSlices ps) : OwnSlices (unblock h now n ps) := by
  induction n generalizing ps with
  | zero => exact hs
  | succ n ih =>
    unfold Machine.unblock
    split
    · exact hs
    · rename_i y _
      have hom := ho.of_shapes (mapPath_shapes (f := fun q => { q with onSl := 0, since := now }) (fun _ => rfl) ps y.id)
      have hsm : OwnSlices (Machine.mapPath ps y.id fun q => { q with onSl := 0, since := now }) := hs.mapPath y.id fun q => subset_zero q.onSl
      exact ih (hom.of_shapes (fillSlices_shapes ..)) (hsm.fillSlices hom)

theorem OwnSlices.shared (ho : OwnIds ps) (hs : OwnSlices ps) (now : Nat) : OwnSlices (shared h now ps) := by
  rw [Machine.shared]
  exact (hs.fillSlices ho).unblock now _ (ho.of_shapes (fillSlices_shapes ..))

theorem OwnSlices.handOver (ho : OwnIds ps) (hs : OwnSlices ps) (id i : Nat) : OwnSlices (handOver h id ps i) := by
  unfold Machine.handOver
  split
  · exact hs
  · split
    · exact hs
    · split
      · exact hs
      · exact hs.giveSlice ho i _

theorem OwnSlices.handedOver (ho : OwnIds ps) (hs : OwnSlices ps) (id : Nat) : OwnSlices (handedOver h id ps) := by
  have next : ∀ {qs : List Path} (i : Nat), OwnIds qs ∧ OwnSlices qs → OwnIds (Machine.handOver h id qs i) ∧ OwnSlices (Machine.handOver h id qs i) := fun i hq =>
    ⟨hq.1.of_shapes (handOver_shapes ..), hq.2.handOver hq.1 id i⟩
  exact (next 3 (next 2 (next 1 (next 0 ⟨ho, hs⟩)))).2

end Slices

-- An entry that is popped

/-- The path that the paths stopped at entry `e` become: it keeps the name of the first of them. -/
def mergedPath (e : StackEntry) (exited : LaneMask) (now id : Nat) : Path :=
  { id := id, pc := e.rejoin, mask := e.members &&& ~~~exited, st := .ready, since := now, onSl := slicesOf (e.members &&& ~~~exited) }

/-- The paths that have not stopped at the entry. -/
def leftOut (got ps : List Path) : List Path := ps.filter fun p => !(got.any fun q => q.id == p.id)

/-- The paths once entry `e`, inside which are `inner` and outside which `outer`, is popped (R109). -/
def poppedPaths (exited : LaneMask) (now : Nat) (inner outer : List StackEntry) (e : StackEntry) (ps : List Path) : List Path :=
  match arrivedAt inner e ps with
  | [] => leftOut [] ps
  | q :: got => stopAtRejoin (inner ++ outer) (mergedPath e exited now q.id) ::
      (leftOut (q :: got) ps).map (displace (slicesOf (e.members &&& ~~~exited)) now)

/-- One entry is popped, and the rest is looked at again. -/
theorem popEntries_pop {h : Option HandlerMode} {exited : LaneMask} {ps : List Path} {st inner outer : List StackEntry} {e : StackEntry}
    (hc : firstComplete exited ps [] (openEntries h st) = some (inner, e, outer)) (now n : Nat) :
    popEntries h exited now (n + 1) (ps, st) =
      popEntries h exited now n (poppedPaths exited now inner outer e ps, inner ++ outer ++ st.drop (openEntries h st).length) := by
  rw [popEntries]
  simp only [hc, poppedPaths]
  cases arrivedAt inner e ps <;> rfl

theorem popEntries_none {h : Option HandlerMode} {exited : LaneMask} {ps : List Path} {st : List StackEntry}
    (hc : firstComplete exited ps [] (openEntries h st) = none) (now n : Nat) : popEntries h exited now (n + 1) (ps, st) = (ps, st) := by
  rw [popEntries]
  simp only [hc]

theorem firstComplete_complete {exited : LaneMask} {ps : List Path} {es inner i r : List StackEntry} {e : StackEntry}
    (h : firstComplete exited ps inner es = some (i, e, r)) : entryComplete i e exited ps = true := by
  induction es generalizing inner with
  | nil => cases h
  | cons x es ih =>
    unfold firstComplete at h
    split at h
    · cases h
      assumption
    · exact ih h

/-- What popping an entry keeps of a list of paths, popping keeps. -/
theorem popEntries_keeps {P : List Path → Prop} {h : Option HandlerMode} {exited : LaneMask} {now : Nat}
    (hP : ∀ inner outer e ps, entryComplete inner e exited ps = true → P ps → P (poppedPaths exited now inner outer e ps)) (n : Nat) {ps : List Path}
    (st : List StackEntry) (hps : P ps) : P (popEntries h exited now n (ps, st)).1 := by
  induction n generalizing ps st with
  | zero => exact hps
  | succ n ih =>
    cases hc : firstComplete exited ps [] (openEntries h st) with
    | none => rw [popEntries_none hc]; exact hps
    | some x =>
      obtain ⟨inner, e, outer⟩ := x
      rw [popEntries_pop hc]
      exact ih _ (hP _ _ _ _ (firstComplete_complete hc) hps)

theorem mem_leftOut {got ps : List Path} {q : Path} : q ∈ leftOut got ps ↔ q ∈ ps ∧ ∀ x ∈ got, x.id ≠ q.id := by
  simp [leftOut]

/-- The paths once an entry is popped have the lanes put together there, or the lanes of a path as it was. -/
theorem mem_poppedPaths {exited : LaneMask} {now : Nat} {inner outer : List StackEntry} {e : StackEntry} {ps : List Path} {q : Path}
    (h : q ∈ poppedPaths exited now inner outer e ps) : q.mask = e.members &&& ~~~exited ∨ ∃ q' ∈ ps, q.mask = q'.mask := by
  unfold poppedPaths at h
  split at h
  · exact .inr ⟨q, (mem_leftOut.1 h).1, rfl⟩
  · rcases List.mem_cons.1 h with rfl | h
    · exact .inl (stopAtRejoin_keeps ..).2.2
    · obtain ⟨q', hq', rfl⟩ := List.mem_map.1 h
      exact .inr ⟨q', (mem_leftOut.1 hq').1, (shape_eq (displace_shape ..)).2.2.1⟩

theorem stopAtRejoin_slices (es : List StackEntry) (q : Path) : (stopAtRejoin es q).onSl &&& ~~~q.onSl = 0 := by
  unfold stopAtRejoin
  split
  · exact subset_zero q.onSl
  · exact subset_self q.onSl

/-- A path from which slices are taken has none of them left, and no new one. -/
theorem displace_slices (sl : BitVec 4) (now : Nat) (q : Path) : sl &&& (displace sl now q).onSl = 0 ∧ (displace sl now q).onSl &&& ~~~q.onSl = 0 := by
  unfold displace
  split
  · rename_i h
    exact ⟨by rw [BitVec.and_comm]; exact h, subset_self q.onSl⟩
  · exact ⟨by rw [BitVec.and_comm]; exact without_apart q.onSl sl, subset_inter ..⟩

theorem LanesApart.filter {ex : LaneMask} {bound : Nat} {ps : List Path} (h : LanesApart ex bound ps) (keep : Path → Bool) : LanesApart ex bound (ps.filter keep) :=
  ⟨List.Pairwise.filter keep h.ids, h.lanes.filter keep, fun q hq => h.live q (List.mem_filter.1 hq).1⟩

section Pop

variable {ex : LaneMask} {bound now : Nat} {inner outer : List StackEntry} {e : StackEntry} {ps : List Path}

/-- The path put together at a complete entry has lanes of paths that arrived alone. -/
theorem merged_apart (hc : entryComplete inner e ex ps = true) (h : LanesApart ex bound ps) {q : Path} (hq : q ∈ leftOut (arrivedAt inner e ps) ps) :
    (e.members &&& ~~~ex) &&& q.mask = 0 := by
  obtain ⟨hps, hnot⟩ := mem_leftOut.1 hq
  refine apart_of_lanes fun l h64 hm hl => ?_
  obtain ⟨hm, hx⟩ := and_lane.1 hm
  rcases entryComplete_iff.1 hc l h64 hm with hexit | ⟨a, ha, hal⟩
  · rw [(not_lane h64).1 hx] at hexit
    cases hexit
  · exact hnot a ha (congrArg Path.id (eq_of_lane h.lanes (mem_arrivedAt.1 ha).1 hps hal hl))

/-- A path that has arrived has lanes of the entry that have not exited. -/
theorem merged_live (h : LanesApart ex bound ps) {q : Path} (hq : q ∈ arrivedAt inner e ps) : e.members &&& ~~~ex ≠ 0 := by
  obtain ⟨hps, -, -, hsub, -⟩ := mem_arrivedAt.1 hq
  obtain ⟨hlive, hne, -⟩ := h.live q hps
  obtain ⟨l, h64, hl⟩ := exists_lane hne
  refine ne_zero_of_lane (and_lane.2 ⟨lane_of_subset hsub h64 hl, (not_lane h64).2 ?_⟩)
  by_contra hx
  exact ne_zero_of_lane (and_lane.2 ⟨hl, by simpa using hx⟩) hlive

/-- Popping a complete entry keeps the paths apart. -/
theorem poppedPaths_apart (hc : entryComplete inner e ex ps = true) (h : LanesApart ex bound ps ∧ OwnSlices ps) :
    LanesApart ex bound (poppedPaths ex now inner outer e ps) ∧ OwnSlices (poppedPaths ex now inner outer e ps) := by
  obtain ⟨ha, hs⟩ := h
  unfold poppedPaths
  split
  · exact ⟨ha.filter _, hs.filter _⟩
  · rename_i q got hgot
    have hq : q ∈ arrivedAt inner e ps := hgot ▸ List.mem_cons_self
    rw [← hgot]
    have hleft : LanesApart ex bound ((leftOut (arrivedAt inner e ps) ps).map (displace (slicesOf (e.members &&& ~~~ex)) now)) :=
      (ha.filter _).of_shapes (map_shapes (displace_shape _ _) _)
    obtain ⟨hid, -, hmask⟩ := stopAtRejoin_keeps (inner ++ outer) (mergedPath e ex now q.id)
    refine ⟨⟨List.pairwise_cons.2 ⟨fun r hr => ?ids, hleft.ids⟩, List.pairwise_cons.2 ⟨fun r hr => ?lanes, hleft.lanes⟩, List.forall_mem_cons.2 ⟨?live, hleft.live⟩⟩,
      List.pairwise_cons.2 ⟨fun r hr => ?slices, OwnSlices.map (List.Pairwise.filter _ hs) fun r _ => (displace_slices ..).2⟩⟩
    case ids =>
      obtain ⟨r0, hr0, rfl⟩ := List.mem_map.1 hr
      rw [hid, (shape_eq (displace_shape ..)).1]
      exact (mem_leftOut.1 hr0).2 q hq
    case lanes =>
      obtain ⟨r0, hr0, rfl⟩ := List.mem_map.1 hr
      rw [hmask, (shape_eq (displace_shape ..)).2.2.1]
      exact merged_apart hc ha hr0
    case live =>
      rw [hid, hmask]
      exact ⟨without_apart .., merged_live ha hq, (ha.live q (mem_arrivedAt.1 hq).1).2.2⟩
    case slices =>
      obtain ⟨r0, -, rfl⟩ := List.mem_map.1 hr
      exact apart_of_subset (stopAtRejoin_slices ..) (subset_self _) (displace_slices ..).1

end Pop

-- A gang at rest

theorem settle_paths_eq_shared (g : Gang) (now : Nat) : (settle g now).paths =
    shared g.handler now (popEntries g.handler g.exited now (g.stack.length + 1) (g.paths.map (stopAtRejoin (entries g)), g.stack)).1 := by
  unfold settle settled
  dsimp only
  rw [show g.paths.map (stopAtRejoin (openEntries g.handler g.stack)) = g.paths.map (stopAtRejoin (entries g)) from rfl, shared]

/-- A gang that comes to rest keeps its paths apart. -/
theorem pathsOk_settle {g : Gang} (h : PathsOk g) (now : Nat) : PathsOk (settle g now) := by
  obtain ⟨ha, hs⟩ := pathsOk_iff.1 h
  have hstop : LanesApart g.exited g.nextPath (g.paths.map (stopAtRejoin (entries g))) ∧ OwnSlices (g.paths.map (stopAtRejoin (entries g))) :=
    ⟨ha.map_same fun q _ => ⟨(stopAtRejoin_keeps ..).1, (stopAtRejoin_keeps ..).2.2⟩, hs.map fun q _ => stopAtRejoin_slices ..⟩
  obtain ⟨ha, hs⟩ := popEntries_keeps (P := fun ps => LanesApart g.exited g.nextPath ps ∧ OwnSlices ps) (h := g.handler) (now := now)
    (fun _ _ _ _ => poppedPaths_apart) (g.stack.length + 1) g.stack hstop
  refine pathsOk_iff.2 ?_
  rw [settle_exited, settle_nextPath, settle_paths_eq_shared]
  exact ⟨ha.of_shapes (shared_shapes ..), hs.shared ha.ids now⟩

/-- Lanes that have exited, and that no path has, are in no path of the gang at rest. -/
theorem settle_clear {g : Gang} {m : LaneMask} (hm : m &&& ~~~g.exited = 0) (h : ∀ q ∈ g.paths, q.mask &&& m = 0) (now : Nat) :
    ∀ q ∈ (settle g now).paths, q.mask &&& m = 0 := by
  have hstop : ∀ q ∈ g.paths.map (stopAtRejoin (entries g)), q.mask &&& m = 0 := fun q hq => by
    obtain ⟨q0, hq0, rfl⟩ := List.mem_map.1 hq
    rw [(stopAtRejoin_keeps ..).2.2]
    exact h q0 hq0
  have hpop := popEntries_keeps (P := fun ps => ∀ q ∈ ps, q.mask &&& m = 0) (h := g.handler) (exited := g.exited) (now := now) (fun inner outer e ps _ hps q hq => by
    rcases mem_poppedPaths hq with hmask | ⟨q', hq', hmask⟩
    · rw [hmask]
      exact apart_of_subset (subset_self _) hm (without_apart ..)
    · rw [hmask]
      exact hps q' hq') (g.stack.length + 1) g.stack hstop
  intro q hq
  rw [settle_paths_eq_shared] at hq
  obtain ⟨q', hq', hs⟩ := mem_of_shapes (shared_shapes ..) hq
  rw [← (shape_eq hs).2.2.1]
  exact hpop q' hq'

end Sys2Proof.Machine
end

section
/-! PROOFS. Every change of a gang's paths keeps them apart: moving, holding, waking, handing over, splitting, exiting, entering and leaving the handler
(R109, R110, R118, R119, R363, R374). -/

namespace Sys2Proof.Machine
open Sys2Proof.Claim

section Changes

variable {g : Gang} {id : Nat}

/-- A change of the paths that keeps names and lanes and takes no slice, then rest. -/
theorem pathsOk_settle_map (h : PathsOk g) {f : Path → Path} (hf : ∀ q, (f q).id = q.id ∧ (f q).mask = q.mask ∧ (f q).onSl &&& ~~~q.onSl = 0) (now : Nat) :
    PathsOk (settle { g with paths := g.paths.map f } now) := by
  obtain ⟨ha, hs⟩ := pathsOk_iff.1 h
  exact pathsOk_settle (pathsOk_iff.2 ⟨ha.map_same fun q _ => ⟨(hf q).1, (hf q).2.1⟩, hs.map fun q _ => (hf q).2.2⟩) now

/-- The same for one path. -/
theorem pathsOk_settle_mapPath (h : PathsOk g) (id : Nat) {f : Path → Path} (hf : ∀ q, (f q).id = q.id ∧ (f q).mask = q.mask ∧ (f q).onSl &&& ~~~q.onSl = 0)
    (now : Nat) : PathsOk (settle { g with paths := mapPath g.paths id f } now) :=
  pathsOk_settle_map h (fun q => by
    split
    · exact hf q
    · exact ⟨rfl, rfl, subset_self q.onSl⟩) now

theorem pathsOk_advance (h : PathsOk g) (id : Nat) (n : DWord) (now : Nat) : PathsOk (advance g id n now) :=
  pathsOk_settle_mapPath h id (f := fun p => { p with pc := p.pc + n }) (fun q => ⟨rfl, rfl, subset_self q.onSl⟩) now

theorem pathsOk_holdPath (h : PathsOk g) (id : Nat) (n : DWord) (st : PathSt) (now : Nat) : PathsOk (holdPath g id n st now) :=
  pathsOk_settle_mapPath h id (f := fun p => { p with pc := p.pc + n, st := st, onSl := 0, since := now }) (fun q => ⟨rfl, rfl, subset_zero q.onSl⟩) now

theorem pathsOk_wakePaths (h : PathsOk g) (held : Path → Bool) (now : Nat) : PathsOk (wakePaths g held now) :=
  pathsOk_settle_map h (fun q => by split <;> exact ⟨rfl, rfl, subset_self q.onSl⟩) now

theorem pathsOk_leaveHandler (h : PathsOk g) (id : Nat) (pc : DWord) (now : Nat) : PathsOk (leaveHandler g id pc now) :=
  pathsOk_settle_mapPath (g := { g with handler := none }) ⟨h.ids, h.lanes, h.slices, h.live⟩ id (f := fun p => { p with pc := pc })
    (fun q => ⟨rfl, rfl, subset_self q.onSl⟩) now

theorem pathsOk_yieldSlices (h : PathsOk g) (id now : Nat) : PathsOk (yieldSlices g id now) := by
  obtain ⟨ha, hs⟩ := pathsOk_iff.1 h
  obtain ⟨ps, hyield, hps⟩ := yieldSlices_settles g id now
  have hslices : OwnSlices ps := by
    rcases hps with rfl | rfl
    · exact hs.handedOver ha.ids id
    · exact (hs.handedOver ha.ids id).mapPath id fun q => subset_self q.onSl
  have hlanes : LanesApart g.exited g.nextPath ps := ha.of_shapes (handed_shapes hps)
  rw [hyield]
  exact pathsOk_settle (pathsOk_iff.2 ⟨hlanes, hslices⟩) now

/-- The handler path holds all the slices, and the others none (R363, R364). -/
theorem pathsOk_enterHandlerPath (h : PathsOk g) (id : Nat) (pc : DWord) (now : Nat) : PathsOk (enterHandlerPath g id pc now) := by
  obtain ⟨ha, -⟩ := pathsOk_iff.1 h
  unfold Machine.enterHandlerPath
  split
  · exact h
  · refine pathsOk_iff.2 ⟨ha.map_same fun q _ => by split <;> exact ⟨rfl, rfl⟩, List.pairwise_map.2 (ha.ids.imp fun {a b} hne => ?_)⟩
    by_cases hb : a.id = id
    · rw [if_neg fun h : b.id = id => hne (hb.trans h.symm)]
      exact BitVec.and_zero
    · rw [if_neg hb]
      exact zero_apart _

/-- The lanes that end leave their path (R110). -/
def exitPath (m : LaneMask) (next : DWord) (p : Path) : Path :=
  { p with mask := p.mask &&& ~~~m, pc := next, onSl := p.onSl &&& slicesOf (p.mask &&& ~~~m) }

/-- The paths of a gang once lanes have ended, before it comes to rest. -/
def exitPaths (ps : List Path) (id : Nat) (m : LaneMask) (next : DWord) : List Path := (mapPath ps id (exitPath m next)).filter fun p => p.mask != 0

theorem exitLanes_eq (g : Gang) (id : Nat) (m : LaneMask) (next : DWord) (now : Nat) : exitLanes g id m next now =
    settle { g with paths := exitPaths g.paths id m next, exited := g.exited ||| m, handler := handlerAfter g.handler (g.exited ||| m) } now := rfl

theorem mem_exitPaths {ps : List Path} {m : LaneMask} {next : DWord} {r : Path} (h : r ∈ exitPaths ps id m next) :
    r.mask ≠ 0 ∧ ((∃ q ∈ ps, q.id = id ∧ r = exitPath m next q) ∨ r ∈ ps ∧ r.id ≠ id) := by
  obtain ⟨hr, hne⟩ := List.mem_filter.1 h
  obtain ⟨q, hq, rfl⟩ := List.mem_map.1 hr
  refine ⟨by simpa using hne, ?_⟩
  split
  · exact .inl ⟨q, hq, ‹_›, rfl⟩
  · exact .inr ⟨hq, ‹_›⟩

/-- Lanes of path `id` alone that end are in no path. -/
theorem exitPaths_clear {ps : List Path} {p : Path} {m : LaneMask} (hl : ps.Pairwise fun a b => a.mask &&& b.mask = 0) (hp : p ∈ ps)
    (hm : m &&& ~~~p.mask = 0) (next : DWord) : ∀ q ∈ exitPaths ps p.id m next, q.mask &&& m = 0 := by
  intro r hr
  rcases (mem_exitPaths hr).2 with ⟨q, -, -, rfl⟩ | ⟨hr, hid⟩
  · exact without_apart q.mask m
  · refine apart_of_subset (subset_self r.mask) hm (apart_of_lanes fun l _ hrl hpl => hid ?_)
    rw [eq_of_lane hl hr hp hrl hpl]

theorem or_apart {n : Nat} {a b c : BitVec n} (hb : a &&& b = 0) (hc : a &&& c = 0) : a &&& (b ||| c) = 0 := by
  refine BitVec.eq_of_getLsbD_eq fun j hj => ?_
  have hb := congrArg (BitVec.getLsbD · j) hb
  have hc := congrArg (BitVec.getLsbD · j) hc
  simp only [BitVec.getLsbD_and, BitVec.getLsbD_or, BitVec.ofNat_eq_ofNat, BitVec.getLsbD_zero] at hb hc ⊢
  grind

theorem pathsOk_exitLanes (h : PathsOk g) {p : Path} {m : LaneMask} (hp : findPath g.paths id = some p) (hm : m &&& ~~~p.mask = 0) (next : DWord) (now : Nat) :
    PathsOk (exitLanes g id m next now) := by
  obtain ⟨ha, hs⟩ := pathsOk_iff.1 h
  obtain rfl := findPath_id hp
  have hids : OwnIds (exitPaths g.paths p.id m next) := List.Pairwise.filter _ (ownIds_map ha.ids fun q _ => by split <;> rfl)
  have hlanes : (mapPath g.paths p.id (exitPath m next)).Pairwise fun a b => a.mask &&& b.mask = 0 := lanes_map ha.lanes fun q _ => by
    split
    · exact subset_inter ..
    · exact subset_self q.mask
  have hslices : OwnSlices (exitPaths g.paths p.id m next) := List.Pairwise.filter _ (hs.mapPath p.id fun q => subset_inter ..)
  have hlive : ∀ r ∈ exitPaths g.paths p.id m next, r.mask &&& (g.exited ||| m) = 0 ∧ r.mask ≠ 0 ∧ r.id < g.nextPath := by
    intro r hr
    obtain ⟨hne, hfrom⟩ := mem_exitPaths hr
    have hclear := exitPaths_clear ha.lanes (mem_of_findPath hp) hm next r hr
    rcases hfrom with ⟨q, hq, -, rfl⟩ | ⟨hq, -⟩
    · obtain ⟨hx, -, hlt⟩ := ha.live q hq
      exact ⟨or_apart (apart_of_subset (subset_inter ..) (subset_self _) hx) hclear, hne, hlt⟩
    · obtain ⟨hx, -, hlt⟩ := ha.live r hq
      exact ⟨or_apart hx hclear, hne, hlt⟩
  rw [exitLanes_eq]
  exact pathsOk_settle (pathsOk_iff.2 ⟨⟨hids, hlanes.filter _, hlive⟩, hslices⟩) now

/-- The T side of a split path (R109). -/
def takenSide (t : LaneMask) (tgt : DWord) (p : Path) : Path := { p with pc := tgt, mask := t, onSl := p.onSl &&& slicesOf t }

/-- The F side of a split path waits under a name of its own (R109, R119). -/
def waitingSide (g : Gang) (f : LaneMask) (next : DWord) (now : Nat) : Path := { id := g.nextPath, pc := next, mask := f, st := .ready, since := now, onSl := 0 }

theorem splitPath_eq (g : Gang) (id : Nat) (t f : LaneMask) (tgt next rejoin : DWord) (now : Nat) : splitPath g id t f tgt next rejoin now =
    { g with paths := mapPath g.paths id (takenSide t tgt) ++ [waitingSide g f next now], stack := ⟨rejoin, t ||| f⟩ :: g.stack, nextPath := g.nextPath + 1 } :=
  rfl

theorem subset_or_left {n : Nat} (a b : BitVec n) : a &&& ~~~(a ||| b) = 0 := by
  rw [BitVec.not_or, ← BitVec.and_assoc, BitVec.and_not_self]
  exact BitVec.zero_and

theorem subset_or_right {n : Nat} (a b : BitVec n) : b &&& ~~~(a ||| b) = 0 := by
  rw [BitVec.or_comm]
  exact subset_or_left b a

theorem pathsOk_splitPath (h : PathsOk g) {p : Path} {t f : LaneMask} (hp : findPath g.paths id = some p) (htf : t &&& f = 0) (hall : t ||| f = p.mask) (ht : t ≠ 0)
    (hf : f ≠ 0) (tgt next rejoin : DWord) (now : Nat) : PathsOk (splitPath g id t f tgt next rejoin now) := by
  obtain ⟨ha, hs⟩ := pathsOk_iff.1 h
  obtain rfl := findPath_id hp
  have hpm := mem_of_findPath hp
  obtain ⟨hplive, -, -⟩ := ha.live p hpm
  have htp : t &&& ~~~p.mask = 0 := hall ▸ subset_or_left t f
  have hfp : f &&& ~~~p.mask = 0 := hall ▸ subset_or_right t f
  have htaken : LanesApart g.exited g.nextPath (mapPath g.paths p.id (takenSide t tgt)) := ha.map fun q hq => by
    split
    · obtain rfl := ha.ids.eq_of_id hq hpm ‹_›
      exact ⟨rfl, htp, ht⟩
    · exact ⟨rfl, subset_self q.mask, (ha.live q hq).2.1⟩
  have hslices : OwnSlices (mapPath g.paths p.id (takenSide t tgt)) := hs.mapPath p.id fun q => subset_inter ..
  have hwait : ∀ r ∈ mapPath g.paths p.id (takenSide t tgt), r.mask &&& f = 0 := fun r hr => by
    obtain ⟨q, hq, rfl⟩ := List.mem_map.1 hr
    split
    · exact htf
    · refine apart_of_subset (subset_self q.mask) hfp (apart_of_lanes fun l _ hql hpl => ?_)
      exact absurd (congrArg Path.id (eq_of_lane ha.lanes hq hpm hql hpl)) ‹_›
  rw [splitPath_eq]
  refine ⟨List.pairwise_append.2 ⟨htaken.ids, List.pairwise_singleton .., fun r hr w hw => ?ids⟩,
    List.pairwise_append.2 ⟨htaken.lanes, List.pairwise_singleton .., fun r hr w hw => ?lanes⟩,
    List.pairwise_append.2 ⟨hslices, List.pairwise_singleton .., fun r hr w hw => ?slices⟩, fun r hr => ?live⟩
  case ids =>
    obtain rfl := List.mem_singleton.1 hw
    exact (htaken.live r hr).2.2.ne
  case lanes =>
    obtain rfl := List.mem_singleton.1 hw
    exact hwait r hr
  case slices =>
    obtain rfl := List.mem_singleton.1 hw
    exact BitVec.and_zero
  case live =>
    rcases List.mem_append.1 hr with hr | hr
    · obtain ⟨hx, hne, hlt⟩ := htaken.live r hr
      exact ⟨hx, hne, hlt.trans (Nat.lt_succ_self _)⟩
    · obtain rfl := List.mem_singleton.1 hr
      exact ⟨apart_of_subset hfp (subset_self g.exited) hplive, hf, Nat.lt_succ_self _⟩

end Changes

end Sys2Proof.Machine
end

section
/-! PROOFS. `brd`: a path splits in two, whatever entries are on the stack (R109, R118). -/

namespace Sys2Proof.Machine
open Sys2Proof.Claim

/-- A transfer, forward or backward: the monitor may have counted and slices may have passed on, and the gang comes to rest; memory stays. -/
theorem afterTransfer_settles (s : State) (gi : Nat) (g : Gang) (id : Nat) (pc tgt : DWord) : ∃ ps hd ct,
    (afterTransfer s gi g id pc tgt).gang gi = some (settle { g with paths := ps, head := hd, count := ct } s.seq) ∧
    ps.map shape = g.paths.map shape ∧ (afterTransfer s gi g id pc tgt).hbm = s.hbm := by
  unfold afterTransfer
  by_cases hlt : pc.toNat < tgt.toNat
  · rw [if_pos hlt]
    exact ⟨g.paths, g.head, g.count, gang_putGang_same .., rfl, rfl⟩
  · rw [if_neg hlt]
    obtain ⟨hd, ct, hmon, -⟩ := monitorCount_counts g tgt g.paths
    have hmon : monitorCount g tgt = { g with head := hd, count := ct } := hmon
    dsimp only
    rw [hmon]
    obtain ⟨ps, hyield, hps⟩ := yieldSlices_settles { g with head := hd, count := ct } id s.seq
    refine ⟨ps, hd, ct, ?_, handed_shapes hps, ?_⟩
    · rw [gang_putGang_same, hyield]
    · split <;> rfl

-- The lanes and the entries of a path that splits

theorem guardLanes_subset (g : Gang) (p : Path) (gd : Guard) : guardLanes g p gd &&& ~~~p.mask = 0 := subset_inter ..

/-- The lanes with a true guard and the lanes without are the lanes of the path. -/
theorem sides_join {t m : LaneMask} (h : t &&& ~~~m = 0) : t ||| m &&& ~~~t = m := by
  refine BitVec.eq_of_getLsbD_eq fun j hj => ?_
  have h := congrArg (BitVec.getLsbD · j) h
  simp only [BitVec.getLsbD_and, BitVec.getLsbD_or, BitVec.getLsbD_not, hj, BitVec.ofNat_eq_ofNat, BitVec.getLsbD_zero] at h ⊢
  grind

/-- An entry that is pushed is open: a path may stop there, in handler mode too (R364). -/
theorem openEntries_push {h : Option HandlerMode} {st : List StackEntry} (hd : ∀ hm, h = some hm → hm.depth ≤ st.length) (e : StackEntry) :
    openEntries h (e :: st) = e :: openEntries h st := by
  cases h with
  | none => rfl
  | some hm =>
    have hd := hd hm rfl
    rw [openEntries, openEntries, List.length_cons, Nat.succ_sub hd, List.take_succ_cons]

theorem innermost_inside {e x : StackEntry} {es : List StackEntry} {m : LaneMask} (hne : m ≠ 0) (hm : m &&& ~~~e.members = 0)
    (h : innermost (e :: es) m = some x) : x = e := by
  obtain ⟨l, h64, hl⟩ := exists_lane hne
  have hin : e.members &&& m ≠ 0 := ne_zero_of_lane (and_lane.2 ⟨lane_of_subset hm h64 hl, hl⟩)
  rw [innermost, List.find?_cons_of_pos (by simpa using hin)] at h
  exact (Option.some.inj h).symm

theorem innermost_outside {e : StackEntry} {es : List StackEntry} {m : LaneMask} (h : e.members &&& m = 0) : innermost (e :: es) m = innermost es m :=
  List.find?_cons_of_neg (by simpa using h)

section Split

variable {g : Gang} {p : Path} {t f : LaneMask} {tgt next : DWord} {now : Nat}

/-- The paths once path `p` has split (R109). -/
def splitPaths (g : Gang) (p : Path) (t f : LaneMask) (tgt next : DWord) (now : Nat) : List Path :=
  mapPath g.paths p.id (takenSide t tgt) ++ [waitingSide g f next now]

theorem splitPaths_ownIds (hc : Current g p) : OwnIds (splitPaths g p t f tgt next now) := by
  refine List.pairwise_append.2 ⟨ownIds_map hc.ids fun q _ => by split <;> rfl, List.pairwise_singleton .., fun r hr w hw => ?_⟩
  obtain rfl := List.mem_singleton.1 hw
  obtain ⟨q, hq, rfl⟩ := List.mem_map.1 hr
  have hlt := hc.fresh q hq
  split
  · exact hlt.ne
  · exact hlt.ne

/-- A side of the split path: ready, with lanes of the path, at the address of its side. -/
structure SideOf (p : Path) (tgt next : DWord) (r : Path) : Prop where
  inside : r.mask &&& ~~~p.mask = 0
  some_lane : r.mask ≠ 0
  ready : r.st = .ready
  place : r.pc = tgt ∨ r.pc = next

/-- Each path comes from one that was there, and has no lane that it had not: it is a side of the split path, or another path as it was. -/
theorem mem_splitPaths (hc : Current g p) (htp : t &&& ~~~p.mask = 0) (hfp : f &&& ~~~p.mask = 0) (ht : t ≠ 0) (hf : f ≠ 0) {ps : List Path}
    (hps : ps.map shape = (splitPaths g p t f tgt next now).map shape) {r : Path} (hr : r ∈ ps) :
    SideOf p tgt next r ∨ ∃ q ∈ g.paths, q.id ≠ p.id ∧ shape r = shape q := by
  obtain ⟨r', hr', hs⟩ := mem_of_shapes hps hr
  obtain ⟨-, hpc, hmask, hst⟩ := shape_eq hs
  rcases List.mem_append.1 hr' with hr' | hr'
  · obtain ⟨q, hq, rfl⟩ := List.mem_map.1 hr'
    by_cases hid : q.id = p.id
    · rw [if_pos hid] at hpc hmask hst
      obtain rfl := OwnIds.eq_of_id hc.ids hq (current_mem hc) hid
      exact .inl ⟨hmask ▸ htp, hmask ▸ ht, hst ▸ hc.ready, .inl hpc.symm⟩
    · rw [if_neg hid] at hs
      exact .inr ⟨q, hq, hid, hs.symm⟩
  · obtain rfl := List.mem_singleton.1 hr'
    exact .inl ⟨hmask ▸ hfp, hmask ▸ hf, hst.symm, .inr hpc.symm⟩

/-- Two paths of a gang that share a lane are one path. -/
theorem other_apart (hc : Current g p) {q : Path} (hq : q ∈ g.paths) (hid : q.id ≠ p.id) : p.mask &&& q.mask = 0 :=
  apart_of_lanes fun _ _ hp hl => hid (congrArg Path.id (eq_of_lane hc.lanes hq (current_mem hc) hl hp))

/-- What the split leaves of an entry is still out: a path that has lanes of it and has not come to its rejoin, or the split path. -/
theorem split_laneOut (hc : Current g p) {ps : List Path} {e : StackEntry}
    (hfrom : ∀ r ∈ ps, SideOf p tgt next r ∨ ∃ q ∈ g.paths, q.id ≠ p.id ∧ shape r = shape q) {q : Path} (hq : q ∈ g.paths)
    (hn : q.mask &&& e.members &&& ~~~g.exited ≠ 0) (hnot : q.st ≠ .atRejoin ∨ q.pc ≠ e.rejoin) : LaneOut g.exited ps e := by
  obtain ⟨l, h64, hl⟩ := exists_lane hn
  obtain ⟨hl, hx⟩ := and_lane.1 hl
  obtain ⟨hql, hel⟩ := and_lane.1 hl
  refine ⟨l, h64, hel, (not_lane h64).1 hx, fun r hr hrl ⟨hrst, hrpc⟩ => ?_⟩
  rcases hfrom r hr with hside | ⟨q', hq', -, hs⟩
  · exact PathSt.noConfusion (hside.ready.symm.trans hrst)
  · obtain ⟨-, hpc, hmask, hst⟩ := shape_eq hs
    obtain rfl := eq_of_lane hc.lanes hq hq' hql (hmask ▸ hrl)
    exact hnot.elim (fun h => h (hst.symm.trans hrst)) fun h => h (hpc.symm.trans hrpc)

/-- A gang whose path has split comes to rest without a stop and without a pop. -/
theorem settle_split (hc : Current g p) (ho : OthersRest g p) (hout : ∀ e ∈ entries g, StillOut g g.paths e)
    (hdepth : ∀ hm, g.handler = some hm → hm.depth ≤ g.stack.length) {rejoin : DWord} (hrt : rejoin ≠ tgt) (hrn : rejoin ≠ next) {g2 : Gang}
    (hh : g2.handler = g.handler) (hx : g2.exited = g.exited) (hstack : g2.stack = ⟨rejoin, p.mask⟩ :: g.stack)
    (hfrom : ∀ r ∈ g2.paths, SideOf p tgt next r ∨ ∃ q ∈ g.paths, q.id ≠ p.id ∧ shape r = shape q) :
    settle g2 now = { g2 with paths := shared g2.handler now g2.paths } := by
  have hentries : entries g2 = ⟨rejoin, p.mask⟩ :: entries g := by
    rw [entries, entries, hh, hstack, openEntries_push hdepth]
  have hstop : g2.paths.map (stopAtRejoin (entries g2)) = g2.paths := by
    refine (List.map_congr_left fun r hr => stopAtRejoin_rests fun hready e he => ?_).trans (List.map_id _)
    rw [hentries] at he
    rcases hfrom r hr with hside | ⟨q, hq, hid, hs⟩
    · obtain rfl := innermost_inside hside.some_lane hside.inside he
      exact hside.place.elim (fun h => h ▸ hrt) fun h => h ▸ hrn
    · obtain ⟨-, hpc, hmask, hst⟩ := shape_eq hs
      rw [hmask, innermost_outside (other_apart hc hq hid)] at he
      rw [hpc]
      exact ho q hq hid (hst ▸ hready) e he
  have hpout : p.mask &&& p.mask &&& ~~~g.exited ≠ 0 := by
    rw [BitVec.and_self, without_of_apart hc.live]
    exact hc.some_lane
  have hopen : ∀ e ∈ entries g2, LaneOut g2.exited (g2.paths.map (stopAtRejoin (entries g2))) e := by
    rw [hstop, hentries, hx]
    refine List.forall_mem_cons.2 ⟨split_laneOut hc hfrom (current_mem hc) hpout (.inl (by simp [hc.ready])), fun e he => ?_⟩
    obtain ⟨q, hq, hn, hnot⟩ := hout e he
    exact split_laneOut hc hfrom hq hn hnot
  rw [settle_open hopen, hstop]

end Split

-- The instruction

section Brd

variable {gd : Guard} {disp rej : BitVec 30} {s : State} {gi : Nat} {g : Gang} {p : Path}

/-- The gang that a `brd` with lanes on both sides splits, before it comes to rest. -/
def brdGang (s : State) (g : Gang) (p : Path) (gd : Guard) (disp rej : BitVec 30) : Gang :=
  splitPath g p.id (guardLanes g p gd) (p.mask &&& ~~~guardLanes g p gd) (Claim.dispOf p disp) (p.pc + 16) (Claim.dispOf p rej) s.seq

theorem exec_brd (h : Issues s (.brd gd disp rej) gi g p []) (hm : guardLanes g p gd ≠ 0) : exec (.brd gd disp rej) s =
    if p.mask &&& ~~~guardLanes g p gd = 0 then .next (takeTransfer s gi g p (Claim.dispOf p disp))
    else if 32 ≤ g.stack.length then .next (s.trap gi g p (trapAll p 0x01 0 0x20))
    else .next (afterTransfer s gi (brdGang s g p gd disp rej) p.id p.pc (Claim.dispOf p disp)) := by
  show execBrd gd disp rej s = _
  rw [execBrd, issueChecked_run h rfl]
  simp only [dispTarget_eq]
  exact if_neg hm

theorem brdGang_stack : (brdGang s g p gd disp rej).stack = ⟨Claim.dispOf p rej, p.mask⟩ :: g.stack := by
  rw [brdGang, splitPath_eq, sides_join (guardLanes_subset g p gd)]

/-- What a split leaves of the gang (R109). -/
theorem brd_frame (ps : List Path) (hd : DWord) (ct : Nat) (now : Nat) :
    let g' := settle { brdGang s g p gd disp rej with paths := ps, head := hd, count := ct } now
    g'.v = g.v ∧ g'.s = g.s ∧ g'.p = g.p ∧ g'.fpstat = g.fpstat ∧ g'.exited = g.exited := by
  simp only [settle_v, settle_s, settle_p, settle_fpstat, settle_exited, brdGang, splitPath_eq, and_self]

/-- Where the two sides of a split path stand once the gang has come to rest. -/
theorem brd_sides (hm : guardLanes g p gd ≠ 0) (hf : p.mask &&& ~~~guardLanes g p gd ≠ 0) (hc : Current g p) (ho : OthersRest g p)
    (hout : ∀ e ∈ entries g, StillOut g g.paths e) (hdepth : ∀ hm, g.handler = some hm → hm.depth ≤ g.stack.length) (hrt : Claim.dispOf p rej ≠ Claim.dispOf p disp)
    (hrn : Claim.dispOf p rej ≠ p.pc + 16) {ps : List Path} (hps : ps.map shape = (brdGang s g p gd disp rej).paths.map shape) (hd : DWord) (ct : Nat) :
    let g' := settle { brdGang s g p gd disp rej with paths := ps, head := hd, count := ct } s.seq
    ∃ q r, g'.stack = ⟨Claim.dispOf p rej, p.mask⟩ :: g.stack ∧
      findPath g'.paths p.id = some q ∧ q.pc = Claim.dispOf p disp ∧ q.mask = guardLanes g p gd ∧
      findPath g'.paths g.nextPath = some r ∧ r.pc = p.pc + 16 ∧ r.mask = p.mask &&& ~~~guardLanes g p gd ∧ r.st = .ready := by
  intro g'
  have hstack : (brdGang s g p gd disp rej).stack = ⟨Claim.dispOf p rej, p.mask⟩ :: g.stack := brdGang_stack
  have hrest := settle_split (g2 := { brdGang s g p gd disp rej with paths := ps, head := hd, count := ct }) (now := s.seq) hc ho hout hdepth hrt hrn rfl rfl
    hstack fun r hr => mem_splitPaths hc (guardLanes_subset g p gd) (subset_inter ..) hm hf hps hr
  have hshapes : (splitPaths g p (guardLanes g p gd) (p.mask &&& ~~~guardLanes g p gd) (Claim.dispOf p disp) (p.pc + 16) s.seq).map shape = g'.paths.map shape := by
    rw [show g'.paths = shared g.handler s.seq ps from congrArg Gang.paths hrest, shared_shapes, hps]
    rfl
  have hids := splitPaths_ownIds (t := guardLanes g p gd) (f := p.mask &&& ~~~guardLanes g p gd) (tgt := Claim.dispOf p disp) (next := p.pc + 16) (now := s.seq) hc
  have htaken := hids.findPath (List.mem_append_left _ (List.mem_map.2 ⟨p, current_mem hc, if_pos rfl⟩))
  have hwaiting := hids.findPath (List.mem_append_right _ (List.mem_singleton_self _))
  obtain ⟨q, hq, hqs⟩ := findPath_of_shapes hshapes htaken
  obtain ⟨r, hr, hrs⟩ := findPath_of_shapes hshapes hwaiting
  obtain ⟨-, hqpc, hqmask, -⟩ := shape_eq hqs
  obtain ⟨-, hrpc, hrmask, hrst⟩ := shape_eq hrs
  exact ⟨q, r, (congrArg Gang.stack hrest).trans hstack, hq, hqpc, hqmask, hr, hrpc, hrmask, hrst⟩

end Brd

/-- Settles O14: coming to rest keeps the paths apart, and so does every change before it; a split path leaves no path at its rejoin and no entry complete. -/
theorem diverge : Obligations.Diverge := by
  refine ⟨fun g id now m t f n a b c st w h => ⟨pathsOk_settle h now, pathsOk_advance h id n now, pathsOk_yieldSlices h id now, pathsOk_holdPath h id n st now,
    pathsOk_wakePaths h w now, pathsOk_enterHandlerPath h id a now, pathsOk_leaveHandler h id a now, fun p hp hm => pathsOk_exitLanes h hp hm a now,
    fun p hp htf hall ht hf => pathsOk_splitPath h hp htf hall ht hf a b c now⟩,
    fun gd disp rej s gi g p h hm => ?_⟩
  intro t f
  refine ⟨fun hf => (exec_brd h hm).trans (if_pos hf), fun hf hfull => (exec_brd h hm).trans ((if_neg hf).trans (if_pos hfull)), fun hf hroom => ?_,
    fun hf hroom hc ho hout hdepth hrt hrn => ?_⟩
  all_goals
    have hexec := (exec_brd h hm).trans ((if_neg hf).trans (if_neg (not_le.2 hroom)))
    obtain ⟨ps, hd, ct, hgang, hshapes, hmem⟩ := afterTransfer_settles s gi (brdGang s g p gd disp rej) p.id p.pc (Claim.dispOf p disp)
    obtain ⟨hv, hs, hp, hfp, hx⟩ := brd_frame (s := s) (g := g) (p := p) (gd := gd) (disp := disp) (rej := rej) ps hd ct s.seq
  · exact ⟨_, _, hexec, hgang, hv, hs, hp, hfp, hx, hmem⟩
  · obtain ⟨q, r, hstack, hq, hqpc, hqmask, hr, hrpc, hrmask, hrst⟩ := brd_sides hm hf hc ho hout hdepth hrt hrn hshapes hd ct
    exact ⟨_, _, q, r, hexec, hgang, hstack, hq, hqpc, hqmask, hr, hrpc, hrmask, hrst, hv, hs, hp, hfp, hx, hmem⟩

end Sys2Proof.Machine
end

section
/-! PROOFS. `exit`: the lanes that end leave their path, the gang comes to rest, and the barriers that wait for no one else complete (R109, R110, R126). -/

namespace Sys2Proof.Machine
open Sys2Proof.Claim

-- A path that ends with all its lanes

theorem exitPath_gone {p : Path} {next : DWord} : (exitPath p.mask next p).mask = 0 := BitVec.and_not_self p.mask

/-- A path whose lanes all end is gone; the others stay as they are. -/
theorem exitPaths_all {ps : List Path} {p : Path} (ho : OwnIds ps) (hp : p ∈ ps) (hne : ∀ q ∈ ps, q.id ≠ p.id → q.mask ≠ 0) (next : DWord) :
    exitPaths ps p.id p.mask next = ps.filter fun q => decide (q.id ≠ p.id) := by
  have hkeep : ∀ q ∈ ps, ((fun p => p.mask != 0) ∘ fun q => if q.id = p.id then exitPath p.mask next q else q) q = decide (q.id ≠ p.id) := fun q hq => by
    by_cases hid : q.id = p.id
    · obtain rfl := ho.eq_of_id hq hp hid
      simp [exitPath_gone]
    · have hq := hne q hq hid
      simpa [hid] using hq
  rw [exitPaths, mapPath, List.filter_map, List.filter_congr hkeep]
  refine (List.map_congr_left fun q hq => if_neg ?_).trans (List.map_id _)
  simpa using (List.mem_filter.1 hq).2

-- A path that waits alone

section Alone

variable {h : Option HandlerMode} {w : Path}

/-- One slice goes to the only path if it has lanes in it (R119). -/
theorem fillSlice_alone (hw : eligible h w = true) (a : BitVec 4) (i : Nat) (hi : i < 4) :
    fillSlice h [onSlices w a] i = [onSlices w (a ||| slicesOf w.mask &&& BitVec.ofNat 4 (2 ^ i))] := by
  have hel : eligible h (onSlices w a) = true := hw
  unfold fillSlice
  rw [and_slice i hi]
  cases ha : a.getLsbD i with
  | true =>
    have hsame : a ||| (if (slicesOf w.mask).getLsbD i = true then BitVec.ofNat 4 (2 ^ i) else 0) = a := by
      split
      · exact slices_with i hi a ha
      · exact BitVec.or_zero
    rw [hsame, if_pos (by simp [holdsSlice, onSlices, ha])]
  | false =>
    have hwait : [onSlices w a].filter (fun q => eligible h q && (slicesOf q.mask).getLsbD i) =
        if (slicesOf w.mask).getLsbD i = true then [onSlices w a] else [] := by
      rw [List.filter_cons, hel, Bool.true_and]
      rfl
    rw [if_neg (by simp [holdsSlice, onSlices, ha]), hwait]
    by_cases hs : (slicesOf w.mask).getLsbD i = true
    · rw [if_pos hs, if_pos hs]
      simp [onSlices, oldestPath, giveSlice]
    · rw [if_neg hs, if_neg hs]
      simp [oldestPath]

theorem knotPaths_alone : knotPaths h [w] = [] := by
  have hb : blockedPaths h [w] = [w] ∨ blockedPaths h [w] = [] := by
    unfold blockedPaths
    dsimp only
    rw [List.filter_cons]
    split
    · exact .inl rfl
    · exact .inr rfl
  unfold knotPaths
  rcases hb with hb | hb
  · rw [hb, crossing_single]; rfl
  · rw [hb]; rfl

/-- A path that waits alone becomes current on all its slices (R119). -/
theorem shared_alone (hw : eligible h w = true) (now : Nat) : shared h now [onSlices w 0] = [onSlices w (slicesOf w.mask)] := by
  rw [shared, fillSlices, fillSlice_alone hw _ 0 (by decide), fillSlice_alone hw _ 1 (by decide), fillSlice_alone hw _ 2 (by decide),
    fillSlice_alone hw _ 3 (by decide), slices_gather, show (0 : BitVec 4) ||| slicesOf w.mask = slicesOf w.mask from BitVec.zero_or,
    unblock_of_noKnot knotPaths_alone]

end Alone

-- A gang at rest after the exit

section Rest

variable {g g2 : Gang} {p : Path}

/-- Every path within the innermost entry has stopped at its rejoin: the entry is popped (R109). -/
theorem settle_arrived {e : StackEntry} {rest : List StackEntry} (hh : g.handler = none) (hstack : g.stack = e :: rest) (ho : OwnIds g.paths)
    (hin : ∀ q ∈ g.paths, q.mask &&& e.members ≠ 0 → q.st = .atRejoin ∧ q.pc = e.rejoin ∧ q.mask &&& ~~~e.members = 0)
    (hcover : ∀ l, l < 64 → e.members.getLsbD l = true → g.exited.getLsbD l = true ∨ ∃ q ∈ g.paths, q.mask.getLsbD l = true)
    (hlive : e.members &&& ~~~g.exited ≠ 0) (hout : ∀ x ∈ rest, x.rejoin ≠ e.rejoin ∧ x.members &&& (e.members &&& ~~~g.exited) ≠ 0) (now : Nat) :
    Popped (settle g now) e rest (e.members &&& ~~~g.exited) := by
  obtain ⟨ps, hps⟩ : ∃ ps, ps = g.paths.map (stopAtRejoin (e :: rest)) := ⟨_, rfl⟩
  have hids : OwnIds ps := hps ▸ ownIds_map ho fun q _ => (stopAtRejoin_keeps ..).1
  have hin' : ∀ q ∈ ps, q.mask &&& e.members ≠ 0 → q.st = .atRejoin ∧ q.pc = e.rejoin ∧ q.mask &&& ~~~e.members = 0 := fun q hq hm => by
    rw [hps] at hq
    obtain ⟨r, hr, rfl⟩ := List.mem_map.1 hq
    rw [(stopAtRejoin_keeps ..).2.2] at hm
    obtain ⟨hst, hpc, hsub⟩ := hin r hr hm
    rw [stopAtRejoin_rests fun hready => PathSt.noConfusion (hready.symm.trans hst)]
    exact ⟨hst, hpc, hsub⟩
  have hcover' : ∀ l, l < 64 → e.members.getLsbD l = true → g.exited.getLsbD l = true ∨ ∃ q ∈ ps, q.mask.getLsbD l = true := fun l h64 hm =>
    (hcover l h64 hm).imp_right fun ⟨q, hq, hl⟩ => ⟨_, hps ▸ List.mem_map_of_mem hq, by rw [(stopAtRejoin_keeps ..).2.2]; exact hl⟩
  obtain ⟨r, others, hpop, hpc, hmask, hst, hsl, hown, hclear⟩ := popEntries_last hids hin' hcover' hlive hout now rest.length
  have hsteady : Steady none r := .inl (fullyCurrent_of_slices (by rw [hsl, hmask]))
  have hr : r ∈ shared none now (r :: others) := mem_shared hsteady now hown List.mem_cons_self
  rw [settle_popped (ps := r :: others) (st := rest) hh (by rw [hstack, ← hps]; exact hpop)]
  exact ⟨rfl, r, hr, hpc, hmask, hst, hsl, mem_shared_clear now hown hr hclear⟩

theorem or_lane {x y : LaneMask} {l : Nat} : (x ||| y).getLsbD l = true ↔ x.getLsbD l = true ∨ y.getLsbD l = true := by
  rw [BitVec.getLsbD_or, Bool.or_eq_true_iff]

/-- The last path within the innermost entry ends: the entry is popped (R109, R110). -/
theorem exitLanes_last (ho : OwnIds g.paths) (hp : p ∈ g.paths) (hne : ∀ q ∈ g.paths, q.mask ≠ 0) {e : StackEntry} {rest : List StackEntry}
    (hl : LastIn g p e rest (e.members &&& ~~~(g.exited ||| p.mask))) (next : DWord) (now : Nat) :
    Popped (exitLanes g p.id p.mask next now) e rest (e.members &&& ~~~(g.exited ||| p.mask)) := by
  have hleft : ∀ {q : Path}, q ∈ exitPaths g.paths p.id p.mask next ↔ q ∈ g.paths ∧ q.id ≠ p.id := fun {q} => by
    rw [exitPaths_all ho hp (fun q hq _ => hne q hq), List.mem_filter, decide_eq_true_iff]
  have hids : OwnIds (exitPaths g.paths p.id p.mask next) := by
    rw [exitPaths_all ho hp fun q hq _ => hne q hq]
    exact List.Pairwise.filter _ ho
  refine settle_arrived (g := { g with paths := exitPaths g.paths p.id p.mask next, exited := g.exited ||| p.mask, handler := handlerAfter g.handler (g.exited ||| p.mask) })
    (by rw [hl.handler]; rfl) hl.stack hids (fun q hq hm => ?_) (fun l h64 hm => ?_)
    hl.some_left hl.outer now
  · obtain ⟨hq, hid⟩ := hleft.1 hq
    exact hl.others q hq hid hm
  · rcases hl.cover l h64 hm with hx | ⟨q, hq, hql⟩
    · exact .inl (or_lane.2 (.inl hx))
    · by_cases hid : q.id = p.id
      · obtain rfl := ho.eq_of_id hq hp hid
        exact .inl (or_lane.2 (.inr hql))
      · exact .inr ⟨q, hleft.2 ⟨hq, hid⟩, hql⟩

/-- The path that waits beside one that ends becomes current (R110, R119). -/
theorem exitLanes_beside {w : Path} (hps : g.paths = [p, w]) (hid : p.id ≠ w.id) (hl : p.mask &&& w.mask = 0) (hready : w.st = .ready) (hsl : w.onSl = 0)
    (hne : w.mask ≠ 0) (hh : g.handler = none) (hothers : OthersRest g p) (hout : ∀ e ∈ g.stack, StillOut g [w] e) (next : DWord) (now : Nat) :
    (exitLanes g p.id p.mask next now).paths = [{ w with onSl := slicesOf w.mask }] ∧ (exitLanes g p.id p.mask next now).stack = g.stack := by
  have hw : w ∈ g.paths := by simp [hps]
  have hleft : exitPaths g.paths p.id p.mask next = [w] := by
    have ho : OwnIds [p, w] := List.pairwise_pair.2 hid
    rw [hps, exitPaths_all ho List.mem_cons_self fun q hq hqid => ?_]
    · simp [hid.symm]
    · rcases List.mem_pair.1 hq with rfl | rfl
      · exact absurd rfl hqid
      · exact hne
  have hentries : entries g = g.stack := by rw [entries, hh]; rfl
  obtain ⟨g2, hg2⟩ : ∃ g2 : Gang, g2 = { g with paths := [w], exited := g.exited ||| p.mask, handler := none } := ⟨_, rfl⟩
  have hexit : exitLanes g p.id p.mask next now = settle g2 now := by
    rw [exitLanes_eq, hleft, hh, hg2]
    rfl
  have hstop : g2.paths.map (stopAtRejoin (entries g2)) = [w] := by
    rw [hg2]
    exact congrArg (· :: []) (stopAtRejoin_rests fun hr e he => hothers w hw hid.symm hr e (hentries ▸ he))
  have hopen : ∀ e ∈ entries g2, LaneOut g2.exited (g2.paths.map (stopAtRejoin (entries g2))) e := by
    rw [hstop, hg2]
    intro e he
    obtain ⟨q, hq, hn, hnot⟩ := hout e he
    obtain rfl := List.mem_singleton.1 hq
    obtain ⟨l, h64, hlane⟩ := exists_lane hn
    obtain ⟨hlane, hx⟩ := and_lane.1 hlane
    obtain ⟨hql, hel⟩ := and_lane.1 hlane
    have hpl : p.mask.getLsbD l = false := by
      by_contra hc
      exact ne_zero_of_lane (and_lane.2 ⟨by simpa using hc, hql⟩) hl
    refine ⟨l, h64, hel, ?_, fun r hr _ ⟨hst, _⟩ => ?_⟩
    · rw [BitVec.getLsbD_or, (not_lane h64).1 hx, hpl]
      rfl
    · obtain rfl := List.mem_singleton.1 hr
      exact PathSt.noConfusion (hready.symm.trans hst)
  have hshare := shared_alone (h := none) (eligible_ready hready) now
  rw [onSlices_self hsl] at hshare
  rw [hexit, settle_open hopen, hstop, hg2]
  exact ⟨hshare, rfl⟩

end Rest

-- Barriers that an exit completes

/-- Gang `gi` of state `t` is gang `g` with lanes `ex` exited, lanes `m` in no path, and its registers and predicates as they were; memory is as in `s0`. -/
structure LanesGone (ex m : LaneMask) (g : Gang) (s0 : State) (gi : Nat) (g' : Gang) (t : State) : Prop where
  gang : t.gang gi = some g'
  exited : g'.exited = ex
  clear : ∀ q ∈ g'.paths, q.mask &&& m = 0
  v : g'.v = g.v
  s : g'.s = g.s
  p : g'.p = g.p
  hbm : t.hbm = s0.hbm

/-- The gang is still so. -/
def StillGone (ex m : LaneMask) (g : Gang) (s : State) (gi : Nat) (t : State) : Prop := ∃ g', LanesGone ex m g s gi g' t

section Barrier

variable {ex m : LaneMask} {g : Gang} {s t u : State} {gi : Nat}

/-- Gangs and memory are all that matters. -/
theorem StillGone.congr (h : StillGone ex m g s gi t) (hg : u.gangs = t.gangs) (hm : u.hbm = t.hbm) : StillGone ex m g s gi u := by
  obtain ⟨g', h⟩ := h
  exact ⟨g', ⟨(congrArg (look · gi) hg).trans h.gang, h.exited, h.clear, h.v, h.s, h.p, hm.trans h.hbm⟩⟩

/-- The paths of a gang that wake have the lanes that they had. -/
theorem wakePaths_clear {g' : Gang} (hm : m &&& ~~~g'.exited = 0) (h : ∀ q ∈ g'.paths, q.mask &&& m = 0) (held : Path → Bool) (now : Nat) :
    ∀ q ∈ (wakePaths g' held now).paths, q.mask &&& m = 0 := by
  refine settle_clear (g := { g' with paths := g'.paths.map fun p => if held p then { p with st := .ready, since := now } else p }) hm (fun q hq => ?_) now
  obtain ⟨q0, hq0, rfl⟩ := List.mem_map.1 hq
  split
  · exact h q0 hq0
  · exact h q0 hq0

/-- Paths of some gang that wake leave the ended lanes ended. -/
theorem StillGone.wake (h : StillGone ex m g s gi t) (hm : m &&& ~~~ex = 0) {k : Nat} {g1 : Gang} (hk : t.gang k = some g1) (held : Path → Bool) (now : Nat) :
    StillGone ex m g s gi (t.putGang k (wakePaths g1 held now)) := by
  obtain ⟨g', h⟩ := h
  by_cases heq : gi = k
  · subst heq
    obtain rfl := Option.some.inj (h.gang.symm.trans hk)
    refine ⟨_, ⟨gang_putGang_same .., ?_, wakePaths_clear (by rw [h.exited]; exact hm) h.clear held now, ?_, ?_, ?_, h.hbm⟩⟩
    · rw [wakePaths, settle_exited, h.exited]
    · rw [wakePaths, settle_v, h.v]
    · rw [wakePaths, settle_s, h.s]
    · rw [wakePaths, settle_p, h.p]
  · exact ⟨g', ⟨(look_store_ne _ _ heq).trans h.gang, h.exited, h.clear, h.v, h.s, h.p, h.hbm⟩⟩

theorem StillGone.endWaits (h : StillGone ex m g s gi t) (hm : m &&& ~~~ex = 0) (k b : Nat) : StillGone ex m g s gi (endWaits t k b) := by
  unfold Machine.endWaits
  split
  · exact h
  · rename_i g1 hk
    split
    · exact h
    · dsimp only
      split
      · exact (h.wake hm hk _ _).congr rfl rfl
      · exact h

theorem StillGone.mergeQuartet (h : StillGone ex m g s gi t) (c : Cohort) : StillGone ex m g s gi (mergeQuartet t c) := by
  unfold Machine.mergeQuartet
  split
  · exact List.foldlRecOn _ _ h fun u hu k _ => hu.congr rfl rfl
  · exact h

theorem StillGone.tryComplete (h : StillGone ex m g s gi t) (hm : m &&& ~~~ex = 0) (ci b : Nat) : StillGone ex m g s gi (tryComplete t ci b) := by
  unfold Machine.tryComplete
  split
  · exact h
  · rename_i c _
    split
    · have hclosed : StillGone ex m g s gi (t.putCohort ci (closeArrivals c b)) := h.congr rfl rfl
      exact List.foldlRecOn _ _ (hclosed.mergeQuartet c) fun u hu k _ => hu.endWaits hm k b
    · exact h

end Barrier

theorem reportLate_keeps (g : Gang) : (reportLate g).exited = g.exited ∧ (reportLate g).paths = g.paths ∧ (reportLate g).v = g.v ∧ (reportLate g).s = g.s ∧
    (reportLate g).p = g.p := by
  unfold reportLate
  split <;> exact ⟨rfl, rfl, rfl, rfl, rfl⟩

theorem exec_exit {gd : Guard} {s : State} {gi : Nat} {g : Gang} {p : Path} (h : Issues s (.exit gd) gi g p []) (hm : guardLanes g p gd ≠ 0) :
    exec (.exit gd) s = .next ((List.range 16).foldl (fun acc b => tryComplete acc g.cohort b)
      (s.putGang gi (reportLate (exitLanes g p.id (guardLanes g p gd) (p.pc + 8) s.seq)))) := by
  show execExit gd s = _
  rw [execExit, issueChecked_run h rfl]
  exact if_neg hm

/-- Lanes of a path that end are in no path once the gang is at rest (R110). -/
theorem exitLanes_gone {g : Gang} {p : Path} {m : LaneMask} (hl : g.paths.Pairwise fun a b => a.mask &&& b.mask = 0) (hp : p ∈ g.paths)
    (hm : m &&& ~~~p.mask = 0) (next : DWord) (s : State) (gi now : Nat) :
    StillGone (g.exited ||| m) m g s gi (s.putGang gi (reportLate (exitLanes g p.id m next now))) := by
  obtain ⟨hx, hpaths, hv, hs, hpr⟩ := reportLate_keeps (exitLanes g p.id m next now)
  refine ⟨_, ⟨gang_putGang_same .., hx, ?_, hv, hs, hpr, rfl⟩⟩
  rw [hpaths, exitLanes_eq]
  exact settle_clear (subset_or_right ..) (exitPaths_clear hl hp hm next) now

/-- Settles O16: the paths that stay are those that were there, and no end of a wait brings a lane back. -/
theorem exitResult : Obligations.ExitResult := by
  intro gd s gi g p h hm hl hp ho
  have hsub := guardLanes_subset g p gd
  refine ⟨⟨_, exec_exit h hm, rfl, fun e rest hall hlast hne => ?popped, fun w hall hps hready hsl hne hh hothers hout => ?beside⟩, ?ended⟩
  case popped =>
    rw [hall]
    exact exitLanes_last ho hp hne hlast (p.pc + 8) s.seq
  case beside =>
    rw [hps] at ho hl
    rw [hall]
    exact exitLanes_beside hps (by simpa using ho) (by simpa using hl) hready hsl hne hh hothers hout (p.pc + 8) s.seq
  case ended =>
    obtain ⟨g', hgone⟩ := List.foldlRecOn (motive := StillGone (g.exited ||| guardLanes g p gd) (guardLanes g p gd) g s gi) (List.range 16)
      (fun acc b => tryComplete acc g.cohort b) (exitLanes_gone hl hp hsub (p.pc + 8) s gi s.seq)
      fun u hu b _ => hu.tryComplete (subset_or_right ..) g.cohort b
    exact ⟨_, g', exec_exit h hm, hgone.gang, hgone.exited, hgone.clear, hgone.v, hgone.s, hgone.p, hgone.hbm⟩

end Sys2Proof.Machine
end

section
/-! PROOFS. A wait at a barrier number that no instruction can name is not ended by WAIT_END (R150 to R152). -/

namespace Sys2Proof.Machine
open Sys2Proof.Claim

/-- A wait whose generation is still open goes on. -/
theorem execWaitEnd_open {s : State} {gi b : Nat} {g : Gang} (hg : s.gang gi = some g) (h : waitOver s g b = false) : execWaitEnd gi b s = .next s := by
  simp [execWaitEnd, hg, h]

/-- A gang just placed whose only path is held at "barrier 16", one past the last. -/
def heldAt16 : Gang := { placedGang with paths := [⟨0, 0x10000, lowLanes 16, .bar 16, 0, 0⟩] }

/-- Thread 1 of its cohort has arrived at barrier 0, the entry 16 × 1 + 0 of the arrivals, where thread 0's arrival at "barrier 16" would stand too. -/
def waitState16 : State :=
  { State.reset with
    gangs := [(2, heldAt16)]
    cohorts := [(1, { loadedCohort 0 2 with arrivals := [(16, 1)] })] }

theorem waitOver_waitState16 : waitOver waitState16 heldAt16 16 = false := by decide +kernel

/-- Refutes O17: the clause on WAIT_END leaves the barrier number without the bound 16 that the clause on completion has. Arrivals are kept at
16 × thread + number, so for number 16 the entry of thread 0 is that of thread 1 at barrier 0. The hypothesis that no arrival at 16 is open holds there for want of a
number that is 16 modulo 16, but in `waitState16` the arrival of thread 1 at barrier 0 is open: the model lets the path wait on, where the clause says that its wait ends. -/
theorem not_barriers : ¬ Obligations.Barriers := by
  unfold Obligations.Barriers
  intro ⟨_, _, waitEnds⟩
  have hgang : waitState16.gang 2 = some heldAt16 := rfl
  obtain ⟨_, ends⟩ := waitEnds waitState16 2 16 heldAt16 _ hgang rfl (fun k _ => by omega)
  obtain ⟨g', hexec, _, hnone, _⟩ := ends rfl ⟨_, List.mem_cons_self, by decide⟩
  rw [execWaitEnd_open hgang waitOver_waitState16] at hexec
  have hafter : waitState16.gang 2 = some g' :=
    (congrArg (fun t => State.gang t 2) (Host.Outcome.next.inj hexec)).trans (gang_putGang_same ..)
  obtain rfl : heldAt16 = g' := Option.some.inj (hgang.symm.trans hafter)
  exact absurd (hnone _ List.mem_cons_self) (by decide)

end Sys2Proof.Machine
end

section
/-! PROOFS. The dispatcher's events on what runs: a gang becomes urgent, and gangs, cohorts and grids end (R122, R123, R216, R283). -/

namespace Sys2Proof.Machine
open Sys2Proof.Claim

-- Gangs

theorem gangUrgent_early {s : State} {gi : Nat} {g : Gang} {t : DWord} (hg : s.gang gi = some g) (ht : g.readySince = some t) (h : (s.clock - t).toNat < 56) :
    execGangUrgent gi s = .next s := by
  simp only [execGangUrgent, hg, ht]
  exact if_neg (Nat.not_le.2 h)

theorem gangUrgent_due {s : State} {gi : Nat} {g : Gang} {t : DWord} (hg : s.gang gi = some g) (ht : g.readySince = some t) (h : 56 ≤ (s.clock - t).toNat) :
    execGangUrgent gi s = .next (s.putGang gi { g with urgent := true }) := by
  simp only [execGangUrgent, hg, ht]
  exact if_pos h

theorem gangBlockRelease_running {s : State} {gi : Nat} {g : Gang} (hg : s.gang gi = some g) (hp : g.paths ≠ []) : execGangBlockRelease gi s = .next s := by
  simp [execGangBlockRelease, hg, gangEnded, hp]

theorem gangBlockRelease_ended {s : State} {gi : Nat} {g : Gang} (hg : s.gang gi = some g) (hp : g.paths = []) (ho : g.ops = []) (hpause : g.paused = false)
    (hq : ∀ e ∈ (s.coreAt g.die g.core).oxq, e.gang ≠ gi) : execGangBlockRelease gi s = .next (s.putGang gi { g with granules := 0 }) := by
  have hnone : (s.coreAt g.die g.core).oxq.any (fun e => e.gang == gi) = false := by simpa using hq
  simp [execGangBlockRelease, hg, gangEnded, hp, ho, hpause, hnone]

-- Changes of cores alone

/-- The same but for the cores. -/
def ButCores (s t : State) : Prop := ∃ cs, t = { s with cores := cs }

theorem ButCores.refl (s : State) : ButCores s s := ⟨_, rfl⟩

theorem ButCores.putCore (s : State) (d c : Nat) (x : Core) : ButCores s (s.putCore d c x) := ⟨_, rfl⟩

theorem ButCores.trans {s t u : State} (h : ButCores s t) (h' : ButCores t u) : ButCores s u := by
  obtain ⟨_, rfl⟩ := h
  obtain ⟨_, rfl⟩ := h'
  exact ⟨_, rfl⟩

theorem ButCores.foldl {β : Type} {f : State → β → State} (h : ∀ s b, ButCores s (f s b)) (l : List β) (s : State) : ButCores s (l.foldl f s) := by
  induction l generalizing s with
  | nil => exact .refl s
  | cons b r ih => exact (h s b).trans (ih _)

-- Cohorts

/-- A cohort goes with its gangs; the rest of the change is in its cores. -/
theorem removeCohort_keeps (s : State) (cid : Nat) (c : Cohort) :
    ButCores { s with gangs := s.gangs.filter (fun e => e.2.cohort ≠ cid), cohorts := forget s.cohorts cid, cur := none } (removeCohort s cid c) :=
  ButCores.foldl (fun _ _ => .putCore ..) _ _

/-- A cohort whose gangs have all ended leaves, and counts for its grid (R123). -/
theorem cohortEnd_quiet {s : State} {ci : Nat} {c : Cohort} {gr : Grid} (hc : s.cohort ci = some c) (hgr : s.grid c.grid = some gr) (hq : CohortQuiet s ci) :
    execCohortEnd ci s = .next (settleQueues ((removeCohort s ci c).putGrid c.grid { gr with finished := gr.finished + 1 })) := by
  have hall : ∀ e ∈ s.gangs.filter (fun e => e.2.cohort == ci),
      ((gangEnded e.2 || (gr.failed && c.stopping)) && gangQuiet s e.1 e.2 && e.2.pending.isEmpty && !e.2.paused) = true := fun e he => by
    obtain ⟨hmem, hco⟩ := List.mem_filter.1 he
    obtain ⟨hpaths, hquiet, hpending, hpaused⟩ := hq e hmem (eq_of_beq hco)
    simp [gangEnded, hpaths, hquiet, hpending, hpaused]
  have hgrid : (removeCohort s ci c).grid c.grid = some gr := by
    obtain ⟨_, h⟩ := removeCohort_keeps s ci c
    rw [h]
    exact hgr
  simp only [execCohortEnd, hc, hgr]
  rw [if_pos (List.all_eq_true.2 hall), hgrid]

theorem cohortEnd_leaves {s : State} {ci : Nat} {c : Cohort} {gr : Grid} (hc : s.cohort ci = some c) (hgr : s.grid c.grid = some gr) (hq : CohortQuiet s ci) :
    ∃ t, execCohortEnd ci s = .next t ∧ t.cohort ci = none ∧ t.gangs = s.gangs.filter (fun e => e.2.cohort != ci) ∧
      t.grid c.grid = some { gr with finished := gr.finished + 1 } ∧ MemorySame s t := by
  refine ⟨_, cohortEnd_quiet hc hgr hq, ?_⟩
  obtain ⟨_, h⟩ := removeCohort_keeps s ci c
  rw [h]
  refine ⟨look_forget .., List.filter_congr fun e _ => ?_, look_store_same .., rfl, rfl⟩
  simp [bne, Bool.beq_eq_decide_eq]

-- Grids

theorem endPkt_single {q : Queue} {pk : QPkt} (h : q.pend = [pk]) : endPkt q pk = { q with pend := [{ pk with done := true }] } := by
  simp [endPkt, h]

section GridEnds

variable {s : State} {gi : Nat} {gr : Grid} (hgr : s.grid gi = some gr)
include hgr

theorem gridComplete_running (h : gridOver s gi gr = false) : execGridComplete gi s = .next s := by
  simp [execGridComplete, hgr, h]

/-- The writes to host memory are closed by a zero-length read (R283). -/
theorem gridComplete_closes (h : gridOver s gi gr = true) (ha : gr.abandoned = false) (hz : gr.zero = none) :
    ∃ t, execGridComplete gi s = .next t ∧ t.pcie = s.pcie ++ [(s.fresh, .zeroRead)] ∧ t.grid gi = some { gr with zero := some s.fresh } := by
  simp only [execGridComplete, hgr, h, ha, hz]
  exact ⟨_, rfl, rfl, look_store_same ..⟩

/-- The read has been answered: the grid goes and its launch ends (R438). -/
theorem gridComplete_ends {n : Nat} {q : Queue} {pk : QPkt} (h : gridOver s gi gr = true) (ha : gr.abandoned = false) (hz : gr.zero = some n)
    (hread : look s.pcie n = none) (hq : s.queue (gridQueue gr) = some q) (hpend : q.pend = [pk]) (hpk : pk.grid = some gi) :
    ∃ t, execGridComplete gi s = .next t ∧ t.grid gi = none ∧ t.queue (gridQueue gr) = some { q with pend := [{ pk with done := true }] } := by
  have hqueue : State.queue { s with grids := forget s.grids gi } (gridQueue gr) = some q := hq
  have hfind : q.pend.find? (fun p => p.grid == some gi) = some pk := by simp [hpend, hpk]
  refine ⟨State.putQueue { s with grids := forget s.grids gi } (gridQueue gr) (endPkt q pk), ?_, look_forget .., ?_⟩
  · simp [execGridComplete, hgr, h, ha, hz, hread, hqueue, hfind]
  · rw [endPkt_single hpend]
    exact look_store_same ..

end GridEnds

end Sys2Proof.Machine
end

section
/-! PROOFS. A cohort is placed: its record, its gangs at their start, and its grid (R21, R114, R123 to R125, R207, R210). -/

namespace Sys2Proof.Machine
open Sys2Proof.Claim

-- Records stored one after another

/-- Of records stored one after another, each number has one of them. -/
theorem look_foldl_store {α β : Type} (key : β → Nat) (val : β → α) {l : List β} {x : β} (hx : x ∈ l) (m : List (Nat × α)) :
    ∃ y ∈ l, look (l.foldl (fun acc z => store acc (key z) (val z)) m) (key x) = some (val y) := by
  induction l using List.reverseRecOn with
  | nil => cases hx
  | append_singleton r z ih =>
    rw [List.foldl_append, List.foldl_cons, List.foldl_nil]
    by_cases hk : key x = key z
    · exact ⟨z, by simp, by rw [hk, look_store_same]⟩
    · have hr : x ∈ r := (List.mem_append.1 hx).resolve_right fun h => hk (congrArg key (List.mem_singleton.1 h))
      obtain ⟨y, hy, hlook⟩ := ih hr
      exact ⟨y, List.mem_append_left _ hy, (look_store_ne _ _ hk).trans hlook⟩

theorem foldl_putGang {β : Type} (key : β → Nat) (val : β → Gang) (l : List β) (s : State) :
    l.foldl (fun acc z => acc.putGang (key z) (val z)) s = { s with gangs := l.foldl (fun acc z => store acc (key z) (val z)) s.gangs } := by
  induction l generalizing s with
  | nil => rfl
  | cons z r ih => rw [List.foldl_cons, ih]; rfl

-- The cores of a cohort that starts

theorem prepareCore_keeps (s : State) (k cohort : Nat) (kd : Kernel) (tbl : Bool) (base : Nat) : ButCores s (prepareCore s k cohort kd tbl base) := .putCore ..

theorem mergeCore_keeps (s : State) (k : Nat) (st : CVec) : ButCores s (mergeCore s k st) := .putCore ..

theorem offerImages_keeps (s : State) (k : Nat) (gr : Grid) : ButCores s (offerImages s k gr) := by
  unfold offerImages
  split
  · exact .refl s
  · refine ButCores.foldl (fun t im => ?_) _ s
    split
    · exact .refl t
    · split
      · exact .putCore ..
      · exact .refl t

-- The cohort that starts

/-- A grid whose next cohort waits from now on keeps waiting from now (R209). -/
theorem restartWaits_waiting (old : State) {s : State} {n : Nat} {g : Grid} (h : s.grid n = some g) (hw : g.waitFrom = some s.clock) :
    (restartWaits old s).grid n = some g := by
  unfold restartWaits State.grid
  rw [look_map (fun e => by dsimp only; split <;> [split; skip] <;> rfl), show look s.grids n = some g from h, Option.map_some]
  have hsame : { g with waitFrom := some s.clock } = g := by rw [← hw]
  dsimp only
  split
  · split <;> simp only [hsame]
  · rfl

section Start

variable (s : State) (gi : Nat) (gr : Grid) (dm : Demand) (k : Nat) (plans : List CorePlan)

/-- The numbers of the gangs of a cohort that starts: those after its own. -/
def startIds : List Nat := (planGangs dm k plans).zipIdx.map (fun x => s.fresh + 1 + x.2)

/-- The gang of a cohort that starts, for its place in the plans. -/
def startGang (x : (Nat × Nat × Nat × Nat × List Nat) × Nat) : Gang :=
  newGang s gi gr s.fresh gr.nextCohort x.1.1 x.1.2.1 x.1.2.2.1 x.1.2.2.2.1 x.1.2.2.2.2 (plans.map (fun p => p.scratch.1)) (x.1.2.1 - k)

/-- What the grid is once its next cohort has been placed from core `k` on. -/
def startGrid : Grid := { gr with nextCohort := gr.nextCohort + 1, lastDie := some (keyDie k), waitFrom := some s.clock }

/-- The start of a cohort, table by table; of the cores it is said only that nothing else changes with them. -/
theorem startCohort_eq : ∃ cs, startCohort s gi gr dm k plans = restartWaits s
    { s with
      cores := cs
      fresh := s.fresh + 1 + (planGangs dm k plans).length
      cohorts := store s.cohorts s.fresh (newCohort s gi gr.nextCohort k dm plans (startIds s dm k plans))
      gangs := (planGangs dm k plans).zipIdx.foldl (fun acc x => store acc (s.fresh + 1 + x.2) (startGang s gi gr k plans x)) s.gangs
      served := store s.served (queuePrio s (gridQueue gr)) (gridQueue gr)
      reserveQ := s.reserveQ.filter (fun r => r.2.2 ≠ gi)
      reserveL1 := s.reserveL1.filter (fun r => r.2.2 ≠ gi)
      grids := store s.grids gi (startGrid s gr k) } := by
  unfold startCohort
  dsimp only
  generalize hprep : List.foldl (fun acc x => prepareCore acc _ _ _ _ _) _ _ = s3
  have hp := hprep ▸ ButCores.foldl (fun t x => prepareCore_keeps t _ _ _ _ _) _ _
  obtain ⟨cs, rfl⟩ := hp
  rw [foldl_putGang]
  generalize hoffer : List.foldl (fun acc x => offerImages _ x gr) _ _ = s5
  have ho := hoffer ▸ ButCores.foldl (fun t x => (mergeCore_keeps t x gr.cv).trans (offerImages_keeps _ x gr)) _ _
  obtain ⟨cs', rfl⟩ := ho
  exact ⟨cs', rfl⟩

/-- What a gang at its start is: at the kernel's entry, with every register zero (R21, R114). -/
def AtStart (s : State) (gr : Grid) (g : Gang) : Prop :=
  ∃ q, g.cohort = s.fresh ∧ g.kd = gr.kd ∧ g.v = [] ∧ g.s = [] ∧ g.p = [] ∧ g.stack = [] ∧ g.exited = 0 ∧
    g.paths = [q] ∧ q.pc = gr.kd.base + BitVec.ofNat 64 gr.kd.entry ∧ q.mask = lowLanes gr.kd.gangw ∧ q.st = .ready

theorem startGang_atStart (x : (Nat × Nat × Nat × Nat × List Nat) × Nat) : AtStart s gr (startGang s gi gr k plans x) :=
  ⟨_, rfl, rfl, rfl, rfl, rfl, rfl, rfl, rfl, rfl, rfl, rfl⟩

theorem startCohort_places : ∃ c, (startCohort s gi gr dm k plans).cohort s.fresh = some c ∧ c.grid = gi ∧ c.number = gr.nextCohort ∧ c.die = keyDie k ∧
    c.core = keyCore k ∧ (startCohort s gi gr dm k plans).grid gi = some (startGrid s gr k) ∧ (startCohort s gi gr dm k plans).hbm = s.hbm ∧
    ∀ n ∈ c.gangs, ∃ g, (startCohort s gi gr dm k plans).gang n = some g ∧ AtStart s gr g := by
  obtain ⟨cs, h⟩ := startCohort_eq s gi gr dm k plans
  rw [h]
  refine ⟨_, look_store_same .., rfl, rfl, rfl, rfl, restartWaits_waiting s (look_store_same ..) rfl, rfl, fun n hn => ?_⟩
  obtain ⟨x, hx, rfl⟩ := List.mem_map.1 hn
  obtain ⟨y, -, hy⟩ := look_foldl_store (fun x => s.fresh + 1 + x.2) (startGang s gi gr k plans) hx s.gangs
  exact ⟨_, hy, startGang_atStart ..⟩

end Start

section Place

variable {s : State} {gi : Nat} {gr : Grid} {dm : Demand} (h : Next s gi gr none dm)
include h

theorem cohortPlace_noRoom (hspot : findSpot s gr dm = none) : execCohortPlace gi s = .next s := by
  simp [execCohortPlace, h.grid, h.demand, hspot]

theorem cohortPlace_now {k : Nat} {plans : List CorePlan} (hspot : findSpot s gr dm = some (.now k)) (hplan : planAll s dm k = some plans) :
    execCohortPlace gi s = .next (startCohort s gi gr dm k plans) := by
  simp [execCohortPlace, h.grid, h.demand, h.room, h.turn, hspot, hplan]

end Place

end Sys2Proof.Machine
end

section
/-! PROOFS. A compaction moves one block after another, each while its gang is paused and nothing returns to it (R133, R213, R214). -/

namespace Sys2Proof.Machine
open Sys2Proof.Claim

/-- A compaction that is noted on a core changes nothing else of any core. -/
theorem coreAt_putCompact {s : State} (hok : spOk Core.reset s.cores = true) (k : Nat) (x : Option Compact) (d c : Nat) :
    ∃ y, (s.putCore (keyDie k) (keyCore k) { coreOf s k with compact := x }).coreAt d c = { s.coreAt d c with compact := y } := by
  by_cases hk : coreKey d c = coreKey (keyDie k) (keyCore k)
  · have hsame : coreOf s k = s.coreAt d c := by rw [State.coreAt, hk]; rfl
    rw [coreAt_putCore_same _ _ hk hok, hsame]
    exact ⟨x, rfl⟩
  · rw [coreAt_putCore_ne _ _ hk hok]
    exact ⟨(s.coreAt d c).compact, rfl⟩

theorem coreOf_putCore {s : State} (hok : spOk Core.reset s.cores = true) (k : Nat) (x : Core) : coreOf (s.putCore (keyDie k) (keyCore k) x) k = x :=
  coreAt_putCore_same s x rfl hok

/-- What returns to a gang does not depend on a compaction that is noted. -/
theorem blockQuiet_putCompact {s : State} (hok : spOk Core.reset s.cores = true) (k : Nat) (x : Option Compact) (gi : Nat) (g : Gang) :
    blockQuiet (s.putCore (keyDie k) (keyCore k) { coreOf s k with compact := x }) gi g = blockQuiet s gi g := by
  obtain ⟨y, hy⟩ := coreAt_putCompact hok k x g.die g.core
  rw [blockQuiet, hy]
  rfl

section Begin

variable {s : State} {k gi b : Nat} {x : Compact} {r : List (Nat × Nat)} {g : Gang}

/-- Once nothing returns to the gang of the first move, it is paused. -/
theorem beginMove_pauses (hx : (coreOf s k).compact = some x) (hm : x.moves = (gi, b) :: r) (hsince : x.since = none) (hg : s.gang gi = some g)
    (hmov : movable g = true) (hquiet : blockQuiet s gi g = true) :
    beginMove s k = (s.putGang gi { g with paused := true }).putCore (keyDie k) (keyCore k) { coreOf s k with compact := some { x with since := some s.clock } } := by
  have hx' : (s.coreAt (keyDie k) (keyCore k)).compact = some x := hx
  simp only [beginMove, hx', hm, hsince, hg, hmov, hquiet]
  rfl

theorem beginMove_waits (hx : (coreOf s k).compact = some x) (hm : x.moves = (gi, b) :: r) (hg : s.gang gi = some g)
    (h : movable g = false ∨ blockQuiet s gi g = false) : beginMove s k = s := by
  have hx' : (s.coreAt (keyDie k) (keyCore k)).compact = some x := hx
  have hnot : (movable g && blockQuiet s gi g) = false := by rcases h with h | h <;> simp [h]
  cases hs : x.since <;> simp [beginMove, hx', hm, hs, hg, hnot]

/-- The start of a move pauses a gang and notes the time: the blocks stay where they are. -/
theorem beginMove_keeps (s : State) (k n : Nat) {g : Gang} (hn : s.gang n = some g) :
    MemorySame s (beginMove s k) ∧ ∃ p, (beginMove s k).gang n = some { g with paused := p } := by
  unfold beginMove
  dsimp only
  split
  · split
    · rename_i m _ _ _ _
      split
      · rename_i g1 hg1
        split
        · refine ⟨⟨rfl, rfl⟩, ?_⟩
          by_cases heq : n = m
          · subst heq
            obtain rfl : g = g1 := Option.some.inj (hn.symm.trans hg1)
            exact ⟨true, look_store_same ..⟩
          · exact ⟨g.paused, (look_store_ne _ _ heq).trans hn⟩
        · exact ⟨⟨rfl, rfl⟩, g.paused, hn⟩
      · exact ⟨⟨rfl, rfl⟩, g.paused, hn⟩
    · exact ⟨⟨rfl, rfl⟩, g.paused, hn⟩
  · exact ⟨⟨rfl, rfl⟩, g.paused, hn⟩

end Begin

section Start

variable {s : State} {gi k : Nat} {gr : Grid} {o : Option Nat} {dm : Demand} {mv : List (Nat × Nat)}

/-- A compaction as it starts (R213). -/
def newCompact (gi : Nat) (o : Option Nat) (dm : Demand) (k : Nat) (mv : List (Nat × Nat)) : Compact := ⟨gi, o, (coresOf dm k).length, false, none, mv, none⟩

/-- The state in which a compaction has been noted on its first core. -/
def noted (s : State) (k : Nat) (x : Compact) : State := s.putCore (keyDie k) (keyCore k) { coreOf s k with compact := some x }

theorem compactionStart_run (h : Next s gi gr o dm) (hspot : findSpot s gr dm = some (.compact k)) (hok : movesOk s dm k mv = true) :
    execCompactionStart k gi mv s = .next (beginMove (noted s k (newCompact gi o dm k mv)) k) := by
  simp only [execCompactionStart, h.grid, h.demand, h.room, h.turn, hspot, hok]
  rw [if_neg (by simp)]
  rfl

theorem compactionStart_begins {x y : Nat} {r : List (Nat × Nat)} {g : Gang} (h : Next s gi gr o dm) (hspot : findSpot s gr dm = some (.compact k))
    (hmv : movesOk s dm k ((x, y) :: r) = true) (hg : s.gang x = some g) (hok : spOk Core.reset s.cores = true) :
    ∃ t c', execCompactionStart k gi ((x, y) :: r) s = .next t ∧ (coreOf t k).compact = some c' ∧ c'.grid = gi ∧ c'.saved = o ∧
      c'.moves = (x, y) :: r ∧ MemorySame s t ∧
      (movable g = true → blockQuiet s x g = true → c'.since = some s.clock ∧ t.gang x = some { g with paused := true }) ∧
      (movable g = false ∨ blockQuiet s x g = false → c'.since = none ∧ t.gang x = some g) := by
  obtain ⟨c0, hc0⟩ : ∃ c0, c0 = newCompact gi o dm k ((x, y) :: r) := ⟨_, rfl⟩
  have hrun := compactionStart_run h hspot hmv
  rw [← hc0] at hrun
  have hnoted : (coreOf (noted s k c0) k).compact = some c0 := by rw [noted, coreOf_putCore hok]
  have hquiet : blockQuiet (noted s k c0) x g = blockQuiet s x g := blockQuiet_putCompact hok ..
  have hm : c0.moves = (x, y) :: r := by rw [hc0]; rfl
  have hs : c0.since = none := by rw [hc0]; rfl
  have hgrid : c0.grid = gi ∧ c0.saved = o := by rw [hc0]; exact ⟨rfl, rfl⟩
  by_cases hready : (movable g && blockQuiet s x g) = true
  · obtain ⟨hmov, hq⟩ := Bool.and_eq_true_iff.1 hready
    have hb := beginMove_pauses (s := noted s k c0) hnoted hm hs hg hmov (hquiet.trans hq)
    refine ⟨_, { c0 with since := some s.clock }, hrun.trans (congrArg _ hb), ?_, hgrid.1, hgrid.2, hm, ⟨rfl, rfl⟩,
      fun _ _ => ⟨rfl, gang_putGang_same ..⟩, fun hnot => ?_⟩
    · exact congrArg Core.compact (coreOf_putCore (s := (noted s k c0).putGang ..) (spOk_spSet _ _ _ hok) ..)
    · simp [hmov, hq] at hnot
  · have hnot := Bool.and_eq_false_iff.1 (Bool.eq_false_iff.2 hready)
    have hb := beginMove_waits (s := noted s k c0) hnoted hm hg (hnot.imp_right hquiet.trans)
    exact ⟨_, c0, hrun.trans (congrArg _ hb), hnoted, hgrid.1, hgrid.2, hm, ⟨rfl, rfl⟩, fun hmov hq => absurd (Bool.and_eq_true_iff.2 ⟨hmov, hq⟩) hready, fun _ => ⟨hs, hg⟩⟩

end Start

section MoveEnd

variable {s : State} {k gi b : Nat} {r : List (Nat × Nat)} {x : Compact} {t0 : DWord} {g : Gang} (hx : (coreOf s k).compact = some x)
  (hm : x.moves = (gi, b) :: r) (hs : x.since = some t0) (hg : s.gang gi = some g)
include hx hm hs hg

theorem compactionMoveEnd_early (h : (s.clock - t0).toNat < 2 * g.granules) : execCompactionMoveEnd k s = .next s := by
  have hx' : (s.coreAt (keyDie k) (keyCore k)).compact = some x := hx
  simp only [execCompactionMoveEnd, hx', hm, hs, hg]
  exact if_pos h

/-- Two cycles a granule after the pause the block is at its new place, and the next move begins (R214). -/
theorem compactionMoveEnd_moves (hp : g.paths ≠ []) (h : 2 * g.granules ≤ (s.clock - t0).toNat) (hr : r ≠ []) :
    execCompactionMoveEnd k s = .next (beginMove (noted (s.putGang gi { g with block := b, paused := false }) k { x with moves := r, since := none }) k) := by
  have hx' : (s.coreAt (keyDie k) (keyCore k)).compact = some x := hx
  have hlive : gangEnded g = false := by simpa [gangEnded] using hp
  have hmore : r.isEmpty = false := by simpa using hr
  simp only [execCompactionMoveEnd, hx', hm, hs, hg]
  rw [if_neg (Nat.not_lt.2 h), hlive, hmore]
  rfl

end MoveEnd

end Sys2Proof.Machine
end

section
/-! PROOFS. Reservations and the pre-emption delay (R209, R211), and the dispatcher's events together. -/

namespace Sys2Proof.Machine
open Sys2Proof.Claim

section Waits

variable {s : State} {gi d : Nat} {gr : Grid} {o : Option Nat} {dm : Demand} {k : Nat}

theorem quartetReserve_reserves (hgr : s.grid gi = some gr) (hdm : nextDemand s gi gr = some (o, dm)) (hd : d ∈ dieOrder s gr) (hw : 4096 ≤ waited s gr)
    (hroom : waitsForRoom s gi gr = true) (hq : needsQuartet dm.kd = true) (hnone : placeable s gi gr = none) (hr : ∀ r ∈ s.reserveQ, r.1 ≠ d ∧ r.2.2 ≠ gi)
    (hk : leastLoaded s dm ((firstCores dm d).filter (fun j => (coresOf dm j).all (coreOpen s dm))) = some k) :
    execQuartetReserve d gi s = .next { s with reserveQ := s.reserveQ ++ [(d, keyCore k / 4, gi)] } := by
  have hfree : s.reserveQ.any (fun r => r.1 == d || r.2.2 == gi) = false := List.any_eq_false.2 fun r hmem => by simpa using hr r hmem
  simp [execQuartetReserve, hgr, hdm, hd, hw, hroom, hq, hnone, hfree, hk]

theorem l1SizeReserve_reserves (hgr : s.grid gi = some gr) (hdm : nextDemand s gi gr = some (o, dm)) (hd : d ∈ dieOrder s gr) (hw : 4096 ≤ waited s gr)
    (hroom : waitsForRoom s gi gr = true) (hq : needsQuartet dm.kd = false) (hr : ∀ r ∈ s.reserveL1, r.1 ≠ d ∧ r.2.2 ≠ gi)
    (hnone : ∀ j ∈ firstCores dm d, planAll s dm j = none)
    (hk : leastLoaded s dm ((firstCores dm d).filter (fun j => coreOpen s dm j && (cohortsOn s j).any (fun e => e.2.kd.l1 != dm.kd.l1))) = some k) :
    execL1SizeReserve d gi s = .next { s with reserveL1 := s.reserveL1 ++ [(d, keyCore k, gi)] } := by
  have hfree : s.reserveL1.any (fun r => r.1 == d || r.2.2 == gi) = false := List.any_eq_false.2 fun r hmem => by simpa using hr r hmem
  have hfits : (firstCores dm d).any (fun j => (planAll s dm j).isSome) = false := List.any_eq_false.2 fun j hj => by simp [hnone j hj]
  simp [execL1SizeReserve, hgr, hdm, hd, hw, hroom, hq, hfits, hfree, hk]

theorem preemptDelayExpire_early (hgr : s.grid gi = some gr) (h : (s.fn gr.fn).delay = 0xFFFFFFFF ∨ waited s gr ≤ 3600 * (s.fn gr.fn).delay.toNat) :
    execPreemptDelayExpire gi s = .next s := by
  simp only [execPreemptDelayExpire, hgr]
  rw [if_pos]
  tauto

theorem preemptDelayExpire_asks {vi : Nat} {v : Cohort} (hgr : s.grid gi = some gr) (hdm : (nextDemand s gi gr).isSome = true)
    (hroom : waitsForRoom s gi gr = true) (hnone : placeable s gi gr = none) (hasked : ∀ e ∈ s.cohorts, e.2.asked = false ∨ e.2.askedBy ≠ some gi)
    (hv : victims s gr = [(vi, v)]) (hset : (s.fn gr.fn).delay ≠ 0xFFFFFFFF) (hw : 3600 * (s.fn gr.fn).delay.toNat < waited s gr) :
    execPreemptDelayExpire gi s = .next (s.putCohort vi { v with asked := true, askedBy := some gi, room := roomLeft s v }) := by
  have hnobody : s.cohorts.any (fun e => e.2.asked && e.2.askedBy == some gi) = false := List.any_eq_false.2 fun e he => by
    rcases hasked e he with h | h <;> simp [h]
  have hsome : (nextDemand s gi gr).isNone = false := by simpa [← Option.not_isSome] using hdm
  simp only [execPreemptDelayExpire, hgr]
  rw [if_neg (not_or.2 ⟨hset, by simp [hsome, Nat.not_le.2 hw, hroom, hnone, hnobody]⟩), hv]
  rfl

end Waits

/-- Settles O44: each event has a lemma for when it is not due and one for what it does. -/
theorem dispatchEvents : Obligations.DispatchEvents := by
  unfold Obligations.DispatchEvents
  refine ⟨?urgent, ?block, ?cohort, ?grid, ?place, ?compact, ?move, ?reserve, ?preempt⟩
  case urgent => exact fun s gi g t hg ht => ⟨gangUrgent_early hg ht, gangUrgent_due hg ht⟩
  case block => exact fun s gi g hg => ⟨gangBlockRelease_running hg, gangBlockRelease_ended hg⟩
  case cohort => exact fun s ci c gr => cohortEnd_leaves
  case grid => exact fun s gi gr hgr => ⟨gridComplete_running hgr, gridComplete_closes hgr, fun n q pk => gridComplete_ends hgr⟩
  case place =>
    intro s gi gr dm h
    refine ⟨cohortPlace_noRoom h, fun k plans hspot hplan => ?_⟩
    obtain ⟨c, hc, hgrid, hnumber, hdie, hcore, hgr, hhbm, hgangs⟩ := startCohort_places s gi gr dm k plans
    refine ⟨_, c, cohortPlace_now h hspot hplan, hc, hgrid, hnumber, hdie, hcore, hgr, hhbm, fun n hn => ?_⟩
    obtain ⟨g, hg, q, hstart⟩ := hgangs n hn
    exact ⟨g, q, hg, hstart⟩
  case compact => exact fun s gi k x y gr o dm r g => compactionStart_begins
  case move =>
    intro s k gi b r x t0 g _ hx hm hs hg hp
    refine ⟨compactionMoveEnd_early hx hm hs hg, fun hdue hr => ?_⟩
    obtain ⟨hmem, p, hgang⟩ := beginMove_keeps (noted (s.putGang gi { g with block := b, paused := false }) k { x with moves := r, since := none }) k gi
      (gang_putGang_same s gi _)
    exact ⟨_, _, compactionMoveEnd_moves hx hm hs hg hp hdue hr, hgang, rfl, rfl, hmem⟩
  case reserve => exact fun s gi d gr o dm k hgr hdm hd hw hroom =>
      ⟨quartetReserve_reserves hgr hdm hd hw hroom, l1SizeReserve_reserves hgr hdm hd hw hroom⟩
  case preempt => exact fun s gi vi gr v hgr hdm hroom hnone hasked hv =>
      ⟨preemptDelayExpire_early hgr, fun hset hw => preemptDelayExpire_asks hgr hdm hroom hnone hasked hv hset hw⟩

end Sys2Proof.Machine
end

section
/-! PROOFS. The frame of the masked members, votes and shuffles (R138, R139, R143, R144). -/

namespace Sys2Proof.Machine
open Sys2Proof.Claim

-- Masks of lanes

theorem lowLanes_getLsbD (n l : Nat) : (lowLanes n).getLsbD l = decide (l < 64 ∧ l < n) := by
  rw [lowLanes, BitVec.getLsbD_ofNat, Nat.testBit_two_pow_sub_one, Bool.decide_and]

theorem mem_lanesOf_iff (m : LaneMask) (l : Nat) : l ∈ lanesOf m ↔ m.getLsbD l = true :=
  (mem_lanesOf m l).trans (and_iff_right_of_imp BitVec.lt_of_getLsbD)

/-- A mask has a lane where one of its 64 bits is set. -/
theorem ne_zero_iff_any {x : LaneMask} {f : Nat → Bool} (h : ∀ l, l < 64 → x.getLsbD l = f l) : x ≠ 0 ↔ (List.range 64).any f = true := by
  rw [List.any_eq_true]
  constructor
  · intro hx
    obtain ⟨l, hl, hb⟩ := exists_lane hx
    exact ⟨l, List.mem_range.2 hl, (h l hl).symm.trans hb⟩
  · rintro ⟨l, hl, hb⟩
    exact ne_zero_of_lane ((h l (List.mem_range.1 hl)).trans hb)

theorem unpoisoned_zero (g : Gang) (rd : List Nat) : Unpoisoned g 0 rd := fun _ _ l _ hl => absurd hl (by simp)

-- The named lanes, the members and the absent ones (R138)

theorem namedLanes_getLsbD (g : Gang) (a : Field10) (l : Nat) : (namedLanes g a).getLsbD l = named g a l := by
  have hall : (BitVec.allOnes 64).getLsbD l = decide (l < 64) := BitVec.getLsbD_allOnes
  rw [namedLanes, BitVec.getLsbD_and, gangLanes, lowLanes_getLsbD, named, Bool.and_comm]
  by_cases ha : a = 0x3FF#10
  · rw [if_pos ha, hall, beq_iff_eq.2 ha, Bool.true_or, Bool.and_true, ← Bool.decide_and]
    exact decide_eq_decide.2 (and_iff_left_of_imp And.left)
  · rw [if_neg ha, beq_eq_false_iff_ne.2 ha, Bool.false_or]

theorem lanesOf_members (g : Gang) (a : Field10) (m : LaneMask) : lanesOf (namedLanes g a &&& m) = members g a m :=
  lanesOf_filter fun k _ => by rw [BitVec.getLsbD_and, namedLanes_getLsbD, Bool.and_comm]

theorem mem_members (g : Gang) (a : Field10) (m : LaneMask) (l : Nat) : l ∈ members g a m ↔ (namedLanes g a &&& m).getLsbD l = true :=
  lanesOf_members g a m ▸ mem_lanesOf_iff _ l

theorem absentNamed_getLsbD (g : Gang) (a : Field10) (m : LaneMask) (l : Nat) (hl : l < 64) :
    (namedLanes g a &&& ~~~m).getLsbD l = (named g a l && !m.getLsbD l) := by
  rw [BitVec.getLsbD_and, namedLanes_getLsbD, BitVec.getLsbD_not, decide_eq_true hl, Bool.true_and]

theorem absentNamed_ne_zero (g : Gang) (a : Field10) (m : LaneMask) : namedLanes g a &&& ~~~m ≠ 0 ↔ anyMissing g a m = true :=
  ne_zero_iff_any (absentNamed_getLsbD g a m)

-- What a missing lane or selector does (R139, R140)

section Miss

variable (s : State) (gi : Nat) (g : Gang) (p : Path) {r : Gang} {absent : LaneMask} {high : Bool} (info : Word)

/-- Where XLMISS is enabled it is raised, with the absent lanes. -/
theorem withMiss_traps (h : absent ≠ 0 ∨ high = true) (hx : xlen g = true) :
    finish s gi g p 8 (withMiss g p absent high info r) = .next (s.trap gi g p ⟨0x07, p.pc, 0, absent, info⟩) := by
  rw [withMiss, if_neg (by simpa [or_iff_not_imp_left] using h), if_pos hx]
  rfl

/-- Elsewhere the result stands, with MISS set. -/
theorem withMiss_sets (h : absent ≠ 0 ∨ high = true → xlen g = false) : finish s gi g p 8 (withMiss g p absent high info r) =
    .next (pastInstr s gi p 8 { r with xlctl := r.xlctl ||| if absent ≠ 0 ∨ high = true then 1 else 0 }) := by
  rw [withMiss]
  by_cases hc : absent ≠ 0 ∨ high = true
  · have hx : ¬xlen g = true := Bool.eq_false_iff.1 (h hc)
    rw [if_neg (by simpa [or_iff_not_imp_left] using hc), if_neg hx, if_pos hc]
    rfl
  · have hor : r.xlctl ||| 0 = r.xlctl := BitVec.or_zero
    rw [if_pos (by simpa using hc), if_neg hc, hor]
    rfl

end Miss

-- The frame

section Cross

variable {s : State} {i : Instr} {gi : Nat} {g : Gang} {p : Path} {gd : Guard} {a : Field10} {rd wr : List Nat}
  {minor : Word} {f : Gang → Path → LaneMask → LaneMask → Gang}
  (he : exec i s = crossLane i gd a rd wr minor s f) (h : Issues s i gi g p (rd ++ wr)) (h8 : instrBytes i = 8)
include he h h8

/-- With no lane present the path goes past. -/
theorem crossLane_off (hm : guardLanes g p gd = 0) : exec i s = .next (pastInstr s gi p 8 g) := by
  rw [he, crossLane, vectorInstr_run h gd (hm ▸ unpoisoned_zero g rd), if_pos hm, h8]
  rfl

variable (hm : guardLanes g p gd ≠ 0) (hu : Unpoisoned g (guardLanes g p gd) rd)
include hm hu

/-- An absent named lane raises XLMISS where it is enabled (R139). -/
theorem crossLane_raises (hw : wouldTrap g a (guardLanes g p gd) = true) :
    MissTrap i s gi g p a (guardLanes g p gd) minor := by
  obtain ⟨hmiss, hx⟩ := (Bool.and_eq_true _ _).mp hw
  refine ⟨_, ?_, absentNamed_getLsbD g a (guardLanes g p gd)⟩
  rw [he, crossLane, vectorInstr_run h gd hu, if_neg hm, h8]
  exact withMiss_traps s gi g p _ (.inl ((absentNamed_ne_zero g a _).2 hmiss)) hx

/-- Elsewhere the result stands, with MISS where a named lane is absent (R139, R140). -/
theorem crossLane_stands (hw : wouldTrap g a (guardLanes g p gd) = false) : exec i s =
    .next (pastInstr s gi p 8 (withMissing g a (guardLanes g p gd) (f g p (guardLanes g p gd) (namedLanes g a &&& guardLanes g p gd)))) := by
  have hmiss : namedLanes g a &&& ~~~guardLanes g p gd ≠ 0 ∨ false = true ↔ anyMissing g a (guardLanes g p gd) = true := by
    rw [← absentNamed_ne_zero, or_iff_left Bool.false_ne_true]
  have hx (hne : namedLanes g a &&& ~~~guardLanes g p gd ≠ 0 ∨ false = true) : xlen g = false := by
    rwa [wouldTrap, hmiss.1 hne, Bool.true_and] at hw
  rw [he, crossLane, vectorInstr_run h gd hu, if_neg hm, h8]
  refine (withMiss_sets s gi g p _ hx).trans ?_
  simp only [hmiss]
  rfl

end Cross

-- `shfl` (R144)

/-- The lanes that the selectors of lanes `ls` name, of the 64. -/
theorem selected_getLsbD (sel : Nat → Nat) (ls : List Nat) (k : Nat) (hk : k < 64) :
    (ls.foldl (fun acc l => if sel l < 64 then acc ||| laneBit (sel l) else acc) (0 : LaneMask)).getLsbD k = ls.any fun l => sel l == k := by
  have hstep : (fun (acc : LaneMask) l => if sel l < 64 then acc ||| laneBit (sel l) else acc) =
      fun acc l => acc ||| if sel l < 64 then laneBit (sel l) else 0 := by
    funext acc l
    split
    · rfl
    · exact BitVec.or_zero.symm
  have hbit (l : Nat) : (if sel l < 64 then laneBit (sel l) else 0).getLsbD k = (sel l == k) := by
    split
    · exact laneBit_getLsbD _ _ hk
    · rw [beq_eq_false_iff_ne.2 (by omega)]
      exact BitVec.getLsbD_zero
  have hzero : (0 : LaneMask).getLsbD k = false := BitVec.getLsbD_zero
  rw [hstep, foldl_or_getLsbD, hzero, Bool.false_or]
  simp only [hbit]

/-- Settles O26: `vote` runs in the frame of the masked members; `shfl` tells apart the lanes that its selectors name and that are absent. -/
theorem voteShuffle : Obligations.VoteShuffle := by
  intro gd ty d a b pd ps s gi g p m sel absent high missing
  have hvote : exec (.vote gd d a pd ps) s = execVote gd d a pd ps s := rfl
  refine ⟨fun h hs hp hm hw => ?ballot, fun h hm => crossLane_off hvote h rfl hm,
    fun h hm hw => crossLane_raises hvote h rfl hm (unpoisoned_nil g m) hw, fun h hv hu => ?shfl⟩
  case ballot =>
    let ballot : LaneMask := namedLanes g a &&& m &&& getPred g ps
    have hwrote := setPred_wrote (setSS g d.toNat ballot) hp pd m (if ballot = 0 then 0 else m)
    refine ⟨_, _, ballot, crossLane_stands hvote h rfl hm (unpoisoned_nil g m) hw, fun l _ => ?_, writeS_wrote g hs .b64 d ballot, hwrote.congr fun l _ hl => ?_⟩
    · rw [BitVec.getLsbD_and, Bool.eq_iff_iff, Bool.and_eq_true, Bool.and_eq_true, decide_eq_true_iff, mem_members]
    · by_cases h0 : ballot = 0
      · rw [if_pos h0, h0]
        simp
      · rw [if_neg h0, hl]
        exact (bne_iff_ne.2 h0).symm
  case shfl =>
    let named : LaneMask := (lanesOf m).foldl (fun acc l => if sel l < 64 then acc ||| laneBit (sel l) else acc) 0
    have hbits (k : Nat) (hk : k < 64) : (named &&& ~~~m).getLsbD k = absent k := by
      rw [BitVec.getLsbD_and, selected_getLsbD sel _ k hk, BitVec.getLsbD_not, decide_eq_true hk, Bool.true_and, Bool.and_comm]
    have hmissing : named &&& ~~~m ≠ 0 ∨ high = true ↔ missing = true := by
      rw [ne_zero_iff_any hbits, or_comm, ← Bool.or_eq_true]
    have hwrote := writeLanes_wrote g hv ty d m fun l => readV g ty a (if sel l < 64 ∧ m.getLsbD (sel l) = true then sel l else l)
    have hrun : exec (.shfl gd ty d a b) s = finish s gi g p 8 (withMiss g p (named &&& ~~~m) high (if high = true then 0x201 else 1)
        (writeLanes g ty d m fun l => readV g ty a (if sel l < 64 ∧ m.getLsbD (sel l) = true then sel l else l))) := by
      show execShfl gd ty d a b s = _
      rw [execShfl, vectorInstr_run h gd hu]
      simp only [Bool.and_eq_true, decide_eq_true_eq]
      rfl
    refine ⟨fun hx => ⟨_, ?_, hwrote⟩, fun hm hx => ⟨_, ?_, hbits⟩⟩
    · have hkeeps : (writeLanes g ty d m _).xlctl = g.xlctl := (congrArg Gang.xlctl hwrote.rest).trans rfl
      rw [hrun, withMiss_sets s gi g p _ fun hm => hx.resolve_left (by simp [hmissing.1 hm]), hkeeps]
      simp only [hmissing]
    · rw [hrun]
      exact withMiss_traps s gi g p _ (hmissing.2 hm) hx

end Sys2Proof.Machine
end

section
/-! PROOFS. The fixed tree of reductions and scans (R145, R146), and the moves of members (R147, R148). -/

namespace Sys2Proof.Machine
open Sys2Proof.Claim

-- The tree, level by level (R145)

/-- The node of the claim's tree. -/
def flaggedNode (op : Nat → Nat → Nat × FFlags) (x y : Nat × FFlags) : Nat × FFlags := ((op x.1 y.1).1, x.2 ||| y.2 ||| (op x.1 y.1).2)

theorem treeLevel_map (op : Nat → Nat → Nat × FFlags) (f : Nat → TreeVal) (n : Nat) :
    treeLevel op ((List.range (2 * n)).map f) = (List.range n).map fun i => treeNode op (f (2 * i)) (f (2 * i + 1)) := by
  induction n generalizing f with
  | zero => rfl
  | succ n ih =>
    have hsplit : (List.range (2 * (n + 1))).map f = f 0 :: f 1 :: (List.range (2 * n)).map fun i => f (i + 2) := by
      rw [Nat.mul_succ, List.range_succ_eq_map, List.range_succ_eq_map]
      simp [Function.comp_def]
    rw [hsplit, treeLevel, ih, List.range_succ_eq_map, List.map_cons, List.map_map]
    rfl

theorem treeNode_pairTree (op : Nat → Nat → Nat × FFlags) (leaf : Nat → TreeVal) (n base : Nat) :
    treeNode op (pairTree (flaggedNode op) leaf n base) (pairTree (flaggedNode op) leaf n (base + 2 ^ n)) =
      pairTree (flaggedNode op) leaf (n + 1) base := by
  rw [pairTree]
  cases pairTree (flaggedNode op) leaf n base <;> cases pairTree (flaggedNode op) leaf n (base + 2 ^ n) <;> rfl

/-- Level `n` of the tree holds the subtrees over 2^n positions each. -/
theorem treeLevel_pairTree (op : Nat → Nat → Nat × FFlags) (leaf : Nat → TreeVal) (n k : Nat) :
    treeLevel op ((List.range (2 * k)).map fun i => pairTree (flaggedNode op) leaf n (2 ^ n * i)) =
      (List.range k).map fun i => pairTree (flaggedNode op) leaf (n + 1) (2 ^ (n + 1) * i) := by
  rw [treeLevel_map]
  refine List.map_congr_left fun i _ => ?_
  rw [← treeNode_pairTree, Nat.pow_succ, Nat.mul_assoc, Nat.mul_succ]

theorem treeRoot_pairTree (op : Nat → Nat → Nat × FFlags) (leaf : Nat → TreeVal) :
    treeRoot op ((List.range 64).map leaf) = pairTree (flaggedNode op) leaf 6 0 := by
  have hleaves : (List.range 64).map leaf = (List.range (2 * 32)).map fun i => pairTree (flaggedNode op) leaf 0 (2 ^ 0 * i) := by
    simp [pairTree]
  rw [treeRoot, hleaves, treeLevel_pairTree op leaf 0 (2 * 16), treeLevel_pairTree op leaf 1 (2 * 8), treeLevel_pairTree op leaf 2 (2 * 4),
    treeLevel_pairTree op leaf 3 (2 * 2), treeLevel_pairTree op leaf 4 (2 * 1), treeLevel_pairTree op leaf 5 1]
  rfl

/-- The tree over a mask is the claim's over its lanes. -/
theorem xopTree_eq (g : Gang) (op : XOp) (ty : Ty) (rm : RSel) (b : Src) (mem : LaneMask) :
    xopTree g op ty rm b mem = treeValue g op ty rm b (lanesOf mem) := by
  simp only [xopTree, treeRoot_pairTree, treeValue, mem_lanesOf_iff]
  rfl

/-- The members at the positions of a scan (R146). -/
theorem lanesOf_scan (g : Gang) (a : Field10) (m : LaneMask) (inc : Bool) (l : Nat) :
    lanesOf (namedLanes g a &&& m &&& scanLanes inc l) = (members g a m).filter fun k => if inc then decide (k ≤ l) else decide (k < l) := by
  rw [← lanesOf_members]
  refine lanesOf_filter fun k hk => ?_
  rw [BitVec.getLsbD_and, scanLanes, lowLanes_getLsbD]
  cases inc <;> simp [hk]

/-- Settles O27: the model's levels are the claim's subtrees, over the members in the frame they share. -/
theorem reductionResult : Obligations.ReductionResult := by
  intro gd ty rm op inc d a b s gi g p m r q
  have hred (ud : Bool) : exec (.xred gd ty rm op ud d a b) s = execXred gd ty rm op ud d a b s := rfl
  have hscan : exec (.xscan gd ty rm op inc d a b) s = execXscan gd ty rm op inc d a b s := rfl
  have htree : xopTree g op ty rm b (namedLanes g a &&& m) = r := by rw [xopTree_eq, lanesOf_members]
  have hscans (l : Nat) : xopTree g op ty rm b (namedLanes g a &&& guardLanes g p gd &&& scanLanes inc l) = q l := by rw [xopTree_eq, lanesOf_scan]
  refine ⟨fun hm => ⟨fun ud h => crossLane_off (hred ud) h rfl hm, fun h => crossLane_off hscan h rfl hm⟩, fun hv hs hm hu => ⟨fun hw => ⟨fun h => ?_, fun h => ?_, fun h => ?_⟩,
    fun hw => ⟨fun h => ?_, fun h => ?_, fun h => ?_⟩⟩⟩
  · exact crossLane_raises (hred false) h rfl hm hu hw
  · exact crossLane_raises (hred true) (by simpa using h) rfl hm hu hw
  · exact crossLane_raises hscan h rfl hm hu hw
  · refine ⟨_, (crossLane_stands (hred false) h rfl hm hu hw).trans ?_, writeLanes_wrote g hv ty d m _⟩
    rw [htree]
    rfl
  · refine ⟨_, (crossLane_stands (hred true) (by simpa using h) rfl hm hu hw).trans ?_, writeS_wrote g hs ty d _⟩
    rw [htree]
    rfl
  · refine ⟨_, _, (crossLane_stands hscan h rfl hm hu hw).trans ?_, flagsOver_flagsOf m _, writeLanes_wrote g hv ty d m _⟩
    simp only [hscans]
    rfl

-- Moves (R147, R148)


theorem lanesOf_nodup (m : LaneMask) : (lanesOf m).Nodup := List.nodup_range.filter _

theorem zip_fst (dst src : List Nat) : (dst.zip src).map Prod.fst = dst.take src.length := by
  induction dst generalizing src with
  | nil => simp
  | cons a dst ih => cases src with
    | nil => rfl
    | cons c src => rw [List.zip_cons_cons, List.map_cons, ih, List.length_cons, List.take_succ_cons]

/-- What lane `l` of a move takes: the value of the source that stands at its place. -/
def movedValue (g : Gang) (ty : Ty) (b : Src) (dst src : List Nat) (l : Nat) : DWord := readB g ty b (src.getD (dst.idxOf l) 0)

theorem movedValue_getD {dst src : List Nat} (hd : dst.Nodup) (g : Gang) (ty : Ty) (b : Src) {k : Nat} (hk : k < dst.length) :
    movedValue g ty b dst src (dst.getD k 0) = readB g ty b (src.getD k 0) := by
  rw [movedValue, List.getD_eq_getElem _ _ hk, hd.idxOf_getElem]

theorem moveLanes_eq {dst src : List Nat} (hd : dst.Nodup) (g : Gang) (ty : Ty) (d : Field10) (b : Src) :
    (dst.zip src).foldl (fun acc x => writeV acc ty d x.1 (readB g ty b x.2)) g =
      (dst.take src.length).foldl (fun acc l => writeV acc ty d l (movedValue g ty b dst src l)) g := by
  rw [← zip_fst, List.foldl_map]
  refine List.foldl_ext _ _ _ fun acc x hx => ?_
  obtain ⟨k, hk, rfl⟩ := List.getElem_of_mem hx
  have hkd : k < dst.length := by simp at hk; omega
  have hks : k < src.length := by simp at hk; omega
  have hv := movedValue_getD (src := src) hd g ty b hkd
  rw [List.getD_eq_getElem _ _ hkd, List.getD_eq_getElem _ _ hks] at hv
  rw [List.getElem_zip]
  exact congrArg _ hv.symm

/-- The claim of a move from the lanes `src` to the lanes `dst`, with the predicate in those that took a value (R148). -/
def MovesTo (g : Gang) (ty : Ty) (d : Field10) (b : Src) (pd : BitVec 4) (m : LaneMask) (dst src : List Nat) (g1 g2 : Gang) : Prop :=
  g1 = g.withV g1.v g1.vpoison ∧ (∀ r l, l < 64 → l ∉ dst.take src.length → getV g1 r l = getV g r l) ∧
  (∀ k, k < dst.length → k < src.length → readV g1 ty d (dst.getD k 0) = readB g ty b (src.getD k 0)) ∧
  (∀ r l, r ∉ vregs ty d → l < 64 → getV g1 r l = getV g r l) ∧ WroteP g1 g2 pd m (fun l => decide (l ∈ dst.take src.length))

theorem laneBits_getLsbD (ls : List Nat) (k : Nat) (hk : k < 64) :
    (ls.foldl (fun acc l => acc ||| laneBit l) (0 : LaneMask)).getLsbD k = decide (k ∈ ls) := by
  have hzero : (0 : LaneMask).getLsbD k = false := BitVec.getLsbD_zero
  rw [foldl_or_getLsbD, hzero, Bool.false_or, Bool.eq_iff_iff, List.any_eq_true]
  simp [laneBit_getLsbD _ k hk]

theorem fits_readB (g : Gang) (ty : Ty) (b : Src) (l : Nat) : Fits ty (readB g ty b l) := by
  unfold readB
  split
  · exact fits_readS ..
  · exact fits_readV ..

/-- An operand reads what its registers hold. -/
theorem readV_of_regs {g : Gang} {ty : Ty} {d : Field10} {l : Nat} {x : DWord} (hfit : Fits ty x) (hlo : getV g d.toNat l = x.extractLsb' 0 32)
    (hhi : isWide ty = true → getV g (d.toNat + 1) l = x.extractLsb' 32 32) : readV g ty d l = x := by
  unfold readV
  split
  next hw =>
    rw [getVV, hlo, hhi hw]
    exact (BitVec.extractLsb'_append_extractLsb'_eq_extractLsb' rfl).trans BitVec.extractLsb'_eq_self
  next hw =>
    have hlt : x.toNat < 2 ^ 32 := by simpa [Fits, opWidth, hw] using hfit
    refine BitVec.eq_of_toNat_eq ?_
    rw [hlo, BitVec.toNat_setWidth_of_le (by decide), BitVec.extractLsb'_toNat, Nat.shiftRight_zero, Nat.mod_eq_of_lt hlt]

theorem moveLanes_moves {g : Gang} (hv : spOk 0 g.v = true) (hp : spOk 0 g.p = true) (ty : Ty) (d : Field10) (b : Src) (pd : BitVec 4) (m x y : LaneMask) :
    ∃ g1, MovesTo g ty d b pd m (lanesOf x) (lanesOf y) g1 (moveLanes g ty d b pd m (lanesOf x) (lanesOf y)) := by
  set dst := lanesOf x
  set src := lanesOf y
  have hd : dst.Nodup := lanesOf_nodup x
  obtain ⟨-, hrest, hregs, -⟩ := lanes_write ty d (movedValue g ty b dst src) (dst.take src.length)
    (fun l hl => And.left ((mem_lanesOf x l).1 (List.mem_of_mem_take hl))) g hv
  rw [← moveLanes_eq hd] at hrest hregs
  set g1 := (dst.zip src).foldl (fun acc x => writeV acc ty d x.1 (readB g ty b x.2)) g
  have hbits (l : Nat) (hl : l < 64) : ((dst.zip src).foldl (fun acc x => acc ||| laneBit x.1) (0 : LaneMask)).getLsbD l = decide (l ∈ dst.take src.length) := by
    rw [← zip_fst, ← laneBits_getLsbD _ l hl, List.foldl_map]
  have hpreds : spOk 0 g1.p = true := by rw [hrest]; exact hp
  refine ⟨g1, hrest, fun r l hl hout => ?_, fun k hkd hks => ?_, fun r l hr hl => ?_, (setPred_wrote g1 hpreds pd m _).congr fun l hl _ => hbits l hl⟩
  · rw [hregs r l hl, if_neg (fun hin => hout hin.1), if_neg (fun hin => hout hin.1)]
  · have hmem : dst.getD k 0 ∈ dst.take src.length := by
      rw [List.getD_eq_getElem _ _ hkd]
      exact List.mem_take_iff_getElem.2 ⟨k, by omega, rfl⟩
    have hl : dst.getD k 0 < 64 := And.left ((mem_lanesOf x _).1 (List.mem_of_mem_take hmem))
    have hfit : Fits ty (movedValue g ty b dst src (dst.getD k 0)) := fits_readB ..
    rw [← movedValue_getD hd g ty b hkd]
    refine readV_of_regs hfit ((hregs _ _ hl).trans (if_pos ⟨hmem, rfl⟩)) fun hw => (hregs _ _ hl).trans ?_
    rw [if_neg (by simp), if_pos ⟨hmem, hw, rfl⟩]
  · have hne : r ≠ d.toNat := fun e => hr (by unfold vregs; split <;> simp [e])
    have hne' : isWide ty = true → r ≠ d.toNat + 1 := fun hw e => hr (by simp [vregs, hw, e])
    rw [hregs r l hl, if_neg (fun hin => hne hin.2), if_neg (fun hin => hne' hin.2.1 hin.2.2)]

/-- Settles O28: the moves of `xcomp` and `xexp` are one move with its lists exchanged. -/
theorem moveResult : Obligations.MoveResult := by
  intro gd ty d a b pd ps s gi g p m ms ts moved
  have hmatch : exec (.xmatch gd ty d a b) s = execXmatch gd ty d a b s := rfl
  have hcomp : exec (.xcomp gd ty d a b pd ps) s = execXcomp gd ty d a b pd ps s := rfl
  have hexp : exec (.xexp gd ty d a b pd ps) s = execXexp gd ty d a b pd ps s := rfl
  have hms : lanesOf (namedLanes g a &&& m) = ms := lanesOf_members g a m
  have hts : lanesOf (namedLanes g a &&& m &&& getPred g ps) = ts :=
    (lanesOf_filter fun k _ => BitVec.getLsbD_and).trans (congrArg _ hms)
  refine ⟨fun hm => ⟨fun h => crossLane_off hmatch h rfl hm, fun h => crossLane_off hcomp h rfl hm, fun h => crossLane_off hexp h rfl hm⟩,
    fun hv hp hm hu => ⟨fun hw => ⟨fun h => crossLane_raises hmatch h rfl hm hu hw, fun h => crossLane_raises hcomp h rfl hm hu hw,
      fun h => crossLane_raises hexp h rfl hm hu hw⟩, fun hw => ⟨fun h => ?_, fun h => ?_, fun h => ?_⟩⟩⟩
  · refine ⟨_, _, crossLane_stands hmatch h rfl hm hu hw, writeLanes_wrote g hv .b64 d m _, fun l k hk => ?_⟩
    rw [maskWhere_getLsbD _ k hk]
    exact congrArg (· && _) (Bool.eq_iff_iff.2 ((mem_members g a m k).symm.trans (decide_eq_true_iff).symm))
  · obtain ⟨g1, hmoves⟩ := moveLanes_moves hv hp ty d b pd m (namedLanes g a &&& m) (namedLanes g a &&& m &&& getPred g ps)
    refine ⟨g1, _, crossLane_stands hcomp h rfl hm hu hw, ?_⟩
    show MovesTo g ty d b pd m ms ts g1 _
    rw [← hts, ← hms]
    exact hmoves
  · obtain ⟨g1, hmoves⟩ := moveLanes_moves hv hp ty d b pd m (namedLanes g a &&& m &&& getPred g ps) (namedLanes g a &&& m)
    refine ⟨g1, _, crossLane_stands hexp h rfl hm hu hw, ?_⟩
    show MovesTo g ty d b pd m ts ms g1 _
    rw [← hts, ← hms]
    exact hmoves

end Sys2Proof.Machine
end

section
/-! PROOFS. Exact sums and products of finite values (R9, R55), and `rstat` (R160 to R162). -/

namespace Sys2Proof.Machine
open Sys2Proof.Claim

-- The lowest exponent of a sum, and its terms as counts of it

theorem minExp_le (ts : List XReal) (e : Int) : minExp ts e ≤ e := by
  induction ts generalizing e with
  | nil => exact le_rfl
  | cons x ts ih =>
    cases x with
    | nan => exact ih e
    | inf s => exact ih e
    | fin s m f =>
      rw [minExp]
      split
      · exact ih e
      · exact (ih _).trans (min_le_left e f)

theorem minExp_le_term {ts : List XReal} {s : Bool} {m : Nat} {f : Int} (h : XReal.fin s m f ∈ ts) (hm : m ≠ 0) (e : Int) : minExp ts e ≤ f := by
  induction ts generalizing e with
  | nil => cases h
  | cons x ts ih =>
    rcases List.mem_cons.1 h with rfl | htail
    · rw [minExp, if_neg hm]
      exact (minExp_le ts _).trans (min_le_right e f)
    · cases x with
      | nan => exact ih htail e
      | inf s => exact ih htail e
      | fin s m f => exact ih htail _

theorem signedNat_cast (neg : Bool) (n : Nat) : ((signedNat neg n : ℤ) : ℚ) = (if neg then -1 else 1) * n := by
  cases neg <;> simp [signedNat]

theorem valueOf_scaledAt {x : XReal} {e : Int} (h : ∀ s m f, x = .fin s m f → m ≠ 0 → e ≤ f) : valueOf x = scaledAt e x * 2 ^ e := by
  cases x with
  | nan => simp [valueOf, scaledAt]
  | inf s => simp [valueOf, scaledAt]
  | fin s m f =>
    by_cases hm : m = 0
    · simp [valueOf, scaledAt, hm]
    · rw [valueOf, scaledAt, if_neg hm, signedNat_cast, mul_assoc, shifted_mag m (h s m f rfl hm), mul_assoc]

theorem sum_valueOf_scaledAt {ts : List XReal} {e : Int} (h : ∀ x ∈ ts, ∀ s m f, x = .fin s m f → m ≠ 0 → e ≤ f) :
    (ts.map valueOf).sum = ((ts.map (scaledAt e)).sum : ℤ) * 2 ^ e := by
  induction ts with
  | nil => simp
  | cons x ts ih =>
    rw [List.map_cons, List.sum_cons, List.map_cons, List.sum_cons, valueOf_scaledAt (h x (by simp)), ih fun y hy => h y (by simp [hy])]
    push_cast
    ring

theorem foldl_add_eq_sum {α : Type} (f : α → Int) (ts : List α) (z : Int) : ts.foldl (fun acc x => acc + f x) z = z + (ts.map f).sum := by
  induction ts generalizing z with
  | nil => simp
  | cons x ts ih => rw [List.foldl_cons, ih, List.map_cons, List.sum_cons, add_assoc]

theorem isFinite_iff {x : XReal} : isFinite x = true ↔ ∃ s m e, x = .fin s m e := by
  cases x <;> simp [isFinite]

theorem not_inf_of_finite {x : XReal} (h : isFinite x = true) (neg : Bool) : x.isInf neg = false := by
  obtain ⟨s, m, e, rfl⟩ := isFinite_iff.1 h
  rfl

theorem not_nan_of_finite {x : XReal} (h : isFinite x = true) : x.isNan = false := by
  obtain ⟨s, m, e, rfl⟩ := isFinite_iff.1 h
  rfl

-- Sums (R55)

/-- A sum of finite values is finite and exact. -/
theorem xSum_finite {ts : List XReal} (h : ∀ x ∈ ts, isFinite x = true) (mode : RMode) :
    isFinite (xSum mode ts).1 = true ∧ valueOf (xSum mode ts).1 = (ts.map valueOf).sum := by
  have hinf (neg : Bool) : ts.any (XReal.isInf neg) = false := List.any_eq_false.2 fun x hx => by simp [not_inf_of_finite (h x hx)]
  have hnan : ts.any XReal.isNan = false := List.any_eq_false.2 fun x hx => by simp [not_nan_of_finite (h x hx)]
  have hsum := sum_valueOf_scaledAt (ts := ts) (e := minExp ts (firstExp ts)) fun x hx s m f e hm => minExp_le_term (e ▸ hx) hm _
  rw [hsum, xSum]
  simp only [hinf, hnan, foldl_add_eq_sum, zero_add, Bool.false_eq_true, if_false, Bool.and_false]
  generalize (ts.map (scaledAt (minExp ts (firstExp ts)))).sum = t
  by_cases ht : t = 0
  · rw [if_pos ht, ht]
    split_ifs <;> simp [isFinite, valueOf]
  · rw [if_neg ht]
    refine ⟨rfl, ?_⟩
    have habs : (if decide (t < 0) = true then -1 else 1) * ((t.natAbs : ℕ) : ℚ) = t := by
      rw [Nat.cast_natAbs, Int.cast_abs]
      rcases lt_or_ge t 0 with hneg | hpos
      · have : (t : ℚ) < 0 := by exact_mod_cast hneg
        simp [hneg, abs_of_neg this]
      · have : (0 : ℚ) ≤ t := by exact_mod_cast hpos
        simp [not_lt.2 hpos, abs_of_nonneg this]
    rw [valueOf, habs]

theorem xSum_nan {ts : List XReal} (h : XReal.nan ∈ ts) (mode : RMode) : (xSum mode ts).1 = .nan := by
  have hnan : ts.any XReal.isNan = true := List.any_eq_true.2 ⟨_, h, rfl⟩
  simp only [xSum, hnan, if_true]
  split <;> rfl

/-- A sum with +∞ and neither −∞ nor NaN. -/
theorem xSum_posInf {ts : List XReal} (hp : XReal.inf false ∈ ts) (hn : XReal.inf true ∉ ts) (hnan : XReal.nan ∉ ts) (mode : RMode) :
    (xSum mode ts).1 = .inf false := by
  have hpos : ts.any (XReal.isInf false) = true := List.any_eq_true.2 ⟨_, hp, rfl⟩
  have hneg : ts.any (XReal.isInf true) = false := List.any_eq_false.2 fun x hx => by
    cases x with
    | inf s => cases s with
      | false => simp [XReal.isInf]
      | true => exact absurd hx hn
    | nan => simp [XReal.isInf]
    | fin s m e => simp [XReal.isInf]
  have hno : ts.any XReal.isNan = false := List.any_eq_false.2 fun x hx => by
    rw [isNan_iff]
    rintro rfl
    exact hnan hx
  simp [xSum, hpos, hneg, hno]

theorem isFinite_xNeg (x : XReal) : isFinite (xNeg x) = isFinite x := by cases x <;> rfl

theorem valueOf_xNeg (x : XReal) : valueOf (xNeg x) = -valueOf x := by
  cases x with
  | nan => simp [valueOf, xNeg]
  | inf s => simp [valueOf, xNeg]
  | fin s m e => cases s <;> simp [valueOf, xNeg]

/-- The difference of two finite values is finite and exact. -/
theorem xSum_sub {x y : XReal} (hx : isFinite x = true) (hy : isFinite y = true) (mode : RMode) :
    isFinite (xSum mode [x, xNeg y]).1 = true ∧ valueOf (xSum mode [x, xNeg y]).1 = valueOf x - valueOf y := by
  obtain ⟨hfin, hval⟩ := xSum_finite (ts := [x, xNeg y]) (by simp [hx, hy, isFinite_xNeg]) mode
  exact ⟨hfin, hval.trans (by simp [valueOf_xNeg, sub_eq_add_neg])⟩

theorem xMul_finite {x y : XReal} (hx : isFinite x = true) (hy : isFinite y = true) :
    isFinite (xMul x y).1 = true ∧ valueOf (xMul x y).1 = valueOf x * valueOf y := by
  obtain ⟨s, m, e, rfl⟩ := isFinite_iff.1 hx
  obtain ⟨t, n, f, rfl⟩ := isFinite_iff.1 hy
  refine ⟨rfl, ?_⟩
  have hexp : (2 : ℚ) ^ (e + f) = 2 ^ e * 2 ^ f := zpow_add₀ two_ne_zero e f
  rw [xMul, valueOf, valueOf, valueOf, hexp]
  cases s <;> cases t <;> simp <;> ring

-- The statistics of a row (R161, R162)

/-- A sum of the row is exact, and +0 where it is zero. -/
theorem rowSum_exactly {ts : List XReal} (h : ∀ x ∈ ts, isFinite x = true) : exactly (rowSum ts).1 (ts.map valueOf).sum := by
  obtain ⟨hfin, hval⟩ := xSum_finite h .rne
  rw [← hval, rowSum]
  obtain ⟨s, m, e, hx⟩ := isFinite_iff.1 hfin
  rw [hx]
  dsimp only
  by_cases hm : m = 0
  · simp [XReal.isZero, hm, exactly, isFinite, valueOf]
  · have hne : valueOf (.fin s m e) ≠ 0 := by
      have : (m : ℚ) ≠ 0 := by exact_mod_cast hm
      have hpow : (2 : ℚ) ^ e ≠ 0 := zpow_ne_zero e two_ne_zero
      cases s <;> simp [valueOf, this, hpow]
    simp [XReal.isZero, hm, exactly, isFinite, hne]

theorem rowSum_nan {ts : List XReal} (h : XReal.nan ∈ ts) : (rowSum ts).1 = .nan := by
  rw [rowSum, xSum_nan h]
  rfl

theorem rowDiff_nan {x c : XReal} (h : x = .nan ∨ c = .nan) : (rowDiff x c).1 = .nan := by
  refine xSum_nan ?_ _
  rcases h with rfl | rfl
  · simp
  · simp [xNeg]

theorem rowDiff_inf (neg : Bool) {c : XReal} (hc : isFinite c = true) : (rowDiff (.inf neg) c).1 = .inf neg := by
  obtain ⟨s, m, e, rfl⟩ := isFinite_iff.1 hc
  cases neg <;> rfl

/-- The elements of the row, in the order in which they are read. -/
def rowElems (g : Gang) (a : Field10) (n : Nat) (m : LaneMask) : List XReal :=
  (List.range n).flatMap fun j => (lanesOf m).map fun l => (decodeF fmtF32 (ftzOn g) (getV g (a.toNat + j) l).toNat).1

/-- The pilot (R160). -/
def rowPilot (g : Gang) (b : Field10) (m : LaneMask) : XReal := (decodeF fmtF32 (ftzOn g) (getV g b.toNat (lowestLane m)).toNat).1

def rowDiffs (g : Gang) (a b : Field10) (n : Nat) (m : LaneMask) : List XReal := (rowElems g a n m).map fun x => (rowDiff x (rowPilot g b m)).1
def rowSquares (g : Gang) (a b : Field10) (n : Nat) (m : LaneMask) : List XReal := (rowDiffs g a b n m).map fun d => (xMul d d).1

section Row

variable {g : Gang} {a b : Field10} {n : Nat} {m : LaneMask}

theorem rowStats_sums (mode : RMode) : (rowStats g mode a b n m).1 = BitVec.ofNat 32 (roundF fmtF32 mode (ftzOn g) (rowSum (rowDiffs g a b n m)).1).1 ∧
    (rowStats g mode a b n m).2.1 = BitVec.ofNat 32 (roundF fmtF32 mode (ftzOn g) (rowSum (rowSquares g a b n m)).1).1 := by
  simp only [rowStats, rowSquares, rowDiffs, rowElems, rowPilot, List.map_map, List.map_flatMap, Function.comp_def, and_self]

theorem rowElems_ne_nil (hn : n ≠ 0) (hm : m ≠ 0) : rowElems g a n m ≠ [] := by
  obtain ⟨l, hl, hb⟩ := exists_lane hm
  refine List.ne_nil_of_mem (List.mem_flatMap.2 ⟨0, List.mem_range.2 (by omega), List.mem_map.2 ⟨l, (mem_lanesOf m l).2 ⟨hl, hb⟩, rfl⟩⟩)

/-- A finite row: both sums are exact. -/
theorem rowSums_exactly (h : ∀ x ∈ rowPilot g b m :: rowElems g a n m, isFinite x = true) :
    exactly (rowSum (rowDiffs g a b n m)).1 ((rowElems g a n m).map (fun e => valueOf e - valueOf (rowPilot g b m))).sum ∧
    exactly (rowSum (rowSquares g a b n m)).1 ((rowElems g a n m).map (fun e => (valueOf e - valueOf (rowPilot g b m)) ^ 2)).sum := by
  have hdiff (x) (hx : x ∈ rowElems g a n m) := xSum_sub (h x (List.mem_cons_of_mem _ hx)) (h _ List.mem_cons_self) .rne
  have hd : ∀ d ∈ rowDiffs g a b n m, isFinite d = true := List.forall_mem_map.2 fun x hx => (hdiff x hx).1
  have hs : ∀ q ∈ rowSquares g a b n m, isFinite q = true := List.forall_mem_map.2 fun d hq => (xMul_finite (hd d hq) (hd d hq)).1
  have hsum := rowSum_exactly hd
  have hsquares := rowSum_exactly hs
  have hdv : (rowDiffs g a b n m).map valueOf = (rowElems g a n m).map fun e => valueOf e - valueOf (rowPilot g b m) := by
    rw [rowDiffs, List.map_map]
    exact List.map_congr_left fun x hx => (hdiff x hx).2
  have hsv : (rowSquares g a b n m).map valueOf = (rowElems g a n m).map fun e => (valueOf e - valueOf (rowPilot g b m)) ^ 2 := by
    have hmul : (rowSquares g a b n m).map valueOf = ((rowDiffs g a b n m).map valueOf).map fun v => v ^ 2 := by
      rw [rowSquares, List.map_map, List.map_map]
      exact List.map_congr_left fun d hq => (xMul_finite (hd d hq) (hd d hq)).2.trans (sq _).symm
    rw [hmul, hdv, List.map_map]
    rfl
  exact ⟨hdv ▸ hsum, hsv ▸ hsquares⟩

/-- A NaN in the row or the pilot makes a difference NaN, and its square. -/
theorem rowSums_nan (hn : n ≠ 0) (hm : m ≠ 0) (h : XReal.nan ∈ rowPilot g b m :: rowElems g a n m) :
    (rowSum (rowDiffs g a b n m)).1 = .nan ∧ (rowSum (rowSquares g a b n m)).1 = .nan := by
  have hd : XReal.nan ∈ rowDiffs g a b n m := by
    obtain ⟨x, hx, hc⟩ : ∃ x ∈ rowElems g a n m, x = .nan ∨ rowPilot g b m = .nan := by
      rcases List.mem_cons.1 h with hp | hr
      · obtain ⟨x, hx⟩ := List.exists_mem_of_ne_nil _ (rowElems_ne_nil (g := g) (a := a) hn hm)
        exact ⟨x, hx, .inr hp.symm⟩
      · exact ⟨_, hr, .inl rfl⟩
    exact List.mem_map.2 ⟨x, hx, rowDiff_nan hc⟩
  exact ⟨rowSum_nan hd, rowSum_nan (List.mem_map.2 ⟨_, hd, rfl⟩)⟩

/-- An infinity in the row, beside a finite pilot, makes the sum of squares +∞. -/
theorem rowSquares_inf (hnan : XReal.nan ∉ rowElems g a n m) (hp : isFinite (rowPilot g b m) = true) (h : ∃ neg, XReal.inf neg ∈ rowElems g a n m) :
    (rowSum (rowSquares g a b n m)).1 = .inf false := by
  have hsquare {q : XReal} (hq : q ∈ rowSquares g a b n m) : q = .inf false ∨ isFinite q = true := by
    rw [rowSquares, rowDiffs, List.map_map] at hq
    obtain ⟨x, hx, rfl⟩ := List.mem_map.1 hq
    dsimp only [Function.comp]
    cases x with
    | nan => exact absurd hx hnan
    | inf neg =>
      rw [rowDiff_inf neg hp]
      cases neg <;> exact .inl rfl
    | fin s k e =>
      obtain ⟨hd, -⟩ := xSum_sub (x := .fin s k e) rfl hp .rne
      exact .inr (xMul_finite hd hd).1
  have hpos : XReal.inf false ∈ rowSquares g a b n m := by
    obtain ⟨neg, hneg⟩ := h
    refine List.mem_map.2 ⟨.inf neg, List.mem_map.2 ⟨_, hneg, rowDiff_inf neg hp⟩, ?_⟩
    cases neg <;> rfl
  have hsum := xSum_posInf hpos (fun hn => (hsquare hn).elim (by simp) (by simp [isFinite])) (fun hn => (hsquare hn).elim (by simp) (by simp [isFinite])) .rne
  rw [rowSum, hsum]
  rfl

end Row

/-- Settles O10: the differences and squares of a finite row are summed exactly; a NaN and an infinity come through the sums. -/
theorem rowStatistics : Obligations.RowStatistics := by
  intro gd rm d a b n s gi g p h hv hu m r
  have hrun : exec (.rstat gd rm d a b n) s = execRstat gd rm d a b n s := rfl
  obtain ⟨hsum, hsquares⟩ := rowStats_sums (g := g) (a := a) (b := b) (n := n.toNat + 1) (m := m) (selMode g rm)
  have hr1 : r.1 = _ := hsum
  have hr2 : r.2.1 = _ := hsquares
  refine ⟨fun hm => ?_, fun hm => ⟨_, ?_, writeLanes_wrote g hv .b64 d m _⟩, ?_⟩
  · rw [hrun, execRstat, vectorInstr_run h gd hu, if_pos hm]
    rfl
  · rw [hrun, execRstat, vectorInstr_run h gd hu, if_neg hm]
    rfl
  intro el pilot row rounded
  refine ⟨fun hm hfin => ?_, fun hm hnan => ?_, fun hm hnan hfin hinf => ?_⟩
  · obtain ⟨hx, hy⟩ := rowSums_exactly hfin
    exact ⟨_, _, hr1, hr2, hx, hy⟩
  · obtain ⟨hx, hy⟩ := rowSums_nan (Nat.succ_ne_zero _) hm hnan
    rw [hr1, hr2, hx, hy]
    exact ⟨rfl, rfl⟩
  · rw [hr2, rowSquares_inf hnan hfin hinf]
    rfl

end Sys2Proof.Machine
end

section
/-! PROOFS. Table lookups (R164 to R167). -/

namespace Sys2Proof.Machine
open Sys2Proof.Claim

-- Places in the table

theorem clampEntry_eq (e : Int) : clampEntry e = (max 0 (min 1023 e)).toNat := by
  unfold clampEntry
  split_ifs <;> omega

/-- The base and the index of a lookup (R165, R166). -/
def tableBase (g : Gang) (sb : Field10) : Int := if sb = 0x3FF#10 then 0 else (getS g sb.toNat).toInt
def tableIndex (g : Gang) (vi : Field10) (l : Nat) : Int := if vi = 0x3FF#10 then 0 else (getV g vi.toNat l).toInt

theorem tldEntry_eq (g : Gang) (sb vi off : Field10) (l : Nat) :
    tldEntry g sb vi off l = (max 0 (min 1023 ((tableBase g sb + tableIndex g vi l + 4 * off.toInt) / 4))).toNat := clampEntry_eq _

/-- The place that `tldi` looks at, before it is clamped, and what stands for it (R166). -/
def tldiPlace (g : Gang) (sb vi off : Field10) (l : Nat) : Int := (tableBase g sb + 4 * off.toInt) / 4 + tableIndex g vi l / 2 ^ 16
def tldiPart (g : Gang) (sb vi off : Field10) (l : Nat) : Nat :=
  if 0 ≤ tldiPlace g sb vi off l ∧ tldiPlace g sb vi off l < 1023 then (tableIndex g vi l % 2 ^ 16).toNat else 0
def tldiAt (g : Gang) (sb vi off : Field10) (l : Nat) : Nat := (max 0 (min 1023 (tldiPlace g sb vi off l))).toNat

theorem tldiEntry_eq (g : Gang) (sb vi off : Field10) (l : Nat) : tldiEntry g sb vi off l = (tldiAt g sb vi off l, tldiPart g sb vi off l) := by
  have hdef : tldiEntry g sb vi off l = if tldiPlace g sb vi off l < 0 then (0, 0) else if 1023 ≤ tldiPlace g sb vi off l then (1023, 0)
      else ((tldiPlace g sb vi off l).toNat, (tableIndex g vi l % 2 ^ 16).toNat) := rfl
  rw [hdef, tldiAt, tldiPart]
  generalize tldiPlace g sb vi off l = i
  by_cases h0 : i < 0
  · rw [if_pos h0, if_neg (by omega)]
    exact congrArg (·, 0) (by omega)
  · by_cases h1 : 1023 ≤ i
    · rw [if_neg h0, if_pos h1, if_neg (by omega)]
      exact congrArg (·, 0) (by omega)
    · rw [if_neg h0, if_neg h1, if_pos (by omega)]
      exact congrArg (·, _) (by omega)

-- The entries

section Entries

variable {s : State} {g : Gang}

theorem ownsTable_iff : ownsTable s g = true ↔ (s.coreAt g.die g.core).tableOwner = some g.cohort := beq_iff_eq

/-- No entry that is read is poisoned. -/
theorem tablePoison_none {as : List (Nat × Nat)} (p : Path) (h : ownsTable s g = true → ∀ x ∈ as, x.2 ≤ 1024 ∧
    poisonedAt (s.coreAt g.die g.core).mpoison (tableAddr (s.coreAt g.die g.core).bank x.2) 4 = false) : tablePoison s g p as = none := by
  unfold tablePoison
  dsimp only
  split
  next ho =>
    have hnone : (as.map fun a => (a.1, BitVec.ofNat 64 (4 * a.2))).filter (fun a => poisonedAt (s.coreAt g.die g.core).mpoison
        (tableAddr (s.coreAt g.die g.core).bank 0 + a.2.toNat) 4) = [] := by
      refine List.filter_eq_nil_iff.2 (List.forall_mem_map.2 fun x hx => ?_)
      obtain ⟨hle, hsound⟩ := h ho x hx
      have haddr : tableAddr (s.coreAt g.die g.core).bank 0 + (BitVec.ofNat 64 (4 * x.2)).toNat = tableAddr (s.coreAt g.die g.core).bank x.2 := by
        rw [BitVec.toNat_ofNat, Nat.mod_eq_of_lt (by omega), tableAddr, tableAddr]
        omega
      dsimp only
      rw [haddr, hsound]
      exact Bool.false_ne_true
    rw [hitLanes, hnone]
    rfl
  next => rfl

end Entries

-- NaN and interpolation (R166)

theorem nanCode_iff (x : Word) : decide ((x &&& 0x7FFFFFFF).toNat > 0x7F800000) = isNaN x := by
  have hand : (x &&& 0x7FFFFFFF).toNat = x.toNat % 2 ^ 31 := by
    rw [BitVec.toNat_and]
    exact Nat.and_two_pow_sub_one_eq_mod x.toNat 31
  have hex : (x.extractLsb' 23 8).toNat = x.toNat / 2 ^ 23 % 2 ^ 8 := by rw [BitVec.extractLsb'_toNat, Nat.shiftRight_eq_div_pow]
  have hfr : (x.extractLsb' 0 23).toNat = x.toNat % 2 ^ 23 := by rw [BitVec.extractLsb'_toNat, Nat.shiftRight_zero]
  rw [isNaN_eq, hand, hex, hfr, ← decide_not, ← Bool.decide_and]
  exact decide_eq_decide.2 (by omega)

/-- The exact value between two entries. -/
def lerp (x y : XReal) (f : Nat) : XReal := (xSum .rne [x, (xMul (.fin false f (-16)) (xSum .rne [y, xNeg x]).1).1]).1

theorem interpolate_rounds (a b : Word) (f : Nat) : (interpolate a b f).1 =
    BitVec.ofNat 32 (roundF fmtF32 .rne false (lerp (decodeF fmtF32 false a.toNat).1 (decodeF fmtF32 false b.toNat).1 f)).1 := rfl

theorem lerp_nan {x y : XReal} (h : x = .nan ∨ y = .nan) (f : Nat) : lerp x y f = .nan := by
  have hd : (xSum .rne [y, xNeg x]).1 = .nan := rowDiff_nan h.symm
  rw [lerp, hd]
  exact xSum_nan (by simp [xMul]) _

theorem lerp_exact {x y : XReal} (hx : isFinite x = true) (hy : isFinite y = true) (f : Nat) :
    isFinite (lerp x y f) = true ∧ valueOf (lerp x y f) = valueOf x + (f : ℚ) / 2 ^ 16 * (valueOf y - valueOf x) := by
  obtain ⟨hd, hdv⟩ := xSum_sub hy hx .rne
  obtain ⟨hm, hmv⟩ := xMul_finite (x := .fin false f (-16)) rfl hd
  obtain ⟨hs, hsv⟩ := xSum_finite (ts := [x, (xMul (.fin false f (-16)) (xSum .rne [y, xNeg x]).1).1]) (by simp [hx, hm]) .rne
  refine ⟨hs, hsv.trans ?_⟩
  have hfrac : valueOf (.fin false f (-16)) = (f : ℚ) / 2 ^ 16 := by
    rw [valueOf, div_eq_mul_inv, ← zpow_natCast, ← zpow_neg]
    simp
  simp [hmv, hdv, hfrac]

theorem tldiValue_owned {s : State} {g : Gang} (h : ownsTable s g = true) (sb vi off : Field10) (l : Nat) : (tldiValue s g sb vi off l).1 =
    if tldiPart g sb vi off l = 0 then (if isNaN (tableEntry s g (tldiAt g sb vi off l)) = true then 0x7FC00000 else tableEntry s g (tldiAt g sb vi off l))
    else (interpolate (tableEntry s g (tldiAt g sb vi off l)) (tableEntry s g (tldiAt g sb vi off l + 1)) (tldiPart g sb vi off l)).1 := by
  rw [tldiValue, if_pos h, tldiEntry_eq]
  dsimp only
  rw [decodeF_isNan]
  split_ifs <;> rfl

section Lookup

variable {s : State} {gi : Nat} {g : Gang} {p : Path} {gd : Guard} {d sb vi off : Field10}
  (hu : Unpoisoned g (guardLanes g p gd) (if vi = 0x3FF#10 then [] else [vi.toNat]))
include hu

theorem exec_tld (h : Issues s (.tld gd d sb vi off) gi g p ((if vi = 0x3FF#10 then [] else [vi.toNat]) ++ [d.toNat]))
    (hp : tablePoison s g p ((lanesOf (guardLanes g p gd)).map fun l => (l, tldEntry g sb vi off l)) = none) : exec (.tld gd d sb vi off) s =
      .next (pastInstr s gi p 8 (writeLanes g .i32 d (guardLanes g p gd) fun l => (tableEntry s g (tldEntry g sb vi off l)).setWidth 64)) := by
  show execTld gd d sb vi off s = _
  rw [execTld, vectorInstr_run h gd hu]
  simp only [hp, writeLanes32_eq]
  rfl

/-- The entries that `tldi` reads in lane `l`. -/
def tldiReads (g : Gang) (sb vi off : Field10) (l : Nat) : List (Nat × Nat) :=
  if tldiPart g sb vi off l = 0 then [(l, tldiAt g sb vi off l)] else [(l, tldiAt g sb vi off l), (l, tldiAt g sb vi off l + 1)]

theorem exec_tldi (h : Issues s (.tldi gd d sb vi off) gi g p ((if vi = 0x3FF#10 then [] else [vi.toNat]) ++ [d.toNat]))
    (hp : tablePoison s g p ((lanesOf (guardLanes g p gd)).flatMap (tldiReads g sb vi off)) = none) : exec (.tldi gd d sb vi off) s =
      .next (pastInstr s gi p 8 (withFlags (writeLanes g .i32 d (guardLanes g p gd) fun l => ((tldiValue s g sb vi off l).1).setWidth 64)
        (flagsOver (guardLanes g p gd) fun l => (tldiValue s g sb vi off l).2))) := by
  have hreads : (fun l => tldiReads g sb vi off l) = fun l =>
      let (i, f) := tldiEntry g sb vi off l
      if f = 0 then [(l, i)] else [(l, i), (l, i + 1)] := by
    funext l
    rw [tldiEntry_eq]
    rfl
  show execTldi gd d sb vi off s = _
  rw [execTldi, vectorInstr_run h gd hu]
  dsimp only
  rw [← hreads, hp]
  simp only [writeLanes32_eq]
  rfl

end Lookup

/-- Settles O35: the model's places are the claim's; an entry is taken whole, or the exact value between two is rounded. -/
theorem tableLookup : Obligations.TableLookup := by
  intro gd d sb vi off s gi g p mk vr c owns entry base index clamped whole part at_ isNan sound f32 hv hu
  have hentry (ho : owns) (e : Nat) : tableEntry s g e = entry e := by rw [tableEntry, if_pos (ownsTable_iff.2 ho)]; rfl
  have hnan (x : Word) : isNan x = isNaN x := nanCode_iff x
  refine ⟨fun h hs => ?tld, fun h hs => ?tldi⟩
  case tld =>
    have hplace (l : Nat) : tldEntry g sb vi off l = clamped l := tldEntry_eq ..
    have hpoison : tablePoison s g p ((lanesOf mk).map fun l => (l, tldEntry g sb vi off l)) = none :=
      tablePoison_none p fun ho => List.forall_mem_map.2 fun l hl => by
        rw [hplace]
        exact ⟨by simp only [clamped]; omega, hs (ownsTable_iff.1 ho) l hl⟩
    have hw := writeLanes_wrote g hv .i32 d mk fun l => (tableEntry s g (tldEntry g sb vi off l)).setWidth 64
    refine ⟨_, exec_tld hu h hpoison, fun ho => hw.same fun l => .of_eq ?_, fun ho => hw.same fun l => .of_eq ?_⟩
    · rw [hentry ho, hplace]
    · rw [tableEntry, if_neg (mt ownsTable_iff.1 ho)]
      rfl
  case tldi =>
    have hpoison : tablePoison s g p ((lanesOf mk).flatMap (tldiReads g sb vi off)) = none :=
      tablePoison_none p fun ho x hx => by
        obtain ⟨l, hl, hx⟩ := List.mem_flatMap.1 hx
        obtain ⟨hfirst, hnext⟩ := hs (ownsTable_iff.1 ho) l hl
        have hle : tldiAt g sb vi off l ≤ 1023 := by simp only [tldiAt]; omega
        unfold tldiReads at hx
        split at hx
        next => 
          obtain rfl := List.mem_singleton.1 hx
          exact ⟨hle.trans (by decide), hfirst⟩
        next hpart =>
          rcases List.mem_pair.1 hx with rfl | rfl
          · exact ⟨hle.trans (by decide), hfirst⟩
          · exact ⟨Nat.succ_le_succ hle, hnext hpart⟩
    have hw := writeLanes_wrote g hv .i32 d mk fun l => ((tldiValue s g sb vi off l).1).setWidth 64
    refine ⟨_, _, exec_tldi hu h hpoison, fun ho => ?_, fun ho => ?_⟩
    · have hzero (l : Nat) : tldiValue s g sb vi off l = (0, 0) := by rw [tldiValue, if_neg (mt ownsTable_iff.1 ho)]
      refine ⟨?_, hw.same fun l => .of_eq ?_⟩
      · refine BitVec.eq_of_getLsbD_eq fun k _ => ?_
        simp [flagsOver_getLsbD, hzero]
      · rw [hzero]
        rfl
    · let x (l : Nat) : DWord := if part l = 0 then ((tldiValue s g sb vi off l).1).setWidth 64
        else BitVec.ofNat 64 (roundF fmtF32 .rne false (lerp (f32 (entry (at_ l))) (f32 (entry (at_ l + 1))) (part l))).1
      have hvalue (l : Nat) : (tldiValue s g sb vi off l).1 = if part l = 0 then (if isNaN (entry (at_ l)) = true then 0x7FC00000 else entry (at_ l))
          else (interpolate (entry (at_ l)) (entry (at_ l + 1)) (part l)).1 := by
        rw [tldiValue_owned (ownsTable_iff.2 ho), hentry ho, hentry ho]
        rfl
      refine ⟨x, hw.same fun l => ?_, fun l _ => ⟨fun h0 => ?_, fun h0 => ⟨fun hn => ?_, fun hf hf' => ?_⟩⟩⟩
      · by_cases h0 : part l = 0
        · exact .of_eq (if_pos h0).symm
        · have hround : (tldiValue s g sb vi off l).1 =
              BitVec.ofNat 32 (roundF fmtF32 .rne false (lerp (f32 (entry (at_ l))) (f32 (entry (at_ l + 1))) (part l))).1 :=
            ((hvalue l).trans (if_neg h0)).trans (interpolate_rounds ..)
          have hx : x l = _ := if_neg h0
          rw [hround, hx]
          exact same_ofNat64 _
      · have hx : x l = _ := if_pos h0
        rw [hx, (hvalue l).trans (if_pos h0), hnan]
        split <;> rfl
      · have hcode (y : Word) (hy : isNan y = true) : f32 y = .nan := isNan_iff.1 ((decodeF_isNan false y).trans (hnan y ▸ hy))
        have hx : x l = _ := if_neg h0
        rw [hx, lerp_nan (hn.imp (hcode _) (hcode _))]
        rfl
      · obtain ⟨hfin, hexact⟩ := lerp_exact hf hf' (part l)
        exact ⟨_, hfin, if_neg h0, hexact⟩

end Sys2Proof.Machine
end

section
/-! PROOFS. The commands of a core's copy queue, and how they start (R333, R336, R339, R340, R343, R346, R350). -/

namespace Sys2Proof.Machine
open Sys2Proof.Claim

-- A command in its queue

section Queue

variable {s : State} {k : Nat} {c : CopyCmd}

theorem findCmd_queued (h : Queued s k c) : findCmd (coreOf s k) c.id = some c := h.pos

/-- A command stays in its queue where the cores stay. -/
theorem queued_of_cores (h : Queued s k c) {u : State} (hu : u.cores = s.cores) : Queued u k c :=
  ⟨hu ▸ h.cores, by rw [State.coreAt, hu]; exact h.pos⟩

/-- The record of a command is replaced. -/
theorem cmdAt_putCmd (h : Queued s k c) {c' : CopyCmd} (hid : c'.id = c.id) : cmdAt (s.putCmd k c') k c.id = some c' := by
  have hsame : ((fun x : CopyCmd => x.id == c.id) ∘ fun x => if x.id = c'.id then c' else x) = fun x => x.id == c.id := by
    funext x
    dsimp only [Function.comp]
    split
    · rw [hid, ‹x.id = c'.id›, hid]
    · rfl
  have hcore : coreOf (s.putCmd k c') k = mapCmd (coreOf s k) c'.id fun _ => c' := coreOf_putCore h.cores ..
  have hfind := findCmd_queued h
  rw [findCmd] at hfind
  show (coreOf (s.putCmd k c') k).copyq.find? _ = _
  rw [hcore, mapCmd, List.find?_map, hsame, hfind, Option.map_some, if_pos hid.symm]

theorem putCmd_core (h : spOk Core.reset s.cores = true) (c : CopyCmd) :
    coreOf (s.putCmd k c) k = { coreOf s k with copyq := (coreOf (s.putCmd k c) k).copyq } := by
  have hcore : coreOf (s.putCmd k c) k = mapCmd (coreOf s k) c.id fun _ => c := coreOf_putCore h ..
  rw [hcore]
  rfl

theorem takeWhile_before {pre post : List CopyCmd} (h : ∀ x ∈ pre, x.id ≠ c.id) : (pre ++ c :: post).takeWhile (fun x => decide (x.id ≠ c.id)) = pre := by
  rw [List.takeWhile_append_of_pos (by simpa using h), List.takeWhile_cons_of_neg (by simp), List.append_nil]

end Queue

-- Whether the command's cohort stands still (R343, R380)

theorem cmdMoves_unstopped {s : State} {c : CopyCmd} (h : Unstopped s c) : cmdMoves s c = true := by
  unfold cmdMoves
  split
  · rfl
  next g hg =>
    split
    · rfl
    next d hd => rw [h g d hg hd]; rfl

theorem cmdMoves_stopped {s : State} {c : CopyCmd} (h : StoppedCmd s c) : cmdMoves s c = false := by
  obtain ⟨g, d, gr, hg, hd, hstop, hgr, hfailed, hfault⟩ := h
  simp [cmdMoves, hg, hd, hstop, hgr, hfailed, hfault]

-- COPY_CMD_START

section Start

variable {s : State} {k : Nat} {c : CopyCmd} (hq : Queued s k c)
include hq

theorem copyCmdStart_run : exec (.copyCmdStart k c.id) s =
    if !cmdMoves s c then .next s
    else if !c.active then
      if ((coreOf s k).copyq.filter (·.active)).length < 4 ∧ ((coreOf s k).copyq.takeWhile (fun x => x.id ≠ c.id)).all (·.active) then
        .next (s.putCmd k { c with active := true })
      else .next s
    else if isFlsig c.instr then
      if !c.asked && c.fault.isNone && c.covers.all (fun i => (findCmd (coreOf s k) i).isNone) then .next (sendMarkers s k { c with started := true })
      else .next s
    else if c.started || !mayStart s k c then .next s
    else
      let c1 := { c with started := true }
      let owner := match s.gang c.gang with | some g => (coreOf s k).tableOwner == some g.cohort | none => false
      if isTload c.instr && !owner then .next (s.putCmd k (failCmd c1 ceTABLE c.off 0))
      else if descRefused c then .next (s.putCmd k (failCmd c1 ceDESC c.off 0))
      else .next (s.putCmd k c1) := by
  have hfind : findCmd (s.coreAt (keyDie k) (keyCore k)) c.id = some c := findCmd_queued hq
  show execCopyCmdStart k c.id s = _
  rw [execCopyCmdStart]
  simp only [hfind]
  rfl

theorem copyCmdStart_stopped (h : StoppedCmd s c) : exec (.copyCmdStart k c.id) s = .next s := by
  rw [copyCmdStart_run hq, cmdMoves_stopped h]
  rfl

variable (hu : Unstopped s c)
include hu

/-- A command that waits becomes active in its turn while fewer than four are. -/
theorem copyCmdStart_waiting (ha : c.active = false) {pre post : List CopyCmd} (hc : (coreOf s k).copyq = pre ++ c :: post) (hpre : ∀ x ∈ pre, x.id ≠ c.id) :
    exec (.copyCmdStart k c.id) s = if ((coreOf s k).copyq.filter (·.active)).length < 4 ∧ pre.all (·.active) then
      .next (s.putCmd k { c with active := true }) else .next s := by
  have hbefore : (coreOf s k).copyq.takeWhile (fun x => x.id ≠ c.id) = pre := hc ▸ takeWhile_before hpre
  rw [copyCmdStart_run hq, cmdMoves_unstopped hu, hbefore, ha]
  rfl

/-- A command in flight makes no access before the accesses before it are over. -/
theorem copyCmdStart_held (ha : c.active = true) (hs : c.started = false) (hf : isFlsig c.instr = false) (hm : mayStart s k c = false) :
    exec (.copyCmdStart k c.id) s = .next s := by
  simp [copyCmdStart_run hq, cmdMoves_unstopped hu, ha, hs, hf, hm]

/-- A command with a descriptor makes its first access, or its descriptor is refused. -/
theorem copyCmdStart_begins (ha : c.active = true) (hs : c.started = false) (hf : isFlsig c.instr = false) (hm : mayStart s k c = true) (ht : isTload c.instr = false) :
    exec (.copyCmdStart k c.id) s =
      .next (s.putCmd k (if descRefused c then failCmd { c with started := true } ceDESC c.off 0 else { c with started := true })) := by
  cases hd : descRefused c <;> simp [copyCmdStart_run hq, cmdMoves_unstopped hu, ha, hs, hf, hm, ht, hd]

/-- A `tload` reads its first line, or finds the table with another cohort. -/
theorem copyCmdStart_tload (ha : c.active = true) (hs : c.started = false) (hf : isFlsig c.instr = false) (hm : mayStart s k c = true) (ht : isTload c.instr = true)
    {g : Gang} (hg : s.gang c.gang = some g) : exec (.copyCmdStart k c.id) s =
      .next (s.putCmd k (if (coreOf s k).tableOwner = some g.cohort then { c with started := true } else failCmd { c with started := true } ceTABLE c.off 0)) := by
  have hd : descRefused c = false := by
    unfold isTload at ht
    split at ht
    next hi => simp [descRefused, hi]
    next => cases ht
  by_cases ho : (coreOf s k).tableOwner = some g.cohort <;> simp [copyCmdStart_run hq, cmdMoves_unstopped hu, ha, hs, hf, hm, ht, hd, hg, ho]

/-- A `flsig` asks every home once what it covers is over. -/
theorem copyCmdStart_flsig (ha : c.active = true) (hf : isFlsig c.instr = true) : exec (.copyCmdStart k c.id) s =
    if !c.asked && c.fault.isNone && c.covers.all (fun i => (findCmd (coreOf s k) i).isNone) then .next (sendMarkers s k { c with started := true })
    else .next s := by
  rw [copyCmdStart_run hq, cmdMoves_unstopped hu, ha, hf]
  rfl

end Start

theorem mayStart_iff {s : State} {k : Nat} {c : CopyCmd} : mayStart s k c = true ↔
    (∀ n ∈ c.before, ∀ r ∈ s.reqs, r.tag ≠ n) ∧ (∀ n ∈ c.oxBefore, ∀ e ∈ (coreOf s k).oxq, e.id ≠ n) ∧
      (isTload c.instr = true → ∀ x ∈ (coreOf s k).copyq.takeWhile (fun x => decide (x.id ≠ c.id)), isTload x.instr = false) := by
  have hcore : s.coreAt (keyDie k) (keyCore k) = coreOf s k := rfl
  rw [mayStart, hcore]
  cases isTload c.instr <;> simp [and_assoc]

-- Requests without a stamp (R419)

theorem sendPlain_sent {s : State} (h : spOk [] s.flights = true) (who : Who) (p : Packet) : ∃ q pk, Sent s (sendPlain s who p).2 p.src p.dst q pk ∧ q.who = who ∧
    (sendPlain s who p).1 = q.tag ∧ pk = { p with tag := pk.tag, check := pk.check } := by
  refine ⟨⟨s.fresh, p.src, p.dst, none, false, who, if p.dup || p.partner then some p else none⟩,
    { p with tag := s.fresh, check := packetCheck { p with tag := s.fresh } }, ⟨⟨s.reqs, ?_, rfl⟩, rfl, rfl, rfl, rfl, rfl, rfl, ?_⟩, rfl, rfl, rfl⟩
  · unfold sendPlain; dsimp only; split <;> rfl
  · unfold sendPlain
    dsimp only
    split
    · exact spGet_spSet_same [] _ _ h
    · exact spGet_spSet_same [] _ _ h

theorem sendPlain_cores (s : State) (who : Who) (p : Packet) : (sendPlain s who p).2.cores = s.cores := by
  unfold sendPlain; dsimp only; split <;> rfl

theorem memorySame_sendPlain (s : State) (who : Who) (p : Packet) : MemorySame s (sendPlain s who p).2 := by
  unfold sendPlain; dsimp only; split <;> exact ⟨rfl, rfl⟩

/-- A request goes into the channel of its operation alone. -/
theorem sendPlain_flights (s : State) (who : Who) (p : Packet) : ∃ pk, pk.op = p.op ∧ (sendPlain s who p).2.flights =
    spSet [] s.flights (flightKey p.src p.dst (chanOf p.op)) (spGet [] s.flights (flightKey p.src p.dst (chanOf p.op)) ++ [pk]) := by
  refine ⟨{ p with tag := s.fresh, check := packetCheck { p with tag := s.fresh } }, rfl, ?_⟩
  unfold sendPlain; dsimp only; split <;> rfl

-- The flush markers of a `flsig` (R350)

/-- A marker to each home of a list. -/
def sendMarkersTo (k id : Nat) (hs : List Nat) (s : State) : State :=
  hs.foldl (fun acc h => (sendPlain acc (.flush (keyDie k) (keyCore k) id) (blankPacket acc .flushMarker (keyDie k) h)).2) s

theorem sendMarkersTo_keeps (k id : Nat) (hs : List Nat) (s : State) : (sendMarkersTo k id hs s).cores = s.cores ∧ MemorySame s (sendMarkersTo k id hs s) := by
  induction hs generalizing s with
  | nil => exact ⟨rfl, rfl, rfl⟩
  | cons h hs ih =>
    obtain ⟨hcores, hhbm, hhost⟩ := ih (sendPlain s (.flush (keyDie k) (keyCore k) id) (blankPacket s .flushMarker (keyDie k) h)).2
    obtain ⟨hhbm', hhost'⟩ := memorySame_sendPlain s (.flush (keyDie k) (keyCore k) id) (blankPacket s .flushMarker (keyDie k) h)
    exact ⟨hcores.trans (sendPlain_cores ..), hhbm.trans hhbm', hhost.trans hhost'⟩

theorem sendMarkersTo_flights (k id : Nat) {hs : List Nat} (hn : hs.Nodup) {s : State} (hok : spOk [] s.flights = true) (x : Nat) :
    (x ∉ hs → spGet [] (sendMarkersTo k id hs s).flights (flightKey (keyDie k) x 2) = spGet [] s.flights (flightKey (keyDie k) x 2)) ∧
    (x ∈ hs → ∃ a, spGet [] (sendMarkersTo k id hs s).flights (flightKey (keyDie k) x 2) = spGet [] s.flights (flightKey (keyDie k) x 2) ++ [a] ∧
      a.op = .flushMarker) := by
  induction hs generalizing s with
  | nil => exact ⟨fun _ => rfl, nofun⟩
  | cons h hs ih =>
    obtain ⟨hh, hn⟩ := List.nodup_cons.1 hn
    obtain ⟨a, hop, hf⟩ := sendPlain_flights s (.flush (keyDie k) (keyCore k) id) (blankPacket s .flushMarker (keyDie k) h)
    have hf : (sendPlain s (.flush (keyDie k) (keyCore k) id) (blankPacket s .flushMarker (keyDie k) h)).2.flights =
      spSet [] s.flights (flightKey (keyDie k) h 2) (spGet [] s.flights (flightKey (keyDie k) h 2) ++ [a]) := hf
    obtain ⟨hout, hin⟩ := ih hn (s := (sendPlain s (.flush (keyDie k) (keyCore k) id) (blankPacket s .flushMarker (keyDie k) h)).2) (hf ▸ spOk_spSet _ _ _ hok)
    have hne (hx : x ≠ h) : flightKey (keyDie k) x 2 ≠ flightKey (keyDie k) h 2 := by simp only [flightKey]; omega
    have hother (hx : x ≠ h) :
      spGet [] (spSet [] s.flights (flightKey (keyDie k) h 2) (spGet [] s.flights (flightKey (keyDie k) h 2) ++ [a])) (flightKey (keyDie k) x 2) =
      spGet [] s.flights (flightKey (keyDie k) x 2) := spGet_spSet_ne [] _ (hne hx) hok
    rw [hf] at hout hin
    refine ⟨fun hx => ?_, fun hx => ?_⟩
    · obtain ⟨hx, hxs⟩ := not_or.1 (mt List.mem_cons.2 hx)
      exact (hout hxs).trans (hother hx)
    · by_cases hx' : x = h
      · subst hx'
        exact ⟨a, (hout hh).trans (spGet_spSet_same [] _ _ hok), hop⟩
      · rw [hother hx'] at hin
        exact hin ((List.mem_cons.1 hx).resolve_left hx')

theorem mem_liveHomes {s : State} {h : Nat} : h ∈ liveHomes s ↔ h = 16 ∨ (8 ≤ h ∧ h < 16 ∧ homeServes s h = true) := by
  have hrange : h ∈ [8, 9, 10, 11, 12, 13, 14, 15] ↔ 8 ≤ h ∧ h < 16 := by simp; omega
  rw [liveHomes, List.mem_append, List.mem_filter, hrange, List.mem_singleton, or_comm, and_assoc]

theorem nodup_liveHomes (s : State) : (liveHomes s).Nodup := by
  refine (List.Nodup.filter _ (by decide)).append (List.nodup_singleton _) (List.disjoint_singleton.2 fun h => ?_)
  have := (List.mem_filter.1 h).1
  simp at this

end Sys2Proof.Machine
end

section
/-! PROOFS. Where the elements of a command lie (R334, R335, R340), and what a store of bytes leaves in a local store (R252). -/

namespace Sys2Proof.Machine
open Sys2Proof.Claim

-- The kinds of command

theorem isCpg_iff {i : Instr} : isCpg i = true ↔ ∃ gd a b t, i = .cpg gd a b t := by
  unfold isCpg
  split <;> simp_all

theorem isCps_iff {i : Instr} : isCps i = true ↔ ∃ gd a b t, i = .cps gd a b t := by
  unfold isCps
  split <;> simp_all

theorem isCpx_iff {i : Instr} : isCpx i = true ↔ ∃ gd a t, i = .cpx gd a t := by
  unfold isCpx
  split <;> simp_all

theorem isCpz_iff {i : Instr} : isCpz i = true ↔ ∃ gd a t, i = .cpz gd a t := by
  unfold isCpz
  split <;> simp_all

theorem isTload_iff {i : Instr} : isTload i = true ↔ ∃ gd l a t, i = .tload gd l a t := by
  unfold isTload
  split <;> simp_all

theorem isFlsig_iff {i : Instr} : isFlsig i = true ↔ ∃ gd sc n t u, i = .flsig gd sc n t u := by
  unfold isFlsig
  split <;> simp_all

theorem isCopy_cases {i : Instr} (h : isCopy i = true) :
    (∃ gd a b t, i = .cpg gd a b t) ∨ (∃ gd a b t, i = .cps gd a b t) ∨ (∃ gd a t, i = .cpx gd a t) ∨ ∃ gd a t, i = .cp gd a t := by
  unfold isCopy at h
  split at h
  next => exact .inr (.inr (.inr ⟨_, _, _, rfl⟩))
  next =>
    rw [Bool.or_false, Bool.or_eq_true, Bool.or_eq_true, isCpg_iff, isCps_iff, isCpx_iff] at h
    exact (or_assoc.1 h).imp_right (Or.imp_right .inl)

-- Addresses of elements

section Elements

variable {c : CopyCmd} {n i0 i1 i2 : Nat}

theorem elemIjk_visits (hv : Visits c n i0 i1 i2) (hz : isCpz c.instr = false) : elemIjk c n = (i0, i1, i2) := by
  obtain ⟨h0, h1, rfl⟩ := hv
  have hpos : 0 < c.desc.n0 := by omega
  have hpos' : 0 < c.desc.n1 := by omega
  have hq : ((i2 * c.desc.n1 + i1) * c.desc.n0 + i0) / c.desc.n0 = i2 * c.desc.n1 + i1 := by
    rw [Nat.add_comm, Nat.add_mul_div_right _ _ hpos, Nat.div_eq_of_lt h0, Nat.zero_add]
  have hdef : ∀ m, elemIjk c m = (m % c.desc.n0, m / c.desc.n0 % c.desc.n1, m / (c.desc.n0 * c.desc.n1)) := fun m => by
    unfold elemIjk
    split
    next hi => simp [isCpz, hi] at hz
    next => rfl
  rw [hdef, ← Nat.div_div_eq_div_mul, hq, Nat.mul_add_mod_of_lt h0, Nat.mul_add_mod_of_lt h1, Nat.add_comm, Nat.add_mul_div_right _ _ hpos', Nat.div_eq_of_lt h1,
    Nat.zero_add]

/-- An address in three dimensions (R334). -/
def elemAt (base s2 s1 : DWord) (size i0 i1 i2 : Nat) : DWord := base + BitVec.ofNat 64 i2 * s2 + BitVec.ofNat 64 i1 * s1 + BitVec.ofNat 64 (i0 * size)

/-- The elements of a copy: in three dimensions, but for the side that `cpg` and `cps` index (R334). -/
theorem copy_addresses (hv : Visits c n i0 i1 i2) (hc : isCopy c.instr = true) (idx : Nat) :
    elemSrc c n idx = (if isCpg c.instr then c.desc.src + BitVec.ofNat 64 (idx * (elemSizes c).1) else elemAt c.desc.src c.desc.ss2 c.desc.ss1 (elemSizes c).1 i0 i1 i2) ∧
    elemDst c n idx = (if isCps c.instr then c.desc.dst + BitVec.ofNat 64 (idx * (elemSizes c).2) else elemAt c.desc.dst c.desc.ds2 c.desc.ds1 (elemSizes c).2 i0 i1 i2) ∧
    (isCpx c.instr = false → elemSizes c = (2 ^ (c.desc.ctl.toNat / 256 % 8), 2 ^ (c.desc.ctl.toNat / 256 % 8))) := by
  have hijk (hz : isCpz c.instr = false) := elemIjk_visits hv hz
  rcases isCopy_cases hc with ⟨gd, a, b, t, hi⟩ | ⟨gd, a, b, t, hi⟩ | ⟨gd, a, t, hi⟩ | ⟨gd, a, t, hi⟩ <;> rw [hi] at hijk <;>
    simp [elemSrc, elemDst, hijk rfl, hi, isCpg, isCps, isCpx, elemAt, nat64, elemSizes, ctlEsz]

theorem tload_addresses (ht : isTload c.instr = true) (n idx : Nat) : elemSrc c n idx = c.off + BitVec.ofNat 64 (64 * n) ∧ elemCount c = 64 := by
  obtain ⟨gd, l, a, t, hi⟩ := isTload_iff.1 ht
  simp [elemSrc, elemCount, hi, nat64]

/-- Row and column of an element of a `cpz` (R335). -/
theorem cpzRc_eq {r col : Nat} (hr : r < c.desc.n1) (hcol : col < c.desc.n0)
    (hn : n = if c.desc.ctl.getLsbD 23 then col * c.desc.n1 + r else r * c.desc.n0 + col) : cpzRc c n = (r, col) := by
  have hdef : cpzRc c n = if c.desc.ctl.getLsbD 23 then (n % c.desc.n1, n / c.desc.n1) else (n / c.desc.n0, n % c.desc.n0) := rfl
  have hdiv {x y m : Nat} (hy : y < m) : (x * m + y) / m = x := by
    rw [Nat.add_comm, Nat.add_mul_div_right _ _ (by omega), Nat.div_eq_of_lt hy, Nat.zero_add]
  rw [hdef, hn]
  split
  · rw [Nat.mul_add_mod_of_lt hr, hdiv hr]
  · rw [Nat.mul_add_mod_of_lt hcol, hdiv hcol]

theorem cpz_address (hz : isCpz c.instr = true) {r col : Nat} (hr : r < c.desc.n1) (hcol : col < c.desc.n0)
    (hn : n = if c.desc.ctl.getLsbD 23 then col * c.desc.n1 + r else r * c.desc.n0 + col) (idx : Nat) :
    elemSrc c n idx = c.desc.src + BitVec.ofNat 64 r * c.desc.ss1 + BitVec.ofNat 64 (col * cpzBits (tyOfCode (c.desc.ctl.toNat / 4096 % 16)) / 8) := by
  obtain ⟨gd, a, t, hi⟩ := isCpz_iff.1 hz
  simp only [elemSrc, hi, cpzRc_eq hr hcol hn]
  rfl

/-- What is written is what was read, but for `cpx` (R334). -/
theorem elemOut_plain (hx : isCpx c.instr = false) (data : List Byte) : elemOut c data = data := by
  unfold elemOut
  split
  next hi => simp [isCpx, hi] at hx
  next => rfl

theorem elemOut_cpx (hx : isCpx c.instr = true) (data : List Byte) {a b : NumTy} (ha : numTy (tyOfCode (c.desc.ctl.toNat / 4096 % 16)) = some a)
    (hb : numTy (tyOfCode (c.desc.ctl.toNat / 65536 % 16)) = some b) :
    elemOut c data = bytesLE (elemSizes c).2 (convert a b (cpxMode c) false (natLE data)).1 := by
  obtain ⟨gd, x, t, hi⟩ := isCpx_iff.1 hx
  have ha' : numTy (tyOfCode (ctlSty c.desc.ctl)) = some a := ha
  have hb' : numTy (tyOfCode (ctlDty c.desc.ctl)) = some b := hb
  simp only [elemOut, hi, ha', hb']

end Elements

-- Bytes of the local store

theorem localByte_writeImage (bs : List Byte) (a j : Nat) {m : List Host.Cell} (hm : spOk 0 m = true) :
    let m' := writeImage m ((bs.zipIdx j).map fun x => (a + x.2, x.1))
    spOk 0 m' = true ∧ ∀ x, localByte m' x = if a + j ≤ x ∧ x < a + j + bs.length then bs.getD (x - (a + j)) 0 else localByte m x := by
  induction bs generalizing j m with
  | nil => exact ⟨hm, fun x => by simp [writeImage]⟩
  | cons b bs ih =>
    obtain ⟨hok, hbytes⟩ := ih (j + 1) (spOk_spSet 0 (a + j) b hm)
    refine ⟨hok, fun x => (hbytes x).trans ?_⟩
    by_cases hx : x = a + j
    · subst hx
      rw [if_neg (by omega), if_pos (by simp), localByte, spGet_spSet_same 0 _ _ hm]
      simp
    · rw [localByte, localByte, spGet_spSet_ne 0 _ hx hm]
      by_cases hin : a + (j + 1) ≤ x ∧ x < a + (j + 1) + bs.length
      · have hsub : x - (a + j) = x - (a + (j + 1)) + 1 := by omega
        rw [if_pos hin, if_pos (by simp; omega), hsub, List.getD_cons_succ]
      · rw [if_neg hin, if_neg (by simp; omega)]

/-- A store writes its bytes and no others. -/
theorem storeLocal_wrote {co : Core} (h : spOk 0 co.mem = true) (a : Nat) (b : List Byte) :
    WroteLocal co (storeLocal co (imageOf a b)) a b ∧ spOk 0 (storeLocal co (imageOf a b)).mem = true := by
  obtain ⟨hok, hbytes⟩ := localByte_writeImage b a 0 h
  exact ⟨hbytes, hok⟩

theorem wroteLocal_nil (co : Core) (a : Nat) : WroteLocal co co a [] := fun x => by simp

/-- One write after another. -/
theorem wroteLocal_append {co co1 co2 : Core} {a : Nat} {b1 b2 : List Byte} (h1 : WroteLocal co co1 a b1) (h2 : WroteLocal co1 co2 (a + b1.length) b2) :
    WroteLocal co co2 a (b1 ++ b2) := by
  intro x
  rw [h2 x, h1 x, List.length_append]
  by_cases h : a ≤ x ∧ x < a + b1.length
  · rw [if_neg (by omega), if_pos h, if_pos (by omega), List.getD_append _ _ _ _ (by omega)]
  · by_cases h' : a + b1.length ≤ x ∧ x < a + b1.length + b2.length
    · rw [if_pos h', if_pos (by omega), List.getD_append_right _ _ _ _ (by omega), Nat.sub_sub]
    · rw [if_neg h', if_neg h, if_neg (by omega)]

end Sys2Proof.Machine
end

section
/-! PROOFS. The elements of a command: read into staging, and written (R334 to R337, R340). -/

namespace Sys2Proof.Machine
open Sys2Proof.Claim

-- COPY_ELEMENT

section Turn

variable {s : State} {k : Nat} {c : CopyCmd}

theorem copyElement_rests (hq : Queued s k c) (h : (!c.active || !c.started || c.fault.isSome || !cmdMoves s c) = true) :
    exec (.copyElement k c.id) s = .next s := by
  have hfind : findCmd (s.coreAt (keyDie k) (keyCore k)) c.id = some c := findCmd_queued hq
  show execCopyElement k c.id s = _
  simp only [execCopyElement, hfind, h, if_true]

theorem copyElement_stopped (hq : Queued s k c) (h : StoppedCmd s c) : exec (.copyElement k c.id) s = .next s :=
  copyElement_rests hq (by simp [cmdMoves_stopped h])

variable (hm : Moves s k c)
include hm

/-- The element at the head is written. -/
theorem copyElement_writes {data : List Byte} {idx : Nat} (h : look c.stage c.n = some (.bytes data idx)) :
    exec (.copyElement k c.id) s = .next (writeElement s k c data idx) := by
  have hfind : findCmd (s.coreAt (keyDie k) (keyCore k)) c.id = some c := findCmd_queued hm.queued
  show execCopyElement k c.id s = _
  simp [execCopyElement, hfind, hm.active, hm.started, hm.sound, hm.free, cmdMoves_unstopped hm.unstopped, h]

/-- A fault at the head ends the command. -/
theorem copyElement_fails {code : Nat} {a : DWord} (h : look c.stage c.n = some (.fault code a)) :
    exec (.copyElement k c.id) s = .next (s.putCmd k { c with fault := some (code, a, c.n), stage := [] }) := by
  have hfind : findCmd (s.coreAt (keyDie k) (keyCore k)) c.id = some c := findCmd_queued hm.queued
  show execCopyElement k c.id s = _
  simp [execCopyElement, hfind, hm.active, hm.started, hm.sound, hm.free, cmdMoves_unstopped hm.unstopped, h, failCmd]

/-- Else the next element is read, while the staging has room. -/
theorem copyElement_reads (h : look c.stage c.n = none) : exec (.copyElement k c.id) s =
    if c.rn < elemCount c ∧ c.rn < c.n + max 1 (256 / (elemSizes c).1) then .next (readElement s k c) else .next s := by
  have hfind : findCmd (s.coreAt (keyDie k) (keyCore k)) c.id = some c := findCmd_queued hm.queued
  show execCopyElement k c.id s = _
  simp [execCopyElement, hfind, hm.active, hm.started, hm.sound, hm.free, cmdMoves_unstopped hm.unstopped, h]

end Turn

-- Scratch (R337)

section Scratch

variable {c : CopyCmd} {co : Core} {a : DWord} {n : Nat} (read : Bool)

theorem cmdLocal_outside (h : c.limit < a.toNat + n) : cmdLocal c co a n read = some (ceSCRATCH, a) := by
  rw [cmdLocal, if_pos h]

theorem poisonedAt_iff (co : Core) (a n : Nat) : poisonedAt co.mpoison a n = true ↔ HurtAt co a n := by
  simp [poisonedAt, HurtAt]

theorem cmdLocal_hurt (h : a.toNat + n ≤ c.limit) (hp : HurtAt co (c.base + a.toNat) n) : cmdLocal c co a n true = some (cePOISON, a) := by
  rw [cmdLocal, if_neg (by omega), (poisonedAt_iff ..).2 hp]
  rfl

theorem cmdLocal_sound (h : a.toNat + n ≤ c.limit) (hp : ¬HurtAt co (c.base + a.toNat) n) : cmdLocal c co a n true = none := by
  rw [cmdLocal, if_neg (by omega), Bool.eq_false_iff.2 (mt (poisonedAt_iff ..).1 hp)]
  rfl

theorem cmdLocal_write (h : a.toNat + n ≤ c.limit) : cmdLocal c co a n false = none := by
  rw [cmdLocal, if_neg (by omega)]
  rfl

end Scratch

/-- A translation changes of the command's record only what it has learned. -/
theorem cmdTranslate_cmd (s : State) (k : Nat) (c : CopyCmd) (rd wr : Bool) (va : DWord) :
    (cmdTranslate s k c rd wr va).2.1 = { c with xc := (cmdTranslate s k c rd wr va).2.1.xc } := by
  unfold cmdTranslate
  split
  · rfl
  · dsimp only
    split
    · rfl
    · split <;> rfl

theorem cmdTranslate_keeps {s s1 : State} {k : Nat} {c c1 : CopyCmd} {rd wr : Bool} {va : DWord} {r : CmdXl} (h : cmdTranslate s k c rd wr va = (r, c1, s1)) :
    c1 = { c with xc := c1.xc } := by
  have hkeeps := cmdTranslate_cmd s k c rd wr va
  rwa [h] at hkeeps

-- An element is read (R334, R336)

/-- A command that takes its addresses from an index array. -/
def isIndexed (i : Instr) : Bool := isCpg i || isCps i

/-- What was read for the next element, or the fault of it, goes into staging. -/
def stageNext (s : State) (k : Nat) (c : CopyCmd) (n : Nat) (x : Staged) : State := s.putCmd k { c with rn := n + 1, stage := c.stage ++ [(n, x)] }

/-- The read of the next element, its index known. -/
def readSource (s : State) (k : Nat) (c : CopyCmd) (idx : Nat) : State :=
  if srcLocal c then
    match cmdLocal c (coreOf s k) (elemSrc c c.rn idx) (elemSizes c).1 true with
    | some (code, x) => stageNext s k c c.rn (.fault code x)
    | none => stageNext s k c c.rn (.bytes (localBytes (coreOf s k).mem (c.base + (elemSrc c c.rn idx).toNat) (elemSizes c).1) idx)
  else
    match cmdTranslate s k c true false (elemSrc c c.rn idx) with
    | (.wait, c1, s1) => s1.putCmd k c1
    | (.fault code, c1, s1) => stageNext s1 k c1 c.rn (.fault code (elemSrc c c.rn idx))
    | (.park pri level, c1, s1) => parkCmd s1 k c1 c.rn (elemSrc c c.rn idx) pri level
    | (.ok place xl, c1, s1) =>
      let t := targetOf s1 (keyDie k) true place xl
      if t.remote then stageNext s1 k c1 c.rn (.bytes (placeBytes s1 place (elemSizes c).1) idx)
      else match t.dst with
        | none => stageNext s1 k c1 c.rn (.fault ceLOST (elemSrc c c.rn idx))
        | some d =>
          let r := sendPlain s1 (.engineRead (keyDie k) (keyCore k) c.id (place % 64))
            { blankPacket s1 .engineRead (keyDie k) d with asid := c.asid, addr := t.addr, dup := t.dup, partner := t.partner }
          r.2.putCmd k { c1 with rn := c.rn + 1, reads := c1.reads ++ [(r.1, c.rn, elemSrc c c.rn idx)] }

section Read

variable {s : State} {k : Nat} {c : CopyCmd}

theorem readElement_plain (h : isIndexed c.instr = false) : readElement s k c = readSource s k c 0 := by
  obtain ⟨hg, hs⟩ := (Bool.or_eq_false_iff).mp h
  have hcpg (gd a b t) : ¬c.instr = .cpg gd a b t := fun hi => by simp [isCpg, hi] at hg
  have hcps (gd a b t) : ¬c.instr = .cps gd a b t := fun hi => by simp [isCps, hi] at hs
  -- `hcpg` and `hcps` decide the match on the instruction
  simp only [readElement, if_false, Bool.false_eq_true]
  rfl

/-- An index is read from scratch first (R334). -/
theorem readElement_indexed (h : isIndexed c.instr = true) : readElement s k c =
    match cmdLocal c (coreOf s k) (nat64 (c.idxOff + 4 * c.rn)) 4 true with
    | some (code, a) => stageNext s k c c.rn (.fault code a)
    | none => readSource s k c (localNat (coreOf s k).mem (c.base + c.idxOff + 4 * c.rn) 4) := by
  rcases (Bool.or_eq_true _ _).mp h with hi | hi
  · obtain ⟨gd, a, b, t, hi⟩ := isCpg_iff.1 hi
    cases c
    subst hi
    rfl
  · obtain ⟨gd, a, b, t, hi⟩ := isCps_iff.1 hi
    cases c
    subst hi
    rfl

/-- The index of the next element. -/
def nextIndex (s : State) (k : Nat) (c : CopyCmd) : Nat := if isIndexed c.instr then localNat (coreOf s k).mem (c.base + c.idxOff + 4 * c.rn) 4 else 0

section Index

variable (h64 : c.idxOff + 4 * c.rn + 4 < 2 ^ 64)
include h64

theorem indexOffset_toNat : (nat64 (c.idxOff + 4 * c.rn)).toNat = c.idxOff + 4 * c.rn := by
  rw [nat64, BitVec.toNat_ofNat, Nat.mod_eq_of_lt (by omega)]

theorem readElement_indexOutside (hi : isIndexed c.instr = true) (h : c.limit < c.idxOff + 4 * c.rn + 4) :
    readElement s k c = stageNext s k c c.rn (.fault ceSCRATCH (nat64 (c.idxOff + 4 * c.rn))) := by
  rw [readElement_indexed hi, cmdLocal_outside _ (by rw [indexOffset_toNat h64]; exact h)]

theorem readElement_indexHurt (hi : isIndexed c.instr = true) (h : c.idxOff + 4 * c.rn + 4 ≤ c.limit)
    (hp : HurtAt (coreOf s k) (c.base + c.idxOff + 4 * c.rn) 4) :
    readElement s k c = stageNext s k c c.rn (.fault cePOISON (nat64 (c.idxOff + 4 * c.rn))) := by
  rw [readElement_indexed hi, cmdLocal_hurt (by rw [indexOffset_toNat h64]; exact h) (by rw [indexOffset_toNat h64, ← Nat.add_assoc]; exact hp)]

theorem readElement_source (h : isIndexed c.instr = true → c.idxOff + 4 * c.rn + 4 ≤ c.limit ∧ ¬HurtAt (coreOf s k) (c.base + c.idxOff + 4 * c.rn) 4) :
    readElement s k c = readSource s k c (nextIndex s k c) := by
  cases hi : isIndexed c.instr
  · rw [readElement_plain hi, nextIndex, hi]
    rfl
  · obtain ⟨hfits, hsound⟩ := h hi
    rw [readElement_indexed hi, cmdLocal_sound (by rw [indexOffset_toNat h64]; exact hfits) (by rw [indexOffset_toNat h64, ← Nat.add_assoc]; exact hsound),
      nextIndex, hi]
    rfl

end Index

section Source

variable {idx : Nat} {c1 : CopyCmd} {s1 : State}

theorem readSource_outside (hl : srcLocal c = true) (h : c.limit < (elemSrc c c.rn idx).toNat + (elemSizes c).1) :
    readSource s k c idx = stageNext s k c c.rn (.fault ceSCRATCH (elemSrc c c.rn idx)) := by
  rw [readSource, if_pos hl, cmdLocal_outside _ h]

theorem readSource_hurt (hl : srcLocal c = true) (h : (elemSrc c c.rn idx).toNat + (elemSizes c).1 ≤ c.limit)
    (hp : HurtAt (coreOf s k) (c.base + (elemSrc c c.rn idx).toNat) (elemSizes c).1) :
    readSource s k c idx = stageNext s k c c.rn (.fault cePOISON (elemSrc c c.rn idx)) := by
  rw [readSource, if_pos hl, cmdLocal_hurt h hp]

theorem readSource_bytes (hl : srcLocal c = true) (h : (elemSrc c c.rn idx).toNat + (elemSizes c).1 ≤ c.limit)
    (hp : ¬HurtAt (coreOf s k) (c.base + (elemSrc c c.rn idx).toNat) (elemSizes c).1) : readSource s k c idx =
      stageNext s k c c.rn (.bytes (localBytes (coreOf s k).mem (c.base + (elemSrc c c.rn idx).toNat) (elemSizes c).1) idx) := by
  rw [readSource, if_pos hl, cmdLocal_sound h hp]

variable (hl : srcLocal c = false)
include hl

theorem readSource_fault {code : Nat} (hx : cmdTranslate s k c true false (elemSrc c c.rn idx) = (.fault code, c1, s1)) :
    readSource s k c idx = stageNext s1 k c1 c.rn (.fault code (elemSrc c c.rn idx)) := by
  simp only [readSource, hl, hx, Bool.false_eq_true, if_false]

theorem readSource_wait (hx : cmdTranslate s k c true false (elemSrc c c.rn idx) = (.wait, c1, s1)) : readSource s k c idx = s1.putCmd k c1 := by
  simp only [readSource, hl, hx, Bool.false_eq_true, if_false]

variable {place : Nat} {xl : Xl} (hx : cmdTranslate s k c true false (elemSrc c c.rn idx) = (.ok place xl, c1, s1))
include hx

theorem readSource_remote (hr : (targetOf s1 (keyDie k) true place xl).remote = true) :
    readSource s k c idx = stageNext s1 k c1 c.rn (.bytes (placeBytes s1 place (elemSizes c).1) idx) := by
  simp only [readSource, hl, hx, hr, Bool.false_eq_true, if_false, if_true]

variable (hr : (targetOf s1 (keyDie k) true place xl).remote = false)
include hr

theorem readSource_lost (hd : (targetOf s1 (keyDie k) true place xl).dst = none) :
    readSource s k c idx = stageNext s1 k c1 c.rn (.fault ceLOST (elemSrc c c.rn idx)) := by
  simp only [readSource, hl, hx, hr, hd, Bool.false_eq_true, if_false]

/-- One engine read goes to the home (R229, R336). -/
theorem readSource_sends {d : Nat} (hd : (targetOf s1 (keyDie k) true place xl).dst = some d) :
    let t := targetOf s1 (keyDie k) true place xl
    let r := sendPlain s1 (.engineRead (keyDie k) (keyCore k) c.id (place % 64))
      { blankPacket s1 .engineRead (keyDie k) d with asid := c.asid, addr := t.addr, dup := t.dup, partner := t.partner }
    readSource s k c idx = r.2.putCmd k { c1 with rn := c.rn + 1, reads := c1.reads ++ [(r.1, c.rn, elemSrc c c.rn idx)] } := by
  simp only [readSource, hl, hx, hr, hd, Bool.false_eq_true, if_false]

end Source
end Read

-- What a read leaves

/-- An element in staging: memory and gangs stay, and the command has read one more. -/
theorem stageNext_stages {s : State} {k : Nat} {c c1 : CopyCmd} (hq : Queued s k c) (hc : c1 = { c with xc := c1.xc }) (x : Staged) :
    MemorySame s (stageNext s k c1 c.rn x) ∧ (stageNext s k c1 c.rn x).gangs = s.gangs ∧ cmdAt (stageNext s k c1 c.rn x) k c.id = some (staged c c1 x) := by
  refine ⟨⟨rfl, rfl⟩, rfl, ?_⟩
  rw [hc]
  exact cmdAt_putCmd hq rfl

end Sys2Proof.Machine
end

section
/-! PROOFS. The element at the head of a command is written (R334 to R337, R340). -/

namespace Sys2Proof.Machine
open Sys2Proof.Claim

theorem failCmd_sound {c : CopyCmd} (h : c.fault = none) (code : Nat) (a : DWord) (n : Nat) :
    failCmd c code a n = { c with fault := some (code, a, n), stage := [] } := by
  simp [failCmd, h]

/-- The record of a command when its element `n` is written. -/
def pastElement (c : CopyCmd) (n : Nat) : CopyCmd := { c with n := n + 1, stage := c.stage.filter (fun e => e.1 ≠ n) }

theorem isCopy_not {i : Instr} (h : isCopy i = true) : (∀ gd l a t, i = .tload gd l a t → False) ∧ ∀ gd a t, i = .cpz gd a t → False := by
  refine ⟨fun _ _ _ _ hi => ?_, fun _ _ _ hi => ?_⟩ <;> subst hi <;> cases h

-- Into scratch (R337)

section Store

variable {s : State} {k : Nat} {c : CopyCmd} {a : DWord} {b : List Byte}

theorem cmdStore_outside (h : c.limit < a.toNat + b.length) : cmdStore s k c a b = (some (ceSCRATCH, a), s) := by
  simp only [cmdStore, cmdLocal_outside _ h]

theorem cmdStore_stores (h : a.toNat + b.length ≤ c.limit) : cmdStore s k c a b =
    (none, s.putCore (keyDie k) (keyCore k) (storeLocal (coreOf s k) (imageOf (c.base + a.toNat) b))) := by
  simp only [cmdStore, cmdLocal_write h]
  rfl

end Store

section Copy

variable {s s1 : State} {k : Nat} {c c1 : CopyCmd} {b : List Byte} {idx : Nat} (hc : isCopy c.instr = true)
include hc

theorem writeElement_outside (hl : ctlDsp c.desc.ctl = 1) (h : c.limit < (elemDst c c.n idx).toNat + (elemOut c b).length) :
    writeElement s k c b idx = s.putCmd k (failCmd c ceSCRATCH (elemDst c c.n idx) c.n) := by
  obtain ⟨ht, hz⟩ := isCopy_not hc
  simp only [writeElement, hl, cmdStore_outside h, if_true]

theorem writeElement_stores (hl : ctlDsp c.desc.ctl = 1) (h : (elemDst c c.n idx).toNat + (elemOut c b).length ≤ c.limit) :
    writeElement s k c b idx = (s.putCore (keyDie k) (keyCore k)
      (storeLocal (coreOf s k) (imageOf (c.base + (elemDst c c.n idx).toNat) (elemOut c b)))).putCmd k (pastElement c c.n) := by
  obtain ⟨ht, hz⟩ := isCopy_not hc
  simp only [writeElement, hl, cmdStore_stores h, if_true, pastElement]

variable (hl : ctlDsp c.desc.ctl ≠ 1)
include hl

/-- A write to global memory waits for the one before it (log entry 119). -/
theorem writeElement_waits (h : c.writes ≠ []) : writeElement s k c b idx = s := by
  obtain ⟨ht, hz⟩ := isCopy_not hc
  simp [writeElement, hl, h]

variable (hw : c.writes = [])
include hw

theorem writeElement_fault {code : Nat} (hx : cmdTranslate s k c false true (elemDst c c.n idx) = (.fault code, c1, s1)) :
    writeElement s k c b idx = s1.putCmd k (failCmd c1 code (elemDst c c.n idx) c.n) := by
  obtain ⟨ht, hz⟩ := isCopy_not hc
  simp [writeElement, hl, hw, hx]

variable {place : Nat} {xl : Xl} (hx : cmdTranslate s k c false true (elemDst c c.n idx) = (.ok place xl, c1, s1))
  (hr : (targetOf s1 (keyDie k) false place xl).remote = false)
include hx hr

theorem writeElement_lost (hd : (targetOf s1 (keyDie k) false place xl).dst = none) :
    writeElement s k c b idx = s1.putCmd k (failCmd c1 ceLOST (elemDst c c.n idx) c.n) := by
  obtain ⟨ht, hz⟩ := isCopy_not hc
  simp [writeElement, hl, hw, hx, hr, hd]

end Copy

/-- The line that a bulk write carries, with the element at `p`. -/
def lineWith (p : Nat) (out : List Byte) : List Byte := copies p 0 ++ out ++ copies (64 - (copies p (0 : Byte) ++ out).length) 0

/-- The bytes of a line that an element of `n` bytes at `p` takes. -/
def lineMask (p n : Nat) : LaneMask := BitVec.ofNat 64 ((2 ^ n - 1) * 2 ^ p)

theorem lineMask_getLsbD (p n x : Nat) (hx : x < 64) : (lineMask p n).getLsbD x = decide (p ≤ x ∧ x < p + n) := by
  rw [lineMask, BitVec.getLsbD_ofNat, testBit_ones, decide_eq_true hx, Bool.true_and, Bool.decide_and]

theorem lineWith_getD {p x : Nat} {out : List Byte} (h : p ≤ x ∧ x < p + out.length) : (lineWith p out).getD x 0 = out.getD (x - p) 0 := by
  have hp : (copies p (0 : Byte)).length = p := List.length_replicate ..
  rw [lineWith, List.getD_append _ _ _ _ (by rw [List.length_append, hp]; omega), List.getD_append_right _ _ _ _ (by omega), hp]

/-- The packet of a bulk write of an element (R334, R336). -/
def bulkPacket (s : State) (k : Nat) (c : CopyCmd) (d place : Nat) (t : Target) (out : List Byte) : Packet :=
  { blankPacket s .bulkWrite (keyDie k) d with asid := c.asid, addr := t.addr, dup := t.dup, ben := lineMask (place % 64) out.length, data := lineWith (place % 64) out }

/-- One bulk write goes to the home. -/
theorem writeElement_sends {s s1 : State} {k : Nat} {c c1 : CopyCmd} {b : List Byte} {idx : Nat} (hc : isCopy c.instr = true) (hl : ctlDsp c.desc.ctl ≠ 1)
    (hw : c.writes = []) {place : Nat} {xl : Xl} (hx : cmdTranslate s k c false true (elemDst c c.n idx) = (.ok place xl, c1, s1))
    (hr : (targetOf s1 (keyDie k) false place xl).remote = false) {d : Nat} (hd : (targetOf s1 (keyDie k) false place xl).dst = some d) :
    let r := sendPlain s1 (.engineWrite (keyDie k) (keyCore k) c.id) (bulkPacket s1 k c d place (targetOf s1 (keyDie k) false place xl) (elemOut c b))
    writeElement s k c b idx = r.2.putCmd k { pastElement c1 c.n with
      writes := c1.writes ++ [(r.1, c.n, elemDst c c.n idx)]
      hostWrites := if d = 16 then c1.hostWrites ++ [(r.1, elemDst c c.n idx)] else c1.hostWrites } := by
  obtain ⟨ht, hz⟩ := isCopy_not hc
  simp [writeElement, hl, hw, hx, hr, hd, pastElement, bulkPacket, lineWith, lineMask]

end Sys2Proof.Machine
end

section
/-! PROOFS. What a command leaves in scratch and in the table, and the words of a `cpz` (R168, R318, R335, R337). -/

namespace Sys2Proof.Machine
open Sys2Proof.Claim

/-- The bytes `b` went into the local store of core `k` at `a`; of what the commands touch, nothing else changed. -/
structure StoredAt (s s' : State) (k a : Nat) (b : List Byte) : Prop where
  cores : spOk Core.reset s'.cores = true
  mem : spOk 0 (coreOf s' k).mem = true
  queue : (coreOf s' k).copyq = (coreOf s k).copyq
  bank : (coreOf s' k).bank = (coreOf s k).bank
  same : MemorySame s s'
  gangs : s'.gangs = s.gangs
  wrote : WroteLocal (coreOf s k) (coreOf s' k) a b

section Stored

variable {s s' : State} {k a : Nat} {b : List Byte} {c : CopyCmd}

theorem storedAt_nil (hc : spOk Core.reset s.cores = true) (hm : spOk 0 (coreOf s k).mem = true) (a : Nat) : StoredAt s s k a [] :=
  ⟨hc, hm, rfl, rfl, ⟨rfl, rfl⟩, rfl, wroteLocal_nil _ _⟩

theorem storedAt_storeLocal (hc : spOk Core.reset s.cores = true) (hm : spOk 0 (coreOf s k).mem = true) (a : Nat) (b : List Byte) :
    StoredAt s (s.putCore (keyDie k) (keyCore k) (storeLocal (coreOf s k) (imageOf a b))) k a b := by
  have hcore : coreOf (s.putCore (keyDie k) (keyCore k) (storeLocal (coreOf s k) (imageOf a b))) k = storeLocal (coreOf s k) (imageOf a b) := coreOf_putCore hc ..
  obtain ⟨hwrote, hok⟩ := storeLocal_wrote hm a b
  refine ⟨spOk_spSet _ _ _ hc, ?_, ?_, ?_, ⟨rfl, rfl⟩, rfl, ?_⟩ <;> rw [hcore]
  · exact hok
  · rfl
  · rfl
  · exact hwrote

theorem StoredAt.append {s'' : State} {b' : List Byte} (h : StoredAt s s' k a b) (h' : StoredAt s' s'' k (a + b.length) b') : StoredAt s s'' k a (b ++ b') :=
  ⟨h'.cores, h'.mem, h'.queue.trans h.queue, h'.bank.trans h.bank, ⟨h'.same.1.trans h.same.1, h'.same.2.trans h.same.2⟩, h'.gangs.trans h.gangs,
    wroteLocal_append h.wrote h'.wrote⟩

theorem StoredAt.queued (h : StoredAt s s' k a b) (hq : Queued s k c) : Queued s' k c :=
  ⟨h.cores, (congrArg (List.find? _) h.queue).trans hq.pos⟩

/-- The command's record is put back after its bytes. -/
theorem StoredAt.putCmd (h : StoredAt s s' k a b) (hq : Queued s k c) {c' : CopyCmd} (hid : c'.id = c.id) :
    MemorySame s (s'.putCmd k c') ∧ (s'.putCmd k c').gangs = s.gangs ∧ cmdAt (s'.putCmd k c') k c.id = some c' ∧
      (coreOf (s'.putCmd k c') k).bank = (coreOf s k).bank ∧ WroteLocal (coreOf s k) (coreOf (s'.putCmd k c') k) a b := by
  refine ⟨h.same, h.gangs, cmdAt_putCmd (h.queued hq) hid, ?_, ?_⟩ <;> rw [putCmd_core h.cores]
  · exact h.bank
  · exact h.wrote

end Stored

/-- A line of a `tload` goes into the inactive bank (R168, R340). -/
theorem writeElement_tload {s : State} {k : Nat} {c : CopyCmd} (ht : isTload c.instr = true) (b : List Byte) (idx : Nat) : writeElement s k c b idx =
    (s.putCore (keyDie k) (keyCore k) (storeLocal (coreOf s k) (imageOf (tableAddr (1 - (coreOf s k).bank) 0 + 64 * c.n) b))).putCmd k (pastElement c c.n) := by
  obtain ⟨gd, l, a, t, hi⟩ := isTload_iff.1 ht
  cases c
  subst hi
  rfl

-- The words of a `cpz` (R335)

section Words

variable {c : CopyCmd} {n r col : Nat}

theorem cpzWords_eq (hr : r < c.desc.n1) (hcol : col < c.desc.n0) (hn : n = if c.desc.ctl.getLsbD 23 then col * c.desc.n1 + r else r * c.desc.n0 + col)
    (b : List Byte) :
    let ty := tyOfCode (c.desc.ctl.toNat / 4096 % 16)
    let code := if cpzBits ty = 4 then natLE b / 16 ^ (col % 2) % 16 else natLE b
    code < 2 ^ 16 → cpzWords c n b = zOut c n r col code (zeroCode ty code) := by
  intro ty code hcode
  have hzero : (code % 2 ^ 15 == 0) = (code == 0 || code == 0x8000) := by
    rw [Bool.eq_iff_iff, Bool.or_eq_true, beq_iff_eq, beq_iff_eq, beq_iff_eq]
    omega
  have hends : ((if c.desc.ctl.getLsbD 23 then r + 1 == c.desc.n1 else col + 1 == c.desc.n0) = true) =
      ((c.desc.ctl.getLsbD 23 = true ∧ r + 1 = c.desc.n1) ∨ (c.desc.ctl.getLsbD 23 = false ∧ col + 1 = c.desc.n0)) := by
    cases c.desc.ctl.getLsbD 23 <;> simp
  have hori : ctlOri c.desc.ctl = c.desc.ctl.getLsbD 23 := rfl
  have hty : tyOfCode (ctlSty c.desc.ctl) = ty := rfl
  have hc : (if cpzBits ty = 4 then natLE b / 16 ^ (col % 2) % 16 else natLE b) = code := rfl
  simp only [cpzWords, cpzRc_eq hr hcol hn, zOut, hori, hty, hc, hzero, hends]
  rfl

theorem zOut_length_le (c : CopyCmd) (n r col code : Nat) (zero : Bool) : (zOut c n r col code zero).length ≤ 3 := by
  have hone {p : Prop} [Decidable p] (x : Nat × Nat) : (if p then [x] else []).length ≤ 1 := by split <;> simp
  have hzero (x : Nat × Nat) : (if zero then [] else [x]).length ≤ 1 := by split <;> simp
  simp only [zOut, List.length_append]
  have h1 := hzero ((if c.desc.ctl.getLsbD 23 then r else col) * 0x10000 + code, n)
  have h2 := hone (p := (c.desc.ctl.getLsbD 23 = true ∧ r + 1 = c.desc.n1) ∨ (c.desc.ctl.getLsbD 23 = false ∧ col + 1 = c.desc.n0)) (0xFFFF0000, n + 1)
  have h3 := hone (p := n + 1 = c.desc.n0 * c.desc.n1) (0xFFFE0000, n + 1)
  omega

end Words

section Compress

variable {s : State} {k : Nat} {c : CopyCmd}

theorem length_bytesLE (n x : Nat) : (bytesLE n x).length = n := by
  induction n generalizing x with
  | zero => rfl
  | succ n ih => rw [bytesLE, List.length_cons, ih]

theorem writeElement_cpz (hz : isCpz c.instr = true) (b : List Byte) (idx : Nat) : writeElement s k c b idx =
    (cpzStore k (cpzWords c c.n b) s (pastElement c c.n)).1.putCmd k (cpzStore k (cpzWords c c.n b) s (pastElement c c.n)).2 := by
  obtain ⟨gd, a, t, hi⟩ := isCpz_iff.1 hz
  cases c
  subst hi
  rfl

/-- Where the next word of a `cpz` goes. -/
theorem cpz_next_toNat (hd : c.desc.dst.toNat < 2 ^ 32) (hw : c.zw < 2 ^ 29) : (c.desc.dst + nat64 (4 * c.zw)).toNat = c.desc.dst.toNat + 4 * c.zw := by
  rw [BitVec.toNat_add, nat64, BitVec.toNat_ofNat, Nat.mod_eq_of_lt (a := 4 * c.zw) (by omega), Nat.mod_eq_of_lt (by omega)]

/-- A word that finds room in DS1 and in the area is stored. -/
theorem cpzStore_cons {w : Nat × Nat} {rest : List (Nat × Nat)} (hroom : 4 * (c.zw + 1) ≤ c.desc.ds1.toNat) (hd : c.desc.dst.toNat < 2 ^ 32) (hw : c.zw < 2 ^ 29)
    (harea : c.desc.dst.toNat + 4 * (c.zw + 1) ≤ c.limit) : cpzStore k (w :: rest) s c =
      cpzStore k rest (s.putCore (keyDie k) (keyCore k) (storeLocal (coreOf s k) (imageOf (c.base + c.desc.dst.toNat + 4 * c.zw) (bytesLE 4 w.1))))
        { c with zw := c.zw + 1 } := by
  have haddr := cpz_next_toNat hd hw
  have hfits : (c.desc.dst + nat64 (4 * c.zw)).toNat + (bytesLE 4 w.1).length ≤ c.limit := by rw [haddr, length_bytesLE]; omega
  rw [cpzStore, if_neg (by omega), cmdStore_stores hfits, haddr, ← Nat.add_assoc]

/-- Words that find room are stored one after another. -/
theorem cpzStore_append (rest : List (Nat × Nat)) (hd : c.desc.dst.toNat < 2 ^ 32) (pre : List (Nat × Nat)) (hw : c.zw + pre.length < 2 ^ 29)
    (hroom : 4 * (c.zw + pre.length) ≤ c.desc.ds1.toNat) (harea : pre = [] ∨ c.desc.dst.toNat + 4 * (c.zw + pre.length) ≤ c.limit)
    (hc : spOk Core.reset s.cores = true) (hm : spOk 0 (coreOf s k).mem = true) :
    ∃ s', StoredAt s s' k (c.base + c.desc.dst.toNat + 4 * c.zw) (pre.flatMap fun w => bytesLE 4 w.1) ∧
      cpzStore k (pre ++ rest) s c = cpzStore k rest s' { c with zw := c.zw + pre.length } := by
  induction pre generalizing s c with
  | nil => exact ⟨s, storedAt_nil hc hm _, rfl⟩
  | cons w pre ih =>
    have harea : c.desc.dst.toNat + 4 * (c.zw + (w :: pre).length) ≤ c.limit := harea.resolve_left (List.cons_ne_nil _ _)
    rw [List.length_cons] at hw hroom harea
    have hone := storedAt_storeLocal hc hm (c.base + c.desc.dst.toNat + 4 * c.zw) (bytesLE 4 w.1)
    obtain ⟨s', hstored, hrest⟩ := ih (c := { c with zw := c.zw + 1 }) hd (show c.zw + 1 + pre.length < 2 ^ 29 by omega)
      (show 4 * (c.zw + 1 + pre.length) ≤ c.desc.ds1.toNat by omega) (.inr (show c.desc.dst.toNat + 4 * (c.zw + 1 + pre.length) ≤ c.limit by omega)) hone.cores hone.mem
    refine ⟨s', hone.append (b' := pre.flatMap fun w => bytesLE 4 w.1) ?_, ?_⟩
    · rw [length_bytesLE]
      exact hstored
    · rw [List.cons_append, cpzStore_cons (by omega) hd (by omega) (by omega), hrest, List.length_cons, Nat.add_right_comm, Nat.add_assoc]

/-- The first word beyond DS1 ends the command in CAPACITY (R335). -/
theorem cpzStore_capacity {w : Nat × Nat} {rest : List (Nat × Nat)} (h : c.desc.ds1.toNat < 4 * (c.zw + 1)) :
    cpzStore k (w :: rest) s c = (s, failCmd c ceCAPACITY (c.desc.dst + c.desc.ds1) w.2) := by
  rw [cpzStore, if_pos h]

/-- A word outside the area ends it in SCRATCH (R337). -/
theorem cpzStore_outside {w : Nat × Nat} {rest : List (Nat × Nat)} (hroom : 4 * (c.zw + 1) ≤ c.desc.ds1.toNat) (hd : c.desc.dst.toNat < 2 ^ 32)
    (hw : c.zw < 2 ^ 29) (h : c.limit < c.desc.dst.toNat + 4 * (c.zw + 1)) :
    cpzStore k (w :: rest) s c = (s, failCmd c ceSCRATCH (c.desc.dst + nat64 (4 * c.zw)) w.2) := by
  have hbeyond : c.limit < (c.desc.dst + nat64 (4 * c.zw)).toNat + (bytesLE 4 w.1).length := by rw [cpz_next_toNat hd hw, length_bytesLE]; omega
  rw [cpzStore, if_neg (by omega), cmdStore_outside hbeyond]

end Compress

end Sys2Proof.Machine
end

section
/-! PROOFS. A command is over: it leaves its queue and its token tells the outcome (R168, R329, R337 to R341). -/

namespace Sys2Proof.Machine
open Sys2Proof.Claim

/-- The token `t` of a command that is over, without a fault or with one (R329, R338). -/
def endedToken (c : CopyCmd) (t : Token) : Option (Nat × DWord × Nat) → Token
  | none => { t with st := .done, cv := c.cv, host := madeHost c }
  | some (code, a, n) => { t with st := .fault, host := madeHost c, addr := a, lanes := BitVec.ofNat 64 n, info := BitVec.ofNat 32 (16 * code + c.tok) }

/-- The command has left its queue, and the token of its gang `g` holds the outcome; of the gang's registers and of device memory nothing changed. -/
def EndedBy (s t : State) (k : Nat) (c : CopyCmd) (g g' : Gang) (bank : Nat) (fault : Option (Nat × DWord × Nat)) : Prop :=
  t.gang c.gang = some g' ∧ cmdAt t k c.id = none ∧ listGet Token.reset g'.tokens c.tok = endedToken c (tokenOf g c.tok) fault ∧
  g'.v = g.v ∧ g'.s = g.s ∧ t.hbm = s.hbm ∧ (coreOf t k).bank = bank

section Settle

variable {s : State} {k : Nat} {c : CopyCmd} {g : Gang}

/-- The gang of a command that is over. -/
def settledGang (g : Gang) (c : CopyCmd) (now : Nat) : Gang :=
  wakePaths (putToken { g with engineHost := g.engineHost ++ madeHost c } c.tok (endedToken c (tokenOf g c.tok) c.fault)) (fun p => p.st == .twait c.tok) now

/-- The queue of a core without a command that is over. -/
def leaveQueue (co : Core) (c : CopyCmd) : Core :=
  { co with copyq := (co.copyq.filter (fun x => x.id ≠ c.id)).map (fun x =>
      if x.covers.contains c.id then { x with hostWrites := x.hostWrites ++ madeHost c } else x) }

theorem settleCmd_eq (hg : s.gang c.gang = some g) (hb : (tokenOf g c.tok).st = .busy) (hid : (tokenOf g c.tok).id = c.id) (hp : g.paths ≠ []) :
    settleCmd s k c = (s.putCore (keyDie k) (keyCore k) (leaveQueue (coreOf s k) c)).putGang c.gang (settledGang g c s.seq) := by
  have hlive : gangEnded g = false := by simpa [gangEnded] using hp
  have hg' : (s.putCore (keyDie k) (keyCore k) (leaveQueue (coreOf s k) c)).gang c.gang = some g := hg
  have hcore : s.coreAt (keyDie k) (keyCore k) = coreOf s k := rfl
  cases hf : c.fault <;> simp only [settleCmd, hcore, ← leaveQueue.eq_1, hg', hb, hid, hlive, hf, and_self, if_true, Bool.false_and, Bool.false_eq_true, if_false,
    settledGang, endedToken, nat64]

theorem leaveQueue_gone (co : Core) (c : CopyCmd) : (leaveQueue co c).copyq.find? (fun x => x.id == c.id) = none := by
  rw [List.find?_eq_none]
  intro x hx
  obtain ⟨y, hy, rfl⟩ := List.mem_map.1 hx
  have hne : y.id ≠ c.id := of_decide_eq_true (List.mem_filter.1 hy).2
  split <;> simpa using hne

/-- A command that is over leaves its queue, and its token holds the outcome (R329, R337). -/
theorem settleCmd_ends (hc : spOk Core.reset s.cores = true) (hg : s.gang c.gang = some g) (ht : c.tok < g.tokens.length)
    (hb : (tokenOf g c.tok).st = .busy) (hid : (tokenOf g c.tok).id = c.id) (hp : g.paths ≠ []) :
    ∃ g', EndedBy s (settleCmd s k c) k c g g' (coreOf s k).bank c.fault := by
  have hcore : coreOf (s.putCore (keyDie k) (keyCore k) (leaveQueue (coreOf s k) c)) k = leaveQueue (coreOf s k) c := coreOf_putCore hc ..
  refine ⟨settledGang g c s.seq, ?_⟩
  rw [settleCmd_eq hg hb hid hp]
  refine ⟨gang_putGang .., ?_, listGet_listSet_same _ _ _ ht, rfl, rfl, rfl, (congrArg Core.bank hcore).trans rfl⟩
  show (coreOf (s.putCore (keyDie k) (keyCore k) (leaveQueue (coreOf s k) c)) k).copyq.find? _ = none
  rw [hcore]
  exact leaveQueue_gone ..

end Settle

/-- The bank that a `tload` wrote becomes active (R168, R340). -/
def switchBank (s : State) (k : Nat) : State := s.putCore (keyDie k) (keyCore k) { coreOf s k with bank := 1 - (coreOf s k).bank }

theorem settleCmd_switchBank_ends {s : State} {k : Nat} {c : CopyCmd} {g : Gang} (hc : spOk Core.reset s.cores = true) (hg : s.gang c.gang = some g)
    (ht : c.tok < g.tokens.length) (hb : (tokenOf g c.tok).st = .busy) (hid : (tokenOf g c.tok).id = c.id) (hp : g.paths ≠ []) :
    ∃ g', EndedBy s (settleCmd (switchBank s k) k c) k c g g' (1 - (coreOf s k).bank) c.fault := by
  have hcore : coreOf (switchBank s k) k = { coreOf s k with bank := 1 - (coreOf s k).bank } := coreOf_putCore hc ..
  have hcores : spOk Core.reset (switchBank s k).cores = true := spOk_spSet _ _ _ hc
  have hends := settleCmd_ends (k := k) hcores hg ht hb hid hp
  rw [hcore] at hends
  exact hends

theorem settleCmd_failCmd_ends {s : State} {k : Nat} {c : CopyCmd} {g : Gang} (hc : spOk Core.reset s.cores = true) (hg : s.gang c.gang = some g)
    (ht : c.tok < g.tokens.length) (hb : (tokenOf g c.tok).st = .busy) (hid : (tokenOf g c.tok).id = c.id) (hp : g.paths ≠ []) (h : c.fault = none)
    (code : Nat) (a : DWord) (n : Nat) : ∃ g', EndedBy s (settleCmd s k (failCmd c code a n)) k c g g' (coreOf s k).bank (some (code, a, n)) := by
  rw [failCmd_sound h]
  exact settleCmd_ends (c := { c with fault := some (code, a, n), stage := [] }) hc hg ht hb hid hp

-- COPY_CMD_DONE, TLOAD_COMPLETE

section Done

variable {s : State} {k : Nat} {c : CopyCmd} (hq : Queued s k c) (hs : c.started = true)
include hq hs

theorem copyCmdDone_settles (hf : isFlsig c.instr = false) (ht : isTload c.instr = false) (hw : c.writes = []) (h : c.fault ≠ none ∨ c.n = elemCount c) :
    exec (.copyCmdDone k c.id) s = .next (settleCmd s k c) := by
  have hfind : findCmd (s.coreAt (keyDie k) (keyCore k)) c.id = some c := findCmd_queued hq
  have hover : (c.fault.isSome || c.n == elemCount c) = true := by rwa [Bool.or_eq_true, Option.isSome_iff_ne_none, beq_iff_eq]
  show execCopyCmdDone k c.id s = _
  simp [execCopyCmdDone, hfind, hs, hf, ht, hw, hover]

variable (ht : isTload c.instr = true)
include ht

theorem tloadComplete_fault (h : c.fault ≠ none) : exec (.tloadComplete k c.id) s = .next (settleCmd s k c) := by
  have hfind : findCmd (s.coreAt (keyDie k) (keyCore k)) c.id = some c := findCmd_queued hq
  show execTloadComplete k c.id s = _
  simp [execTloadComplete, hfind, hs, ht, Option.isSome_iff_ne_none.2 h]

theorem tloadComplete_switches (h : c.fault = none) (hn : c.n = 64) : exec (.tloadComplete k c.id) s =
    .next (settleCmd (switchBank s k) k c) := by
  have hfind : findCmd (s.coreAt (keyDie k) (keyCore k)) c.id = some c := findCmd_queued hq
  show execTloadComplete k c.id s = _
  simp [execTloadComplete, hfind, hs, ht, h, hn]
  rfl

end Done

-- FLSIG_COMPLETE

/-- A `flsig` that has still to ask, or whose homes or bulk writes have still to answer (R339). -/
def flsigOpen (s : State) (c : CopyCmd) : Prop := c.asked = false ∨ c.replies ≠ [] ∨ ∃ n ∈ c.bulk, ∃ r ∈ s.reqs, r.tag = n

theorem not_flsigOpen {s : State} {c : CopyCmd} (hasked : c.asked = true) (hreplies : c.replies = []) (hbulk : ∀ n ∈ c.bulk, ∀ r ∈ s.reqs, r.tag ≠ n) :
    ¬flsigOpen s c := by
  rintro (h | h | ⟨n, hn, r, hr, hrn⟩)
  · simp [hasked] at h
  · exact h hreplies
  · exact hbulk n hn r hr hrn

section Flsig

variable {s : State} {k : Nat} {c : CopyCmd} (hq : Queued s k c) (ha : c.active = true)
include hq ha

theorem flsigComplete_fault (hf : isFlsig c.instr = true) (h : c.fault ≠ none) : exec (.flsigComplete k c.id) s = .next (settleCmd s k c) := by
  have hfind : findCmd (s.coreAt (keyDie k) (keyCore k)) c.id = some c := findCmd_queued hq
  show execFlsigComplete k c.id s = _
  simp [execFlsigComplete, hfind, hf, ha, Option.isSome_iff_ne_none.2 h]

theorem flsigComplete_waits (hf : isFlsig c.instr = true) (h : c.fault = none) (ho : flsigOpen s c) : exec (.flsigComplete k c.id) s = .next s := by
  have hfind : findCmd (s.coreAt (keyDie k) (keyCore k)) c.id = some c := findCmd_queued hq
  have hopen : (c.asked && c.replies.isEmpty && c.bulk.all (fun t => !s.reqs.any (fun r => r.tag == t))) = false := by
    rw [Bool.eq_false_iff]
    rintro hall
    simp at hall
    obtain ⟨⟨hasked, hreplies⟩, hbulk⟩ := hall
    rcases ho with h | h | ⟨n, hn, r, hr, hrn⟩
    · simp [h] at hasked
    · exact h hreplies
    · exact hbulk n hn r hr hrn
  show execFlsigComplete k c.id s = _
  simp only [execFlsigComplete, hfind, hf, ha, h, hopen, Bool.not_true, Bool.false_or, Bool.false_eq_true, if_false, Option.isSome_none, Bool.not_false, if_true]

variable {gd : Guard} {sc : Scope} {named : Bool} {x y : BitVec 4} (hi : c.instr = .flsig gd sc named x y) (h : c.fault = none) (ho : ¬flsigOpen s c)
include hi h ho

/-- All that was asked has answered. -/
theorem flsigComplete_answered : exec (.flsigComplete k c.id) s =
    if (sc == .sys && !c.hostWrites.isEmpty) = true then
      match c.zero with
      | none => .next (State.putCmd { s with fresh := s.fresh + 1, pcie := s.pcie ++ [(s.fresh, .zeroRead)] } k { c with zero := some s.fresh })
      | some t => if (look s.pcie t).isSome then .next s else .next (settleCmd s k (remoteEnd s t c))
    else .next (settleCmd s k c) := by
  have hfind : findCmd (s.coreAt (keyDie k) (keyCore k)) c.id = some c := findCmd_queued hq
  have hf : isFlsig c.instr = true := isFlsig_iff.2 ⟨_, _, _, _, _, hi⟩
  have hanswered : (c.asked && c.replies.isEmpty && c.bulk.all (fun t => !s.reqs.any (fun r => r.tag == t))) = true := by
    simp only [flsigOpen, not_or, not_exists, not_and, Bool.not_eq_false, not_not] at ho
    simpa [and_assoc] using ho
  show execFlsigComplete k c.id s = _
  simp only [execFlsigComplete, hfind, hf, ha, h, hanswered, Bool.not_true, Bool.false_or, Bool.false_eq_true, if_false, Option.isSome_none]
  simp only [hi] <;> rfl

/-- Nothing of another package or the host is left to be known. -/
theorem flsigComplete_settles (hno : sc ≠ .sys ∨ c.hostWrites = []) : exec (.flsigComplete k c.id) s = .next (settleCmd s k c) := by
  rw [flsigComplete_answered hq ha hi h ho, if_neg]
  rcases hno with hno | hno <;> simp [hno]

variable (hsc : sc = .sys) (hhost : c.hostWrites ≠ [])
include hsc hhost

/-- A zero-length read goes out behind the host writes (R339). -/
theorem flsigComplete_zeroRead (hz : c.zero = none) : exec (.flsigComplete k c.id) s =
    .next (State.putCmd { s with fresh := s.fresh + 1, pcie := s.pcie ++ [(s.fresh, .zeroRead)] } k { c with zero := some s.fresh }) := by
  rw [flsigComplete_answered hq ha hi h ho, if_pos (by simp [hsc, hhost]), hz]

theorem flsigComplete_zeroSent {z : Nat} (hz : c.zero = some z) : exec (.flsigComplete k c.id) s =
    if (look s.pcie z).isSome then .next s else .next (settleCmd s k (remoteEnd s z c)) := by
  rw [flsigComplete_answered hq ha hi h ho, if_pos (by simp [hsc, hhost]), hz]

end Flsig

section Remote

variable {s : State} {c : CopyCmd} {z : Nat}

/-- No covered write and no read behind them was refused. -/
theorem remoteEnd_clean (hw : ∀ w ∈ c.hostWrites, w.1 ∉ s.refusedHost) (hz : z ∉ s.refusedHost) : remoteEnd s z c = c := by
  have hfind : c.hostWrites.find? (fun x => s.refusedHost.contains x.1) = none := List.find?_eq_none.2 (by simpa using hw)
  simp only [remoteEnd, hfind, List.contains_iff_mem, hz, if_false]

theorem remoteEnd_zero (hw : ∀ w ∈ c.hostWrites, w.1 ∉ s.refusedHost) (hz : z ∈ s.refusedHost) :
    remoteEnd s z c = failCmd c ceREMOTE (((c.hostWrites.head?).map (·.2)).getD 0) 0 := by
  have hfind : c.hostWrites.find? (fun x => s.refusedHost.contains x.1) = none := List.find?_eq_none.2 (by simpa using hw)
  simp only [remoteEnd, hfind, List.contains_iff_mem, hz, if_true]

/-- The first covered write that was refused is the one reported (R338). -/
theorem remoteEnd_write {pre post : List (Nat × DWord)} {w : Nat × DWord} (hw : c.hostWrites = pre ++ w :: post)
    (hpre : ∀ y ∈ pre, y.1 ∉ s.refusedHost) (hr : w.1 ∈ s.refusedHost) : remoteEnd s z c = failCmd c ceREMOTE w.2 0 := by
  have hnone : pre.find? (fun x => s.refusedHost.contains x.1) = none := List.find?_eq_none.2 (by simpa using hpre)
  have hfind : c.hostWrites.find? (fun x => s.refusedHost.contains x.1) = some w := by
    rw [hw, List.find?_append, hnone, Option.none_or, List.find?_cons_of_pos (by simpa using hr)]
  simp only [remoteEnd, hfind]

end Remote

end Sys2Proof.Machine
end

section
/-! PROOFS. The life of a command (R168, R329, R333 to R341, R350). -/

namespace Sys2Proof.Machine
open Sys2Proof.Claim

-- A command makes its first access

section Starts

variable {s : State} {k : Nat} {c : CopyCmd}

theorem cmdAt_started (hq : Queued s k c) (hf : c.fault = none) {p : Prop} [Decidable p] (code : Nat) :
    cmdAt (s.putCmd k (if p then failCmd { c with started := true } code c.off 0 else { c with started := true })) k c.id =
      some (if p then { c with started := true, fault := some (code, c.off, 0), stage := [] } else { c with started := true }) := by
  rw [failCmd_sound (c := { c with started := true }) hf]
  exact cmdAt_putCmd hq (by split <;> rfl)

theorem cmdAt_startedTload (hq : Queued s k c) (hf : c.fault = none) {p : Prop} [Decidable p] (code : Nat) :
    cmdAt (s.putCmd k (if p then { c with started := true } else failCmd { c with started := true } code c.off 0)) k c.id =
      some (if p then { c with started := true } else { c with started := true, fault := some (code, c.off, 0), stage := [] }) := by
  rw [failCmd_sound (c := { c with started := true }) hf]
  exact cmdAt_putCmd hq (by split <;> rfl)

/-- An earlier access that is not over holds the first access back (R336, R346). -/
theorem mayStart_held (h : (∃ n ∈ c.before, ∃ r ∈ s.reqs, r.tag = n) ∨ ∃ n ∈ c.oxBefore, ∃ e ∈ (coreOf s k).oxq, e.id = n) : mayStart s k c = false := by
  rw [Bool.eq_false_iff]
  intro hm
  obtain ⟨hbefore, hox, -⟩ := mayStart_iff.1 hm
  rcases h with ⟨n, hn, r, hr, hrn⟩ | ⟨n, hn, e, he, hen⟩
  · exact hbefore n hn r hr hrn
  · exact hox n hn e he hen

section Before

variable {pre post : List CopyCmd} (hpos : (coreOf s k).copyq = pre ++ c :: post) (hpre : ∀ x ∈ pre, x.id ≠ c.id)
include hpos hpre

theorem copyCmdStart_activates (hq : Queued s k c) (hu : Unstopped s c) (ha : c.active = false) (hall : ∀ x ∈ pre, x.active = true)
    (hfour : ((coreOf s k).copyq.filter (·.active)).length < 4) : exec (.copyCmdStart k c.id) s = .next (s.putCmd k { c with active := true }) :=
  (copyCmdStart_waiting hq hu ha hpos hpre).trans (if_pos ⟨hfour, List.all_eq_true.2 hall⟩)

/-- A command waits behind one that waits, and while four are in flight (R336). -/
theorem copyCmdStart_queues (hq : Queued s k c) (hu : Unstopped s c) (ha : c.active = false)
    (h : (∃ x ∈ pre, x.active = false) ∨ 4 ≤ ((coreOf s k).copyq.filter (·.active)).length) : exec (.copyCmdStart k c.id) s = .next s := by
  refine (copyCmdStart_waiting hq hu ha hpos hpre).trans (if_neg ?_)
  rintro ⟨hfour, hall⟩
  rcases h with ⟨x, hx, hxa⟩ | h
  · simp [List.all_eq_true.1 hall x hx] at hxa
  · exact Nat.not_lt.2 h hfour

theorem tloads_before_iff :
    (∀ x ∈ (coreOf s k).copyq.takeWhile (fun x => decide (x.id ≠ c.id)), isTload x.instr = false) ↔ ∀ x ∈ pre, isTload x.instr = false := by
  rw [hpos, takeWhile_before hpre]

/-- A `tload` waits for those before it (R340). -/
theorem mayStart_tloadHeld (ht : isTload c.instr = true) (h : ∃ x ∈ pre, isTload x.instr = true) : mayStart s k c = false := by
  rw [Bool.eq_false_iff]
  intro hm
  obtain ⟨-, -, hfree⟩ := mayStart_iff.1 hm
  obtain ⟨x, hx, hxt⟩ := h
  simp [(tloads_before_iff hpos hpre).1 (hfree ht) x hx] at hxt

end Before

theorem covered_over_iff (co : Core) (c : CopyCmd) :
    c.covers.all (fun i => (findCmd co i).isNone) = true ↔ ∀ n ∈ c.covers, ∀ x ∈ co.copyq, x.id ≠ n := by
  simp [findCmd]

variable (hq : Queued s k c) (hu : Unstopped s c) (ha : c.active = true) (hf : isFlsig c.instr = true)
include hq hu ha hf

theorem copyCmdStart_flsigHeld (h : c.asked = true ∨ c.fault ≠ none ∨ ∃ n ∈ c.covers, ∃ x ∈ (coreOf s k).copyq, x.id = n) :
    exec (.copyCmdStart k c.id) s = .next s := by
  rw [copyCmdStart_flsig hq hu ha hf, if_neg]
  rw [Bool.and_eq_true, Bool.and_eq_true, covered_over_iff]
  rintro ⟨⟨hasked, hfault⟩, hover⟩
  rcases h with h | h | ⟨n, hn, x, hx, hxn⟩
  · simp [h] at hasked
  · exact h (Option.isNone_iff_eq_none.1 hfault)
  · exact hover n hn x hx hxn

/-- A `flsig` sends its markers, one to each home that still answers (R339, R350). -/
theorem copyCmdStart_asks (hasked : c.asked = false) (hfault : c.fault = none) (hover : ∀ n ∈ c.covers, ∀ x ∈ (coreOf s k).copyq, x.id ≠ n) :
    exec (.copyCmdStart k c.id) s =
      .next ((sendMarkersTo k c.id (liveHomes s) s).putCmd k { c with started := true, asked := true, replies := liveHomes s }) := by
  rw [copyCmdStart_flsig hq hu ha hf, hasked, hfault, (covered_over_iff ..).2 hover]
  rfl

end Starts

-- A request goes out and the command's record is put back

theorem cmdTranslate_id {s s1 : State} {k : Nat} {c c1 : CopyCmd} {rd wr : Bool} {va : DWord} {r : CmdXl} (hx : cmdTranslate s k c rd wr va = (r, c1, s1)) :
    c1.id = c.id := by
  have hid := congrArg CopyCmd.id (cmdTranslate_keeps hx)
  exact hid

/-- A command that faults at an element keeps what its translations have learned. -/
theorem failCmd_translated {s s1 : State} {k : Nat} {c c1 : CopyCmd} {rd wr : Bool} {va : DWord} {r : CmdXl} (hx : cmdTranslate s k c rd wr va = (r, c1, s1))
    (hf : c.fault = none) (hq : Queued s1 k c) (code : Nat) (a : DWord) :
    cmdAt (s1.putCmd k (failCmd c1 code a c.n)) k c.id = some { c1 with fault := some (code, a, c.n), stage := [] } := by
  have hkeeps := cmdTranslate_keeps hx
  have hsound : c1.fault = none := (congrArg CopyCmd.fault hkeeps).trans hf
  have hid := cmdTranslate_id hx
  rw [failCmd_sound hsound]
  exact cmdAt_putCmd hq hid

theorem sendPlain_putCmd {s : State} {k : Nat} {c : CopyCmd} (hq : Queued s k c) (hok : spOk [] s.flights = true) (f : Nat → CopyCmd) (hid : ∀ n, (f n).id = c.id)
    (who : Who) (p : Packet) :
    let r := sendPlain s who p
    ∃ q pk, MemorySame s (r.2.putCmd k (f r.1)) ∧ Sent s (r.2.putCmd k (f r.1)) p.src p.dst q pk ∧ q.who = who ∧ pk = { p with tag := pk.tag, check := pk.check } ∧
      cmdAt (r.2.putCmd k (f r.1)) k c.id = some (f q.tag) := by
  obtain ⟨q, pk, hsent, hwho, htag, hpk⟩ := sendPlain_sent hok who p
  exact ⟨q, pk, memorySame_sendPlain s who p, hsent, hwho, hpk, htag ▸ cmdAt_putCmd (queued_of_cores hq (sendPlain_cores ..)) (hid _)⟩

section Stages

variable {s s1 : State} {k : Nat} {c c1 : CopyCmd} {x : Staged}

theorem copyElement_readsNext (hm : Moves s k c) (h : look c.stage c.n = none) (hn : c.rn < elemCount c) (hroom : c.rn < c.n + max 1 (256 / (elemSizes c).1)) :
    exec (.copyElement k c.id) s = .next (readElement s k c) :=
  (copyElement_reads hm h).trans (if_pos ⟨hn, hroom⟩)

variable (hrun : exec (.copyElement k c.id) s = .next (readElement s k c))
include hrun

theorem copyElement_stages (hm : Moves s k c) (h : readElement s k c = stageNext s k c c.rn x) :
    ∃ t, exec (.copyElement k c.id) s = .next t ∧ MemorySame s t ∧ t.gangs = s.gangs ∧ cmdAt t k c.id = some (staged c c x) :=
  ⟨_, hrun.trans (congrArg _ h), stageNext_stages hm.queued rfl x⟩

/-- An element whose address was translated. -/
theorem copyElement_stagesFar {va : DWord} {r : CmdXl} (hx : cmdTranslate s k c true false va = (r, c1, s1)) (hq1 : Queued s1 k c)
    (h : readElement s k c = stageNext s1 k c1 c.rn x) :
    ∃ t, exec (.copyElement k c.id) s = .next t ∧ MemorySame s1 t ∧ cmdAt t k c.id = some (staged c c1 x) := by
  obtain ⟨hsame, -, hcmd⟩ := stageNext_stages hq1 (cmdTranslate_keeps hx) x
  exact ⟨_, hrun.trans (congrArg _ h), hsame, hcmd⟩

end Stages

/-- The bytes of the line that a bulk write of an element enables, and what they hold. -/
theorem bulkPacket_bytes {s : State} {k d place : Nat} {c : CopyCmd} {t : Target} {out : List Byte} {pk : Packet}
    (hpk : pk = { bulkPacket s k c d place t out with tag := pk.tag, check := pk.check }) (x : Nat) (hx : x < 64) :
    pk.ben.getLsbD x = decide (place % 64 ≤ x ∧ x < place % 64 + out.length) ∧
      (pk.ben.getLsbD x = true → pk.data.getD x 0 = out.getD (x - place % 64) 0) := by
  have hben : pk.ben = lineMask (place % 64) out.length := congrArg Packet.ben hpk
  have hdata : pk.data = lineWith (place % 64) out := congrArg Packet.data hpk
  rw [hben, hdata, lineMask_getLsbD _ _ _ hx]
  exact ⟨rfl, fun hin => lineWith_getD (of_decide_eq_true hin)⟩

section Sends

variable {s s1 : State} {k place : Nat} {c c1 : CopyCmd} {xl : Xl} {d : Nat} (hq1 : Queued s1 k c) (hok : spOk [] s1.flights = true)
include hq1 hok

/-- What an engine read sends and notes (R229, R336). -/
theorem readSource_sent {idx : Nat} (hl : srcLocal c = false) (hx : cmdTranslate s k c true false (elemSrc c c.rn idx) = (.ok place xl, c1, s1))
    (hr : (targetOf s1 (keyDie k) true place xl).remote = false) (hd : (targetOf s1 (keyDie k) true place xl).dst = some d) :
    ∃ r pk, MemorySame s1 (readSource s k c idx) ∧ Sent s1 (readSource s k c idx) (keyDie k) d r pk ∧
      r.who = .engineRead (keyDie k) (keyCore k) c.id (place % 64) ∧ pk.op = .engineRead ∧ pk.addr = (targetOf s1 (keyDie k) true place xl).addr ∧ pk.asid = c.asid ∧
      cmdAt (readSource s k c idx) k c.id = some { c1 with rn := c.rn + 1, reads := c1.reads ++ [(r.tag, c.rn, elemSrc c c.rn idx)] } := by
  have hid := cmdTranslate_id hx
  rw [readSource_sends hl hx hr hd]
  obtain ⟨r, pk, hsame, hsent, hwho, hpk, hcmd⟩ := sendPlain_putCmd hq1 hok
    (fun tag => { c1 with rn := c.rn + 1, reads := c1.reads ++ [(tag, c.rn, elemSrc c c.rn idx)] }) (fun _ => hid)
    (.engineRead (keyDie k) (keyCore k) c.id (place % 64))
    { blankPacket s1 .engineRead (keyDie k) d with
      asid := c.asid, addr := (targetOf s1 (keyDie k) true place xl).addr, dup := (targetOf s1 (keyDie k) true place xl).dup,
      partner := (targetOf s1 (keyDie k) true place xl).partner }
  exact ⟨r, pk, hsame, hsent, hwho, congrArg Packet.op hpk, congrArg Packet.addr hpk, congrArg Packet.asid hpk, hcmd⟩

/-- What a bulk write sends and notes (R334, R336). -/
theorem writeElement_sent {b : List Byte} {idx : Nat} (hc : isCopy c.instr = true) (hl : ctlDsp c.desc.ctl ≠ 1) (hw : c.writes = [])
    (hx : cmdTranslate s k c false true (elemDst c c.n idx) = (.ok place xl, c1, s1))
    (hr : (targetOf s1 (keyDie k) false place xl).remote = false) (hd : (targetOf s1 (keyDie k) false place xl).dst = some d) :
    let t := writeElement s k c b idx
    ∃ r pk, MemorySame s1 t ∧ Sent s1 t (keyDie k) d r pk ∧ r.who = .engineWrite (keyDie k) (keyCore k) c.id ∧
      pk = { bulkPacket s1 k c d place (targetOf s1 (keyDie k) false place xl) (elemOut c b) with tag := pk.tag, check := pk.check } ∧
      cmdAt t k c.id = some { pastElement c1 c.n with
        writes := [(r.tag, c.n, elemDst c c.n idx)]
        hostWrites := if d = 16 then c.hostWrites ++ [(r.tag, elemDst c c.n idx)] else c.hostWrites } := by
  have hid := cmdTranslate_id hx
  have hwrites : c1.writes = [] := (congrArg CopyCmd.writes (cmdTranslate_keeps hx)).trans hw
  have hhost : c1.hostWrites = c.hostWrites := (congrArg CopyCmd.hostWrites (cmdTranslate_keeps hx)).trans rfl
  rw [writeElement_sends hc hl hw hx hr hd, hwrites, hhost]
  exact sendPlain_putCmd hq1 hok
    (fun tag => { pastElement c1 c.n with
      writes := [(tag, c.n, elemDst c c.n idx)]
      hostWrites := if d = 16 then c.hostWrites ++ [(tag, elemDst c c.n idx)] else c.hostWrites }) (fun _ => hid) _ _

end Sends

-- The words of a `cpz`

/-- The record of a `cpz` when `m` words of the element at its head are written. -/
def pastWords (c : CopyCmd) (m : Nat) : CopyCmd := { pastElement c c.n with zw := c.zw + m }

section Compress

variable {s : State} {k : Nat} {c : CopyCmd} {b : List Byte} {pre : List (Nat × Nat)} (hm : Moves s k c) (hl : ∃ idx, look c.stage c.n = some (.bytes b idx))
  (hz : isCpz c.instr = true) (hmem : spOk 0 (coreOf s k).mem = true) (hd : c.desc.dst.toNat < 2 ^ 32) (hzw : c.zw + pre.length < 2 ^ 29)
  (hroom : 4 * (c.zw + pre.length) ≤ c.desc.ds1.toNat) (harea : pre = [] ∨ c.desc.dst.toNat + 4 * (c.zw + pre.length) ≤ c.limit)
include hm hl hz hmem hd hzw hroom harea

/-- The words `pre` of an element are stored, and the rest ends in `c'`. -/
theorem copyElement_cpz {rest : List (Nat × Nat)} {c' : CopyCmd} (hws : cpzWords c c.n b = pre ++ rest)
    (hrest : ∀ u, cpzStore k rest u (pastWords c pre.length) = (u, c')) (hid : c'.id = c.id) :
    ∃ t, exec (.copyElement k c.id) s = .next t ∧ MemorySame s t ∧ cmdAt t k c.id = some c' ∧
      WroteLocal (coreOf s k) (coreOf t k) (c.base + c.desc.dst.toNat + 4 * c.zw) (pre.flatMap fun w => bytesLE 4 w.1) := by
  obtain ⟨idx, hl⟩ := hl
  obtain ⟨u, hstored, happend⟩ := cpzStore_append (k := k) (c := pastElement c c.n) rest hd pre hzw hroom harea hm.queued.cores hmem
  have hrun : cpzStore k (pre ++ rest) s (pastElement c c.n) = (u, c') := happend.trans (hrest u)
  obtain ⟨hsame, -, hcmd, -, hwrote⟩ := hstored.putCmd hm.queued hid
  refine ⟨u.putCmd k c', (copyElement_writes hm hl).trans ?_, hsame, hcmd, hwrote⟩
  rw [writeElement_cpz hz, hws, hrun]

/-- A word that finds no room ends the command, the words before it stored. -/
theorem copyElement_cpzFails {w : Nat × Nat} {post : List (Nat × Nat)} (hws : cpzWords c c.n b = pre ++ w :: post) {code : Nat} {a : DWord}
    (hrest : ∀ u, cpzStore k (w :: post) u (pastWords c pre.length) = (u, failCmd (pastWords c pre.length) code a w.2)) :
    ∃ t, exec (.copyElement k c.id) s = .next t ∧ MemorySame s t ∧
      cmdAt t k c.id = some { pastWords c pre.length with fault := some (code, a, w.2), stage := [] } ∧
      WroteLocal (coreOf s k) (coreOf t k) (c.base + c.desc.dst.toNat + 4 * c.zw) (pre.flatMap fun w => bytesLE 4 w.1) := by
  have hsound : (pastWords c pre.length).fault = none := hm.sound
  rw [failCmd_sound hsound] at hrest
  exact copyElement_cpz hm hl hz hmem hd hzw hroom harea hws hrest rfl

end Compress

/-- Settles O41: a turn of a command is one of the moves of its record, and the bytes and requests of each are read off it. -/
theorem commandLife : Obligations.CommandLife := by
  unfold Obligations.CommandLife
  refine ⟨fun s k c hq => ?starts, fun c n idx i0 i1 i2 hv => ?addresses, fun s k c hm hl => ?reads, fun s k c b idx hm hl hc => ?copies,
    fun s k c x hm hl => ?others, fun s k c g hq hs ha _ hw hg ht hb hid hp => ?ends⟩
  case starts =>
    refine ⟨fun h => ⟨copyCmdStart_stopped hq h, copyElement_stopped hq h⟩, fun h => copyElement_rests hq ?_, fun ha hu pre post hpos hpre => ?_,
      fun ha hu hs hf => ⟨fun h => copyCmdStart_held hq hu ha hs hf (mayStart_held h), fun hready ht => ?_, fun ht pre post hpos hpre => ?_⟩, fun ha hu hf => ?_⟩
    · rcases h with h | h | h <;> simp [h, Option.isSome_iff_ne_none]
    · exact ⟨fun hall hfour => ⟨_, copyCmdStart_activates hpos hpre hq hu ha hall hfour, cmdAt_putCmd hq rfl, rfl, rfl⟩, copyCmdStart_queues hpos hpre hq hu ha⟩
    · obtain ⟨hbefore, hox, hfault⟩ := hready
      have hmay : mayStart s k c = true := mayStart_iff.2 ⟨hbefore, hox, fun h => absurd h (by simp [ht])⟩
      exact ⟨_, copyCmdStart_begins hq hu ha hs hf hmay ht, rfl, rfl, cmdAt_started hq hfault _⟩
    · refine ⟨fun h => copyCmdStart_held hq hu ha hs hf (mayStart_tloadHeld hpos hpre ht h), fun ⟨hbefore, hox, hfault⟩ hnone g hg => ?_⟩
      have hmay : mayStart s k c = true := mayStart_iff.2 ⟨hbefore, hox, fun _ => (tloads_before_iff hpos hpre).2 hnone⟩
      exact ⟨_, copyCmdStart_tload hq hu ha hs hf hmay ht hg, rfl, rfl, cmdAt_startedTload hq hfault _⟩
    · refine ⟨copyCmdStart_flsigHeld hq hu ha hf, fun hasked hfault hover _ hok => ⟨_, copyCmdStart_asks hq hu ha hf hasked hfault hover, ?_⟩⟩
      obtain ⟨hcores, hsame⟩ := sendMarkersTo_keeps k c.id (liveHomes s) s
      exact ⟨hsame, cmdAt_putCmd (queued_of_cores hq hcores) rfl, fun h => ⟨mem_liveHomes, (sendMarkersTo_flights k c.id (nodup_liveHomes s) hok h).2⟩⟩
  case addresses =>
    exact ⟨fun hc => copy_addresses hv hc idx, fun ht => tload_addresses ht n idx, fun r col hz _ hr hcol hn => cpz_address hz hr hcol hn idx,
      fun data hx => elemOut_plain hx data, fun data a b hx ha hb => elemOut_cpx hx data ha hb⟩
  case reads =>
    refine ⟨fun h => (copyElement_reads hm hl).trans (if_neg (by omega)), fun hn hroom h64 => ?_⟩
    have hrun := copyElement_readsNext hm hl hn hroom
    refine ⟨fun hi h => copyElement_stages hrun hm (readElement_indexOutside h64 hi h),
      fun hi h hp => copyElement_stages hrun hm (readElement_indexHurt h64 hi h hp), fun hi => ?_⟩
    have hsource : readElement s k c = readSource s k c (nextIndex s k c) := readElement_source h64 hi
    refine ⟨fun hsl => ⟨fun h => ?_, fun h hp => ?_, fun h hp => ?_⟩, fun hsl => ⟨fun code c1 s1 hx hq1 => ?_, fun c1 s1 hx hq1 => ?_,
      fun place xl c1 s1 hx hq1 => ⟨fun hr => ?_, fun hr hd => ?_, fun h hr hd hok => ?_⟩⟩⟩
    · exact copyElement_stages hrun hm (hsource.trans (readSource_outside hsl h))
    · exact copyElement_stages hrun hm (hsource.trans (readSource_hurt hsl h hp))
    · exact copyElement_stages hrun hm (hsource.trans (readSource_bytes hsl h hp))
    · exact copyElement_stagesFar hrun hx hq1 (hsource.trans (readSource_fault hsl hx))
    · exact ⟨_, hrun.trans (congrArg _ (hsource.trans (readSource_wait hsl hx))), ⟨rfl, rfl⟩, cmdAt_putCmd hq1 (cmdTranslate_id hx)⟩
    · exact copyElement_stagesFar hrun hx hq1 (hsource.trans (readSource_remote hsl hx hr))
    · exact copyElement_stagesFar hrun hx hq1 (hsource.trans (readSource_lost hsl hx hr hd))
    · obtain ⟨r, pk, hsame, hsent, hpacket⟩ := readSource_sent hq1 hok hsl hx hr hd
      exact ⟨_, r, pk, hrun.trans (congrArg _ hsource), hsame, hsent, hpacket⟩
  case copies =>
    have hrun := copyElement_writes hm hl
    refine ⟨fun hsp => ⟨fun h => ?_, fun h hmem => ?_⟩, fun hsp hw => hrun.trans (congrArg _ (writeElement_waits hc hsp hw)),
      fun hsp hw => ⟨fun code c1 s1 hx hq1 => ?_, fun place xl c1 s1 hx hq1 => ⟨fun hr hd => ?_, fun h hr hd hok hfits => ?_⟩⟩⟩
    · refine ⟨_, hrun.trans (congrArg _ (writeElement_outside hc hsp h)), ⟨rfl, rfl⟩, ?_⟩
      rw [failCmd_sound hm.sound]
      exact cmdAt_putCmd hm.queued rfl
    · have hstored := storedAt_storeLocal (k := k) hm.queued.cores hmem (c.base + (elemDst c c.n idx).toNat) (elemOut c b)
      obtain ⟨hsame, hgangs, hcmd, -, hwrote⟩ := hstored.putCmd hm.queued (c' := pastElement c c.n) rfl
      exact ⟨_, _, hrun.trans (congrArg _ (writeElement_stores hc hsp h)), hsame, hgangs, hcmd, rfl, hm.sound, rfl, by simp [pastElement], hwrote⟩
    · exact ⟨_, hrun.trans (congrArg _ (writeElement_fault hc hsp hw hx)), ⟨rfl, rfl⟩, failCmd_translated hx hm.sound hq1 ..⟩
    · exact ⟨_, hrun.trans (congrArg _ (writeElement_lost hc hsp hw hx hr hd)), ⟨rfl, rfl⟩, failCmd_translated hx hm.sound hq1 ..⟩
    · obtain ⟨r, pk, hsame, hsent, hwho, hpk, hcmd⟩ := writeElement_sent hq1 hok hc hsp hw hx hr hd
      exact ⟨_, r, pk, _, hrun, hsame, hsent, hwho, congrArg Packet.op hpk, congrArg Packet.addr hpk, congrArg Packet.dup hpk, congrArg Packet.asid hpk, hcmd,
        rfl, rfl, rfl, bulkPacket_bytes hpk⟩
  case others =>
    refine ⟨fun code a hf => copyElement_fails hm (hf ▸ hl), fun b idx hb ht hlen hmem => ?_, fun b idx r col hb hz hmem hd hzw hr hcol hn hcode => ?_⟩
    · have hstored := storedAt_storeLocal (k := k) hm.queued.cores hmem (tableAddr (1 - (coreOf s k).bank) 0 + 64 * c.n) b
      obtain ⟨hsame, -, hcmd, hbank, hwrote⟩ := hstored.putCmd hm.queued (c' := pastElement c c.n) rfl
      exact ⟨_, _, (copyElement_writes hm (hb ▸ hl)).trans (congrArg _ (writeElement_tload ht b idx)), hsame, hcmd, rfl, hm.sound, hbank, hwrote⟩
    · have hwords := cpzWords_eq hr hcol hn b hcode
      have hlen : (cpzWords c c.n b).length ≤ 3 := hwords ▸ zOut_length_le ..
      rw [← hwords]
      refine ⟨fun hroom harea => ?_, fun pre w post hws hroom harea => ?_⟩
      · obtain ⟨t, hrun, hsame, hcmd, hwrote⟩ := copyElement_cpz hm ⟨idx, hb ▸ hl⟩ hz hmem hd (by omega) hroom harea (List.append_nil _).symm (fun _ => rfl) rfl
        exact ⟨t, _, hrun, hsame, hcmd, rfl, rfl, hm.sound, hwrote⟩
      · have hpre := (congrArg List.length hws).trans List.length_append
        have hzw' : c.zw + pre.length < 2 ^ 29 := by omega
        refine ⟨fun hno => ?_, fun hfits hno => ?_⟩
        · obtain ⟨t, hrun, hsame, hcmd, hwrote⟩ := copyElement_cpzFails hm ⟨idx, hb ▸ hl⟩ hz hmem hd hzw' hroom harea hws fun u => cpzStore_capacity (Nat.not_le.1 hno)
          exact ⟨t, _, hrun, hsame, hcmd, rfl, rfl, rfl, hwrote⟩
        · obtain ⟨t, hrun, hsame, hcmd, hwrote⟩ := copyElement_cpzFails hm ⟨idx, hb ▸ hl⟩ hz hmem hd hzw' hroom harea hws fun u =>
            cpzStore_outside hfits hd hzw' (Nat.not_le.1 hno)
          exact ⟨t, _, hrun, hsame, hcmd, rfl, rfl, rfl, hwrote⟩
  case ends =>
    obtain ⟨g', hg'⟩ := settleCmd_ends (k := k) hq.cores hg ht hb hid hp
    refine ⟨fun hf ht h => ⟨_, g', copyCmdDone_settles hq hs hf ht hw h, hg'⟩, fun ht h => ⟨_, g', tloadComplete_fault hq hs ht h, hg'⟩, fun htl h hn => ?_,
      fun hf h => ⟨_, g', flsigComplete_fault hq ha hf h, hg'⟩, fun hf h ho => flsigComplete_waits hq ha hf h ho, fun gd sc named x y hi h hasked hreplies hbulk => ?_⟩
    · obtain ⟨g1, hg1⟩ := settleCmd_switchBank_ends (k := k) hq.cores hg ht hb hid hp
      rw [h] at hg1
      exact ⟨_, g1, tloadComplete_switches hq hs htl h hn, hg1⟩
    · have hopen := not_flsigOpen hasked hreplies hbulk
      rw [h] at hg'
      refine ⟨fun hno => ⟨_, g', flsigComplete_settles hq ha hi h hopen hno, hg'⟩, fun hsc hhost hz => ⟨_, flsigComplete_zeroRead hq ha hi h hopen hsc hhost hz,
        ⟨rfl, rfl⟩, rfl, cmdAt_putCmd (queued_of_cores hq rfl) rfl⟩, fun z hsc hhost hz => ?_⟩
      have hrun := flsigComplete_zeroSent hq ha hi h hopen hsc hhost hz
      have hback (hno : look s.pcie z = none) : exec (.flsigComplete k c.id) s = .next (settleCmd s k (remoteEnd s z c)) := hrun.trans (if_neg (by simp [hno]))
      refine ⟨fun hyes => hrun.trans (if_pos hyes), fun hno hwrites hzero => ⟨_, g', (hback hno).trans ?_, hg'⟩,
        fun hno hwrites hzero => ?_, fun pre w post hno hw hpre hr => ?_⟩
      · rw [remoteEnd_clean hwrites hzero]
      · obtain ⟨g1, hg1⟩ := settleCmd_failCmd_ends (k := k) hq.cores hg ht hb hid hp h ceREMOTE (((c.hostWrites.head?).map (·.2)).getD 0) 0
        exact ⟨_, _, g1, remoteEnd_zero hwrites hzero ▸ hback hno, hg1⟩
      · obtain ⟨g1, hg1⟩ := settleCmd_failCmd_ends (k := k) hq.cores hg ht hb hid hp h ceREMOTE w.2 0
        exact ⟨_, g1, remoteEnd_write hw hpre hr ▸ hback hno, hg1⟩

end Sys2Proof.Machine
end
